-- ==== Sys2Proof/Word.lean ====
section
/-!
DEFINITION. Plain words and containers that the syntax and the state are written in.
-/
namespace Sys2Proof

/-- One byte. -/
abbrev Byte := BitVec 8

/-- A byte string, first byte first (multi-byte fields in it are little-endian, R9). -/
abbrev Bytes := List Byte

/-- Sparse data by key: pairs in strictly rising key order, one per key. -/
abbrev SMap (α : Type) := List (Nat × α)

end Sys2Proof
end

