-- ==== Sys2Proof/Syntax.lean ====
section
/-!
DEFINITION. The commands: one constructor per row of spec/opcode_table.json, with the operands the chapters
give the row. The first operand `dt` of every command is the physical time in ns since the command before it.
-/
namespace Sys2Proof

/-- The five host ports (Table 15.1). -/
inductive Port where
  | A | B | E | S | P
  deriving DecidableEq, Repr

/-- Which end of a chain ring (R46). -/
inductive RingEnd where
  | endA | endB
  deriving DecidableEq, Repr

/-- A link of the site ring (R415). -/
inductive SiteLink where
  | up | dn
  deriving DecidableEq, Repr

/-- The level of the three-level strap BOOT_CFG as sampled (R363, R495); `other` is a level in no band. -/
inductive Tri where
  | low | opened | high | other
  deriving DecidableEq, Repr

/-- A mailbox request as it stands after reception on its port: the header of Table 15.5, payload and trailer. -/
structure Request where
  /-- Port that received it. -/
  port    : Port
  /-- TAG [9:0]. -/
  tag     : Nat
  /-- Traffic class of PORT_TC [4:3]. -/
  tc      : Nat
  /-- TRL. -/
  trl     : Bool
  /-- EPOCH the host holds, 0 for any. -/
  epoch   : Nat
  /-- ADDR: session on Ports E and B, destination position on Port P. -/
  addr    : Nat
  /-- SEQ: session sequence number, or source position on Port P. -/
  seq     : Nat
  /-- The message's CRC-16 (R419). -/
  crc     : Nat
  /-- Payload bytes, LEN of them. -/
  payload : Bytes
  /-- The 8-byte trailer, or none sent. -/
  trailer : Bytes
  /-- Reserved header bits as received: PORT_TC [1:0] in [1:0], TAG [15:10] in [7:2]. -/
  res     : Nat := 0
  deriving DecidableEq, Repr

/-- The failing part, group and lane of a comparator test (R356, Table 14.5). -/
structure CtFail where
  part  : Nat
  group : Nat
  lane  : Nat
  deriving DecidableEq, Repr

/-- What the boot checks of steps 6 to 8 of Table 14.3 find: straps as sampled and the outcome of each check. -/
structure BootChecks where
  bootPort  : Bool
  bootCfg   : Tri
  peerHead  : Bool
  bootRomOk : Bool
  ctFail    : Option CtFail
  digestOk  : Bool
  deriving DecidableEq, Repr

/-- A node found by enumeration: its WAKE reply and the measurements of R59. Times in 1/8 ns (0.125 ns LSB). A number of
misses says how many tries of a command the node left unacknowledged before it answered (R78). -/
structure FoundNode where
  uid      : List (BitVec 16)
  nodeType : Nat
  rev      : Nat
  rttA     : Nat
  rttB     : Nat
  tLoop    : Nat
  repFwd   : Nat
  repRev   : Nat
  /-- Nominal reference, word 0 of its CAL_READ response (R88). -/
  refNom   : Nat
  /-- Misses of ASSIGN and DLY_WRITE (R60), of ALARM_CFG (R97) and of SCAN_CFG (R72). -/
  asgMiss   : Nat
  dlyMiss   : Nat
  alarmMiss : Nat
  scanMiss  : Nat
  deriving DecidableEq, Repr

/-- What the enumeration of one ring meets (R59): nodes hop by hop, whether end B gets carrier, T_AB in 1/8 ns. -/
structure EnumRun where
  nodes   : List FoundNode
  more    : Bool
  closed  : Bool
  tAB     : Nat
  deriving DecidableEq, Repr

/-- A response segment (R53, Table 02.3). -/
structure Segment where
  hdr  : BitVec 16
  data : List (BitVec 16)
  crc  : BitVec 16
  deriving DecidableEq, Repr

/-- A returning train as received whole: the ring, the end that receives it, the master header it carries, the
master payload with its CRC, and its segments; `tAB8` is the ring transit it measured, in 1/8 ns, where it crossed the
whole ring. -/
structure Train where
  ring    : Nat
  rxEnd   : RingEnd
  hdr     : BitVec 32
  payload : List (BitVec 16)
  crc     : BitVec 16
  segs    : List Segment
  tAB8    : Option Nat
  deriving DecidableEq, Repr

/-- The conversions of one sampling instant: each role's code from its live modulator (VB, VL in mV; IH, IL in nV at
the shunt; VI in µV), each present unless it has no valid conversion, and the spare's code on the role it overlaps. -/
structure Conversions where
  vb    : Option Int
  vl    : Option Int
  ih    : Option Int
  il    : Option Int
  vi    : Option Int
  spare : Option Int
  /-- The spare's ten wideband values of this instant (R144). -/
  wide  : List Int
  deriving DecidableEq, Repr

/-- One sine/cosine conversion pair of a position channel, in 0.1 mV (R314). -/
structure SinCos where
  sin : Int
  cos : Int
  deriving DecidableEq, Repr

/-- A PTP message of the slave (R468): the measured offset in ns (master minus module), the mean path delay and the
grandmaster's clock identity. -/
structure PtpSync where
  offset  : Int
  path    : Nat
  clockId : Nat
  /-- PTP domain of the message (R412). -/
  domain  : Nat := 0
  deriving DecidableEq, Repr

/-- A SYNC notice of the site ring (Table 17.1) with its arrival time and residence. -/
structure SyncMsg where
  kind       : Nat
  quality    : Nat
  number     : Nat
  origin     : Nat
  correction : Int
  deriving DecidableEq, Repr

/-- A contactor pair for weld tests: a string's KP and KN, or the main pair (R248). -/
inductive Pair where
  | string (j : Nat)
  | main
  deriving DecidableEq, Repr

/-- A load-switch channel. -/
inductive Chan where
  | hs (n : Nat)
  | ls (n : Nat)
  deriving DecidableEq, Repr

/-- Where an ECC error is met (Table 13.6). -/
inductive EccSite where
  | sb0 | sb1 | sb2 | sb3 | bootRom | fwRom | estMem
  deriving DecidableEq, Repr

/-- Readings of the module sensors (Table 12.1), temperature codes; `none` where the conversion failed. -/
structure ModSensors where
  die   : Option Int
  hv    : Option Int
  aon   : Option Int
  baseA : Option Int
  baseB : Option Int
  deriving DecidableEq, Repr

/-- The 8 MHz domain's measurement of the array at its 1 ms check: VLOAD in mV, LS and HS currents in mA by channel,
junctions in 0.01 °C by channel (LS n at key n, HS n at key 40 + n). -/
structure LoadMeas where
  vload : Nat
  amps  : SMap Int
  junct : SMap Int
  deriving DecidableEq, Repr

/-- One command: the row it is of stands in LAWS.json. `observerSample` carries the filtered levels of the two end switches
(R321): a switch's becoming active is a row of its own, its release is seen at a sample (log 24). -/
inductive Instr where
  -- power, start, Bulb and power-down (chapter 14)
  | auxInQualified (dt : Nat)
  | railEnableDelayExpiry (dt : Nat)
  | railInWindow (dt : Nat) (rail : Nat)
  | railWindowTimeout (dt : Nat) (rail : Nat)
  | marchTestDone (dt : Nat) (sb0Ok othersOk : Bool)
  | ringPowerUp (dt : Nat) (ring : Nat) (run : EnumRun)
  | startDone (dt : Nat)
  | hvStartCalDone (dt : Nat)
  | startWatchdogExpiry (dt : Nat)
  | startRetry (dt : Nat)
  | auxInLow (dt : Nat)
  | pdMainOpen (dt : Nat)
  | pdStringOpen (dt : Nat)
  | pdDisconnectorOff (dt : Nat)
  | retentionRecordCommit (dt : Nat) (wholeRecord : Bool)
  | pdRailsDown (dt : Nat)
  | abortOff (dt : Nat) (rail : Nat)
  | bulbEntry (dt : Nat)
  | wake (dt : Nat) (wakeIn : Bool)
  | wakeTimeout (dt : Nat)
  | thermalHardLimit (dt : Nat) (tsBaseA tsAon : Int)
  | thermalRestart (dt : Nat) (tsBaseA tsAon : Int)
  | supervisorRestart (dt : Nat)
  | auxWarnCrossing (dt : Nat) (auxIn10mV : Nat)
  | battWarnCrossing (dt : Nat) (batt10mV : Nat)
  -- Pod and memory (chapter 13)
  | comparatorMismatch (dt : Nat) (group lane pc : Nat) (ctFail : Option CtFail)
  | watchdogService (dt : Nat) (core key : Nat) (ctFail : Option CtFail)
  | watchdogFault (dt : Nat) (core : Nat) (ctFail : Option CtFail)
  | busError (dt : Nat) (ctFail : Option CtFail)
  | firmwareException (dt : Nat) (recoverable : Bool) (ctFail : Option CtFail)
  | shelledSelfTest (dt : Nat) (core : Nat) (pass : Bool) (ctFail : Option CtFail)
  | heartbeatMissing (dt : Nat) (core : Nat) (ctFail : Option CtFail)
  | mailboxResume (dt : Nat) (lostProt lostGroups : List Nat) (hwDiffer : List Nat)
  | podDeadTimeout (dt : Nat)
  | eccCorrected (dt : Nat) (bank addr : Nat)
  | eccUncorrectable (dt : Nat) (site : EccSite) (addr : Nat) (podAccess : Bool) (ctFail : Option CtFail)
  | scrubPass (dt : Nat) (addr : Nat)
  | otpProgramDone (dt : Nat) (readBackOk : Bool)
  -- mailbox commands
  | sysInfo (dt : Nat) (rq : Request)
  | paramGet (dt : Nat) (rq : Request)
  | paramSet (dt : Nat) (rq : Request)
  | paramCommit (dt : Nat) (rq : Request)
  | paramHApply (dt : Nat) (id inst : Nat)
  | paramBulkGet (dt : Nat) (rq : Request)
  | paramBulkSet (dt : Nat) (rq : Request)
  | snapRead (dt : Nat) (rq : Request)
  | snapWrite (dt : Nat) (rq : Request)
  | transferTimeout (dt : Nat) (snapshot : Bool)
  | imageReleaseTimeout (dt : Nat) (snapshot : Bool)
  | pwrStatus (dt : Nat) (rq : Request)
  | bulbEnter (dt : Nat) (rq : Request)
  | restart (dt : Nat) (rq : Request)
  | podStatus (dt : Nat) (rq : Request)
  | patchWrite (dt : Nat) (rq : Request)
  | patchVerify (dt : Nat) (rq : Request)
  | patchApply (dt : Nat) (rq : Request)
  | patchDiscard (dt : Nat) (rq : Request)
  | otpRead (dt : Nat) (rq : Request)
  | otpProgram (dt : Nat) (rq : Request)
  | authBegin (dt : Nat) (rq : Request)
  | authProve (dt : Nat) (rq : Request)
  | authEnd (dt : Nat) (rq : Request)
  | portStatus (dt : Nat) (rq : Request)
  | ringEnumerate (dt : Nat) (rq : Request) (runs : SMap EnumRun)
  | ringRestore (dt : Nat) (rq : Request)
  | chnStatus (dt : Nat) (rq : Request)
  | bleedHold (dt : Nat) (rq : Request)
  | cellRead (dt : Nat) (rq : Request)
  | tempRead (dt : Nat) (rq : Request)
  | stringRead (dt : Nat) (rq : Request)
  | metRead (dt : Nat) (rq : Request)
  | ctrBase (dt : Nat) (rq : Request)
  | capTrigger (dt : Nat) (rq : Request)
  | ctrRead (dt : Nat) (rq : Request)
  | insRead (dt : Nat) (rq : Request)
  | rippleRead (dt : Nat) (rq : Request)
  | limitsGet (dt : Nat) (rq : Request)
  | estRead (dt : Nat) (rq : Request)
  | impRefSet (dt : Nat) (rq : Request)
  | prtStatus (dt : Nat) (rq : Request)
  | fltArm (dt : Nat) (rq : Request)
  | fltConfirm (dt : Nat) (rq : Request)
  | fltArmExpiry (dt : Nat)
  | fltRstEdge (dt : Nat) (lowNs highNs : Nat)
  | prtOpenReq (dt : Nat) (rq : Request)
  | blockClose (dt : Nat) (rq : Request)
  | blockOpen (dt : Nat) (rq : Request)
  | stringJoin (dt : Nat) (rq : Request)
  | stringOpen (dt : Nat) (rq : Request)
  | stringClear (dt : Nat) (rq : Request)
  | dscClose (dt : Nat) (rq : Request)
  | dscOpen (dt : Nat) (rq : Request)
  | seqStatus (dt : Nat) (rq : Request)
  | loadOn (dt : Nat) (rq : Request)
  | loadOff (dt : Nat) (rq : Request)
  | loadClear (dt : Nat) (rq : Request)
  | loadStatus (dt : Nat) (rq : Request)
  | loopEnable (dt : Nat) (rq : Request)
  | loopSet (dt : Nat) (rq : Request)
  | loopStatus (dt : Nat) (rq : Request)
  | traceArm (dt : Nat) (rq : Request)
  | posArm (dt : Nat) (rq : Request)
  | posPreset (dt : Nat) (rq : Request)
  | posStatus (dt : Nat) (rq : Request)
  | thmStatus (dt : Nat) (rq : Request)
  | logRead (dt : Nat) (rq : Request)
  | logAck (dt : Nat) (rq : Request)
  | captureRead (dt : Nat) (rq : Request)
  | traceRead (dt : Nat) (rq : Request)
  | bufferRelease (dt : Nat) (rq : Request)
  | timeStatus (dt : Nat) (rq : Request)
  -- port traffic (chapter 15)
  | canSegmentReceive (dt : Nat) (port : Port) (ext remote : Bool) (id : Nat) (data : Bytes)
  | spiWrite (dt : Nat) (len : Nat) (data : Bytes)
  | spiRead (dt : Nat) (clocked : Nat)
  | spiStatus (dt : Nat)
  | icmpEchoRequest (dt : Nat) (srcIp : Nat) (data : Bytes)
  | arpRequest (dt : Nat) (targetIp srcIp srcMac : Nat)
  | siteRingFrame (dt : Nat) (link : SiteLink) (msg : Bytes)
  | ringAssignReceive (dt : Nat) (link : SiteLink) (position side run : Nat) (source : Nat)
  | ringAssignTimeout (dt : Nat)
  | ringNoHead (dt : Nat)
  | portFailure (dt : Nat) (port : Port)
  | portRecovery (dt : Nat) (port : Port)
  | sessionIdleTimeout (dt : Nat) (port : Port) (session : Nat)
  | authLockoutEnd (dt : Nat) (port : Port)
  | limitsPeriodic (dt : Nat)
  | limitsZeroRepeat (dt : Nat)
  | ptpMessageReceive (dt : Nat) (msg : PtpSync)
  | syncSend (dt : Nat)
  | syncReceive (dt : Nat) (link : SiteLink) (msg : SyncMsg) (residence : Nat)
  | ringDelayExchange (dt : Nat)
  | timeSourceLoss (dt : Nat)
  | holdoverExpiry (dt : Nat)
  | ledgerDrain (dt : Nat)
  -- chain rings (chapters 2 and 3)
  | chainCycleStart (dt : Nat)
  | strobeLaunch (dt : Nat)
  | bleedOffBroadcast (dt : Nat)
  | bleedOffRepeat (dt : Nat) (ring : Nat)
  | bleedOnBroadcast (dt : Nat)
  | readStringLaunch (dt : Nat)
  | cellFragmentLaunch (dt : Nat) (fragment : Nat)
  | readTempsLaunch (dt : Nat)
  | readCoarseLaunch (dt : Nat)
  | readSsAuxLaunch (dt : Nat)
  | readStatusLaunch (dt : Nat)
  | responseTrainReceive (dt : Nat) (train : Train)
  | alarmToneDetect (dt : Nat) (ring : Nat) (rxEnd : RingEnd)
  | carrierLoss (dt : Nat) (ring : Nat) (rxEnd : RingEnd)
  | breakNoticeReceive (dt : Nat) (ring : Nat) (rxEnd : RingEnd) (hop : Nat) (lostB : Bool)
  | wrapRestore (dt : Nat) (ring : Nat)
  | ringServiceLoss (dt : Nat) (ring : Nat) (run : EnumRun)
  | scanRateAnchor (dt : Nat)
  | calRunIssue (dt : Nat) (ring : Nat)
  | scanEvaluation (dt : Nat)
  | chainCycleEvaluation (dt : Nat)
  | g3OpenWaitExpiry (dt : Nat) (str : Nat)
  | balancePlan (dt : Nat)
  | balHoldExpiry (dt : Nat) (str : Nat)
  -- metrology (chapter 4)
  | samplingInstant (dt : Nat) (cv : Conversions)
  | irangeMismatch (dt : Nat)
  | calStepStart (dt : Nat)
  | handover (dt : Nat)
  | calStepRetry (dt : Nat)
  | modulatorCalDone (dt : Nat) (inWindow : Bool)
  | modulatorFailure (dt : Nat) (modulator : Nat)
  | insHalfPeriodEnd (dt : Nat) (positive : Bool) (length begun : Nat)
  | peCheck (dt : Nat) (loopMilliohm : Nat)
  | rippleWindowEnd (dt : Nat) (first cycles : Nat)
  | captureTrigger (dt : Nat) (source : Nat) (arrival : Nat)
  | captureFreeze (dt : Nat)
  -- estimation (chapter 5) and impedance (chapter 6)
  | cellFilterPass (dt : Nat)
  | limitCycle (dt : Nat)
  | anchorEnd (dt : Nat) (str : Nat)
  | capacityUpdate (dt : Nat) (str : Nat)
  | stepConfirm (dt : Nat)
  | responseInstant (dt : Nat) (offset : Nat)
  | stepClose (dt : Nat)
  | impedanceFit (dt : Nat)
  | fitDeferExpiry (dt : Nat)
  -- Husk (chapter 7)
  /-- `names`: the strings the source names; of CLK_AUX the domains that lost their clocks: bits 0 estimation, 1 CAN, 2 Ethernet,
  3 PWM (R28). -/
  | huskSourceAssert (dt : Nat) (source : Nat) (names : BitVec 16)
  | huskDelayExpiry (dt : Nat) (source : Nat)
  | huskSourceRelease (dt : Nat) (source : Nat)
  | comparatorChannelTest (dt : Nat) (comparator : Nat) (chanB : Bool) (received : Bool)
  -- sequencing (chapter 8)
  | joinDwellComplete (dt : Nat) (str : Nat)
  | kpOn (dt : Nat)
  | joinConfirmTimeout (dt : Nat)
  | confPendingCheck (dt : Nat) (str : Nat)
  | joinWaitExpiry (dt : Nat) (str : Nat)
  | joinSettleExpiry (dt : Nat)
  | weldCurrentTest (dt : Nat) (pair : Pair)
  | prechargeProbeEnd (dt : Nat)
  | mnConfirm (dt : Nat)
  | prechargeDone (dt : Nat)
  | prechargeShortCheck (dt : Nat)
  | prechargeTimeout (dt : Nat)
  | prechargeOvercurrent (dt : Nat)
  | mpConfirm (dt : Nat)
  | dscBrakeRelease (dt : Nat)
  | dscCloseReached (dt : Nat)
  | dscDmeOff (dt : Nat)
  | dscCloseTimeout (dt : Nat)
  | dscOpenTimeout (dt : Nat)
  | endOpenActive (dt : Nat)
  | endClosedActive (dt : Nat)
  | openCurrentWaitEnd (dt : Nat)
  | openStagger (dt : Nat)
  -- load switch array (chapter 9)
  | loadAdmissionCheck (dt : Nat) (meas : LoadMeas)
  | loadStaggerTimeout (dt : Nat) (load : Nat)
  | loadChannelStart (dt : Nat) (load : Nat)
  | loadEnvelopeEnd (dt : Nat) (load : Nat)
  | holdRegulation (dt : Nat) (meas : LoadMeas)
  | channelOvercurrent (dt : Nat) (chan : Chan)
  | channelThermalWarn (dt : Nat) (chan : Chan)
  | channelThermalShutdown (dt : Nat) (chan : Chan)
  | channelThermalRestart (dt : Nat) (chan : Chan)
  | loadPhaseEnd (dt : Nat) (load : Nat)
  | lgPinGate (dt : Nat) (pin : Nat)
  | lgPinPermit (dt : Nat) (pin : Nat)
  | vloadOver (dt : Nat)
  | clampLockClear (dt : Nat)
  | m2304Excursion (dt : Nat) (load : Nat)
  -- control engine (chapter 10)
  | controlTick (dt : Nat) (ai : List Int) (aiMean : List Int)
  | ffInvalidTimeout (dt : Nat) (loop : Nat)
  -- position (chapter 11)
  | observerSample (dt : Nat) (pf0 pf1 : SinCos) (endOpen endClosed : Bool)
  | spdValidExpiry (dt : Nat) (chan : Nat)
  | cmpPulseEnd (dt : Nat) (pin : Nat)
  | indexEdge (dt : Nat) (chan : Nat)
  | timedSpeedCrossing (dt : Nat) (chan : Nat) (up : Bool) (interval625 : Nat)
  -- thermal (chapter 12)
  | moduleSensorRead (dt : Nat) (rd : ModSensors)
  | actuatorRetry (dt : Nat) (entry : Nat)
  -- the rest of the table
  | registerWrite (dt : Nat) (id inst : Nat) (value : BitVec 32)
  | udpDatagramReceive (dt : Nat) (srcIp srcPort dstPort : Nat) (plainIpv4 : Bool) (msg : Bytes)
  | carrierReturn (dt : Nat) (ring : Nat)
  | alwaysOnColdPowerUp (dt : Nat)
  | pllLock (dt : Nat) (inTolerance : Bool) (boot : BootChecks)
  | resetStartBegin (dt : Nat) (boot : BootChecks)
  | enumerationReplyTimeout (dt : Nat) (ring : Nat) (closing : Bool)
  | ptpDelayRequest (dt : Nat)
  | dhcpLeaseTimer (dt : Nat) (rebinding : Bool)
  | ethernetLinkChange (dt : Nat) (up : Bool)
  | canBusOff (dt : Nat) (port : Port)
  | loadSwitchClockLoss (dt : Nat)
  deriving DecidableEq, Repr

end Sys2Proof
end

