-- ==== Sys2Proof/Decode.lean ====
section
/-!
DEFINITION. The command a word spells by the bits of the command table. No row of the table gives bits: the module is a
block that takes commands, and its mailbox opcodes reach it as the operands of the rows (log 15).
-/
namespace Sys2Proof

/-- No word spells a command. -/
def decodeTableWord (_nbits _w : Nat) : Option Instr := none

end Sys2Proof
end

