-- ==== Sys2Proof/Config.lean ====
section
/-!
DEFINITION. What an implementation fixes and the manual does not, and the free values. None has a body here, so no
proof can rest on a particular value (log 4).
-/
namespace Sys2Proof.Config

/-- The n-th value of the on-die random source, or of a value the manual leaves open (log 4). -/
opaque freeWord : Nat → BitVec 64

/-- A number the manual leaves open, by the count of free values drawn (log 4). -/
opaque freeRat : Nat → Rat

/-- Firmware ROM version (Table 15.13, Table 13.11); the manual gives no value (log 5). -/
opaque fwRomVer : BitVec 16

/-- Boot ROM version (Table 13.11); the manual gives no value (log 5). -/
opaque bootRomVer : BitVec 16

/-- Index part [11:0] of an event TYPE by the model's number of the event (R471 names the types only through
LOG_READ mode 1; log 6). -/
opaque evIndex : Nat → BitVec 12

/-- Descriptor bytes 2 to 63 of an information ID (R444: the owning chapter's list is served by the catalogue; log 7). -/
opaque infoDescriptor : Nat → List (BitVec 8)

/-- The value read through an information ID whose source word the manual does not name (log 7). The argument is the
ID, the instance and the free-value counter. -/
opaque infoValue : Nat → Nat → Nat → BitVec 32

/-- Rounding of an exact result to the array's single-precision format (Chapter 5; log 8). -/
opaque fp32 : Rat → Rat

/-- The array's square root, exponential and logarithm, and the position block's arctangent in lines (log 8). -/
opaque sqrtR : Rat → Rat
opaque expR  : Rat → Rat
opaque logR  : Rat → Rat
opaque atan2R : Rat → Rat → Rat

/-- Cosine and sine of an angle in turns, as the ripple analysis has them (R137; log 8). -/
opaque cosTurn : Rat → Rat
opaque sinTurn : Rat → Rat

/-- A ripple window resampled to 6,400 points; the manual names no interpolation (R137; log 144). -/
opaque resample : List Rat → List Rat

/-- 2π as the position block's observer holds it (R316; log 8). -/
opaque twoPi : Rat

/-- A wideband, ripple or insulation quantity the manual leaves to the part: the factory trims of OTP as the numbers
they stand for, by offset (Table 13.7 gives the block, not its layout; log 9). -/
opaque trim : Nat → Rat

/-- Tick-line delay of the factory trims, ns (R465; Table 13.7 gives the block, not its layout; log 9). -/
opaque tickDelay : Nat

/-- IPv4 address that a DHCP server leases to Port E (R411 names RFC 2131 and gives no value; log 21). -/
opaque leasedIp : BitVec 32

/-- The PI servo of the timebase: its integral and its rate, both in ppb, after a message with an offset in ns (R468 gives
no gains; log 22). Arguments: the integral before, and the offset. -/
opaque servoInteg : Int → Int → Int
opaque servoRate  : Int → Int → Int

/-- Equivalent full cycles that a charge moved through a cell adds (Table 05.6 holds the count and no rule says how it
grows; log 25). Arguments: the magnitude of the charge and the capacity, As. -/
opaque efcGain : Rat → Rat → Rat

end Sys2Proof.Config
end

