-- ==== Sys2Proof/Machine/State.lean ====
section
/-!
DEFINITION. The state of the module: every register, counter, queue, buffer, mode and pin the manual gives it, as plain
data, and the queue of waiting commands. A field's docstring gives its width, the rule that names it and its reset value.
Where the manual numbers instances, a field is an `SMap` from the instance number; an instance not listed holds the
default record of its type, which is its reset value.
-/
namespace Sys2Proof.Machine

/-- No command of this block ends in a fault: the manual gives every row an effect. The one reason is kept for an
operand no command of the table can carry; nothing raises it (safe). -/
inductive Fault where
  /-- Raised by nothing (safe). -/
  | noSuchCommand
  deriving DecidableEq, Repr

/-- Reasons to refuse a command. -/
inductive Refusal where
  /-- Raised only by an arm of Dispatch.lean whose row has no meaning yet (safe: the run stops). -/
  | notModelled (mnemonic : String)
  deriving DecidableEq, Repr

/-! ### Power and the always-on domain (chapter 14) -/

/-- Where the module stands between unpowered and Normal (R36, R381, Table 14.3). -/
inductive Phase where
  /-- Rails off; waiting for AUX_IN, or for the always-on domain. -/
  | off
  /-- Steps 1 to 4: rails coming up in order. -/
  | rails
  /-- Step 4 to 5: V0P8 up, PLLs locking. -/
  | pll
  /-- Steps 6 to 9: boot checks passed, March test running. -/
  | march
  /-- Steps 10 to 12: firmware entered, late rails and rings. -/
  | late
  | normal
  | powerDown
  /-- Going down with no firmware running: only step 6 is left (R395). -/
  | bare
  /-- A counted failure: 2 s wait before the next start (R385). -/
  | retry
  /-- Rails down, reset start due 10 ms later (R381). -/
  | resetWait
  /-- Rails held off after a thermal hard limit (R338). -/
  | thermal
  | bulb
  /-- Woken from Bulb, waiting for AUX_IN (R394). -/
  | bulbWake
  | cress
  | holdOpen
  deriving DecidableEq, Repr

/-- Kind of the start under way or due (R381, R386). -/
inductive StartKind where
  | cold | reset | cress
  deriving DecidableEq, Repr

/-- One entry of the failed-start history (R385). -/
structure HistEntry where
  reason  : Nat
  seconds : Nat
  deriving DecidableEq, Repr

/-- Always-on domain and supervisor (R378 to R394). -/
structure Power where
  /-- place in the start, run and power-down sequences; 14#R381; reset off -/
  phase      : Phase := .off
  /-- kind of the start under way or due; 14#R381; reset cold -/
  kind       : StartKind := .cold
  /-- always-on domain supplied; 14#R379; reset false (before ALWAYS_ON_COLD_POWER_UP) -/
  aonOn      : Bool := false
  /-- always-on crystal runs; 14#R393; reset false -/
  aonClock   : Bool := false
  /-- always-on seconds count, 32-bit; 14#Table 14.11; reset 0 -/
  aonSeconds : Nat := 0
  /-- ns of the running always-on second; 14#R385; reset 0 -/
  aonFrac    : Nat := 0
  /-- boot epoch, 16-bit, never 0; 14#R384; reset 1 (DESIGN CHOICE; loaded at cold power-up) -/
  epoch      : Nat := 1
  /-- physical time at which the boot epoch was counted; 05#R174; reset 0 -/
  epochAt    : Nat := 0
  /-- failed-start history, three entries, newest first; 14#R385; reset empty -/
  history    : List HistEntry := []
  /-- retention word, 64-bit; 14#Table 14.5; reset 0 (VALID clear, R384) -/
  retWord    : BitVec 64 := 0
  /-- retention record, 128 bytes, empty list for a header marked absent; 14#R391; reset absent -/
  retRecord  : Bytes := []
  /-- wakes without AUX_IN, 8-bit saturating; 14#R394; reset 0 -/
  wakes      : Nat := 0
  /-- copied PWR.WAKE_SRC, 2-bit; 14#R392; reset 3 (default of PWR.WAKE_SRC) -/
  wakeSrc    : Nat := 3
  /-- copied PWR.WAKE_IN_POL; 14#R392; reset 0 -/
  wakePol    : Nat := 0
  /-- AUX_IN qualified and not since declared low; 14#R378; reset false -/
  auxOk      : Bool := false
  /-- AUX_IN measured, 10 mV; 14#Table 14.11; reset 0 (DESIGN CHOICE) -/
  auxIn      : Nat := 0
  /-- BATT_AUX measured, 10 mV; 14#Table 14.11; reset 0 (DESIGN CHOICE) -/
  battAux    : Nat := 0
  /-- AUX_IN below PWR.AUX_WARN, after its dwell; 14#R404; reset false -/
  auxWarn    : Bool := false
  /-- BATT_AUX below PWR.BATT_WARN, after its dwell; 14#R404; reset false -/
  battWarn   : Bool := false
  /-- rails in their windows, bit = rail code − 1 for codes 1 to 7, VCHN0 to VCHN7 in [14:7]; 14#Table 14.11; reset 0 -/
  rails      : BitVec 16 := 0
  /-- rail enabled and awaited, code 1 to 7, 0 for none; 14#R380; reset 0 -/
  railWait   : Nat := 0
  /-- rail whose enable delay runs, 0 for none; 14#R380; reset 0 -/
  railNext   : Nat := 0
  /-- the present or last start was a Cress start; 14#Table 14.5 [17]; reset false -/
  cress      : Bool := false
  /-- start caused by PATCH_APPLY or RESTART is due, LAST_END code; 14#Table 14.2; reset 0 -/
  endCode    : Nat := 0
  /-- REASON code of the end under way; 14#Table 14.4; reset 0 -/
  endReason  : Nat := 0
  /-- last power-down step entered, 0 to 6; 14#R396; reset 0 -/
  pdStep     : Nat := 0
  /-- cause byte of the power-fail frame; 14#Table 14.8; reset 0 -/
  pdCause    : Nat := 0
  /-- step 4 of the running power-down is skipped; 14#R392, R401; reset false -/
  pdSkip4    : Bool := false
  /-- physical time of the next switch-off slot of step 4; 14#R396; reset 0 -/
  pdDue      : Nat := 0
  /-- time of the power-down trigger, 64-bit ns; 14#Table 14.8; reset 0 -/
  pdTime     : Nat := 0
  /-- physical time of the trigger, ns (for DETAIL); 14#Table 14.5; reset 0 -/
  pdPhys     : Nat := 0
  /-- strings in service at the trigger; 14#Table 14.8; reset 0 -/
  pdStrings  : BitVec 16 := 0
  /-- start watchdog running (Pod has left reset); 14#R383; reset false -/
  startWd    : Bool := false
  /-- since when both thermal restart conditions hold, physical ns; 12#R338; reset none -/
  restartOk  : Option Nat := none
  /-- physical time at which the phase was entered; 14#R385, R394; reset 0 -/
  phaseAt    : Nat := 0
  /-- physical time at which a rail was last enabled or entered its window; 14#R380, R382; reset 0 -/
  railAt     : Nat := 0
  /-- physical time at which the Pod left reset; 14#R383; reset 0 -/
  podAt      : Nat := 0
  /-- the retention word of a Hold-open that ends stays as it is; 14#R388; reset false -/
  pdKeep     : Bool := false
  deriving DecidableEq, Repr

/-! ### Pod and memory (chapter 13) -/

/-- A per-bank ECC account (R369). -/
structure Bank where
  /-- corrected errors, 16-bit saturating; 13#R369; reset 0 -/
  ce        : Nat := 0
  /-- uncorrectable and address errors, 16-bit saturating; 13#R369; reset 0 -/
  ue        : Nat := 0
  /-- physical times of the corrections of the last 60 min; 13#R377; reset empty -/
  ceTimes   : List Nat := []
  /-- when CE_RATE was last recorded; 13#R377; reset none -/
  ceNoted   : Option Nat := none
  /-- physical times of the uncorrectable errors of the last second; 13#Table 13.6; reset empty -/
  ueTimes   : List Nat := []
  /-- bank declared failed; 13#Table 13.6; reset false -/
  failed    : Bool := false
  /-- word addresses corrected, with the time of the correction; 13#R369; reset empty -/
  corrected : List (Nat × Nat) := []
  deriving DecidableEq, Repr

/-- An OTP field being programmed by the hardware sequencer (R375). -/
structure OtpJob where
  field : Nat
  data  : Bytes
  port  : Port
  tag   : Nat
  deriving DecidableEq, Repr

/-- Pod and memory system (R352 to R377). -/
structure Pod where
  /-- cores out of reset and running firmware; 13#R358; reset false -/
  running    : Bool := false
  /-- a warm restart is in progress; 13#Table 13.3; reset false -/
  warm       : Bool := false
  /-- physical time of the last halt; 13#Table 13.3; reset 0 -/
  haltAt     : Nat := 0
  /-- cores held in reset after eight warm restarts; 13#R362; reset false -/
  heldReset  : Bool := false
  /-- Shelled mode; 13#R363; reset false -/
  shelled    : Bool := false
  /-- MODE_SRC, 2-bit; 13#Table 13.4; reset 0 -/
  modeSrc    : Nat := 0
  /-- last Pod fault code since start; 13#Table 13.2; reset 0 -/
  lastFault  : Nat := 0
  /-- warm restarts since start, 16-bit saturating; 13#Table 13.11; reset 0 -/
  restarts   : Nat := 0
  /-- physical times of the warm restarts of the last 60 s; 13#R362; reset empty -/
  restartAt  : List Nat := []
  /-- physical time of the last mismatch; 13#Table 13.2; reset none -/
  mismatchAt : Option Nat := none
  /-- last comparator test passed; 13#Table 13.11; reset false -/
  ctPass     : Bool := false
  /-- watchdog faults since start, 16-bit saturating; 13#Table 13.11; reset 0 -/
  wdFaults   : Nat := 0
  /-- per core, the key due (0x5AC3 or 0xA53C); 13#R359; reset 0x5AC3 -/
  wdKey      : SMap Nat := []
  /-- per core, physical time of the last counted service; 13#R359; reset none -/
  wdLast     : SMap Nat := []
  /-- watchdog suspended; 13#R359; reset true -/
  wdOff      : Bool := true
  /-- last mismatch: group, 3-bit; 13#Table 13.11; reset 0 -/
  mmGroup    : Nat := 0
  /-- last mismatch: lane, 8-bit; 13#Table 13.11; reset 0 -/
  mmLane     : Nat := 0
  /-- last mismatch: leading core's program counter, 32-bit; 13#Table 13.11; reset 0 -/
  mmPc       : Nat := 0
  /-- last mismatch: time, 64-bit ns; 13#Table 13.11; reset 0 -/
  mmTime     : Nat := 0
  /-- per bank SB0 to SB3, ECC account; 13#R369; reset zero -/
  banks      : SMap Bank := []
  /-- banks declared failed, until the next start's memory test; 13#Table 13.6; reset none -/
  badBanks   : List Nat := []
  /-- scrubber's word address over SB0 to SB3; 13#R369; reset 0 -/
  scrubAddr  : Nat := 0
  /-- physical time of the last complete scrub pass; 13#Table 13.11; reset 0 -/
  scrubDone  : Nat := 0
  /-- start of the scrub pass under way; 13#R377; reset 0 -/
  scrubStart : Nat := 0
  /-- POD.SCRUB_PERIOD in force for the pass under way, s; 13#R377; reset 60 -/
  scrubPer   : Nat := 60
  /-- patch state, 3-bit; 13#Table 13.11; reset 0 -/
  patch      : Nat := 0
  /-- patch region of SB0, 256 KiB, canonical cells, an unlisted byte reads 0; 13#R372; reset empty -/
  region     : List Host.Cell := []
  /-- digest of the verified image; 13#R372; reset none -/
  digest     : Bytes := []
  /-- patch marked retained; 13#R373; reset false -/
  retained   : Bool := false
  /-- a key 1 patch has been verified this epoch; 13#R375; reset false -/
  key1Seen   : Bool := false
  /-- OTP, 8 KiB, canonical cells, an unlisted byte reads 0; 13#Table 13.7; reset empty (DESIGN CHOICE: production contents are not the manual's) -/
  otp        : List Host.Cell := []
  /-- OTP fields being programmed, the one under way first; 13#R375; reset none -/
  otpJobs    : List OtpJob := []
  /-- straps sampled at step 6: BOOT_PORT; 18#R495; reset false -/
  bootPort   : Bool := false
  /-- straps sampled at step 6: PEER_HEAD; 18#R495; reset false -/
  peerHead   : Bool := false
  deriving DecidableEq, Repr

/-! ### Parameters (chapter 16) -/

/-- Parameter values (R443 to R463). Keys are ID × 65,536 + instance; a key not listed holds its default. -/
structure Params where
  /-- applied values that differ from their defaults, as the parameter's number; 16#R446; reset none (R22) -/
  applied    : SMap Int := []
  /-- staged values awaiting COMMIT, idle or the end of a reservation; 16#R446; reset none -/
  staged     : SMap Int := []
  /-- staging generation, 16-bit, never 0; 16#R452; reset 1 -/
  generation : Nat := 1
  /-- SYS.CLAMP_COUNT, 32-bit saturating; 15#Table 15.15; reset 0 -/
  clampCount : Nat := 0
  /-- loads in use at a COMMIT of LSW.LOAD_DEF, whose new definition waits for their switch-off; 16#Table 16.4; reset none -/
  pendingDef : List Nat := []
  /-- a COMMIT of SEQ.LOAD_ROLE waits for sequences and joins to end; 16#Table 16.4; reset false -/
  pendingRole : Bool := false
  /-- keys of values a reservation holds: staged, and applied when it ends; 16#R447; reset none -/
  held       : List Nat := []
  deriving DecidableEq, Repr

/-! ### Host hub (chapter 15) -/

/-- A message the module sends: completion (kind 1) or notice (kind 2), Table 15.5. -/
structure OutMsg where
  port    : Port
  kind    : Nat
  tc      : Nat
  tag     : Nat
  opcode  : Nat
  status  : Nat
  epoch   : Nat
  addr    : Nat
  seq     : Nat
  payload : Bytes
  trailer : Bytes
  /-- Port E: address × 65,536 + UDP port it goes to (R411) -/
  dest    : Nat
  /-- time stamp and quality of its entry into the transmit queue (R14, R15) -/
  time    : Nat
  quality : Nat
  deriving DecidableEq, Repr

/-- An open transaction (R422). -/
structure Txn where
  port     : Port
  tag      : Nat
  opcode   : Nat
  /-- traffic class served -/
  cls      : Nat
  /-- holds a reserved TC0 entry -/
  reserved : Bool
  crc      : Nat
  session  : Nat
  seq      : Nat
  role     : Nat
  payload  : Bytes
  /-- service has begun: the transaction waits for its own events -/
  served   : Bool
  /-- result byte per item where the opcode is itemised, 0xFF open or not named -/
  items    : List Nat
  /-- items still open, by number -/
  waiting  : List Nat
  deriving DecidableEq, Repr

/-- A stored completion (R424). -/
structure Replay where
  tag : Nat
  crc : Nat
  msg : OutMsg
  deriving DecidableEq, Repr

/-- A session of Port E or B (R434 to R436). -/
structure Session where
  num     : Nat
  role    : Nat
  opened  : Bool
  hostN   : Bytes
  modN    : Bytes
  key     : Bytes
  /-- last accepted SEQ, none before the first request -/
  lastSeq : Option Nat
  /-- physical time of the last accepted request -/
  used    : Nat
  deriving DecidableEq, Repr

/-- A CAN message being reassembled on one identifier (R410). -/
structure Reassembly where
  index  : Nat
  stream : Bytes
  deriving DecidableEq, Repr

/-- Per-port state of the hub (R405, Table 15.14). -/
structure PortState where
  /-- declared failed; 15#R405; reset false -/
  failed   : Bool := false
  /-- BUSY completions sent, 16-bit saturating; 15#Table 15.14; reset 0 -/
  busy     : Nat := 0
  /-- check 1 failures, 16-bit saturating; 15#Table 15.14; reset 0 -/
  crcErr   : Nat := 0
  /-- check 2 failures and discarded reassemblies, 16-bit saturating; 15#Table 15.14; reset 0 -/
  discard  : Nat := 0
  /-- check 5 outcomes, 16-bit saturating; 15#Table 15.14; reset 0 -/
  dup      : Nat := 0
  /-- checks 4 and 6 failures and failed proofs, 16-bit saturating; 15#Table 15.14; reset 0 -/
  authFail : Nat := 0
  /-- completions sent again, 16-bit saturating; 15#Table 15.14; reset 0 -/
  replayed : Nat := 0
  /-- replay store, newest first, at most 64; 15#R424; reset empty -/
  replay   : List Replay := []
  /-- notice counter, 10-bit; 15#Table 15.5; reset 0 -/
  notices  : Nat := 0
  /-- open and pending sessions; 15#R434; reset empty -/
  sessions : List Session := []
  /-- physical times of failed proofs of the last 60 s; 15#R436; reset empty -/
  badProof : List Nat := []
  /-- physical time since which AUTH_BEGIN is refused for 60 s; 15#R436; reset none -/
  lockAt   : Option Nat := none
  /-- physical time since which the port is not up; 15#R436; reset none -/
  downAt   : Option Nat := none
  /-- CAN reassembly per identifier; 15#R410; reset empty -/
  reasm    : SMap Reassembly := []
  /-- completions held for the failed port; 15#R438; reset empty -/
  held     : List OutMsg := []
  /-- the six block current limits of the last LIMITS notice sent; 15#R430; reset none -/
  lastLim  : Option (List Int) := none
  /-- CAN controller in bus-off; 15#R407; reset false -/
  busOff   : Bool := false
  deriving DecidableEq, Repr

/-- An Ethernet service frame the module sends beside mailbox messages (R411, R412). -/
inductive EthFrame where
  | arpReply (ip toIp toMac : Nat)
  | echoReply (toIp : Nat) (data : Bytes)
  | dhcpRequest (rebinding : Bool)
  | delayReq (time : Nat)
  deriving DecidableEq, Repr

/-- A site-ring frame as sent or passed on (R415 to R417, R470). -/
inductive SiteFrame where
  | msg (link : SiteLink) (data : Bytes)
  | assign (link : SiteLink) (position side run : Nat)
  | sync (link : SiteLink) (m : SyncMsg)
  deriving DecidableEq, Repr

/-- A CAN FD frame as sent: identifier of 29 or 11 bits, and data field (R408, R409). -/
structure CanFrame where
  port : Port
  ext  : Bool
  id   : Nat
  data : Bytes
  deriving DecidableEq, Repr

/-- Host hub (R405 to R442). -/
structure Hub where
  /-- per port A, B, E, S, P by code; 15#Table 15.14; reset zero -/
  ports     : SMap PortState := []
  /-- transaction table, 1,024 entries, in order of entry; 15#R422; reset empty -/
  txns      : List Txn := []
  /-- messages handed to the transmitters, oldest first; 15#R427; reset empty -/
  sent      : List OutMsg := []
  /-- CAN FD frames that carry the messages of Ports A and B, oldest first per identifier; 15#R409; reset empty -/
  can       : List CanFrame := []
  /-- transmit queue of Port S, read by SPI READ, in transmit order; 15#R414; reset empty -/
  spiQueue  : List OutMsg := []
  /-- physical time when the receive buffer is free again; 15#R414; reset 0 -/
  spiFree   : Nat := 0
  /-- SPI OVERRUN; 15#Table 15.4; reset false -/
  spiOver   : Bool := false
  /-- SPI CRCERR; 15#Table 15.4; reset false -/
  spiCrc    : Bool := false
  /-- bytes clocked out on SPI_MISO by the last transfer; 15#R413; reset empty -/
  spiMiso   : Bytes := []
  /-- Ethernet service frames sent; 15#R411; reset empty -/
  eth       : List EthFrame := []
  /-- Port E link up; 15#R405; reset false -/
  linkUp    : Bool := false
  /-- source address and port of each open Port E request by tag, address × 65,536 + port; 15#R411; reset none -/
  ethPeer   : SMap Nat := []
  /-- site-ring frames sent or passed on; 15#R415; reset empty -/
  site      : List SiteFrame := []
  /-- site-ring position, 0xFF unassigned; 15#R416; reset 0xFF -/
  position  : Nat := 0xFF
  /-- this head's RING_ASSIGN run: number, and a notice is out; 15#R416; reset 0 -/
  run       : Nat := 0
  assigning : Bool := false
  /-- physical time of that notice; 15#R416; reset 0 -/
  assignAt  : Nat := 0
  /-- physical time of the last frame from each source position; 15#R416; reset none -/
  heard     : SMap Nat := []
  /-- physical times of the last periodic notice and the last zero-current notice; 15#R430; reset none -/
  limAt     : Option Nat := none
  zeroAt    : Option Nat := none
  /-- the head met another head; 15#R416; reset false -/
  conflict  : Bool := false
  /-- RING_ASSIGN seen this epoch; 15#R417; reset false -/
  assigned  : Bool := false
  /-- staged link restarts of ports whose CAN, IP or PTP parameter was applied; 15#R442; reset 0 -/
  relinks   : Nat := 0
  /-- weighting position 0 to 12 of Port S's transmitter; 15#R427; reset 0 -/
  turn      : Nat := 0
  /-- message a READ of Port S has begun on and not ended; 15#R414; reset none -/
  spiCur    : Option OutMsg := none
  deriving DecidableEq, Repr

/-! ### Chain rings and acquisition (chapters 2 and 3) -/

/-- A master frame launched on a ring (R50): its header's fields, the header word, the payload that its sequence number
begins, and the CRC over both (R55). -/
structure Frame where
  ring : Nat
  dir  : Bool
  bc   : Bool
  hop  : Nat
  opc  : Nat
  tag  : Nat
  data : List (BitVec 16)
  hdr  : BitVec 32
  crc  : BitVec 16
  /-- launches in a row, each with the next tag and sequence number: 256 for the pings of R59, else 1 -/
  times : Nat
  /-- physical time at which the first of them begins on its lane (R68, R69) -/
  at_  : Nat
  deriving DecidableEq, Repr

/-- A read or acknowledged command in flight or due for retry (R78). -/
structure Pend where
  ring  : Nat
  bc    : Bool
  dir   : Bool
  hop   : Nat
  opc   : Nat
  tag   : Nat
  data  : List (BitVec 16)
  hdr   : BitVec 32
  tries : Nat
  /-- strobe index the read belongs to -/
  sidx  : Nat
  deriving DecidableEq, Repr

/-- A node of a ring (R59 to R67, R85). -/
structure Node where
  /-- UID, 4 × 16-bit; 02#R59; reset none -/
  uid      : List (BitVec 16) := []
  /-- 1 cell node, 2 string-sense node; 02#Table 02.5; reset 0 -/
  type     : Nat := 0
  rev      : Nat := 0
  /-- delays in 1/16 ns; 02#R62; reset 0 -/
  dA       : Nat := 0
  dB       : Nat := 0
  /-- waits in node ticks, 16-bit; 02#R62; reset 0 -/
  wA       : Nat := 0
  wB       : Nat := 0
  tLoop    : Nat := 0
  repFwd   : Nat := 0
  repRev   : Nat := 0
  /-- nominal reference; 03#R88; reset 0 -/
  refNom   : Nat := 0
  /-- the hop failed the check of R64: aperture not assured; 02#R64; reset false -/
  noApt    : Bool := false
  scanAck  : Bool := false
  alarmAck : Bool := false
  /-- consecutive scans with failed reads; 02#R79; reset 0 -/
  fails    : Nat := 0
  /-- some read of the scan under way failed; 02#R79; reset false -/
  failScan : Bool := false
  /-- declared failed and isolated; 02#R79; reset false -/
  failed   : Bool := false
  /-- read failures, 16-bit saturating; 02#R79; reset 0 -/
  errors   : Nat := 0
  /-- status word, 16-bit, and the sample index it belongs to; 03#Table 03.2, 01#R25; reset 0 -/
  status   : BitVec 16 := 0
  statIdx  : Nat := 0
  /-- alarm source, 32-bit; 03#Table 03.3; reset 0 -/
  alarm    : BitVec 32 := 0
  /-- four node error counters, 16-bit; 03#R85; reset none -/
  counters : List Nat := []
  /-- balancing word, 16-bit; 03#R85; reset 0 -/
  balWord  : BitVec 16 := 0
  /-- reference word; 03#R88; reset NA -/
  refWord  : Nat := 0xFFFF
  /-- consecutive reference failures and passes; 03#R92; reset 0 -/
  refFail  : Nat := 0
  refPass  : Nat := 0
  refImpl  : Bool := false
  /-- plan held by the node: number and 18 budgets in 100 ms; 03#R101; reset none -/
  planNum  : Nat := 0
  plan     : List Nat := []
  /-- status of the last segment received; 02#Table 02.4; reset 0 -/
  sts      : Nat := 0
  /-- bleed-on time left of each budget by the module's reckoning, ns; 03#R105; reset none -/
  left     : List Nat := []
  /-- since when no master frame can reach the node; 02#Table 02.10; reset none -/
  lostAt   : Option Nat := none
  deriving DecidableEq, Repr

/-- Where one ring's service stands (CHN_STATUS, R439). -/
inductive RingService where
  | unpowered | enumerating | served | wrapped | notServed
  deriving DecidableEq, Repr

/-- One chain ring (R46 to R80). -/
structure Ring where
  /-- 02#R60; reset unpowered -/
  service  : RingService := .unpowered
  /-- nodes found; 02#R59; reset 0 -/
  found    : Nat := 0
  /-- wrapped: hops below it are served from end A; 02#R74, R77; reset none -/
  cutA     : Option Nat := none
  /-- wrapped: hops from it on are served from end B; 02#R74, R77; reset none -/
  cutB     : Option Nat := none
  misPop   : Bool := false
  /-- ring-wide aperture not assured; 02#R65; reset false -/
  noApt    : Bool := false
  /-- consecutive chain cycles in which T_AB left its prediction, and whether a train of this cycle did; 02#R65; reset 0 -/
  drift    : Nat := 0
  driftNow : Option Bool := none
  /-- tracked T_AB, 1/16 ns; 02#R65; reset 0 -/
  tAB      : Nat := 0
  /-- frame sequence counter, 16-bit; 02#R52; reset 0 -/
  seq      : Nat := 0
  /-- sequencer tag, 10-bit; 02#Table 02.2; reset 0 -/
  tag      : Nat := 0
  /-- since when carrier is clean on both sides of the former break; 02#R77; reset none -/
  cleanAt  : Option Nat := none
  /-- since when the ring is without service; 02#R61; reset none -/
  lostAt   : Option Nat := none
  /-- alarm tone at an end: READ_STATUS due in the next TC0 slot; 02#R68; reset false -/
  tone     : Bool := false
  /-- protection or host holds bleed; 03#R102; reset false -/
  hold     : Bool := false
  /-- a hold, or its release, is due in the next TC0 slot; 03#R102; reset none -/
  holdDue  : Option Bool := none
  /-- an alarm source has been read after a tone: ALARM_ACK due in the next TC0 slot; 02#R68; reset false -/
  ackDue   : Bool := false
  /-- BLEED_OFF trains of the coming strobe that have not arrived intact, by direction and tag, and whether they were
  launched once more; 02#R73; reset none, false -/
  offWait  : List (Bool × Nat) := []
  offAgain : Bool := false
  /-- bleed may flow on the ring: from BLEED_ON to BLEED_OFF, and since when that time is not yet booked; 02#R73, 03#R105;
  reset false, 0 -/
  bleedOn  : Bool := false
  bleedAt  : Nat := 0
  /-- next node for CAL_RUN, step number, and physical time at which the round began; 02#R80; reset 0, none -/
  calHop   : Nat := 0
  calStep  : Nat := 0
  calAt    : Option Nat := none
  /-- a restore is ordered, and its LOOP_CLR not yet acknowledged: the hops; 02#R77; reset false, none -/
  restoreDue : Bool := false
  clearing : List Nat := []
  /-- physical times until which the transmitters of ends A and B are busy; 02#R69; reset 0 -/
  laneA    : Nat := 0
  laneB    : Nat := 0
  /-- overpopulated (more than 64 nodes) or open: why not served; 02#R60; reset false -/
  overpop  : Bool := false
  openRing : Bool := false
  deriving DecidableEq, Repr

/-- A time stamp: 64-bit ns and its 2-bit quality, bit [0] TAI (R14, R466). -/
structure Stamp where
  time    : Nat := 0
  quality : Nat := 0
  deriving DecidableEq, Repr

/-- A cell's sample (R83, R91). -/
structure CellSample where
  /-- primary value, 16-bit 100 µV; 00#Table 00.5; reset NA -/
  volt    : Nat := 0xFFFF
  /-- quality byte; 03#Table 03.5; reset NA -/
  qual    : BitVec 8 := 1
  /-- coarse value, 10-bit 8 mV, and its sample index; 03#R87, 01#R25; reset NA, 0 -/
  coarse  : Nat := 0x3FF
  coarseIdx : Nat := 0
  /-- sample index, and the time stamp and quality of its instant; 01#R25, 00#R14, R15; reset 0 -/
  sidx    : Nat := 0
  stamp   : Stamp := {}
  /-- last primary value that was available, 100 µV; 05#R151; reset 0 (DESIGN CHOICE: none has been read) -/
  vLast   : Nat := 0
  /-- consecutive coarse failures and passes; 03#R92; reset 0 -/
  fails   : Nat := 0
  passes  : Nat := 0
  /-- IMPL by the coarse path; 03#R92; reset false -/
  impl    : Bool := false
  deriving DecidableEq, Repr

/-- A temperature input (R83, R95, R508). -/
structure TempSample where
  /-- delivered code, signed 16-bit; 03#R95; reset 0x7FFF -/
  code    : Int := 0x7FFF
  qual    : BitVec 8 := 1
  /-- sample index, and the stamp of its instant; 03#R84, 00#R14; reset 0 -/
  sidx    : Nat := 0
  stamp   : Stamp := {}
  /-- a reading has arrived in this epoch; 05#R170; reset false -/
  seen    : Bool := false
  /-- last accepted value and its physical time; 03#R95; reset none -/
  accepted : Option Int := none
  acceptAt : Nat := 0
  /-- since when readings are plausible again, while IMPL; 03#R95; reset none -/
  goodAt  : Option Nat := none
  impl    : Bool := false
  /-- since when readings are NA; 03#R508; reset none -/
  naAt    : Option Nat := none
  deriving DecidableEq, Repr

/-- String quantities (R83, R89). -/
structure StringSample where
  /-- current, signed mA, none when NA; 03#R89; reset none -/
  current : Option Int := none
  /-- V_STR, mV; 03#R89; reset none -/
  vstr    : Option Nat := none
  qual    : BitVec 8 := 1
  /-- sample index, and the stamp of its instant; 01#R25, 00#R14; reset 0 -/
  sidx    : Nat := 0
  stamp   : Stamp := {}
  /-- fuse and contactor voltages, signed mV, and the shunt temperature, with the sample index they belong to; 03#Table 03.4,
  01#R25; reset none, 0x7FFF, 0 -/
  vfuse   : Option Int := none
  vkp     : Option Int := none
  vkn     : Option Int := none
  shuntT  : Int := 0x7FFF
  auxIdx  : Nat := 0
  /-- physical time of the last READ_SS_AUX reading; 03#R83; reset none -/
  auxAt   : Option Nat := none
  /-- current at the previous 1 kHz sample; 07#R222; reset none -/
  prev    : Option Int := none
  /-- Σ of the 1 kHz currents since the last cell strobe and their count; 05#R151; reset 0 -/
  sumI    : Int := 0
  cntI    : Nat := 0
  /-- the same from the last filter pass's strobe to the last cell strobe, and of the interval that strobe ended; 05#R151;
  reset 0 -/
  sumS    : Int := 0
  cntS    : Nat := 0
  intI    : Int := 0
  intN    : Nat := 0
  /-- the same since the last published set; 05#R168; reset 0 -/
  sumL    : Int := 0
  cntL    : Nat := 0
  /-- current and V_STR at the last cell strobe, and the current substituted for one that is NA; 05#R154, 03#R92; reset none -/
  scanI   : Option Int := none
  scanV   : Option Nat := none
  scanSub : Option Int := none
  /-- strobe index of the sample the firmware saw last; 07#R221; reset none -/
  fwIdx   : Option Nat := none
  /-- the cells use the last valid current; 05#R154; reset false -/
  predI   : Bool := false
  /-- last valid current; 05#R154; reset 0 (DESIGN CHOICE) -/
  lastI   : Int := 0
  /-- SUM comparison counts, fault and residual (mV); 03#R92; reset 0 -/
  sumFail : Nat := 0
  sumPass : Nat := 0
  sumFault : Bool := false
  sumRes  : Int := 0
  /-- FUSE_OPEN reported; 03#Table 03.3; reset false -/
  fuseOpen : Bool := false
  deriving DecidableEq, Repr

/-- Filter counts and violation of one limit class of one instance (R99). -/
structure HltCount where
  count : Nat := 0
  met   : Bool := false
  deriving DecidableEq, Repr

/-- A limit-class record of one scan or cycle (R100). -/
structure HltRecord where
  sidx   : Nat := 0
  count  : Nat := 0
  lowest : Nat := 0
  bitmap : List Nat := []
  deriving DecidableEq, Repr

/-- VB and I at a strobe instant, with its stamp (R14, R30). -/
structure BusSample where
  idx   : Nat
  vb    : Option Int
  cur   : Option Int
  stamp : Stamp := {}
  deriving DecidableEq, Repr

/-- What a chain cycle brought, kept for the firmware (R92, R221): its strobe index, each string's current with the one
before, the strings the firmware has already seen, whether it has evaluated the cycle, and the bus at the strobe. -/
structure CycleRec where
  idx  : Nat
  strs : SMap (Option Int × Option Int)
  seen : List Nat
  done : Bool
  bus  : Option BusSample
  deriving DecidableEq, Repr

/-- A held scan, kept for the firmware and the array (R92, R158): its strobe index, whether its strobe was a regular one,
its cells' samples, each string's current and V_STR at the strobe, the currents substituted for those that are NA (R154),
what its interval brought (Σ I and count by string, bled charge by cell, As), and the bus. -/
structure ScanRec where
  idx     : Nat
  regular : Bool
  cells   : SMap CellSample
  strs    : SMap (Option Int × Option Nat)
  subs    : SMap Int
  sums    : SMap (Int × Nat)
  bled    : SMap Rat
  bus     : Option BusSample
  deriving DecidableEq, Repr

/-- Balancing state of a string (R103 to R106). -/
structure Balance where
  /-- cells that keep bleeding until their target (mode 1); 03#R103; reset none -/
  bleeding : List Nat := []
  /-- since when |I| ≤ 1 A; 03#R103; reset none -/
  quietAt  : Option Nat := none
  /-- since when held; 03#R106; reset none -/
  heldAt   : Option Nat := none
  /-- since when bleeding without hold; 03#R106; reset none -/
  freeAt   : Option Nat := none
  stale    : Bool := false
  need     : Bool := false
  deriving DecidableEq, Repr

/-- Chain sequencer and acquisition (R46 to R108, R508). -/
structure Chain where
  rings    : SMap Ring := []
  /-- by node address; 02#R11; reset none -/
  nodes    : SMap Node := []
  /-- frames launched, oldest first; 02#R50; reset empty -/
  frames   : List Frame := []
  pend     : List Pend := []
  /-- chain cycle number mod 32,768, and mod 100; 02#Table 02.5, 03#R84; reset 0 -/
  cycle    : Nat := 0
  hundred  : Nat := 0
  /-- sample index at which the cycle under way began, and its STROBE is launched; 01#R29; reset none, false -/
  cycIdx   : Option Nat := none
  strobed  : Bool := false
  /-- BLEED_OFF, BLEED_ON and READ_STRING were launched in the cycle under way; 02#R73, R80; reset false -/
  offOut   : Bool := false
  onOut    : Bool := false
  strOut   : Bool := false
  /-- a chain cycle has begun this epoch; 01#R29; reset false -/
  started  : Bool := false
  /-- scan period P in force and its anchor; 02#R72; reset 10 (100 Hz), 0 -/
  period   : Nat := 10
  anchor   : Nat := 0
  /-- chain cycles since the last regular cell strobe, below P; 02#R72; reset 0 -/
  phase    : Nat := 0
  /-- fragments per scan in force; 02#R70; reset 2 -/
  frags    : Nat := 2
  /-- pending change of period: P and anchor; 02#R72; reset none -/
  pending  : Option (Nat × Nat) := none
  /-- cell strobe due in this cycle and whether it was inserted; 02#R72, 06#R188; reset false -/
  cellNow  : Bool := false
  inserted : Bool := false
  /-- chain cycles since the one of the last cell strobe; 02#R70; reset 0 -/
  since    : Nat := 0
  /-- inserted strobe asked for, at this cycle number; 06#R188; reset none -/
  insertAt : Option Nat := none
  /-- sample index of the last cell strobe and of the one before; 01#R25; reset 0 -/
  scanSidx : Nat := 0
  prevSidx : Nat := 0
  /-- held scans the firmware has yet to evaluate, oldest first; 07#R217, R221; reset none -/
  evalDue  : List ScanRec := []
  /-- chain cycles that fell inside a Pod restart, oldest first; 07#R221; reset none -/
  missed   : List CycleRec := []
  /-- the cycle evaluated last, by strobe index; 07#R217; reset none -/
  cycDone  : Option Nat := none
  /-- bled charge of each cell in the interval the last regular strobe ended, As; 05#R151; reset none -/
  scanBled : SMap Rat := []
  /-- every fragment of the scan is held, and fragments launched so far; 02#R70; reset false, 0 -/
  scanHeld : Bool := false
  fragsOut : Nat := 0
  /-- READ_TEMPS due; 03#R84; reset false -/
  tempDue  : Bool := false
  /-- physical times of the last READ_COARSE broadcast, READ_SS_AUX and READ_STATUS; 03#R83; reset none -/
  coarseAt : Option Nat := none
  auxAt    : Option Nat := none
  statAt   : Option Nat := none
  /-- strobe index of the scan whose implausible nodes' coarse values are asked for; 03#R93; reset none -/
  coarseIdx : Option Nat := none
  cells    : SMap CellSample := []
  temps    : SMap TempSample := []
  strings  : SMap StringSample := []
  /-- filter counts by class × 65,536 + instance, classes 0 to 7 in Table 03.9 order; 03#R99; reset 0 -/
  hlt      : SMap HltCount := []
  /-- class violation bits; 03#R99; reset 0 -/
  viol     : BitVec 8 := 0
  /-- records per class, newest first, at most 64; 03#R100; reset none -/
  records  : SMap (List HltRecord) := []
  /-- ACQ.HLT values in force until the next scan boundary; 03#R100; reset none (defaults) -/
  hltPar   : SMap Int := []
  /-- ISUM comparison counts, fault, residual and since when; 03#R92; reset 0 -/
  isumFail : Nat := 0
  isumPass : Nat := 0
  isumFault : Bool := false
  isumRes  : Int := 0
  isumAt   : Option Nat := none
  balance  : SMap Balance := []
  /-- ALARM_CFG broadcast due; 03#R97; reset false -/
  alarmDue : Bool := false
  /-- SCAN_CFG broadcast due; 02#R72; reset false -/
  scanDue  : Bool := false
  /-- SEQ.STRING_MAP hardware copy in force (node → string); 08#R235; reset none -/
  mapCopy  : SMap Nat := []
  /-- bits of strings with more than one string-sense node; 08#R232; reset 0 -/
  mapFault : BitVec 16 := 0
  /-- compare skips: weld test skips counted; 08#R247; reset 0 -/
  weldSkips : Nat := 0
  deriving DecidableEq, Repr

/-! ### Bus metrology (chapter 4) -/

/-- The five measurement roles (Table 04.1). -/
inductive Role where
  | vb | vl | ih | il | vi
  deriving DecidableEq, Repr

/-- A role's last sample: value (mV, mV, nV, nV, µV) and flags (Table 04.2). -/
structure RoleSample where
  value : Int := 0
  flags : BitVec 8 := 1
  deriving DecidableEq, Repr

/-- Where the calibration step stands (Table 04.5). -/
inductive CalPhase where
  | idle | fill | overlap | abandoned
  deriving DecidableEq, Repr

/-- The capture or a trace buffer's state (R482). -/
inductive BufState where
  | idle | armed | filling | frozen
  deriving DecidableEq, Repr

/-- One captured instant: sample index, epoch byte, time and its words (R144). -/
structure CapInstant where
  idx   : Nat
  ep    : Nat
  time  : Nat
  words : List (BitVec 32)
  deriving DecidableEq, Repr

/-- The capture buffer (R144 to R146, Table 17.4). -/
structure Capture where
  state    : BufState := .idle
  /-- instants held, newest first; 04#R144; reset empty -/
  data     : List CapInstant := []
  /-- words per instant, pre and post instants in force, channel mask; 04#R144; reset 0 -/
  words    : Nat := 0
  pre      : Nat := 0
  channels : Nat := 0
  spare    : Nat := 0
  post     : Nat := 0
  freeze   : Nat := 0
  source   : Nat := 0
  arrival  : Nat := 0
  trigIdx  : Nat := 0
  trigPre  : Nat := 0
  firstIdx : Nat := 0
  firstEp  : Nat := 0
  time     : Nat := 0
  lostWide : Bool := false
  lostWord : Bool := false
  /-- later triggers: source and sample index, at most 8; 04#R145; reset empty -/
  later    : List (Nat × Nat) := []
  /-- words returned since the freeze (for MET.CAP_REARM); 17#R484; reset none -/
  readOut  : List (Nat × Nat) := []
  deriving DecidableEq, Repr

/-- Insulation monitoring (R130 to R136). -/
structure Insulation where
  /-- injection half-period under way: positive; 04#R130; reset true -/
  positive : Bool := true
  /-- half-period length, s; 04#R132; reset 0 (MET.INS_TMIN when injection begins) -/
  length   : Nat := 0
  /-- physical time at which the half-period began; 04#R132; reset 0 -/
  startAt  : Nat := 0
  /-- settled means, µV; 04#R131; reset none -/
  viPos    : Option Int := none
  viNeg    : Option Int := none
  /-- |VI+ − VI−| of the previous result; 04#R132; reset none -/
  prevDiff : Option Nat := none
  /-- latest R_F, Ω; 04#R134; reset NA -/
  result   : Nat := 0xFFFFFFFF
  /-- ABOVE, BELOW and side bits of the latest result; 04#R134; reset 0 -/
  marks    : Nat := 0
  /-- UNSETTLED; 04#R132; reset false -/
  unsettled : Bool := false
  /-- 04#R136; reset false -/
  peFault  : Bool := false
  /-- VB at the start of the half-period, mV; 04#R133; reset none -/
  vbStart  : Option Int := none
  /-- switching elements on at its start, by load, and the disconnector's state; 04#R133; reset none -/
  elements : List Nat := []
  /-- Σ of VI over the last 20 % of the half-period, its count, and the first and last samples of it, µV; 04#R131, R132;
  reset 0, none -/
  tailSum  : Int := 0
  tailN    : Nat := 0
  tailFirst : Option Int := none
  tailLast : Int := 0
  /-- physical time of the last PE check; 04#R136; reset none -/
  peAt     : Option Nat := none
  /-- below MET.INS_WARN; 04#R134; reset false -/
  warned   : Bool := false
  /-- time of the latest result, 64-bit ns; 15#R439; reset 0 -/
  time     : Nat := 0
  deriving DecidableEq, Repr

/-- The analysis of one ripple window of one source (R137 to R139), as the section finds it. -/
structure RippleWindow where
  source : Nat
  first  : Nat
  mean   : Int
  rms    : Nat
  sub    : List Nat
  grp    : List Nat
  phase  : List Int
  deriving DecidableEq, Repr

/-- Ripple of one source (R137 to R139): the latest results, and the window under way. -/
structure Ripple where
  first  : Nat := 0
  mean   : Int := 0
  rms    : Nat := 0
  sub    : List Nat := []
  grp    : List Nat := []
  phase  : List Int := []
  flags  : BitVec 8 := 1
  /-- the windows of the running 3 s; 04#R139; reset none -/
  recent : List RippleWindow := []
  /-- windows since the last 3 s values; 04#R139; reset 0 -/
  count  : Nat := 0
  /-- 3 s values; 04#R139; reset none -/
  slow   : Option RippleWindow := none
  /-- samples of the window under way, newest first, none while NA, the index of its first, and whether one was STALE;
  04#R137, R139; reset none, 0, false -/
  win    : List (Option Int) := []
  winIdx : Nat := 0
  winStale : Bool := false
  deriving DecidableEq, Repr

/-- Bus metrology section (R109 to R148). -/
structure Metrology where
  /-- sample index, 32-bit; 01#R25; reset 0 -/
  sidx     : Nat := 0
  /-- epoch byte of the sample index; 17#R485; reset 0 -/
  sidxEp   : Nat := 0
  /-- physical time of the last sampling instant; 10#R295; reset 0 -/
  instAt   : Nat := 0
  /-- its time stamp, 64-bit ns; 00#R15; reset 0 -/
  instTime : Nat := 0
  /-- start calibration complete; 04#R126; reset false -/
  ready    : Bool := false
  vb : RoleSample := {}
  vl : RoleSample := {}
  ih : RoleSample := {}
  il : RoleSample := {}
  vi : RoleSample := {}
  /-- selected current, mA, and its flags; 04#R118; reset NA -/
  cur      : RoleSample := {}
  /-- selection: IL selected, samples inside, previous IH; 04#R117; reset IH, 0, none -/
  selIL    : Bool := false
  inside   : Nat := 0
  ihPrev   : Option Int := none
  /-- samples for which TRANS is still set; 04#R119; reset 0 -/
  transN   : Nat := 0
  /-- Σ(IL − IH) of the second, its count, the samples of the second, and the mean of the last second; 04#R120; reset 0 -/
  diffSum  : Int := 0
  diffN    : Nat := 0
  diffTick : Nat := 0
  diffMean : Option Int := none
  /-- I from IL alone after IRANGE_MISMATCH, with the paths still to recalibrate; 04#R120; reset none -/
  ilOnly   : Bool := false
  recalIH  : Bool := false
  recalIL  : Bool := false
  /-- previous current for the slope trigger, mA; 04#R146; reset none -/
  curPrev  : Option Int := none
  /-- modulator serving each role, VB, VL, IH, IL, VI; 04#R126; reset 0 to 4 -/
  serving  : List Nat := [0, 1, 2, 3, 4]
  /-- spare modulator; 04#R126; reset 5 -/
  spare    : Option Nat := some 5
  failed   : List Nat := []
  /-- next role of the rotation, 0 to 4; 04#R121; reset 0 -/
  calRole  : Nat := 0
  calPhase : CalPhase := .idle
  /-- samples of the phase; 04#Table 04.5; reset 0 -/
  calN     : Nat := 0
  /-- valid pairs and Σ(spare − live); 04#R122; reset 0 -/
  pairs    : Nat := 0
  pairSum  : Int := 0
  /-- d being slewed out, × 256, and samples left; 04#Table 04.5; reset 0 -/
  slewD    : Int := 0
  slewN    : Nat := 0
  slewRole : Nat := 0
  /-- modulator under calibration; 04#R124; reset none -/
  calMod   : Option Nat := none
  /-- the spare is calibrated for its role; 04#R121; reset false -/
  spareOk  : Bool := false
  /-- time of the latest calibration by modulator × 8 + role, physical ns; 04#R121; reset none -/
  calAt    : SMap Nat := []
  /-- per role, the age is unknown until recalibrated; 04#R127; reset false -/
  unknown  : List Nat := []
  /-- TKOV samples left by role; 04#R127; reset none -/
  tkov     : SMap Nat := []
  ins      : Insulation := {}
  ripple   : SMap Ripple := []
  /-- tracking holds the nominal fundamental; 04#R138; reset true -/
  ripHold  : Bool := true
  /-- accumulated E_DIS and E_CHG in 2^−32 mWs, Q_NET in 2^−32 mAs; 04#R141; reset 0 -/
  eDis     : Nat := 0
  eChg     : Nat := 0
  qNet     : Int := 0
  ctrGap   : Nat := 0
  ctrLost  : Nat := 0
  /-- a CLIP sample of VB or I has entered the counters; 04#Table 04.2; reset false -/
  ctrClip  : Bool := false
  baseMiss : Bool := true
  /-- base to be added at the next sampling instant: E_DIS, E_CHG, Q_NET; 04#R143; reset none -/
  base     : Option (Nat × Nat × Int) := none
  /-- NA run: its samples of VB and I, its length, and the last valid pair; 04#R141; reset none -/
  gap      : List (Option Int × Option Int) := []
  naRun    : Nat := 0
  lastPair : Option (Int × Int) := none
  /-- samples of the newest strobe instant and of the newest cell strobe's; 01#R30; reset none -/
  strobe   : Option BusSample := none
  scan     : Option BusSample := none
  /-- samples of the last 64 strobe instants, newest first; 01#R25; reset none -/
  strobes  : List BusSample := []
  /-- last valid reported current, mA; 08#R240; reset none -/
  lastI    : Option Int := none
  /-- newest valid VB, VL and current by source code 0x09 to 0x0B, with the physical time of its instant; 10#R296; reset none -/
  lastVal  : SMap (Int × Nat) := []
  /-- the first sampling instant of the epoch has come; 01#R25; reset false -/
  begun    : Bool := false
  /-- time since which an abandoned calibration step waits, physical ns; 04#R123; reset 0 -/
  abandAt  : Nat := 0
  cap      : Capture := {}
  deriving DecidableEq, Repr

/-! ### Estimation (chapter 5) and impedance (chapter 6) -/

/-- Restored resistances that enter a cell's next fit as a prior (R175, R199): values at 25 °C, and their relative
standard deviation. -/
structure PriorR where
  rser : Rat
  rpa  : Rat
  tauA : Rat
  g    : Rat
  rsd  : Rat
  /-- no fit has taken the restored Rser yet -/
  rOpen : Bool
  deriving DecidableEq, Repr

/-- A cell's working record (Table 05.6) and what the chapter adds to it. Charge in As, resistances in Ω at 25 °C. -/
structure CellEst where
  /-- SoC, Vpa, Vpb and the covariance; 05#R155; reset at initialisation (R170) -/
  soc      : Rat
  vpa      : Rat
  vpb      : Rat
  p11      : Rat
  p12      : Rat
  p13      : Rat
  p22      : Rat
  p23      : Rat
  p33      : Rat
  /-- capacity and its variance; 05#R170; EST.C_NOM -/
  cap      : Rat
  capVar   : Rat
  /-- model resistances are the EST defaults; 05#R160; true -/
  dflt     : Bool
  rser     : Rat := 0
  rpa      : Rat := 0
  cpa      : Rat := 0
  rpb      : Rat := 0
  cpb      : Rat := 0
  rserRef  : Rat := 0
  /-- running variances of Rser, Rpa, τa and 1/Cpb; 06#R197 -/
  varRser  : Rat := 0
  varRpa   : Rat := 0
  varTauA  : Rat := 0
  varG     : Rat := 0
  prior    : Option PriorR := none
  fits     : Nat := 0
  /-- last T_mod, 0.01 °C; 05#R153; 25 °C -/
  tMod     : Rat := 2500
  learned  : Bool := false
  cycles   : Nat := 0
  efc      : Rat := 0
  bled     : Rat := 0
  /-- physical times, ns, at which the resistance age and the capacity age were 0; 05#Table 05.6 -/
  rAt      : Int
  cAt      : Int
  /-- RSTALE by R191; 06#R191; false -/
  rstale   : Bool := false
  socRep   : Rat
  sohRep   : Rat := 1
  /-- EST_GATED, 16-bit saturating, and consecutive rejections; 05#R155; 0 -/
  gated    : Nat := 0
  rejects  : Nat := 0
  /-- IMP_REJECT, 16-bit saturating; 06#R198; 0 -/
  impRej   : Nat := 0
  /-- physical time of the last measurement update; 05#R157; none -/
  updated  : Option Nat := none
  /-- measurement applied since the last set; 05#Table 05.4; false -/
  fresh    : Bool := false
  /-- charge bled since the last filter pass, since the last set, and in the learning cycle, As; 05#R151, R168, R178; 0 -/
  qb       : Rat := 0
  qbSet    : Rat := 0
  qbLearn  : Rat := 0
  /-- growth conditions; 06#R204; false -/
  gWarn    : Bool := false
  gAlarm   : Bool := false
  outlier  : Bool := false
  /-- NA, BLEED or IMPL sample in the rest under way, and in the start anchor; 05#R178; false -/
  restBad  : Bool := false
  startBad : Bool := false
  /-- SoC at the start anchor; 05#R178; none -/
  anchorSoc : Option Rat := none
  /-- published limits before rounding: discharge, then charge, A; 05#R167; none -/
  lims     : List Rat := []
  deriving DecidableEq, Repr

/-- A restored record kept until the cell is initialised (R175). -/
structure Restored where
  soc     : Rat
  p11     : Rat
  cap     : Rat
  capVar  : Rat
  rValid  : Bool
  learned : Bool
  rser    : Rat
  rpa     : Rat
  cpa     : Rat
  rpb     : Rat
  cpb     : Rat
  rserRef : Rat
  conf    : Nat
  fits    : Nat
  cycles  : Nat
  efc     : Rat
  bled    : Rat
  rAge    : Nat
  cAge    : Nat
  deriving DecidableEq, Repr

/-- A cell's published outputs as codes (Table 05.11). -/
structure CellOut where
  socRep : Nat
  socInt : Nat
  sigma  : Nat
  soh    : Nat
  cap    : Nat
  rser   : Nat
  rpa    : Nat
  rpb    : Nat
  cpa    : Nat
  cpb    : Nat
  idis   : List Int
  ichg   : List Int
  flags  : BitVec 8
  deriving DecidableEq, Repr

/-- A string's published outputs as codes (Table 05.12), with the terms R166 needs. -/
structure StringOut where
  soc    : Nat
  soh    : Nat
  cap    : Nat
  res    : Nat
  lowSoc : Nat
  lowIdx : Nat
  highSoc : Nat
  highIdx : Nat
  idis   : List Int
  ichg   : List Int
  pdis   : List Nat
  pchg   : List Nat
  flags  : BitVec 8
  flags2 : BitVec 8
  /-- SoC, SoH and capacity from the cells' internal values; 05#R161 -/
  socInt : Nat
  sohInt : Nat
  capInt : Nat
  /-- no cell-surface input: the string's temperature is not available; 05#R153 -/
  tempNa : Bool
  /-- E_j and R_j at 2 s for discharge and charge, V and Ω; 05#R166 -/
  e2     : Rat
  rDis2  : Rat
  rChg2  : Rat
  deriving DecidableEq, Repr

/-- The block's published outputs as codes (Table 05.13). -/
structure BlockOut where
  soc   : Nat := 0xFFFF
  soh   : Nat := 0xFFFF
  cap   : Nat := 0xFFFFFFFF
  res   : Nat := 0xFFFFFFFF
  idis  : List Int := [0, 0, 0]
  ichg  : List Int := [0, 0, 0]
  pdis  : List Nat := [0, 0, 0]
  pchg  : List Nat := [0, 0, 0]
  flags : BitVec 8 := 1
  deriving DecidableEq, Repr

/-- One published set (R33, R156). -/
structure PubSet where
  number    : Nat := 0
  sidx      : Nat := 0
  /-- the cells' records as the set holds them, and when it was assembled; 05#R173 -/
  views     : SMap CellEst := []
  at_       : Nat := 0
  cells     : SMap CellOut := []
  strings   : SMap StringOut := []
  block     : BlockOut := {}
  inService : BitVec 16 := 0
  /-- VB at the set's sample index, mV, none when NA -/
  vb        : Option Int := none
  deriving DecidableEq, Repr

/-- A learning cycle of a string (R176, R177). -/
structure Learn where
  /-- since when |I| is at rest; 05#R176; reset none -/
  restAt   : Option Nat := none
  /-- a rest of EST.ANCHOR_T or more has ended, with the sample index of its end; 05#R176; reset none -/
  restOver : Option Nat := none
  /-- sample index of the start anchor, none before the first; 05#R177; reset none -/
  startIdx : Option Nat := none
  /-- Σ I and Σ |I| of the 1 kHz samples of the cycle, mA, and their count; 05#R178; reset 0 -/
  charge   : Int := 0
  absSum   : Nat := 0
  samples  : Nat := 0
  /-- a condition of codes 2, 3, 5, 6, 7 has failed in the cycle; 05#Table 05.9; reset false -/
  badTemp  : Bool := false
  badSpread : Bool := false
  longRest : Bool := false
  outage   : Bool := false
  lostIn   : Bool := false
  /-- since when chain data of a cell is missing, by cell; 05#Table 05.9; reset none -/
  missing  : SMap Nat := []
  /-- LEARN_STALE; 05#R179; reset false -/
  stale    : Bool := false
  deriving DecidableEq, Repr

/-- A qualified cycle waiting for its capacity update (R178, R179). -/
structure Cycle where
  str    : Nat
  /-- ∫ I dt, As -/
  charge : Rat
  /-- per cell that takes the update: start SoC, end SoC and Σ Qb -/
  cells  : SMap (Rat × Rat × Rat)
  /-- every cell of the string -/
  all    : List Nat
  deriving DecidableEq, Repr

/-- Estimation array (R149 to R183). -/
structure Est where
  /-- by cell, those initialised; 05#R170; reset none -/
  cells    : SMap CellEst := []
  set      : PubSet := {}
  /-- a set has been published this epoch; 05#R167; reset false -/
  any      : Bool := false
  /-- published limits before rounding: of strings and of the block; 05#R167; reset none (0) -/
  limS     : SMap (List Rat) := []
  limB     : List Rat := []
  learn    : SMap Learn := []
  backlog  : List Cycle := []
  /-- a restore accepted this epoch, and its records not yet applied; 05#R174, R175; reset false -/
  accepted : Bool := false
  restore  : SMap Restored := []
  applyDue : Bool := false
  /-- kept for cells not yet initialised; 05#R175; reset none -/
  kept     : SMap Restored := []
  /-- physical time of START_DONE; 05#R157; reset 0 -/
  startAt  : Nat := 0
  /-- physical time of the last set; 05#R167; reset 0 -/
  setAt    : Nat := 0
  /-- sample index of the strobe of the last filter pass; 05#R155; reset none -/
  passIdx  : Option Nat := none
  /-- a filter pass completed since the last set; 05#R156; reset false -/
  passNew  : Bool := false
  /-- scans a filter pass is due for, oldest first; 05#R156, R158; reset none -/
  scanDue  : List ScanRec := []
  /-- checks that R204 makes disabled in the newest set; 06#R204; reset 0 -/
  unchecked : Nat := 0
  deriving DecidableEq, Repr

/-- A cell's filter state and T_mod as a step record keeps them (R187). -/
structure FilterState where
  soc  : Rat
  vpa  : Rat
  vpb  : Rat
  tMod : Rat
  deriving DecidableEq, Repr

/-- A cell's value and quality byte as a step record keeps them (R190). -/
structure CellValue where
  volt : Nat := 0xFFFF
  qual : Nat := 1
  deriving DecidableEq, Repr

/-- A step candidate, an open step, or a queued record (R184 to R190). -/
structure Step where
  /-- sample index at which the block trigger held, and Iq in mA; 06#R184 -/
  trig     : Nat
  iq       : Rat
  /-- edge and string steps confirmed; 06#R185; reset false -/
  confirmed : Bool := false
  /-- t_e in 64-bit ns; its sample index and how many µs before that sample; 06#R185 -/
  time     : Nat := 0
  edge     : Nat := 0
  back     : Nat := 0
  /-- physical time at which the quiet window began; 06#R192 -/
  quietAt  : Nat := 0
  /-- I0 and ΔI of each string in the step, mA; 06#R185 -/
  strs     : SMap (Rat × Rat) := []
  /-- Σ and count of each string's 1 kHz currents from t_e + 1 ms to t_e + 1 s; 06#R185 -/
  sums     : SMap (Int × Nat) := []
  /-- strobe of the pre-step sample, the cells' values and quality bytes, and their filter states with T_mod; 06#R187 -/
  preIdx   : Nat := 0
  pre      : Option (SMap CellValue) := none
  states   : Option (SMap FilterState) := none
  /-- response instants chosen, by offset 0 to 3, and the values read at them; 06#R188 -/
  insts    : SMap Nat := []
  resp     : SMap (SMap CellValue) := []
  /-- sample index at which a string left its hold band; 06#R193 -/
  ended    : Option Nat := none
  /-- exclusions met, as outcome × 65,536 + ring or string; 06#R192 -/
  hits     : List Nat := []
  /-- an inserted strobe could not be placed; 06#R188 -/
  failed   : Bool := false
  /-- outcome, cells to be fitted, and physical time of queueing; 06#R190, R195 -/
  outcome  : Nat := 0
  cells    : List Nat := []
  queuedAt : Nat := 0
  /-- IMP values in force at the edge; 06#R206 -/
  par      : SMap Int := []
  deriving DecidableEq, Repr

/-- Impedance engine (R184 to R206). -/
structure Imp where
  /-- I at the last sampling instants, mA, none while NA, newest first; 06#R184; reset empty -/
  hist     : List (Option Int) := []
  /-- each string's 1 kHz currents with their sample indices, newest first; 06#R184; reset empty -/
  histS    : SMap (List (Nat × Int)) := []
  /-- physical time at which an event of Table 06.3 was last present, by outcome × 65,536 + ring or string; 06#R192; reset none -/
  events   : SMap Nat := []
  /-- switching elements and disconnector as last seen; 06#R192; reset none -/
  elements : List Nat := []
  /-- the last two scans held, newest first: sample index, and each cell's value and quality byte; 06#R187; reset none -/
  scans    : List (Nat × SMap CellValue) := []
  /-- filter states after the last two passes, newest first: SoC, Vpa, Vpb, T_mod; 06#R187; reset none -/
  passes   : List (Nat × SMap FilterState) := []
  /-- the step whose response is open, and one whose response has ended and that waits to be closed; 06#R186, R190; reset
  none -/
  open_    : Option Step := none
  closing  : Option Step := none
  /-- IMP values with the sample index from which they hold, newest first; 06#R206; reset none (defaults) -/
  pars     : List (Nat × SMap Int) := []
  /-- step records queued for fitting, oldest first, at most four; 06#R190; reset empty -/
  queue    : List Step := []
  deriving DecidableEq, Repr

/-! ### Husk and grades (chapter 7) -/

/-- Trip-matrix action under way of one source (R210 to R214). -/
structure Trip where
  /-- asserted at the Husk boundary; 07#R214; reset false -/
  asserted : Bool := false
  /-- action acting and code in force when it began; 07#R213; reset none -/
  acting   : Option Nat := none
  latched  : Bool := false
  /-- DELAY running; 07#R214; reset false -/
  delaying : Bool := false
  /-- strings named when it acted; 07#R211; reset 0 -/
  strings  : BitVec 16 := 0
  /-- physical time of the assertion; 07#R214; reset 0 -/
  since    : Nat := 0
  deriving DecidableEq, Repr

/-- A pending ARM (R227). -/
structure Arm where
  port    : Port
  session : Nat
  /-- LATCH at the ARM -/
  latch   : Nat
  /-- physical time of the ARM -/
  time    : Nat
  deriving DecidableEq, Repr

/-- The Husk (R207 to R215, R224 to R227). -/
structure Husk where
  armed     : Bool := false
  trips     : SMap Trip := []
  /-- matrix entries in force that differ from the default; 07#R213; reset none -/
  matrix    : SMap (BitVec 32) := []
  tripCount : Nat := 0
  /-- first source latched since the last reset, 0xFF none; 07#Table 07.5; reset 0xFF -/
  first     : Nat := 0xFF
  firstTime : Nat := 0
  firstIdx  : Nat := 0
  /-- open sets: loads of each string and of the block; 08#R233; reset none -/
  setStr    : SMap (List Nat) := []
  setBlk    : List Nat := []
  setDsc    : List Nat := []
  setDme    : List Nat := []
  /-- firmware requests: block open, string mask, inhibits; 07#R208; reset none -/
  fwBlk     : Bool := false
  fwStr     : BitVec 16 := 0
  fwChg     : Bool := false
  fwDis     : Bool := false
  arm       : Option Arm := none
  /-- PRT_RST_REJ, 16-bit saturating; 07#R227; reset 0 -/
  rstRej    : Nat := 0
  /-- E_STOP loop open now; 07#Table 07.5; reset false -/
  estop     : Bool := false
  /-- sources 16 to 22 held released until START_DONE; 14#R381; reset true -/
  heldRel   : Bool := true
  /-- since when PCS_INH_CHG and PCS_INH_DIS are asserted; 07#R224; reset none -/
  chgLine   : Option Nat := none
  disLine   : Option Nat := none
  /-- the PWM domain's clock is lost: PW0 to PW5, DA0 and DA1 are forced off; 07#R209; reset false -/
  pwmOff    : Bool := false
  /-- comparator channels that failed their test, comparator × 2 + channel; 07#R226; reset none -/
  badChan   : List Nat := []
  deriving DecidableEq, Repr

/-- Dwell and hover of one level condition of one instance (R220). -/
structure Cond where
  entered  : Bool := false
  /-- since when the entering, or leaving, reading holds; 07#R220; reset none -/
  since    : Option Nat := none
  /-- physical times of the entries of the last 60 min; 07#R220; reset none -/
  toggles  : List Nat := []
  hover    : Bool := false
  deriving DecidableEq, Repr

/-- Firmware grades (R216 to R223). -/
structure Grades where
  /-- conditions by condition number × 65,536 + instance; 07#Table 07.7; reset left -/
  conds    : SMap Cond := []
  /-- callers of each grade, as condition × 65,536 + scope; 07#R216; reset none -/
  g1       : List Nat := []
  g2chg    : List Nat := []
  g2dis    : List Nat := []
  g3       : BitVec 16 := 0
  /-- strings whose G3 waits for its current, with the time of the decision and the direction of the G2 part
  (true charge) where one is applied; 07#R216; reset none -/
  g3wait   : SMap (Nat × Option Bool) := []
  g4       : Bool := false
  /-- heat indices: strings and block; 07#R219; reset 0 -/
  heat     : SMap Rat := []
  heatBlk  : Rat := 0
  /-- since when a G2 stands uncomplied, charge and discharge; 07#R218; reset none -/
  chgAt    : Option Nat := none
  disAt    : Option Nat := none
  lost     : BitVec 16 := 0
  /-- a G1 was entered: the next set is sent in a TC0 LIMITS notice; 07#Table 07.6; reset false -/
  g1Note   : Bool := false
  /-- the G2 that a loss called for stands, and its direction (true charge); 07#R223; reset none -/
  lossG2   : Option Bool := none
  deriving DecidableEq, Repr

/-! ### Sequencing (chapter 8) -/

/-- Step of the block sequence under way (Tables 08.8 to 08.10). -/
inductive SeqStep where
  | none
  | closeDsc | closeJoin | pcProbe | pcMn | pcRamp | pcMp
  | dscDrive | dscBrake | dscMove | dscStop
  | openWait | openMn | openWeld | openStrings | openTests | openDsc
  deriving DecidableEq, Repr

/-- A queued or running join (R244, R511). -/
structure Join where
  str     : Nat
  /-- its outcome is recorded as a JOIN_RESULT event (R238, R511) -/
  report  : Bool
  reqAt   : Nat
  /-- set number latched and window W (mV); 08#R240; none before judged -/
  setNum  : Option Nat
  window  : Option Rat
  lead    : Bool
  dwellAt : Option Nat
  dwellOk : Bool
  /-- KN, then KP switched on; 08#Table 08.5 -/
  knAt    : Option Nat
  kpAt    : Option Nat
  /-- last data hindrance: result code; 08#R511 -/
  hinder  : Option Nat
  /-- scan index of the latched set -/
  sidx    : Nat
  /-- SEQ values that held when the join began (R266) -/
  par     : SMap Int
  deriving DecidableEq, Repr

/-- An opening switch-off that is due (R260): role code, string (0 for the mains), and physical time. -/
structure OpenItem where
  role : Nat
  str  : Nat
  due  : Nat
  deriving DecidableEq, Repr

/-- Per-string sequencing state. -/
structure StrSeq where
  inService : Bool := false
  confPend  : Bool := false
  confAt    : Option Nat := none
  weld      : Bool := false
  /-- voltage tests left after an opening, and what those made found: the role, 0 for none; 08#R247; reset 0, none -/
  vTests    : Nat := 0
  vFound    : List Nat := []
  /-- current test due, and when the second coil went off; 08#R248; reset false, 0 -/
  iTest     : Bool := false
  offAt     : Nat := 0
  /-- opened by a command of its own sequence; 08#R181; reset false -/
  opening   : Bool := false
  /-- its join is confirmed, and it enters service in the next limit cycle; 05#R162; reset false -/
  joined    : Bool := false
  /-- reading of READ_SS_AUX taken open since the join request; 08#R247; reset false -/
  auxFresh  : Bool := false
  deriving DecidableEq, Repr

/-- Disconnector state (Table 08.12). -/
inductive DscState where
  | opened | closed | closing | opening | intermediate | unreferenced | endFault
  deriving DecidableEq, Repr

/-- Sequencing (R230 to R266, R511). -/
structure Seq where
  /-- step of the block sequence under way; 08#R237; reset none -/
  step      : SeqStep := .none
  /-- scope of the BLOCK_OPEN under way; 08#R236; reset 0 -/
  scope     : Nat := 0
  /-- string mask of the BLOCK_CLOSE under way; 08#R236; reset 0 -/
  mask      : BitVec 16 := 0
  /-- step of the disconnector, alone or within a block sequence; 08#R257; reset none -/
  dscStep   : SeqStep := .none
  /-- physical time at which that step began; 08#Table 08.9; reset 0 -/
  dscAt     : Nat := 0
  /-- physical time at which the close began, for SEQ.DSC_CLOSE_T; 08#Table 08.9; reset 0 -/
  dscFrom   : Nat := 0
  joins     : List Join := []
  /-- earliest time of the next join; 08#R244; reset 0 -/
  settleTo  : Nat := 0
  /-- physical time at which BLOCK_CLOSE requested its joins; 08#R255; reset 0 -/
  joinAt    : Nat := 0
  strs      : SMap StrSeq := []
  /-- opening switch-offs due, in order of their times; 08#R260; reset none -/
  opens     : List OpenItem := []
  /-- strings of a STRING_OPEN or BLOCK_OPEN not yet opened and weld-tested; 08#R260; reset 0 -/
  openMask  : BitVec 16 := 0
  /-- block-open current wait begun; 08#R260; reset none -/
  waitAt    : Option Nat := none
  /-- MP confirmed closed; 08#R254; reset false -/
  closed    : Bool := false
  /-- main current test due, and when MN went off; 08#R248; reset false, 0 -/
  mainTest  : Bool := false
  mainOffAt : Nat := 0
  /-- G2 in both directions after the main pair failed its test; 08#Table 08.6; reset false -/
  mainWeld  : Bool := false
  /-- 08#Table 08.12; reset unreferenced (DEDUCED: no end switch has been seen) -/
  dsc       : DscState := .unreferenced
  /-- string that joined as the lead; 08#R243; reset 0 -/
  lead      : Nat := 0
  /-- last result code; 08#Table 08.12; reset 0 -/
  last      : Nat := 0
  /-- VL when the pre-charge path came on, mV; 08#R252; reset 0 -/
  vlStart   : Int := 0
  /-- physical times: pre-charge path on, ramp begun, done window begun, PCK last off, MN on, MP on; 08#R253; reset none -/
  pathAt    : Option Nat := none
  rampAt    : Option Nat := none
  doneAt    : Option Nat := none
  pckOffAt  : Option Nat := none
  mnAt      : Option Nat := none
  mpAt      : Option Nat := none
  /-- the short check of this pre-charge was made; 08#R253; reset false -/
  shortDone : Bool := false
  /-- resistor energy, J; 08#R253; reset 0 -/
  energy    : Rat := 0
  /-- SEQ values in force for the close and for the openings under way; 08#R266; reset none -/
  par       : SMap Int := []
  openPar   : SMap Int := []
  /-- BRAKE released; 08#R257; reset false (applied) -/
  brakeOff  : Bool := false
  /-- a close of the disconnector is commanded; 07#R224; reset false -/
  closeCmd  : Bool := false
  endOpen   : Bool := false
  endClosed : Bool := false
  /-- SEQ.LOAD_ROLE words in force, by load, those not 0; 08#R233; reset none -/
  roles     : SMap Int := []
  /-- configuration judged: unconfigured strings and parts; 08#R232; reset every part unconfigured (DEDUCED: no role is
  assigned by default) -/
  cfgStr    : BitVec 16 := 0xFFFF
  cfgBlk    : Bool := true
  cfgPc     : Bool := true
  cfgDsc    : Bool := true
  deriving DecidableEq, Repr

/-! ### Load switch array (chapter 9) -/

/-- State of one load (Table 09.8). -/
inductive LoadSt where
  | off | waiting | inrush | on | hold | thermal | latched | gated | husk | disabled
  deriving DecidableEq, Repr

/-- Phase of one load (Table 09.5). -/
inductive LoadPhase where
  | normal | start | test | recovery
  deriving DecidableEq, Repr

/-- The definition and profile a load runs under from its switch-on (R272, Table 09.9). -/
structure LoadDef where
  word    : BitVec 32
  iPeak   : Nat
  tPeak   : Nat
  iSteady : Nat
  tPull   : Nat
  clampE  : Nat
  thMode  : Nat
  retryN  : Nat
  deriving DecidableEq, Repr

/-- One load (R269 to R289). -/
structure Load where
  state    : LoadSt := .disabled
  phase    : LoadPhase := .normal
  last     : Nat := 0
  /-- commanded on -/
  cmd      : Bool := false
  /-- LS on, HS due one gap later; 09#R274; reset false -/
  starting : Bool := false
  onAt     : Nat := 0
  waitAt   : Nat := 0
  test     : Bool := false
  run      : Option LoadDef := none
  duty     : Nat := 10000
  holdLow  : Bool := false
  fwMiss   : Bool := false
  restarts : Nat := 0
  /-- TH_LATCH of the load; 09#R285; reset false -/
  thLatch  : Bool := false
  /-- declared energy replaced by E_m until the next switch-off, mJ; 09#R286; reset none -/
  eMeas    : Option Nat := none
  /-- time of clearing of a thermal latch, and of the last recovery switch-on; 09#Table 09.5; reset none -/
  clearAt  : Option Nat := none
  recovAt  : Option Nat := none
  envDone  : Bool := false
  /-- waiting restart (thermal or LG_RESUME) -/
  resume   : Bool := false
  /-- a LOAD_ON of sequencing or of the thermal manager is open on this load -/
  ours     : Bool := false
  deriving DecidableEq, Repr

/-- One channel, HS or LS (R267, R282, R285). -/
structure Channel where
  on      : Bool := false
  ocLatch : Bool := false
  warm    : Bool := false
  /-- switched off, restart awaited -/
  cooling : Bool := false
  /-- junction, 0.01 °C; 09#Table 09.8; reset 2500 (DESIGN CHOICE) -/
  junct   : Int := 2500
  /-- measured current, mA; 09#R267; reset none -/
  amps    : Option Int := none
  deriving DecidableEq, Repr

/-- Load switch array (R267 to R292, R509, R513). -/
structure LoadArray where
  loads   : SMap Load := []
  hs      : SMap Channel := []
  ls      : SMap Channel := []
  /-- VLOAD, mV; 09#R268; reset 0 (DESIGN CHOICE) -/
  vload   : Nat := 0
  /-- load current at the 1 ms checks of the last 10 s, time and mA, newest first; 09#R268; reset none -/
  hist    : List (Nat × Int) := []
  overload   : Bool := false
  /-- clamp accumulator, mJ; 09#R287; reset 0 -/
  clamp   : Rat := 0
  clampAt : Nat := 0
  locked  : Bool := false
  /-- physical time of the last channel switch-on; 09#R274; reset none -/
  lastOn  : Option Nat := none
  /-- LG pins permitting; 09#R279; reset 0 (open reads low) -/
  lg      : BitVec 4 := 0
  /-- definitions in force: LSW.LOAD_DEF as resolved at COMMIT; 09#R270; reset none (disabled) -/
  defs    : SMap (BitVec 32) := []
  clock   : Bool := false
  /-- loads that wait, in the order their requests came; 09#R276; reset none -/
  queue   : List Nat := []
  deriving DecidableEq, Repr

/-! ### Control engine (chapter 10) -/

/-- State of one loop (Table 10.7). -/
inductive LoopSt where
  | off | running | held | fault | forced
  deriving DecidableEq, Repr

/-- One loop (R293 to R310). Accumulators in Q30. -/
structure Loop where
  state   : LoopSt := .off
  /-- first evaluation still due after enabling -/
  fresh   : Bool := false
  i       : Int := 0
  d       : Int := 0
  p       : Int := 0
  f       : Int := 0
  v       : Int := 0
  xPrev   : Int := 0
  u       : Int := 0
  e       : Int := 0
  y       : Int := 0
  r       : Int := 0
  /-- reference at 32-bit precision: Q15 × 2^16; 10#R303; reset 0 -/
  r32     : Int := 0
  r32Prev : Int := 0
  /-- ramp generator, Q15 × 2^16, none before enabling; 10#R303; reset 0 -/
  ramp    : Int := 0
  miss    : Bool := false
  missRun : Nat := 0
  missN   : Nat := 0
  satHi   : Bool := false
  satLo   : Bool := false
  accSat  : Bool := false
  ffInv   : Bool := false
  ffAt    : Option Nat := none
  clip    : Bool := false
  /-- applied divisor, slot, phase; 10#R294; reset 0 (not placed) -/
  div     : Nat := 0
  slot    : Nat := 0
  phase   : Nat := 0
  placed  : Bool := false
  /-- configuration in force; 10#Table 10.9; reset 0 -/
  cfg     : BitVec 32 := 0
  satRun  : Nat := 0
  /-- coefficients and setpoint latched at the last evaluation (gain words); 10#R302; reset none -/
  gains   : List Nat := []
  /-- pending setpoint of a LOOP_SET; 10#R310; reset none -/
  setp    : Option Int := none
  /-- Σ of the ticks' AI means since the previous evaluation, and their count; 10#R296; reset 0 -/
  aiSum   : Int := 0
  aiN     : Nat := 0
  deriving DecidableEq, Repr

/-- One trace buffer (R311, Table 17.5). -/
structure Trace where
  state  : BufState := .idle
  /-- words with their times, newest first; 10#R311; reset empty -/
  data   : List (Nat × BitVec 32) := []
  loop   : Nat := 0
  sigs   : Nat := 0
  n      : Nat := 1
  trig   : Nat := 0
  preN   : Nat := 0
  count  : Nat := 0
  source : Nat := 0
  trigAt : Nat := 0
  post   : Nat := 0
  freeze : Nat := 0
  time   : Nat := 0
  lost   : Bool := false
  later  : Bool := false
  deriving DecidableEq, Repr

/-- Control engine (R293 to R313). -/
structure Control where
  tick    : Nat := 0
  loops   : SMap Loop := []
  /-- PW duty counts: shadow and in effect; 10#R297; reset 0 -/
  pwNext  : SMap Nat := []
  pw      : SMap Nat := []
  /-- DA codes; 10#R297; reset 0 -/
  da      : SMap Nat := []
  /-- PW outputs gated off by the Husk or a Pod fault; 10#R307; reset none -/
  gated   : List Nat := []
  podGate : List Nat := []
  /-- AI0 to AI7 at the last tick: newest conversions and means since the tick before, Q15; 10#R296; reset 0 -/
  ai      : List Int := []
  aiMean  : List Int := []
  traces  : SMap Trace := []
  /-- number of the PW period under way, by output; 10#R297; reset 0 -/
  pwPer   : SMap Nat := []
  deriving DecidableEq, Repr

/-! ### Position (chapter 11) -/

/-- Lock state of a channel (Table 11.6). -/
inductive LockSt where
  | disabled | acquiring | locked | lost
  deriving DecidableEq, Repr

/-- One compare entry's running state (R326). -/
structure CmpEntry where
  /-- window: the position is inside; 11#R326; reset false -/
  inside : Bool := false
  /-- CMP_STATE: the window is active or a pulse is being output; 11#Table 11.6; reset false -/
  active : Bool := false
  /-- pulse: armed to fire; 11#R326; reset true -/
  ready  : Bool := true
  /-- side the position is on, or started from while not armed: at or above POS.CMP_POS_A; 11#R326; reset false -/
  above  : Bool := false
  deriving DecidableEq, Repr

/-- One position channel (R314 to R333). -/
structure PosChan where
  /-- 11#R318; reset disabled -/
  lock    : LockSt := .disabled
  /-- 11#R320; reset false -/
  ref     : Bool := false
  /-- position in lines, speed in lines per second; 11#R316; reset 0 -/
  theta   : Rat := 0
  omega   : Rat := 0
  /-- tracking error of the last sample, lines; 11#R316; reset 0 -/
  err     : Rat := 0
  /-- square of the vector magnitude of the last sample, (0.1 mV)²; 11#R316; reset 0 -/
  mag2    : Rat := 0
  /-- offset that references added to the count; 11#R322; reset 0 -/
  offset  : Int := 0
  /-- position count, 32-bit signed; 11#R315; reset 0 -/
  count   : Int := 0
  /-- consecutive good samples towards lock; 11#R318; reset 0 -/
  good    : Nat := 0
  /-- consecutive samples out of the vector's band, and of the error's; 11#R319; reset 0 -/
  badMag  : Nat := 0
  badErr  : Nat := 0
  /-- LOSS_COUNT, 16-bit saturating; 11#Table 11.6; reset 0 -/
  losses  : Nat := 0
  /-- 11#R320; reset false -/
  spdValid : Bool := false
  /-- 11#R319; reset false -/
  extrap  : Bool := false
  /-- physical time of the last lock loss; 11#R319; reset none -/
  lossAt  : Option Nat := none
  /-- reported speed, 0.01 °/s, 32-bit signed; 11#R317; reset 0 -/
  speed   : Int := 0
  lowSpd  : Bool := false
  dirChg  : Bool := false
  /-- last timed interval in 6.25 ns and its direction; 11#R317; reset none -/
  timed   : Option (Nat × Bool) := none
  /-- physical time and direction of the last quadrant crossing; 11#R317; reset none -/
  crossAt : Option Nat := none
  crossUp : Bool := false
  /-- 11#R322; reset false -/
  armed   : Bool := false
  /-- last reference correction, counts; 11#Table 11.6; reset 0 -/
  idxLast : Int := 0
  /-- quadrant of the line angle, 0 to 3; 11#R322; reset 0 -/
  quad    : Nat := 0
  /-- running state of the entries in force; 11#R326; reset none -/
  entries : SMap CmpEntry := []
  /-- CMP_SUPP; 11#R325; reset true -/
  supp    : Bool := true
  /-- most-open position since close stopped being permitted, counts; 11#R324; reset none -/
  mostOpen : Option Int := none
  /-- since when the speed is below POS.LOW_SPD; 11#R332; reset none -/
  slowAt  : Option Nat := none
  deriving DecidableEq, Repr

/-- Position feedback (R314 to R333). -/
structure Position where
  chans   : SMap PosChan := []
  /-- pulse under way on CMP0, CMP1: the physical time of its end; 11#R327; reset none -/
  pulses  : SMap Nat := []
  /-- compare entries in force: by channel × 16 + entry; control word, A and B in 0.01°; 11#R333; reset none -/
  table   : SMap (BitVec 32 × Int × Int) := []
  /-- END_BOTH; 11#R321; reset false -/
  endBoth : Bool := false
  /-- SLP_VIOL as delivered to the Husk; 11#R324; reset false -/
  slp     : Bool := false
  /-- quadrature output: counts owed, edges pending, phase 0 to 3, last edge; 11#R329; reset 0 -/
  qoAcc   : Int := 0
  qoPend  : Int := 0
  qoPhase : Nat := 0
  qoAt    : Nat := 0
  qoOvr   : Bool := false
  deriving DecidableEq, Repr

/-! ### Thermal (chapter 12) -/

/-- A module sensor as judged (R335). -/
structure Sensor where
  code   : Int := 0x7FFF
  prev   : Option Int := none
  goodAt : Option Nat := none
  bad    : Bool := false
  /-- plausible readings of the last 60 s: time and code, newest first; 12#R339; reset empty -/
  hist   : List (Nat × Int) := []
  /-- physical time of its last read; 12#Table 12.1; reset none -/
  at_    : Option Nat := none
  deriving DecidableEq, Repr

/-- An actuator entry or module level (R344, R345). -/
structure Entry where
  active  : Bool := false
  since   : Option Nat := none
  toggles : List Nat := []
  hover   : Bool := false
  /-- aggregated input of the last evaluation; 12#R343; reset hottest -/
  input   : Int := 0x7FFF
  /-- held by R346; 12#R346; reset false -/
  blocked : Bool := false
  /-- the last LOAD_ON of its load failed; 12#R347; reset false -/
  failed  : Bool := false
  /-- physical time of that failure; 12#R347; reset none -/
  failedAt : Option Nat := none
  /-- a retry cancelled by a Pod restart is due at the next evaluation; 12#R348; reset false -/
  reissue : Bool := false
  deriving DecidableEq, Repr

/-- Thermal manager (R334 to R351). -/
structure Thermal where
  /-- sensors 0 TS_DIE, 1 TS_HV, 2 TS_AON, 3 TS_BASE_A, 4 TS_BASE_B; 12#Table 12.1; reset hottest -/
  sensors : SMap Sensor := []
  /-- levels 0 base warning, 1 die warning, 2 base stop, 3 die stop; 12#Table 12.2; reset left -/
  levels  : SMap Entry := []
  entries : SMap Entry := []
  /-- definitions in force: THM.ACT_DEF as resolved at COMMIT; 12#R342; reset none -/
  defs    : SMap (BitVec 32) := []
  stop    : Bool := false
  fast    : Bool := false
  tPred   : Option Nat := none
  lastRead : Option Nat := none
  deriving DecidableEq, Repr

/-! ### Ledger and timebase (chapter 17) -/

/-- One event FIFO entry (R472, R473). -/
structure Event where
  type    : Nat
  srcKind : Nat
  source  : Nat
  cls     : Nat
  time    : Nat
  last    : Nat
  count   : Nat
  countSat : Bool
  quality : Nat
  sidx    : Nat
  sidxEp  : Nat
  payload : Bytes
  reserved : Bool
  /-- physical time of the first occurrence, for LOG.COALESCE_T -/
  at_     : Nat
  deriving DecidableEq, Repr

/-- One ledger record (Table 17.2), its slot marked torn where it is. -/
structure Record where
  seq     : Nat
  time    : Nat
  dtLast  : Nat
  count   : Nat
  epoch   : Nat
  type    : Nat
  source  : Nat
  srcKind : Nat
  kind    : Nat
  flags   : BitVec 8
  sidxEp  : Nat
  sidx    : Nat
  payload : Bytes
  torn    : Bool
  deriving DecidableEq, Repr

/-- Discipline state of the timebase (Table 17.7). -/
inductive TimeSt where
  | free | acquiring | locked | holdover | beyond
  deriving DecidableEq, Repr

/-- Ledger, timebase and discipline (R464 to R487). -/
structure Ledger where
  fifo    : List Event := []
  /-- ledger records, oldest first, at most 16,384; 17#R475; reset empty -/
  records : List Record := []
  /-- last committed SEQ, 32-bit; 17#R475; reset 0 -/
  seq     : Nat := 0
  acked   : Nat := 0
  /-- drops per class with first and last times; 17#R474; reset none -/
  drops   : List Nat := [0, 0, 0, 0]
  dropAt  : Option (Nat × Nat) := none
  lostAt  : Option Nat := none
  holdFull : Bool := false
  overwritten : Nat := 0
  fillWarn : Bool := false
  /-- event types of a class above LOG.CLASS_MAX, counted per type; 17#R471; reset none -/
  hidden  : SMap Nat := []
  /-- SEQ of the slot being written when the Pod halted; a commit is one step here, so none is set (log 13);
  17#R477; reset none -/
  writing : Option Nat := none
  deriving DecidableEq, Repr

/-- Timebase (R464 to R470). -/
structure Timebase where
  /-- 64-bit ns counter; 17#R464; reset 0 -/
  ns      : Nat := 0
  /-- 32-bit fraction of a ns; 17#R464; reset 0 -/
  frac    : Nat := 0
  /-- addend per 400 MHz cycle, 2^-32 ns; 17#R464; reset 2.5 ns -/
  addend  : Nat := 10737418240
  run     : Bool := false
  tai     : Bool := false
  state   : TimeSt := .free
  /-- 0 none, 1 PTP, 2 site ring; 17#Table 17.7; reset 0 -/
  source  : Nat := 0
  steps   : Nat := 0
  offset  : Int := 0
  rate    : Int := 0
  /-- servo integral, ppb; 17#R468; reset 0 -/
  integ   : Int := 0
  /-- messages of PTP and of the ring in a row whose offset stayed in its band, up to 16, and the offset the band lies
  about before the first lock; 17#R468; reset 0 -/
  ptpGood : Nat := 0
  ringGood : Nat := 0
  ptpRef  : Int := 0
  ringRef : Int := 0
  /-- physical time at which holdover began; 17#R466; reset none -/
  holdAt  : Option Nat := none
  master  : Nat := 0
  path    : Nat := 0
  degraded : Bool := false
  /-- last SYNC number passed on; 17#R470; reset none -/
  syncNum : Option Nat := none
  sendNum : Nat := 0
  /-- physical times of the last SYNC sent, the last delay request and the last SYNC taken; 17#R470; reset none -/
  sendAt  : Option Nat := none
  xchAt   : Option Nat := none
  syncAt  : Option Nat := none
  /-- link-delay exchanges: number, t1 sent, last 16 delays; 17#R470; reset none -/
  xchNum  : Nat := 0
  xchT1   : Option Nat := none
  delays  : List Nat := []
  deriving DecidableEq, Repr

/-! ### Transfers (chapter 16) -/

/-- An image held for reads (R457). -/
structure Image where
  data   : Bytes
  freeze : Nat
  lastAt : Nat
  deriving DecidableEq, Repr

/-- A write transfer in progress (R458). -/
structure Transfer where
  port    : Port
  session : Nat
  total   : Nat
  data    : Bytes
  lastAt  : Nat
  deriving DecidableEq, Repr

/-- Chunked transfers (R456 to R459). -/
structure Transfers where
  cfgImage  : Option Image := none
  cfgWrite  : Option Transfer := none
  snapImage : Option Image := none
  snapWrite : Option Transfer := none
  /-- assembly count, 32-bit; 16#R457; reset 0 -/
  assembly  : Nat := 0
  /-- freeze number last given to a buffer, 32-bit, never 0; 17#R483; reset 0 -/
  freezes   : Nat := 0
  deriving DecidableEq, Repr

/-- The module. -/
structure State where
  /-- physical time, ns since the model began; the model's own field (log 3); reset 0 -/
  phys : Nat := 0
  /-- count of free values drawn; the model's own field (log 4); reset 0 -/
  free : Nat := 0
  pow  : Power := {}
  pod  : Pod := {}
  par  : Params := {}
  hub  : Hub := {}
  chn  : Chain := {}
  met  : Metrology := {}
  est  : Est := {}
  imp  : Imp := {}
  husk : Husk := {}
  prt  : Grades := {}
  seq  : Seq := {}
  lsw  : LoadArray := {}
  ctl  : Control := {}
  pos  : Position := {}
  thm  : Thermal := {}
  log  : Ledger := {}
  tb   : Timebase := {}
  xfer : Transfers := {}
  /-- commands waiting, first in, first out; the model's own field; reset empty -/
  pending : List Instr := []
  deriving DecidableEq, Repr

/-- The module before its always-on domain is first supplied: every rail off, no always-on state, parameters at their
defaults (R22), nothing waiting (log 1). -/
def State.reset : State := {}

/-- What a command's meaning answers. -/
abbrev Out := Host.Outcome State Fault Refusal

end Sys2Proof.Machine
end

