-- ==== Sys2Proof/Machine/Ops.lean ====
section
/-!
DEFINITION. The named operations every family shares: sparse maps, byte fields, bit fields, checks (CRC), memory cells,
physical time and the timebase, and free values.
-/
namespace Sys2Proof.Machine
open Sys2Proof

/-! ### Sparse maps -/

/-- The entry of key `k`, if the map lists one. -/
def mfind {α : Type} : SMap α → Nat → Option α
  | [], _ => none
  | (k', v) :: m, k => if k' = k then some v else mfind m k

/-- The entry of key `k`, or `d` where the map lists none. -/
def mget {α : Type} (d : α) (m : SMap α) (k : Nat) : α := (mfind m k).getD d

/-- The map with `v` at key `k`, keys kept in strictly rising order. -/
def mput {α : Type} : SMap α → Nat → α → SMap α
  | [], k, v => [(k, v)]
  | (k', v') :: m, k, v =>
    if k < k' then (k, v) :: (k', v') :: m
    else if k = k' then (k, v) :: m
    else (k', v') :: mput m k v

/-- The map without key `k`. -/
def mdel {α : Type} : SMap α → Nat → SMap α
  | [], _ => []
  | (k', v') :: m, k => if k' = k then m else (k', v') :: mdel m k

/-- The map with the entry of key `k` changed by `f`, starting from `d` where none is listed. -/
def mmod {α : Type} (d : α) (m : SMap α) (k : Nat) (f : α → α) : SMap α := mput m k (f (mget d m k))

/-- The keys of a map. -/
def mkeys {α : Type} (m : SMap α) : List Nat := m.map (·.1)

/-- Every entry changed by `f`, keys as they are. -/
def mmap {α : Type} (f : Nat → α → α) (m : SMap α) : SMap α := m.map fun e => (e.1, f e.1 e.2)

/-- Keys strictly rising. -/
def mrising : List Nat → Bool
  | [] => true
  | [_] => true
  | a :: b :: l => decide (a < b) && mrising (b :: l)

/-- The canonical form of a sparse map. -/
def mwf {α : Type} (m : SMap α) : Bool := mrising (mkeys m)

/-! ### Memory cells: OTP and the patch region (Tables 13.5 and 13.7) -/

/-- What a byte of OTP or of the patch region that no cell lists reads as: an antifuse not programmed reads 0
(R371), and the patch region is cleared by the March test (R370). -/
def cellBlank : Byte := 0

/-- The byte at address `a`. -/
def cellRead (m : List Host.Cell) (a : Nat) : Byte := mget cellBlank m a

/-- The memory with `b` at address `a`: a blank byte lists no entry. -/
def cellWrite (m : List Host.Cell) (a : Nat) (b : Byte) : List Host.Cell :=
  if b = cellBlank then mdel m a else mput m a b

/-- `n` bytes from address `a`. -/
def cellReads (m : List Host.Cell) (a n : Nat) : Bytes := (List.range n).map fun i => cellRead m (a + i)

/-- The memory with the bytes `bs` from address `a` on. -/
def cellWrites (m : List Host.Cell) (a : Nat) : Bytes → List Host.Cell
  | [] => m
  | b :: bs => cellWrites (cellWrite m a b) (a + 1) bs

/-- Canonical form of a memory: addresses strictly rising, and no entry equal to what an unlisted address reads as. -/
def Memory.wf (m : List Host.Cell) : Bool := mwf m && m.all fun c => c.2 != cellBlank

/-! ### Numbers and fields -/

/-- Bits [hi:lo] of `n`. -/
def bits (n hi lo : Nat) : Nat := n / 2 ^ lo % 2 ^ (hi + 1 - lo)

/-- Bit `i` of `n`. -/
def bit (n i : Nat) : Bool := n / 2 ^ i % 2 = 1

/-- 1 for true. -/
def b2n (b : Bool) : Nat := if b then 1 else 0

/-- A number placed at bit `lo` of a word, limited to `w` bits. -/
def fld (w lo n : Nat) : Nat := n % 2 ^ w * 2 ^ lo

/-- A value limited to `lo` to `hi`. -/
def clampI (lo hi x : Int) : Int := if x < lo then lo else if hi < x then hi else x

/-- A natural value limited to `hi`. -/
def satN (hi n : Nat) : Nat := if hi < n then hi else n

/-- One more, saturating at 0xFFFF (R440, Table 17.6). -/
def inc16 (n : Nat) : Nat := if n < 0xFFFF then n + 1 else 0xFFFF

/-- One more, saturating at 0xFFFF_FFFF. -/
def inc32 (n : Nat) : Nat := if n < 0xFFFFFFFF then n + 1 else 0xFFFFFFFF

/-- Two's complement code of `x` in `w` bits. -/
def code (w : Nat) (x : Int) : Nat := (x % (2 ^ w : Int)).toNat

/-- The signed value of a `w`-bit code. -/
def signed (w n : Nat) : Int := if n % 2 ^ w < 2 ^ (w - 1) then (n % 2 ^ w : Nat) else (n % 2 ^ w : Nat) - (2 ^ w : Int)

/-- Division of integers rounded to nearest, halves away from zero (R6); 0 where the divisor is 0. -/
def divRound (a b : Int) : Int :=
  if b = 0 then 0
  else
    let q := (2 * a.natAbs + b.natAbs) / (2 * b.natAbs)
    if (a < 0) = (b < 0) then (q : Int) else -(q : Int)

/-- Division of naturals rounded to nearest, halves up (R6); 0 where the divisor is 0. -/
def natRound (a b : Nat) : Nat := if b = 0 then 0 else (2 * a + b) / (2 * b)

/-- A rational rounded to the nearest integer, halves away from zero (R6). -/
def ratRound (x : Rat) : Int := divRound x.num (x.den : Int)

/-- Absolute value of a rational. -/
def ratAbs (x : Rat) : Rat := if x < 0 then -x else x

/-- The smaller and the larger of two rationals. -/
def ratMin (x y : Rat) : Rat := if x ≤ y then x else y
def ratMax (x y : Rat) : Rat := if x ≤ y then y else x

/-- A 32-bit current code (Table 00.5): NA is 0x8000_0000, values saturate (R6). -/
def currentCode : Option Int → Nat
  | none => 0x80000000
  | some x => code 32 (clampI (-0x7FFFFFFF) 0x7FFFFFFF x)

/-- A 32-bit bus voltage code (Table 00.5): NA is 0xFFFF_FFFF. -/
def busCode : Option Int → Nat
  | none => 0xFFFFFFFF
  | some x => (clampI 0 0xFFFFFFFE x).toNat

/-- A signed 32-bit code of a value that no code marks as absent, saturated (R6). -/
def signedCode (x : Int) : Nat := code 32 (clampI (-0x80000000) 0x7FFFFFFF x)

/-- A temperature code saturated to the valid codes (R6). -/
def tempSat (x : Int) : Int := clampI (-32767) 32766 x

/-- `x` placed before the first element of a list that is not below it by `f`. -/
def insertBy {α : Type} (f : α → Nat) (x : α) : List α → List α
  | [] => [x]
  | y :: ys => if f x ≤ f y then x :: y :: ys else y :: insertBy f x ys

/-- The list in rising order of `f`, equal elements in their order. -/
def sortBy {α : Type} (f : α → Nat) : List α → List α
  | [] => []
  | x :: xs => insertBy f x (sortBy f xs)

/-- Positions of the set bits of `n` below `w`, ascending. -/
def setBits (w n : Nat) : List Nat := (List.range w).filter (bit n ·)

/-- The mask with the listed bits set. -/
def maskOf (l : List Nat) : Nat := l.eraseDups.foldl (fun m i => m + 2 ^ i) 0

/-! ### Byte fields (R9) -/

/-- `n` in `w` bytes, little-endian. -/
def le : Nat → Nat → Bytes
  | 0, _ => []
  | w + 1, n => BitVec.ofNat 8 n :: le w (n / 256)

/-- `n` in `w` bytes, big-endian. -/
def be (w n : Nat) : Bytes := (le w n).reverse

/-- The number little-endian bytes spell. -/
def leNat : Bytes → Nat
  | [] => 0
  | b :: bs => b.toNat + 256 * leNat bs

/-- The number big-endian bytes spell. -/
def beNat (bs : Bytes) : Nat := leNat bs.reverse

/-- `n` bytes from offset `o` of `bs`, with zero bytes where it is shorter (R426). -/
def field (bs : Bytes) (o n : Nat) : Bytes := (List.range n).map fun i => bs.getD (o + i) 0

/-- The little-endian number in `n` bytes from offset `o` of `bs`, short payloads extended with zeros (R426). -/
def num (bs : Bytes) (o n : Nat) : Nat := leNat (field bs o n)

/-- `bs` cut or extended with zeros to `n` bytes. -/
def sized (n : Nat) (bs : Bytes) : Bytes := field bs 0 n

/-- 32-bit words as bytes. -/
def words (ws : List Nat) : Bytes := ws.flatMap (le 4)

/-- ASCII bytes of a string. -/
def ascii (t : String) : Bytes := t.toList.map fun c => BitVec.ofNat 8 c.toNat

/-! ### Checks -/

/-- One bit step of CRC-16/CCITT-FALSE (R55). -/
def crc16Bit (r : Nat) : Nat → Nat
  | 0 => r
  | n + 1 => crc16Bit (if bit r 15 then (r * 2 % 65536) ^^^ 0x1021 else r * 2 % 65536) n

/-- CRC-16/CCITT-FALSE from register value `r` (R55). -/
def crc16From (r : Nat) : Bytes → Nat
  | [] => r
  | b :: bs => crc16From (crc16Bit (r ^^^ (b.toNat * 256)) 8) bs

/-- CRC-16/CCITT-FALSE: polynomial 0x1021, initial value 0xFFFF, no reflection, no final XOR (R55). -/
def crc16 (bs : Bytes) : Nat := crc16From 0xFFFF bs

/-- One bit step of the reflected CRC-32 (R172). -/
def crc32Bit (r : Nat) : Nat → Nat
  | 0 => r
  | n + 1 => crc32Bit (if bit r 0 then (r / 2) ^^^ 0xEDB88320 else r / 2) n

/-- CRC-32 from register value `r`. -/
def crc32From (r : Nat) : Bytes → Nat
  | [] => r
  | b :: bs => crc32From (crc32Bit (r ^^^ b.toNat) 8) bs

/-- CRC-32 with the IEEE 802.3 polynomial (R172): initial value and final XOR 0xFFFF_FFFF, reflected. -/
def crc32 (bs : Bytes) : Nat := crc32From 0xFFFFFFFF bs ^^^ 0xFFFFFFFF

/-! ### Physical time, the timebase and the always-on clock -/

/-- 400 MHz cycles completed at physical time `t` ns: one per 2.5 ns (R464, log 3). -/
def cyclesAt (t : Nat) : Nat := t * 2 / 5

/-- The timebase after `n` cycles: each adds the addend to the 64-bit ns counter with its 32-bit fraction (R464). -/
def Timebase.after (t : Timebase) (n : Nat) : Timebase :=
  if t.run then
    let x := t.ns * 4294967296 + t.frac + n * t.addend
    { t with ns := x / 4294967296 % 2 ^ 64, frac := x % 4294967296 }
  else t

/-- The always-on seconds count after `dt` ns, where its crystal runs (R393, Table 14.11). -/
def Power.after (p : Power) (dt : Nat) : Power :=
  if p.aonClock then
    let x := p.aonFrac + dt
    { p with aonSeconds := satN 0xFFFFFFFF (p.aonSeconds + x / 1000000000), aonFrac := x % 1000000000 }
  else p

/-- Time passes: what every command does before its own effect (log 3). -/
def advance (dt : Nat) (s : State) : State :=
  { s with
    phys := s.phys + dt
    tb := s.tb.after (cyclesAt (s.phys + dt) - cyclesAt s.phys)
    pow := s.pow.after dt }

/-- ns per ms and per s. -/
abbrev msNs : Nat := 1000000
abbrev secNs : Nat := 1000000000

/-- Physical time since `t`, ns. -/
def since (s : State) (t : Nat) : Nat := s.phys - t

/-- At least `n` ns have passed since `t`, where there is a `t`. -/
def passed (s : State) (t : Option Nat) (n : Nat) : Bool :=
  match t with
  | none => false
  | some t => decide (n ≤ s.phys - t)

/-- What is done every `n` ns is due: it was last done that long ago, or has not been done. -/
def dueAfter (s : State) (n : Nat) : Option Nat → Bool
  | none => true
  | some t => decide (n ≤ s.phys - t)

/-- Start of a duration: kept where it runs, begun now where the condition newly holds, none where it does not. -/
def running (s : State) (holds : Bool) (t : Option Nat) : Option Nat :=
  if holds then some (t.getD s.phys) else none

/-! ### Free values -/

/-- The state after one free value has been drawn (log 4). -/
def drawn (s : State) : State := { s with free := s.free + 1 }

/-! ### Chain addresses (R11) -/

/-- Ring and hop of a node address, node and position of a cell, node of a temperature input. -/
def ringOf (node : Nat) : Nat := node / 64
def hopOf (node : Nat) : Nat := node % 64
def nodeOfCell (c : Nat) : Nat := c / 18
def posOfCell (c : Nat) : Nat := c % 18
def nodeOfTemp (t : Nat) : Nat := t / 8
def cellsOfNode (node : Nat) : List Nat := (List.range 18).map (node * 18 + ·)
def tempsOfNode (node : Nat) : List Nat := (List.range 8).map (node * 8 + ·)

/-- Code of a port (Table 15.1). -/
def portCode : Port → Nat
  | .A => 0 | .B => 1 | .E => 2 | .S => 3 | .P => 4

end Sys2Proof.Machine
end

