-- ==== Sys2Proof/Machine/Crypto.lean ====
section
/-!
DEFINITION. The cryptographic functions the manual names by their standards: SHA-256 (FIPS 180-4), HMAC-SHA-256 and ECDSA
P-256 verification (FIPS 186-5). The standards' own constants and formulas are PRESUMED (log 10).
-/
namespace Sys2Proof.Machine
open Sys2Proof

/-! ### SHA-256 -/

/-- Initial hash value: FIPS 180-4, 5.3.3. -/
def shaInit : List Nat :=
  [0x6A09E667, 0xBB67AE85, 0x3C6EF372, 0xA54FF53A, 0x510E527F, 0x9B05688C, 0x1F83D9AB, 0x5BE0CD19]

/-- Round constants: FIPS 180-4, 4.2.2. -/
def shaK : List Nat :=
  [0x428A2F98, 0x71374491, 0xB5C0FBCF, 0xE9B5DBA5, 0x3956C25B, 0x59F111F1, 0x923F82A4, 0xAB1C5ED5]
  ++ [0xD807AA98, 0x12835B01, 0x243185BE, 0x550C7DC3, 0x72BE5D74, 0x80DEB1FE, 0x9BDC06A7, 0xC19BF174]
  ++ [0xE49B69C1, 0xEFBE4786, 0x0FC19DC6, 0x240CA1CC, 0x2DE92C6F, 0x4A7484AA, 0x5CB0A9DC, 0x76F988DA]
  ++ [0x983E5152, 0xA831C66D, 0xB00327C8, 0xBF597FC7, 0xC6E00BF3, 0xD5A79147, 0x06CA6351, 0x14292967]
  ++ [0x27B70A85, 0x2E1B2138, 0x4D2C6DFC, 0x53380D13, 0x650A7354, 0x766A0ABB, 0x81C2C92E, 0x92722C85]
  ++ [0xA2BFE8A1, 0xA81A664B, 0xC24B8B70, 0xC76C51A3, 0xD192E819, 0xD6990624, 0xF40E3585, 0x106AA070]
  ++ [0x19A4C116, 0x1E376C08, 0x2748774C, 0x34B0BCB5, 0x391C0CB3, 0x4ED8AA4A, 0x5B9CCA4F, 0x682E6FF3]
  ++ [0x748F82EE, 0x78A5636F, 0x84C87814, 0x8CC70208, 0x90BEFFFA, 0xA4506CEB, 0xBEF9A3F7, 0xC67178F2]

/-- 32-bit rotation right. -/
def rotr (n x : Nat) : Nat := x / 2 ^ n ||| x * 2 ^ (32 - n) % 4294967296

/-- Sum modulo 2^32. -/
def add32 (x y : Nat) : Nat := (x + y) % 4294967296

/-- The message schedule from its last 16 words, oldest first, `n` more words. -/
def shaSchedule (w : List Nat) : Nat → List Nat
  | 0 => w
  | n + 1 =>
    let l := w.length
    let w2 := w.getD (l - 2) 0
    let w7 := w.getD (l - 7) 0
    let w15 := w.getD (l - 15) 0
    let w16 := w.getD (l - 16) 0
    let s0 := rotr 7 w15 ^^^ rotr 18 w15 ^^^ w15 / 8
    let s1 := rotr 17 w2 ^^^ rotr 19 w2 ^^^ w2 / 1024
    shaSchedule (w ++ [add32 (add32 s1 w7) (add32 s0 w16)]) n

/-- One round on the eight working variables. -/
def shaRound (v : List Nat) (kw : Nat) : List Nat :=
  match v with
  | [a, b, c, d, e, f, g, h] =>
    let s1 := rotr 6 e ^^^ rotr 11 e ^^^ rotr 25 e
    let ch := (e &&& f) ^^^ ((4294967295 ^^^ e) &&& g)
    let t1 := add32 (add32 (add32 h s1) ch) kw
    let s0 := rotr 2 a ^^^ rotr 13 a ^^^ rotr 22 a
    let mj := (a &&& b) ^^^ (a &&& c) ^^^ (b &&& c)
    [add32 t1 (add32 s0 mj), a, b, c, add32 d t1, e, f, g]
  | _ => v

/-- The hash value after one 64-byte block. -/
def shaBlock (h : List Nat) (block : Bytes) : List Nat :=
  let w0 := (List.range 16).map fun i => beNat (field block (4 * i) 4)
  let w := shaSchedule w0 48
  let v := (List.zipWith add32 shaK w).foldl shaRound h
  List.zipWith add32 h v

/-- `n` blocks of a padded message. -/
def shaBlocks (h : List Nat) (m : Bytes) : Nat → List Nat
  | 0 => h
  | n + 1 => shaBlocks (shaBlock h (m.take 64)) (m.drop 64) n

/-- SHA-256 digest, 32 bytes. -/
def sha256 (m : Bytes) : Bytes :=
  let zeros := (119 - m.length % 64) % 64
  let p := m ++ [0x80] ++ List.replicate zeros 0 ++ be 8 (8 * m.length)
  (shaBlocks shaInit p (p.length / 64)).flatMap (be 4)

/-- HMAC-SHA-256 under a key of at most 64 bytes. -/
def hmac (key m : Bytes) : Bytes :=
  let k := sized 64 key
  sha256 ((k.map (· ^^^ 0x5C)) ++ sha256 ((k.map (· ^^^ 0x36)) ++ m))

/-! ### ECDSA P-256 -/

/-- Field prime, group order and coefficients of P-256. -/
def p256p : Nat := 0xFFFFFFFF00000001000000000000000000000000FFFFFFFFFFFFFFFFFFFFFFFF
def p256n : Nat := 0xFFFFFFFF00000000FFFFFFFFFFFFFFFFBCE6FAADA7179E84F3B9CAC2FC632551
def p256b : Nat := 0x5AC635D8AA3A93E7B3EBBD55769886BC651D06B0CC53B0F63BCE3C3E27D2604B
def p256gx : Nat := 0x6B17D1F2E12C4247F8BCE6E563A440F277037D812DEB33A0F4A13945D898C296
def p256gy : Nat := 0x4FE342E2FE1A7F9B8EE7EB4A7C0F9E162BCE33576B315ECECBB6406837BF51F5

/-- `x ^ e` modulo `m`, over `n` bits of `e`. -/
def powMod (m x e : Nat) : Nat → Nat
  | 0 => 1 % m
  | n + 1 =>
    let r := powMod m (x * x % m) (e / 2) n
    if e % 2 = 1 then r * x % m else r

/-- Inverse modulo a prime below 2^256. -/
def invMod (m x : Nat) : Nat := powMod m (x % m) (m - 2) 256

/-- Sum of two curve points, `none` the point at infinity. -/
def ecAdd (a b : Option (Nat × Nat)) : Option (Nat × Nat) :=
  match a, b with
  | none, q => q
  | q, none => q
  | some (x1, y1), some (x2, y2) =>
    if x1 = x2 ∧ (y1 + y2) % p256p = 0 then none
    else
      let l :=
        if x1 = x2 then (3 * x1 * x1 + (p256p - 3)) * invMod p256p (2 * y1) % p256p
        else (y2 + p256p - y1) * invMod p256p (x2 + p256p - x1) % p256p
      let x3 := (l * l + 2 * p256p - x1 - x2) % p256p
      let y3 := (l * (x1 + p256p - x3) + p256p - y1) % p256p
      some (x3, y3)

/-- `k` times a point, over `n` bits of `k`. -/
def ecMul (k : Nat) (q : Option (Nat × Nat)) : Nat → Option (Nat × Nat)
  | 0 => none
  | n + 1 =>
    let r := ecMul (k / 2) (ecAdd q q) n
    if k % 2 = 1 then ecAdd r q else r

/-- The point is on the curve and its coordinates are reduced. -/
def onCurve (x y : Nat) : Bool :=
  decide (x < p256p) && decide (y < p256p) &&
  (y * y % p256p == (x * x * x + (p256p - 3) * x + p256b) % p256p)

/-- ECDSA P-256 verification of signature (r, s) over a SHA-256 digest under a public key. -/
def ecdsaVerify (x y r s : Nat) (digest : Bytes) : Bool :=
  if onCurve x y && decide (0 < r) && decide (r < p256n) && decide (0 < s) && decide (s < p256n) then
    let w := invMod p256n s
    let z := beNat digest
    let u1 := z * w % p256n
    let u2 := r * w % p256n
    match ecAdd (ecMul u1 (some (p256gx, p256gy)) 256) (ecMul u2 (some (x, y)) 256) with
    | none => false
    | some (vx, _) => vx % p256n == r
  else false

end Sys2Proof.Machine
end

