-- ==== Sys2Proof/Machine/Events.lean ====
section
/-!
DEFINITION. The event types the chapters name, with their groups and classes (R471). The manual lists types only through
LOG_READ mode 1, so a type's number here is the model's own; the TYPE index a record shows is Config.evIndex (log 6).
-/
namespace Sys2Proof.Machine
open Sys2Proof

/-- Names of the Husk sources 0 to 26 (Table 07.1). -/
def huskNames : List String :=
  ["BUS_OV", "SLC_DIS", "SLC_CHG", "BUS_DIDT", "ALM_TONE", "HLT_VHI", "HLT_VLO", "HLT_THI", "HLT_TBRK",
   "HLT_TLO", "HLT_ICHG", "HLT_IDIS", "HLT_NA", "SLD_VIOL", "SLP_VIOL", "E_STOP", "FW_OPEN_BLK", "FW_OPEN_STR",
   "FW_INH_CHG", "FW_INH_DIS", "POD_MISMATCH", "POD_DEAD", "SEQ_DEAD", "CLK_CORE", "CLK_AUX", "HV_LOST", "COMP_FAIL"]

/-- The firmware conditions of Table 07.7, in its order; OC_STR and OC_BLK stand once per grade. -/
inductive CondId where
  | cvhi1 | cvhi2 | cvlo1 | cvlo2 | cthi1 | cthi2 | ctlo | impl1 | impl2 | sum | isum1 | isum2 | nodata1 | nodata2 | ocstrg2 | ocstrg3 | ocblkg2 | ocblkg4 | ins | growth | nocomply | loss
  deriving DecidableEq, Repr

/-- Names of the firmware conditions. -/
def condNames : List String :=
  ["CV_HI1", "CV_HI2", "CV_LO1", "CV_LO2", "CT_HI1", "CT_HI2", "CT_LO", "IMPL1",
   "IMPL2", "SUM", "ISUM1", "ISUM2", "NODATA1", "NODATA2", "OC_STR_G2", "OC_STR_G3",
   "OC_BLK_G2", "OC_BLK_G4", "INS", "GROWTH", "NOCOMPLY", "LOSS"]

/-- Number of a condition. -/
def condNum : CondId → Nat
  | .cvhi1 => 0
  | .cvhi2 => 1
  | .cvlo1 => 2
  | .cvlo2 => 3
  | .cthi1 => 4
  | .cthi2 => 5
  | .ctlo => 6
  | .impl1 => 7
  | .impl2 => 8
  | .sum => 9
  | .isum1 => 10
  | .isum2 => 11
  | .nodata1 => 12
  | .nodata2 => 13
  | .ocstrg2 => 14
  | .ocstrg3 => 15
  | .ocblkg2 => 16
  | .ocblkg4 => 17
  | .ins => 18
  | .growth => 19
  | .nocomply => 20
  | .loss => 21

/-- An event type. -/
inductive Ev where
  /-- Assertion or latch of a Husk source. -/
  | husk (src : Nat)
  /-- Entry or release of a firmware condition and its grade. -/
  | cond (c : CondId)
  | faultReset
  | weld
  | podFault
  | bankFailed
  | recordLost
  | paramLost
  | thmStop
  | joinResult
  | kNoConfirm
  | stringMapFault
  | notDouble
  | vloadOver
  | loadOvercurrent
  | loadThWarn
  | loadThShutdown
  | holdLow
  | clampEHigh
  | fwMissing
  | loopFault
  | lockLoss
  | idxCorr
  | endMismatch
  | cmpFire
  | actFail
  | thmWarn
  | thmHover
  | actHover
  | sensorFault
  | auxWarn
  | battWarn
  | ringOver
  | ringNoHead
  | headConflict
  | hwCopyMismatch
  | hover
  | cellImpl
  | tempImpl
  | refImpl
  | sumFault
  | isumFault
  | balStale
  | irangeMismatch
  | calDrift
  | modulatorFailed
  | insWarn
  | capture
  | capUpdate
  | learnRejected
  | impStep
  | growthWarn
  | growthAlarm
  | outlier
  | estReinit
  | hardCe
  | ceRate
  | logFill
  | peFault
  | dlyInconsistent
  deriving DecidableEq, Repr

/-- Number (group in [15:12]), class and name of an event type. -/
def evRow : Ev → Nat × Nat × String
  | .husk n => (0x9100 + n, 0, huskNames.getD n "")
  | .cond c => (0x9200 + condNum c, 0, condNames.getD (condNum c) "")
  | .faultReset => (0x9010, 0, "FAULT_RESET")
  | .weld => (0xA011, 0, "WELD_SUSPECT")
  | .podFault => (0x2012, 0, "POD_FAULT")
  | .bankFailed => (0x2013, 0, "BANK_FAILED")
  | .recordLost => (0x2014, 0, "RECORD_LOST")
  | .paramLost => (0x2015, 0, "PARAM_LOST")
  | .thmStop => (0xE016, 0, "THM_STOP")
  | .joinResult => (0xA017, 1, "JOIN_RESULT")
  | .kNoConfirm => (0xA018, 1, "K_NO_CONFIRM")
  | .stringMapFault => (0xA019, 1, "STRING_MAP_FAULT")
  | .notDouble => (0xB01A, 1, "NOT_DOUBLE")
  | .vloadOver => (0xB01B, 1, "VLOAD_OVER")
  | .loadOvercurrent => (0xB01C, 1, "LOAD_OC")
  | .loadThWarn => (0xB01D, 1, "TH_WARN")
  | .loadThShutdown => (0xB01E, 1, "TH_SHUTDOWN")
  | .holdLow => (0xB01F, 1, "HOLD_LOW")
  | .clampEHigh => (0xB020, 1, "CLAMP_E_HIGH")
  | .fwMissing => (0xB021, 1, "FW_MISSING")
  | .loopFault => (0xC022, 1, "LOOP_FAULT")
  | .lockLoss => (0xD023, 1, "LOCK_LOSS")
  | .idxCorr => (0xD024, 1, "IDX_CORR")
  | .endMismatch => (0xD025, 1, "END_MISMATCH")
  | .cmpFire => (0xD026, 1, "CMP_EVENT")
  | .actFail => (0xE027, 1, "ACT_FAIL")
  | .thmWarn => (0xE028, 1, "THM_WARN")
  | .thmHover => (0xE029, 1, "MOD_HOVER")
  | .actHover => (0xE02A, 1, "ACT_HOVER")
  | .sensorFault => (0xE02B, 1, "SENSOR_FAULT")
  | .auxWarn => (0x102C, 1, "AUX_WARN")
  | .battWarn => (0x102D, 1, "BATT_WARN")
  | .ringOver => (0x302E, 1, "RING_OVER")
  | .ringNoHead => (0x302F, 1, "RING_NO_HEAD")
  | .headConflict => (0x3030, 1, "HEAD_CONFLICT")
  | .hwCopyMismatch => (0x2031, 1, "HW_COPY_MISMATCH")
  | .hover => (0x9032, 1, "HOVER")
  | .cellImpl => (0x5033, 2, "CELL_IMPL")
  | .tempImpl => (0x5034, 2, "TEMP_IMPL")
  | .refImpl => (0x5035, 2, "REF_IMPL")
  | .sumFault => (0x5036, 2, "SUM_FAULT")
  | .isumFault => (0x5037, 2, "ISUM_FAULT")
  | .balStale => (0x5038, 2, "BAL_STALE")
  | .irangeMismatch => (0x6039, 2, "IRANGE_MISMATCH")
  | .calDrift => (0x603A, 2, "CAL_DRIFT")
  | .modulatorFailed => (0x603B, 2, "MODULATOR_FAILED")
  | .insWarn => (0x603C, 2, "INS_WARN")
  | .capture => (0x603D, 2, "CAPTURE")
  | .capUpdate => (0x703E, 2, "CAP_UPDATE")
  | .learnRejected => (0x703F, 2, "LEARN_REJECTED")
  | .impStep => (0x8040, 2, "IMP_STEP")
  | .growthWarn => (0x8041, 2, "GROWTH_WARN")
  | .growthAlarm => (0x8042, 2, "GROWTH_ALARM")
  | .outlier => (0x8043, 2, "OUTLIER")
  | .estReinit => (0x7044, 3, "EST_REINIT")
  | .hardCe => (0x2045, 3, "HARD_CE")
  | .ceRate => (0x2046, 3, "CE_RATE")
  | .logFill => (0xF047, 3, "LOG_FILL")
  | .peFault => (0x6048, 2, "PE_FAULT")
  | .dlyInconsistent => (0x4049, 2, "DLY_INCONSISTENT")

/-- Number, class and name of an event type. -/
def evNum (e : Ev) : Nat := (evRow e).1
def evClass (e : Ev) : Nat := (evRow e).2.1
def evName (e : Ev) : String := (evRow e).2.2

/-- The types in the order the catalogue lists them, the records of kinds 0x01 to 0x07 apart. -/
def evAll : List Ev :=
  [ (List.range 27).map Ev.husk,
    [.cvhi1, .cvhi2, .cvlo1, .cvlo2, .cthi1, .cthi2, .ctlo, .impl1, .impl2, .sum, .isum1, .isum2, .nodata1, .nodata2, .ocstrg2, .ocstrg3, .ocblkg2, .ocblkg4, .ins, .growth, .nocomply, .loss].map Ev.cond,
    [.faultReset, .weld, .podFault, .bankFailed, .recordLost, .paramLost, .thmStop, .joinResult],
    [.kNoConfirm, .stringMapFault, .notDouble, .vloadOver, .loadOvercurrent, .loadThWarn, .loadThShutdown, .holdLow],
    [.clampEHigh, .fwMissing, .loopFault, .lockLoss, .idxCorr, .endMismatch, .cmpFire, .actFail],
    [.thmWarn, .thmHover, .actHover, .sensorFault, .auxWarn, .battWarn, .ringOver, .ringNoHead],
    [.headConflict, .hwCopyMismatch, .hover, .cellImpl, .tempImpl, .refImpl, .sumFault, .isumFault],
    [.balStale, .irangeMismatch, .calDrift, .modulatorFailed, .insWarn, .capture, .capUpdate, .learnRejected],
    [.impStep, .growthWarn, .growthAlarm, .outlier, .estReinit, .hardCe, .ceRate, .logFill, .peFault, .dlyInconsistent] ].flatten

end Sys2Proof.Machine
end

