-- ==== Sys2Proof/Machine/ParamTable.lean ====
section
/-!
DEFINITION. The parameter tables of the manual: one row per configuration ID, in ascending ID within its group
(Tables 02.11, 03.11, 04.9, 05.10, 06.6, 07.12, 08.13, 09.9, 10.8, 11.7, 12.6, 13.12, 14.12, 15.15, 17.9).
-/
namespace Sys2Proof.Machine
open Sys2Proof

/-- What an out-of-range or undefined value becomes (R17). -/
inductive PClamp where
  /-- To nearest limit. -/
  | nearest
  /-- An undefined code becomes the given one. -/
  | undef (code : Int)
  /-- Bits outside the mask are ignored and counted. -/
  | mask (m : Nat)
  /-- Any value stands. -/
  | whole
  /-- The entry has a rule of its own (`clampSpecial`). -/
  | special
  deriving DecidableEq, Repr

/-- One parameter: name, class (0 L, 1 S, 2 H), instance kind (Table 16.2), descriptor type (Table 16.7), signed, range,
default of instance 0, unit and clamp. -/
structure PRow where
  name  : String
  cls   : Nat
  kind  : Nat
  typ   : Nat
  sgn   : Bool
  lo    : Int
  hi    : Int
  dflt  : Int
  unit  : String
  clamp : PClamp
  deriving DecidableEq, Repr

/-- A row of a parameter table. -/
def prow (name : String) (cls kind typ : Nat) (sgn : Bool) (lo hi dflt : Int) (unit : String) (clamp : PClamp) : PRow :=
  { name, cls, kind, typ, sgn, lo, hi, dflt, unit, clamp }

/-- The SYS parameters. -/
def paramsSys : List PRow :=
  [
    prow "SYS.CLAMP_COUNT" 0 0 0 false 0 4294967295 0 "count" .special,
    prow "SYS.INSTALL_ID" 0 0 0 false 0 4294967295 0 "32-bit" .whole]

/-- The PWR parameters. -/
def paramsPwr : List PRow :=
  [
    prow "PWR.PD_OPEN" 0 0 1 false 0 1 1 "enumeration" (.undef 1),
    prow "PWR.PD_ZERO_WAIT" 0 0 0 false 0 80 50 "0.1 ms" .nearest,
    prow "PWR.PD_STAGGER" 0 0 0 false 2 10 5 "0.1 ms" .nearest,
    prow "PWR.AUX_WARN" 0 0 0 false 1450 3200 1700 "10 mV" .nearest,
    prow "PWR.BATT_WARN" 0 0 0 false 900 6000 1000 "10 mV" .nearest,
    prow "PWR.WAKE_SRC" 1 0 2 false 1 3 3 "bit per source," .special,
    prow "PWR.WAKE_IN_POL" 1 0 1 false 0 1 0 "enumeration" (.undef 0)]

/-- The POD parameters. -/
def paramsPod : List PRow :=
  [
    prow "POD.SCRUB_PERIOD" 0 0 0 false 10 3600 60 "1 s" .nearest,
    prow "POD.STL_PERIOD" 0 0 0 false 1 600 10 "1 s" .nearest,
    prow "POD.CE_EVENT_N" 0 0 0 false 1 1000 16 "corrections per" .nearest]

/-- The HOST parameters. -/
def paramsHost : List PRow :=
  [
    prow "HOST.PORT_ENABLE" 2 0 2 false 0 31 31 "bit per port, [0" .special,
    prow "HOST.ROLE_MAX" 0 8 1 false 0 2 2 "enumeration" .special,
    prow "HOST.QUOTA" 1 8 0 false 16 960 192 "entries" .nearest,
    prow "HOST.CAN_IDE" 2 9 1 false 0 1 0 "enumeration" (.undef 0),
    prow "HOST.CAN_NODE" 2 9 0 false 0 255 0 "node" .nearest,
    prow "HOST.CAN_PREFIX" 2 9 4 false 0 262143 0 "[17:0]" (.mask 0x3FFFF),
    prow "HOST.CAN_NOM_RATE" 2 9 1 false 0 2 1 "enumeration" (.undef 1),
    prow "HOST.CAN_DATA_RATE" 2 9 1 false 0 2 1 "enumeration" .special,
    prow "HOST.IP_MODE" 2 0 1 false 0 1 1 "enumeration" (.undef 1),
    prow "HOST.IP_ADDR" 2 0 5 false 0 4294967295 3232235530 "IPv4, first octe" .special,
    prow "HOST.IP_MASK" 2 0 5 false 4278190080 4294967292 4294967040 "IPv4 mask" .special,
    prow "HOST.IP_GW" 2 0 5 false 0 4294967295 0 "IPv4" .special]
  ++ [
    prow "HOST.UDP_PORT" 2 0 0 false 1024 65535 51620 "port" .nearest,
    prow "HOST.NOTICE_IP" 0 0 5 false 0 4294967295 0 "IPv4" .special,
    prow "HOST.NOTICE_UDP" 0 0 0 false 1024 65535 51621 "port" .nearest,
    prow "HOST.PTP_ENABLE" 0 0 1 false 0 1 1 "enumeration" (.undef 1),
    prow "HOST.PTP_DOMAIN" 2 0 0 false 0 127 0 "domain" .nearest,
    prow "HOST.SESSION_IDLE_T" 0 0 0 false 10 3600 300 "1 s" .nearest,
    prow "HOST.LIMIT_PERIOD" 0 0 0 false 1 100 1 "10 ms" .nearest,
    prow "HOST.LIMIT_DROP" 0 0 0 false 1 50 5 "1 % of EST.BLK_I" .nearest,
    prow "HOST.LIMIT_PORTS" 0 0 2 false 0 23 1 "bit per port, [0" (.mask 0x17)]

/-- The CHN parameters. -/
def paramsChn : List PRow :=
  [
    prow "CHN.RING_ENABLE" 2 0 2 false 0 255 255 "bit per ring, [7" (.mask 0xFF),
    prow "CHN.SCAN_RATE" 0 0 0 false 10 200 100 "1 Hz" .special,
    prow "CHN.RETRY_MAX" 0 0 0 false 0 3 2 "count" .nearest,
    prow "CHN.NODE_FAIL_N" 0 0 0 false 2 64 8 "scans" .nearest,
    prow "CHN.EXPECT_NODES" 2 7 0 false 0 64 0 "nodes" .nearest,
    prow "CHN.DLY_CHECK_TOL" 0 0 0 false 10 100 30 "1 ns" .nearest,
    prow "CHN.DRIFT_TOL" 0 0 0 false 20 150 60 "1 ns" .nearest,
    prow "CHN.DLY_TRACK" 0 0 1 false 0 1 1 "enumeration" (.undef 1),
    prow "CHN.CAL_PERIOD" 0 0 0 false 10 3600 60 "1 s" .nearest,
    prow "CHN.WRAP_RESTORE" 1 0 1 false 0 1 1 "enumeration" (.undef 0)]

/-- The ACQ parameters. -/
def paramsAcq : List PRow :=
  [
    prow "ACQ.CELL_MASK" 2 2 2 false 0 262143 262143 "bit per position" (.mask 0x3FFFF),
    prow "ACQ.TEMP_CFG" 2 3 1 false 0 5 1 "enumeration" (.undef 1),
    prow "ACQ.COARSE_RATE" 0 0 0 false 1 10 1 "1 Hz" .nearest,
    prow "ACQ.COARSE_TOL" 0 0 0 false 16 200 40 "1 mV" .nearest,
    prow "ACQ.PLAUS_N" 0 0 0 false 2 16 3 "count" .nearest,
    prow "ACQ.PLAUS_CLEAR_N" 0 0 0 false 2 255 10 "count" .nearest,
    prow "ACQ.REF_TOL" 0 0 0 false 5 100 15 "100 uV" .nearest,
    prow "ACQ.SUM_TOL" 0 0 0 false 500 20000 4000 "1 mV" .nearest,
    prow "ACQ.SUM_RPATH" 0 4 0 false 0 100000 0 "1 uOhm" .nearest,
    prow "ACQ.SUM_N" 0 0 0 false 2 50 5 "scans" .nearest,
    prow "ACQ.ISUM_ENABLE" 0 0 1 false 0 1 1 "enumeration" (.undef 1),
    prow "ACQ.ISUM_TOL" 0 0 0 false 500 50000 5000 "1 mA" .nearest]
  ++ [
    prow "ACQ.ISUM_N" 0 0 0 false 5 200 20 "chain cycles" .nearest,
    prow "ACQ.TEMP_MIN" 0 0 0 true (-5000) 0 (-4500) "0.01 degC" .nearest,
    prow "ACQ.TEMP_MAX" 0 0 0 true 8000 15000 13000 "0.01 degC" .nearest,
    prow "ACQ.TEMP_SLEW" 0 0 0 false 100 5000 500 "0.01 K/s" .nearest,
    prow "ACQ.TEMP_CLEAR_T" 0 0 0 false 1 600 10 "1 s" .nearest,
    prow "ACQ.SSAUX_RATE" 0 0 0 false 10 100 100 "1 Hz" .nearest,
    prow "ACQ.HLT_V_HI" 0 1 0 false 10000 50000 42500 "100 uV" .nearest,
    prow "ACQ.HLT_V_LO" 0 1 0 false 0 40000 20000 "100 uV" .nearest,
    prow "ACQ.HLT_T_HI" 0 3 0 true 2000 12000 7000 "0.01 degC" .nearest,
    prow "ACQ.HLT_T_LO" 0 3 0 true (-5000) 2000 (-3000) "0.01 degC" .nearest,
    prow "ACQ.HLT_I_CHG" 0 4 0 false 1 5000 500 "1 A" .nearest,
    prow "ACQ.HLT_I_DIS" 0 4 0 false 1 5000 500 "1 A" .nearest]
  ++ [
    prow "ACQ.HLT_N" 0 0 0 false 1 8 2 "readings" .nearest,
    prow "ACQ.HLT_IN" 0 0 0 false 1 20 3 "chain cycles" .nearest,
    prow "ACQ.HLT_NA_N" 0 0 0 false 1 64 8 "readings" .nearest,
    prow "ACQ.ALM_OV" 0 0 0 false 10000 50000 43500 "100 uV" .nearest,
    prow "ACQ.ALM_UV" 0 0 0 false 0 40000 19000 "100 uV" .nearest,
    prow "ACQ.ALM_OT" 0 0 0 true 2000 12500 8000 "0.01 degC" .nearest,
    prow "ACQ.ALM_IOC" 0 0 0 false 1 6000 600 "1 A" .nearest,
    prow "ACQ.ALM_FUSE" 0 0 0 false 50 5000 500 "10 mV" .nearest,
    prow "ACQ.BAL_MODE" 1 0 1 false 0 2 1 "enumeration" (.undef 0),
    prow "ACQ.BAL_PERIOD" 0 0 0 false 10 600 60 "1 s" .nearest,
    prow "ACQ.BAL_DEADBAND" 0 0 0 false 5 500 20 "0.01 %" .nearest,
    prow "ACQ.BAL_DV" 0 0 0 false 2 100 10 "1 mV" .nearest]
  ++ [
    prow "ACQ.BAL_RBLEED" 2 2 0 false 50 10000 330 "0.1 Ohm" .nearest,
    prow "ACQ.BAL_MAX_PER_NODE" 0 0 0 false 1 18 9 "cells" .nearest,
    prow "ACQ.BAL_T_MAX" 0 0 0 true 2000 8000 5500 "0.01 degC" .nearest,
    prow "ACQ.BAL_I_MAX" 0 4 0 false 1 5000 50 "1 A" .nearest,
    prow "ACQ.BAL_HOLD_MAX" 0 0 0 false 60 3600 600 "1 s" .nearest]

/-- The MET parameters. -/
def paramsMet : List PRow :=
  [
    prow "MET.SHUNT_R" 2 0 0 false 50000 1000000 100000 "1 nOhm" .nearest,
    prow "MET.SHUNT_TRIM" 0 0 0 true (-20000) 20000 0 "1 ppm" .nearest,
    prow "MET.RANGE_MODE" 0 0 1 false 0 1 0 "enumeration" (.undef 0),
    prow "MET.CAL_STALE_T" 0 0 0 false 20 600 60 "1 s" .nearest,
    prow "MET.DRIFT_ALARM" 0 0 0 false 20 2000 200 "1 ppm of role fu" .nearest,
    prow "MET.INS_MODE" 1 0 1 false 0 1 0 "enumeration" (.undef 0),
    prow "MET.INS_U0" 1 0 0 false 12 48 48 "1 V" .nearest,
    prow "MET.INS_TMIN" 0 0 0 false 1 8 1 "1 s" .nearest,
    prow "MET.INS_TMAX" 0 0 0 false 4 64 64 "1 s" .nearest,
    prow "MET.INS_WARN" 0 0 0 false 10 50000 500 "1 kOhm" .nearest,
    prow "MET.INS_ALARM" 0 0 0 false 10 50000 100 "1 kOhm" .nearest,
    prow "MET.PE_CHECK" 0 0 1 false 0 1 1 "enumeration" (.undef 1)]
  ++ [
    prow "MET.RIPPLE_F1" 2 0 1 false 0 1 0 "enumeration" (.undef 0),
    prow "MET.RIPPLE_SRC" 0 0 2 false 0 3 3 "bit per source," (.mask 0x3),
    prow "MET.RIPPLE_MIN" 0 0 0 false 1 10000 50 "1 mV" .nearest,
    prow "MET.CAP_CHANNELS" 1 0 2 false 1 127 5 "bit per channel:" .special,
    prow "MET.CAP_PRE" 1 0 0 false 0 100 25 "1 %" .nearest,
    prow "MET.CAP_TRIG" 0 0 2 false 0 255 159 "bit per source:" (.mask 0xFF),
    prow "MET.CAP_I_LEVEL" 0 0 0 false 1 10000 1000 "1 A" .nearest,
    prow "MET.CAP_DIDT" 0 0 0 false 1 100000 5000 "1 A/ms" .nearest,
    prow "MET.CAP_SPARE_ROLE" 1 0 1 false 0 4 0 "enumeration" (.undef 0),
    prow "MET.CAP_REARM" 0 0 1 false 0 1 0 "enumeration" (.undef 0)]

/-- The EST parameters. -/
def paramsEst : List PRow :=
  [
    prow "EST.C_NOM" 2 0 0 false 1000 2000000 280000 "1 mAh" .nearest,
    prow "EST.OCV" 0 19 0 false 0 50000 30000 "100 uV" .nearest,
    prow "EST.OCV_T" 2 19 0 true (-4000) 7000 (-2000) "0.01 degC" .nearest,
    prow "EST.RT_FACTOR" 0 19 0 false 100 20000 4000 "0.001" .nearest,
    prow "EST.TD_DIS" 0 19 0 false 0 1000 300 "0.1 %" .nearest,
    prow "EST.TD_CHG" 0 19 0 false 0 1000 0 "0.1 %" .nearest,
    prow "EST.T_CUT" 0 0 0 true 4000 9000 6000 "0.01 degC" .nearest,
    prow "EST.TEMP_SEL" 2 1 2 false 0 255 255 "bit per node inp" (.mask 0xFF),
    prow "EST.RSER_DEF" 0 0 0 false 1 100000 300 "1 uOhm" .nearest,
    prow "EST.RPA_DEF" 0 0 0 false 1 100000 150 "1 uOhm" .nearest,
    prow "EST.CPA_DEF" 0 0 0 false 1 10000000 3333 "1 F" .nearest,
    prow "EST.RPB_DEF" 0 0 0 false 1 100000 200 "1 uOhm" .nearest]
  ++ [
    prow "EST.CPB_DEF" 0 0 0 false 1 10000000 150000 "1 F" .nearest,
    prow "EST.V_MIN" 0 0 0 false 15000 40000 28000 "100 uV" .nearest,
    prow "EST.V_MAX" 0 0 0 false 25000 48000 36500 "100 uV" .nearest,
    prow "EST.SOC_MIN" 0 0 0 false 0 5000 300 "0.01 %" .nearest,
    prow "EST.SOC_MAX" 0 0 0 false 5000 10000 9700 "0.01 %" .nearest,
    prow "EST.I_DIS_MAX" 0 4 0 false 0 5000 280 "1 A" .nearest,
    prow "EST.I_CHG_MAX" 0 4 0 false 0 5000 140 "1 A" .nearest,
    prow "EST.BLK_I_MAX" 0 0 0 false 0 80000 4000 "1 A" .nearest,
    prow "EST.LIM_RISE" 0 0 0 false 1 1000 100 "0.1 %/s" .nearest,
    prow "EST.STALE_LIM_FACTOR" 0 0 0 false 0 100 50 "1 %" .nearest,
    prow "EST.PRED_MAX_T" 0 0 0 false 1 60 5 "1 s" .nearest,
    prow "EST.MEAS_SIGMA" 0 0 0 false 1 500 20 "100 uV" .nearest]
  ++ [
    prow "EST.I_SIGMA" 0 0 0 false 0 10000 500 "1 mA" .nearest,
    prow "EST.V_PROC_SIGMA" 0 0 0 false 0 500 5 "100 uV" .nearest,
    prow "EST.INIT_SIGMA" 0 0 0 false 100 5000 1000 "0.01 %" .nearest,
    prow "EST.SIGMA_OK" 0 0 0 false 50 1000 200 "0.01 %" .nearest,
    prow "EST.CONV_BAND" 0 0 0 false 10 500 50 "0.01 %" .nearest,
    prow "EST.SOC_SLEW" 0 0 0 false 10 1000 100 "0.01 %/min" .nearest,
    prow "EST.SOH_SLEW" 0 0 0 false 1 1000 50 "0.01 %/min" .nearest,
    prow "EST.RESTORE_SIGMA" 0 0 0 false 0 5000 500 "0.01 %" .nearest,
    prow "EST.RESTORE_FOREIGN" 1 0 1 false 0 1 0 "enumeration" (.undef 0),
    prow "EST.ANCHOR_I" 0 0 0 false 1 100 20 "0.001 C" .nearest,
    prow "EST.ANCHOR_T" 0 0 0 false 900 14400 1800 "1 s" .nearest,
    prow "EST.CAP_GAIN" 0 0 0 false 1 100 20 "1 %" .nearest]
  ++ [
    prow "EST.CAP_STEP_MAX" 0 0 0 false 1 100 20 "0.1 %" .nearest]

/-- The IMP parameters. -/
def paramsImp : List PRow :=
  [
    prow "IMP.ENABLE" 0 0 1 false 0 1 1 "enumeration" (.undef 1),
    prow "IMP.STEP_MIN_C" 0 0 0 false 20 2000 100 "0.001 C" .nearest,
    prow "IMP.QUIET_T" 0 0 0 false 50 1000 200 "10 ms" .nearest,
    prow "IMP.QUIET_PP" 0 0 0 false 1 30 10 "1 % of dI_j" .nearest,
    prow "IMP.EDGE_MAX" 0 0 0 false 100 900 500 "1 us" .nearest,
    prow "IMP.HOLD_BAND" 0 0 0 false 2 30 10 "1 % of dI_j" .nearest,
    prow "IMP.V_NOISE" 0 0 0 false 1 50 5 "100 uV" .nearest,
    prow "IMP.TAUA_MIN" 0 0 0 false 5 1000 20 "1 ms" .nearest,
    prow "IMP.TAUA_MAX" 0 0 0 false 100 20000 5000 "1 ms" .nearest,
    prow "IMP.T_MIN" 0 0 0 true (-2000) 2500 500 "0.01 degC" .nearest,
    prow "IMP.T_MAX" 0 0 0 true 2500 6000 4500 "0.01 degC" .nearest,
    prow "IMP.CONF_RSD0" 0 0 0 false 10 500 100 "0.1 %" .nearest]
  ++ [
    prow "IMP.CONF_VALID" 0 0 0 false 0 65535 32768 "count" .nearest,
    prow "IMP.DRIFT_RSD" 0 0 0 false 0 1000 20 "0.01 %/day" .nearest,
    prow "IMP.R_AGE_MAX" 0 0 0 false 1 2160 168 "1 h" .nearest,
    prow "IMP.FIT_DEFER_MAX" 0 0 0 false 5 600 60 "1 s" .nearest,
    prow "IMP.REF_MODE" 1 0 1 false 0 1 1 "enumeration" (.undef 0),
    prow "IMP.GROWTH_WARN" 0 0 0 false 105 500 150 "1 %" .nearest,
    prow "IMP.GROWTH_ALARM" 0 0 0 false 105 500 200 "1 %" .nearest,
    prow "IMP.OUTLIER" 0 0 0 false 110 1000 180 "1 %" .nearest]

/-- The PRT parameters. -/
def paramsPrt : List PRow :=
  [
    prow "PRT.TRIP_MATRIX" 1 16 4 false 0 4294967295 3305111552 "Table 07.2" .special,
    prow "PRT.BUS_OV_V" 0 0 0 false 100 1700 1650 "1 V" .nearest,
    prow "PRT.SLC_I_DIS" 0 0 0 false 1 64000 3000 "1 A" .special,
    prow "PRT.SLC_I_CHG" 0 0 0 false 1 64000 3000 "1 A" .special,
    prow "PRT.DIDT_LIM" 0 0 0 false 1000 200000 20000 "1 A/ms" .nearest,
    prow "PRT.BUS_FILT" 0 0 0 false 1 8 8 "250 ns" .nearest,
    prow "PRT.SLD_I" 0 0 0 false 1 500 20 "1 A" .nearest,
    prow "PRT.SLD_T" 0 0 0 false 10 10000 2500 "1 ms" .nearest,
    prow "PRT.CV_HI1" 0 0 0 false 20000 48000 37000 "100 uV" .nearest,
    prow "PRT.CV_HI2" 0 0 0 false 20000 48000 38500 "100 uV" .nearest,
    prow "PRT.CV_LO1" 0 0 0 false 10000 40000 27000 "100 uV" .nearest,
    prow "PRT.CV_LO2" 0 0 0 false 10000 40000 25000 "100 uV" .nearest]
  ++ [
    prow "PRT.CV_HYST" 0 0 0 false 5 200 20 "1 mV" .nearest,
    prow "PRT.CV_DWELL1" 0 0 0 false 1 1000 200 "10 ms" .nearest,
    prow "PRT.CV_DWELL2" 0 0 0 false 1 100 5 "10 ms" .nearest,
    prow "PRT.CT_HI1" 0 0 0 true 2000 10000 5500 "0.01 degC" .nearest,
    prow "PRT.CT_HI2" 0 0 0 true 2000 10000 6500 "0.01 degC" .nearest,
    prow "PRT.CT_LO_CHG" 0 0 0 true (-4000) 2000 0 "0.01 degC" .nearest,
    prow "PRT.T_HYST" 0 0 0 false 50 2000 300 "0.01 K" .nearest,
    prow "PRT.T_DWELL" 0 0 0 false 10 6000 200 "10 ms" .nearest,
    prow "PRT.HOVER_N" 0 0 0 false 2 60 6 "entries per 60 m" .nearest,
    prow "PRT.OC_TK" 0 0 0 false 1 3600 60 "1 s" .nearest,
    prow "PRT.OC_INST" 0 0 0 false 110 1000 300 "0.01 × rating" .nearest,
    prow "PRT.DERATE_FACTOR" 0 0 0 false 0 100 50 "1 %" .nearest]
  ++ [
    prow "PRT.OPEN_I" 0 0 0 false 0 1000 20 "1 A" .nearest,
    prow "PRT.OPEN_WAIT_T" 0 0 0 false 0 5000 500 "1 ms" .nearest,
    prow "PRT.IMPL_MAX" 0 0 0 false 1 64 3 "cells" .nearest,
    prow "PRT.ISUM_ESC_T" 0 0 0 false 1 3600 60 "1 s" .nearest,
    prow "PRT.NODATA_T2" 0 0 0 false 2 120 15 "1 s" .special,
    prow "PRT.INS_ACTION" 0 0 1 false 0 3 0 "enumeration" (.undef 3),
    prow "PRT.GROWTH_ACTION" 0 0 1 false 0 1 1 "enumeration" (.undef 1),
    prow "PRT.POD_WD_T" 2 0 0 false 5 50 20 "100 us" .nearest,
    prow "PRT.POD_REPEAT_T" 0 0 0 false 10 3600 600 "1 s" .nearest,
    prow "PRT.SEQ_WD_N" 2 0 0 false 2 10 3 "chain cycles" .nearest,
    prow "PRT.COMP_TEST_S" 0 0 0 false 1 3600 10 "1 s" .nearest]

/-- The SEQ parameters. -/
def paramsSeq : List PRow :=
  [
    prow "SEQ.STRING_MAP" 2 2 1 false 0 255 255 "enumeration" .special,
    prow "SEQ.LOAD_ROLE" 1 5 4 false 0 3848 0 "[11:8] string, [" .special,
    prow "SEQ.LOSS_I_MIN" 0 0 0 false 1 1000 10 "1 A" .nearest,
    prow "SEQ.PCS_COMPLY_T" 0 0 0 false 100 10000 1000 "1 ms" .nearest,
    prow "SEQ.JOIN_I_MAX" 0 0 0 false 1 2000 50 "1 A" .nearest,
    prow "SEQ.JOIN_V_UNC" 0 0 0 false 0 20000 1000 "1 mV" .nearest,
    prow "SEQ.JOIN_W_FIX" 0 0 0 false 100 50000 2000 "1 mV" .nearest,
    prow "SEQ.JOIN_W_MAX" 0 0 0 false 100 100000 20000 "1 mV" .nearest,
    prow "SEQ.JOIN_DWELL" 0 0 0 false 10 5000 100 "1 ms" .nearest,
    prow "SEQ.JOIN_WAIT_T" 0 0 0 false 1 86400 600 "1 s" .nearest,
    prow "SEQ.JOIN_SETTLE" 0 0 0 false 1 1000 50 "10 ms" .nearest,
    prow "SEQ.DEADBUS_V" 0 0 0 false 5 200 50 "1 V" .nearest]
  ++ [
    prow "SEQ.MIN_STRINGS" 0 0 0 false 1 16 1 "strings" .nearest,
    prow "SEQ.K_GAP_T" 0 0 0 false 10 500 30 "1 ms" .nearest,
    prow "SEQ.K_CONFIRM_T" 0 0 0 false 20 1000 150 "1 ms" .nearest,
    prow "SEQ.WELD_V" 0 0 0 false 1 200 20 "1 V" .nearest,
    prow "SEQ.WELD_VMIN" 0 0 0 false 10 800 100 "1 V" .nearest,
    prow "SEQ.WELD_I" 0 0 0 false 1 200 5 "1 A" .nearest,
    prow "SEQ.WELD_T" 0 0 0 false 20 2000 200 "1 ms" .nearest,
    prow "SEQ.OPEN_I" 0 0 0 false 0 1000 10 "1 A" .nearest,
    prow "SEQ.OPEN_WAIT_T" 0 0 0 false 0 10000 2000 "1 ms" .nearest,
    prow "SEQ.STAGGER_T" 0 0 0 false 1 500 20 "1 ms" .nearest,
    prow "SEQ.PC_MODE" 1 0 1 false 0 2 0 "enumeration" (.undef 0),
    prow "SEQ.PC_DONE_V" 0 0 0 false 1 100 10 "1 V" .nearest]
  ++ [
    prow "SEQ.PC_DONE_T" 0 0 0 false 1 1000 20 "1 ms" .nearest,
    prow "SEQ.PC_TMAX" 0 0 0 false 1 600 100 "100 ms" .nearest,
    prow "SEQ.PC_SHORT_T" 0 0 0 false 10 5000 300 "1 ms" .nearest,
    prow "SEQ.PC_SHORT_V" 0 0 0 false 1 500 50 "1 V" .nearest,
    prow "SEQ.PC_I_MAX" 0 0 0 false 1 1000 100 "0.1 A" .nearest,
    prow "SEQ.PC_DVDT" 0 0 0 false 10 20000 1000 "1 V/s" .nearest,
    prow "SEQ.PC_AI_SCALE" 2 0 0 false 1000 1000000 50000 "1 mA at AI full" .nearest,
    prow "SEQ.PC_R" 0 0 0 false 10 100000 1000 "0.1 Ohm" .nearest,
    prow "SEQ.PC_E_MAX" 0 0 0 false 1 100000 20000 "1 J" .nearest,
    prow "SEQ.PC_COOL_T" 0 0 0 false 0 3600 60 "1 s" .nearest,
    prow "SEQ.PC_PROBE_T" 0 0 0 false 5 500 20 "1 ms" .nearest,
    prow "SEQ.DSC_MODE" 1 0 1 false 0 1 0 "enumeration" (.undef 0)]
  ++ [
    prow "SEQ.DSC_POS_OPEN" 0 0 0 true (-36000) 36000 0 "0.01deg shaft an" .nearest,
    prow "SEQ.DSC_POS_CLOSED" 0 0 0 true (-36000) 36000 9000 "0.01deg" .nearest,
    prow "SEQ.DSC_POS_PARTED" 0 0 0 true (-36000) 36000 7500 "0.01deg" .nearest,
    prow "SEQ.DSC_MARGIN" 0 0 0 false 10 2000 300 "0.01deg" .nearest,
    prow "SEQ.DSC_SPEED" 0 0 0 false 1 360 30 "1 deg/s" .nearest,
    prow "SEQ.DSC_CLOSE_T" 0 0 0 false 10 300 60 "100 ms" .nearest,
    prow "SEQ.DSC_OPEN_T" 0 0 0 false 10 2000 150 "1 ms" .nearest,
    prow "SEQ.DSC_I_MAX" 0 0 0 false 1 300 100 "0.1 A" .nearest,
    prow "SEQ.DSC_AI_SCALE" 2 0 0 false 1000 1000000 20000 "1 mA at AI full" .nearest,
    prow "SEQ.DSC_CAPTURE" 0 0 1 false 0 1 1 "enumeration" (.undef 1)]

/-- The LSW parameters. -/
def paramsLsw : List PRow :=
  [
    prow "LSW.LOAD_DEF" 1 5 4 false 0 4294967295 999168 "Table 09.2" .special,
    prow "LSW.I_PEAK" 0 5 0 false 0 1200 200 "10 mA" .special,
    prow "LSW.T_PEAK" 0 5 0 false 1 5000 100 "1 ms" .nearest,
    prow "LSW.I_STEADY" 0 5 0 false 0 600 100 "10 mA" .special,
    prow "LSW.T_PULL" 0 5 0 false 10 5000 100 "1 ms" .nearest,
    prow "LSW.P_HOLD" 0 5 0 false 0 5000 0 "10 mW" .special,
    prow "LSW.CLAMP_E" 0 5 0 false 0 1000 100 "1 mJ" .nearest,
    prow "LSW.TH_MODE" 0 5 1 false 0 1 0 "enumeration" (.undef 1),
    prow "LSW.TH_RETRY_N" 0 5 0 false 1 16 4 "restarts" .nearest,
    prow "LSW.HS_I_LIM" 0 10 0 false 50 600 600 "10 mA" .nearest,
    prow "LSW.STAGGER_MAX" 0 0 0 false 10 5000 200 "1 ms" .nearest,
    prow "LSW.START_GAP" 0 0 0 false 5 1000 10 "100 us" .nearest]
  ++ [
    prow "LSW.OC_FILT" 0 0 0 false 1 100 10 "10 us" .nearest,
    prow "LSW.TH_HYST" 0 0 0 false 5 40 20 "1 K" .nearest,
    prow "LSW.START_T" 0 0 0 false 1 600 10 "1 s" .nearest,
    prow "LSW.RECOV_T" 0 0 0 false 1 3600 60 "1 s" .nearest,
    prow "LSW.CLAMP_E_SUM" 0 0 0 false 100 800 800 "10 mJ" .nearest]

/-- The CTL parameters. -/
def paramsCtl : List PRow :=
  [
    prow "CTL.LOOP_CFG" 2 6 4 false 0 4294967295 0 "Table 10.9" .special,
    prow "CTL.RATE_DIV" 2 6 0 false 1 10000 10 "ticks" .nearest,
    prow "CTL.KP" 0 6 3 false 0 1015807 0 "Table 10.3" .special,
    prow "CTL.KI" 0 6 3 false 0 1015807 0 "Table 10.3" .special,
    prow "CTL.KD" 0 6 3 false 0 1015807 0 "Table 10.3" .special,
    prow "CTL.KAW" 0 6 3 false 0 1015807 0 "Table 10.3" .special,
    prow "CTL.FF_GAIN" 0 6 3 false 0 1015807 0 "Table 10.3" .special,
    prow "CTL.D_FILT" 0 6 0 true 0 32767 0 "Q15" .nearest,
    prow "CTL.OUT_MIN" 0 6 0 true (-32768) 32767 0 "Q15" .nearest,
    prow "CTL.OUT_MAX" 0 6 0 true (-32768) 32767 0 "Q15" .nearest,
    prow "CTL.SETPOINT" 0 6 0 true (-32768) 32767 0 "Q15" .nearest,
    prow "CTL.RAMP_TGT" 0 6 1 false 0 31 17 "source code" .special]
  ++ [
    prow "CTL.RAMP_RATE" 0 6 0 false 1 16777215 32768 "1 LSB/s" .nearest,
    prow "CTL.VSTR_SEL" 0 6 0 false 0 15 0 "string" .nearest,
    prow "CTL.IN_AGE_MAX" 0 6 0 false 50 10000 100 "1 us" .nearest,
    prow "CTL.MISS_MAX" 0 6 0 false 1 255 4 "evaluations" .nearest,
    prow "CTL.PW_PERIOD" 2 11 0 false 160 65535 3200 "6.25 ns" .nearest,
    prow "CTL.PW_DUTY_MAX" 0 11 0 true 0 32767 31130 "Q15" .nearest,
    prow "CTL.DA_MODE" 2 12 1 false 0 1 0 "enumeration" (.undef 0),
    prow "CTL.TRACE_CFG" 1 13 4 false 1 524287 33025 "[18:16] loop, [1" .special,
    prow "CTL.TRACE_TRIG" 1 13 2 false 0 255 3 "bit per source:" (.mask 0xFF),
    prow "CTL.TRACE_PRE" 1 13 0 false 0 100 25 "1 %" .nearest,
    prow "CTL.TRACE_ERR" 0 13 0 true 1 32767 3277 "Q15" .nearest]

/-- The POS parameters. -/
def paramsPos : List PRow :=
  [
    prow "POS.ENABLE" 2 14 1 false 0 1 0 "enumeration" (.undef 0),
    prow "POS.LINES" 2 14 0 false 1 65535 64 "lines per revolu" .nearest,
    prow "POS.AMP_NOM" 2 14 0 false 100 2000 500 "1 mV" .nearest,
    prow "POS.SIN_OFS" 0 14 0 true (-1000) 1000 0 "0.1 mV" .nearest,
    prow "POS.COS_OFS" 0 14 0 true (-1000) 1000 0 "0.1 mV" .nearest,
    prow "POS.COS_GAIN" 0 14 0 false 9000 11000 10000 "0.01 %" .nearest,
    prow "POS.OBS_BW" 0 14 0 false 100 20000 2000 "1 Hz" .nearest,
    prow "POS.DIR" 2 14 1 false 0 1 0 "enumeration" (.undef 0),
    prow "POS.IDX_MODE" 2 14 1 false 0 2 1 "enumeration" (.undef 0),
    prow "POS.IDX_POS" 0 14 0 true (-36000) 36000 0 "0.01deg" .nearest,
    prow "POS.IDX_QUAD" 0 14 0 false 0 3 0 "quadrant" .nearest,
    prow "POS.IDX_FILT" 0 14 0 false 1 1600 32 "6.25 ns" .nearest]
  ++ [
    prow "POS.END_FILT" 0 18 0 false 1 1000 20 "100 us" .nearest,
    prow "POS.END_POL" 2 18 1 false 0 1 0 "enumeration" (.undef 0),
    prow "POS.LOW_SPD" 0 14 0 false 1 1000000 500 "0.01 deg/s" .nearest,
    prow "POS.CMP_CTRL" 1 15 4 false 0 4294967295 0 "Table 11.3" .special,
    prow "POS.CMP_POS_A" 1 15 0 true (-36000) 36000 0 "0.01deg" .nearest,
    prow "POS.CMP_POS_B" 1 15 0 true (-36000) 36000 0 "0.01deg" .nearest,
    prow "POS.CMP_HYST" 0 14 0 false 1 1000 5 "0.01deg" .nearest,
    prow "POS.CMP_PULSE" 0 18 0 false 1 10000 10 "1 us" .nearest,
    prow "POS.QO_SRC" 2 0 1 false 0 2 2 "enumeration" (.undef 2),
    prow "POS.QO_DIV" 2 0 0 false 1 65535 64 "counts per edge" .nearest,
    prow "POS.QO_MAX_RATE" 0 0 0 false 1 10000 2000 "1 kHz edges" .nearest,
    prow "POS.SLP_CREEP" 0 14 0 false 1 1000 50 "0.01deg" .nearest]

/-- The THM parameters. -/
def paramsThm : List PRow :=
  [
    prow "THM.HYST" 0 0 0 false 50 2000 300 "0.01 K" .nearest,
    prow "THM.DWELL" 0 0 0 false 1 600 20 "100 ms" .nearest,
    prow "THM.HOVER_N" 0 0 0 false 2 60 6 "changes per 60 m" .nearest,
    prow "THM.BP_WARN" 0 0 0 true 8000 10500 10000 "0.01 degC" .nearest,
    prow "THM.BP_STOP" 0 0 0 true 9000 11200 10800 "0.01 degC" .nearest,
    prow "THM.DIE_WARN" 0 0 0 true 10000 14000 12500 "0.01 degC" .nearest,
    prow "THM.DIE_STOP" 0 0 0 true 11000 14500 13500 "0.01 degC" .nearest,
    prow "THM.STOP_LEAD" 0 0 0 false 5 600 30 "1 s" .nearest,
    prow "THM.STOP_SCOPE" 1 0 1 false 1 2 1 "enumeration" (.undef 1),
    prow "THM.ACT_DEF" 1 17 4 false 0 4294967295 63 "Table 12.4" .special,
    prow "THM.ACT_T" 0 17 0 true (-4000) 12000 3000 "0.01 degC" .nearest,
    prow "THM.ACT_HYST" 0 17 0 false 50 2000 300 "0.01 K" .nearest]
  ++ [
    prow "THM.ACT_DWELL" 0 17 0 false 1 600 20 "100 ms" .nearest,
    prow "THM.HEAT_BLOCK_T" 0 0 0 true 1000 6000 3500 "0.01 degC" .nearest,
    prow "THM.NA_HOLD_T" 0 0 0 false 1 100 10 "100 ms" .nearest,
    prow "THM.RETRY_T" 0 0 0 false 1 600 10 "1 s" .nearest]

/-- The LOG parameters. -/
def paramsLog : List PRow :=
  [
    prow "LOG.POLICY" 0 0 1 false 0 1 0 "enumeration" (.undef 0),
    prow "LOG.COALESCE_T" 0 0 0 false 0 1000 10 "1 ms" .nearest,
    prow "LOG.CLASS_MAX" 0 0 0 false 0 3 3 "class" .nearest,
    prow "LOG.TIME_SRC" 0 0 1 false 0 3 0 "enumeration" (.undef 0),
    prow "LOG.STEP_THRESH" 0 0 0 false 10 1000000 1000 "1 us" .nearest,
    prow "LOG.HOLDOVER_T" 0 0 0 false 1 86400 300 "1 s" .nearest,
    prow "LOG.LOCK_THRESH" 0 0 0 false 100 10000 1000 "1 ns" .nearest,
    prow "LOG.SYNC_PERIOD" 0 0 0 false 10 1000 125 "1 ms" .nearest,
    prow "LOG.FILL_WARN" 0 0 0 false 10 100 75 "1 %" .nearest,
    prow "LOG.SYNC_LOSS_N" 0 0 0 false 2 16 3 "messages" .nearest,
    prow "LOG.RING_DLY_PERIOD" 0 0 0 false 1 600 10 "1 s" .nearest,
    prow "LOG.HOLD_RESERVE" 0 0 0 false 16 1024 64 "records" .nearest]
  ++ [
    prow "LOG.SLEW_MAX" 0 0 0 false 10 500 500 "1 ppm" .nearest,
    prow "LOG.BACKSTEP" 0 0 1 false 0 1 0 "enumeration" (.undef 0)]

/-- The configuration parameters of a group, by group number (Table 16.1). -/
def groupParams : Nat → List PRow
  | 0 => paramsSys
  | 1 => paramsPwr
  | 2 => paramsPod
  | 3 => paramsHost
  | 4 => paramsChn
  | 5 => paramsAcq
  | 6 => paramsMet
  | 7 => paramsEst
  | 8 => paramsImp
  | 9 => paramsPrt
  | 10 => paramsSeq
  | 11 => paramsLsw
  | 12 => paramsCtl
  | 13 => paramsPos
  | 14 => paramsThm
  | 15 => paramsLog
  | _ => []

/-! Identifiers of the SYS parameters. -/
abbrev pSysClampCount : Nat := 0x0000
abbrev pSysInstallId : Nat := 0x0001

/-! Identifiers of the PWR parameters. -/
abbrev pPwrPdOpen : Nat := 0x1000
abbrev pPwrPdZeroWait : Nat := 0x1001
abbrev pPwrPdStagger : Nat := 0x1002
abbrev pPwrAuxWarn : Nat := 0x1003
abbrev pPwrBattWarn : Nat := 0x1004
abbrev pPwrWakeSrc : Nat := 0x1005
abbrev pPwrWakeInPol : Nat := 0x1006

/-! Identifiers of the POD parameters. -/
abbrev pPodScrubPeriod : Nat := 0x2000
abbrev pPodStlPeriod : Nat := 0x2001
abbrev pPodCeEventN : Nat := 0x2002

/-! Identifiers of the HOST parameters. -/
abbrev pHostPortEnable : Nat := 0x3000
abbrev pHostRoleMax : Nat := 0x3001
abbrev pHostQuota : Nat := 0x3002
abbrev pHostCanIde : Nat := 0x3003
abbrev pHostCanNode : Nat := 0x3004
abbrev pHostCanPrefix : Nat := 0x3005
abbrev pHostCanNomRate : Nat := 0x3006
abbrev pHostCanDataRate : Nat := 0x3007
abbrev pHostIpMode : Nat := 0x3008
abbrev pHostIpAddr : Nat := 0x3009
abbrev pHostIpMask : Nat := 0x300A
abbrev pHostIpGw : Nat := 0x300B
abbrev pHostUdpPort : Nat := 0x300C
abbrev pHostNoticeIp : Nat := 0x300D
abbrev pHostNoticeUdp : Nat := 0x300E
abbrev pHostPtpEnable : Nat := 0x300F
abbrev pHostPtpDomain : Nat := 0x3010
abbrev pHostSessionIdleT : Nat := 0x3011
abbrev pHostLimitPeriod : Nat := 0x3012
abbrev pHostLimitDrop : Nat := 0x3013
abbrev pHostLimitPorts : Nat := 0x3014

/-! Identifiers of the CHN parameters. -/
abbrev pChnRingEnable : Nat := 0x4000
abbrev pChnScanRate : Nat := 0x4001
abbrev pChnRetryMax : Nat := 0x4002
abbrev pChnNodeFailN : Nat := 0x4003
abbrev pChnExpectNodes : Nat := 0x4004
abbrev pChnDlyCheckTol : Nat := 0x4005
abbrev pChnDriftTol : Nat := 0x4006
abbrev pChnDlyTrack : Nat := 0x4007
abbrev pChnCalPeriod : Nat := 0x4008
abbrev pChnWrapRestore : Nat := 0x4009

/-! Identifiers of the ACQ parameters. -/
abbrev pAcqCellMask : Nat := 0x5000
abbrev pAcqTempCfg : Nat := 0x5001
abbrev pAcqCoarseRate : Nat := 0x5002
abbrev pAcqCoarseTol : Nat := 0x5003
abbrev pAcqPlausN : Nat := 0x5004
abbrev pAcqPlausClearN : Nat := 0x5005
abbrev pAcqRefTol : Nat := 0x5006
abbrev pAcqSumTol : Nat := 0x5007
abbrev pAcqSumRpath : Nat := 0x5008
abbrev pAcqSumN : Nat := 0x5009
abbrev pAcqIsumEnable : Nat := 0x500A
abbrev pAcqIsumTol : Nat := 0x500B
abbrev pAcqIsumN : Nat := 0x500C
abbrev pAcqTempMin : Nat := 0x500D
abbrev pAcqTempMax : Nat := 0x500E
abbrev pAcqTempSlew : Nat := 0x500F
abbrev pAcqTempClearT : Nat := 0x5010
abbrev pAcqSsauxRate : Nat := 0x5011
abbrev pAcqHltVHi : Nat := 0x5012
abbrev pAcqHltVLo : Nat := 0x5013
abbrev pAcqHltTHi : Nat := 0x5014
abbrev pAcqHltTLo : Nat := 0x5015
abbrev pAcqHltIChg : Nat := 0x5016
abbrev pAcqHltIDis : Nat := 0x5017
abbrev pAcqHltN : Nat := 0x5018
abbrev pAcqHltIn : Nat := 0x5019
abbrev pAcqHltNaN : Nat := 0x501A
abbrev pAcqAlmOv : Nat := 0x501B
abbrev pAcqAlmUv : Nat := 0x501C
abbrev pAcqAlmOt : Nat := 0x501D
abbrev pAcqAlmIoc : Nat := 0x501E
abbrev pAcqAlmFuse : Nat := 0x501F
abbrev pAcqBalMode : Nat := 0x5020
abbrev pAcqBalPeriod : Nat := 0x5021
abbrev pAcqBalDeadband : Nat := 0x5022
abbrev pAcqBalDv : Nat := 0x5023
abbrev pAcqBalRbleed : Nat := 0x5024
abbrev pAcqBalMaxPerNode : Nat := 0x5025
abbrev pAcqBalTMax : Nat := 0x5026
abbrev pAcqBalIMax : Nat := 0x5027
abbrev pAcqBalHoldMax : Nat := 0x5028

/-! Identifiers of the MET parameters. -/
abbrev pMetShuntR : Nat := 0x6000
abbrev pMetShuntTrim : Nat := 0x6001
abbrev pMetRangeMode : Nat := 0x6002
abbrev pMetCalStaleT : Nat := 0x6003
abbrev pMetDriftAlarm : Nat := 0x6004
abbrev pMetInsMode : Nat := 0x6005
abbrev pMetInsU0 : Nat := 0x6006
abbrev pMetInsTmin : Nat := 0x6007
abbrev pMetInsTmax : Nat := 0x6008
abbrev pMetInsWarn : Nat := 0x6009
abbrev pMetInsAlarm : Nat := 0x600A
abbrev pMetPeCheck : Nat := 0x600B
abbrev pMetRippleF1 : Nat := 0x600C
abbrev pMetRippleSrc : Nat := 0x600D
abbrev pMetRippleMin : Nat := 0x600E
abbrev pMetCapChannels : Nat := 0x600F
abbrev pMetCapPre : Nat := 0x6010
abbrev pMetCapTrig : Nat := 0x6011
abbrev pMetCapILevel : Nat := 0x6012
abbrev pMetCapDidt : Nat := 0x6013
abbrev pMetCapSpareRole : Nat := 0x6014
abbrev pMetCapRearm : Nat := 0x6015

/-! Identifiers of the EST parameters. -/
abbrev pEstCNom : Nat := 0x7000
abbrev pEstOcv : Nat := 0x7001
abbrev pEstOcvT : Nat := 0x7002
abbrev pEstRtFactor : Nat := 0x7003
abbrev pEstTdDis : Nat := 0x7004
abbrev pEstTdChg : Nat := 0x7005
abbrev pEstTCut : Nat := 0x7006
abbrev pEstTempSel : Nat := 0x7007
abbrev pEstRserDef : Nat := 0x7008
abbrev pEstRpaDef : Nat := 0x7009
abbrev pEstCpaDef : Nat := 0x700A
abbrev pEstRpbDef : Nat := 0x700B
abbrev pEstCpbDef : Nat := 0x700C
abbrev pEstVMin : Nat := 0x700D
abbrev pEstVMax : Nat := 0x700E
abbrev pEstSocMin : Nat := 0x700F
abbrev pEstSocMax : Nat := 0x7010
abbrev pEstIDisMax : Nat := 0x7011
abbrev pEstIChgMax : Nat := 0x7012
abbrev pEstBlkIMax : Nat := 0x7013
abbrev pEstLimRise : Nat := 0x7014
abbrev pEstStaleLimFactor : Nat := 0x7015
abbrev pEstPredMaxT : Nat := 0x7016
abbrev pEstMeasSigma : Nat := 0x7017
abbrev pEstISigma : Nat := 0x7018
abbrev pEstVProcSigma : Nat := 0x7019
abbrev pEstInitSigma : Nat := 0x701A
abbrev pEstSigmaOk : Nat := 0x701B
abbrev pEstConvBand : Nat := 0x701C
abbrev pEstSocSlew : Nat := 0x701D
abbrev pEstSohSlew : Nat := 0x701E
abbrev pEstRestoreSigma : Nat := 0x701F
abbrev pEstRestoreForeign : Nat := 0x7020
abbrev pEstAnchorI : Nat := 0x7021
abbrev pEstAnchorT : Nat := 0x7022
abbrev pEstCapGain : Nat := 0x7023
abbrev pEstCapStepMax : Nat := 0x7024

/-! Identifiers of the IMP parameters. -/
abbrev pImpEnable : Nat := 0x8000
abbrev pImpStepMinC : Nat := 0x8001
abbrev pImpQuietT : Nat := 0x8002
abbrev pImpQuietPp : Nat := 0x8003
abbrev pImpEdgeMax : Nat := 0x8004
abbrev pImpHoldBand : Nat := 0x8005
abbrev pImpVNoise : Nat := 0x8006
abbrev pImpTauaMin : Nat := 0x8007
abbrev pImpTauaMax : Nat := 0x8008
abbrev pImpTMin : Nat := 0x8009
abbrev pImpTMax : Nat := 0x800A
abbrev pImpConfRsd0 : Nat := 0x800B
abbrev pImpConfValid : Nat := 0x800C
abbrev pImpDriftRsd : Nat := 0x800D
abbrev pImpRAgeMax : Nat := 0x800E
abbrev pImpFitDeferMax : Nat := 0x800F
abbrev pImpRefMode : Nat := 0x8010
abbrev pImpGrowthWarn : Nat := 0x8011
abbrev pImpGrowthAlarm : Nat := 0x8012
abbrev pImpOutlier : Nat := 0x8013

/-! Identifiers of the PRT parameters. -/
abbrev pPrtTripMatrix : Nat := 0x9000
abbrev pPrtBusOvV : Nat := 0x9001
abbrev pPrtSlcIDis : Nat := 0x9002
abbrev pPrtSlcIChg : Nat := 0x9003
abbrev pPrtDidtLim : Nat := 0x9004
abbrev pPrtBusFilt : Nat := 0x9005
abbrev pPrtSldI : Nat := 0x9006
abbrev pPrtSldT : Nat := 0x9007
abbrev pPrtCvHi1 : Nat := 0x9008
abbrev pPrtCvHi2 : Nat := 0x9009
abbrev pPrtCvLo1 : Nat := 0x900A
abbrev pPrtCvLo2 : Nat := 0x900B
abbrev pPrtCvHyst : Nat := 0x900C
abbrev pPrtCvDwell1 : Nat := 0x900D
abbrev pPrtCvDwell2 : Nat := 0x900E
abbrev pPrtCtHi1 : Nat := 0x900F
abbrev pPrtCtHi2 : Nat := 0x9010
abbrev pPrtCtLoChg : Nat := 0x9011
abbrev pPrtTHyst : Nat := 0x9012
abbrev pPrtTDwell : Nat := 0x9013
abbrev pPrtHoverN : Nat := 0x9014
abbrev pPrtOcTk : Nat := 0x9015
abbrev pPrtOcInst : Nat := 0x9016
abbrev pPrtDerateFactor : Nat := 0x9017
abbrev pPrtOpenI : Nat := 0x9018
abbrev pPrtOpenWaitT : Nat := 0x9019
abbrev pPrtImplMax : Nat := 0x901A
abbrev pPrtIsumEscT : Nat := 0x901B
abbrev pPrtNodataT2 : Nat := 0x901C
abbrev pPrtInsAction : Nat := 0x901D
abbrev pPrtGrowthAction : Nat := 0x901E
abbrev pPrtPodWdT : Nat := 0x901F
abbrev pPrtPodRepeatT : Nat := 0x9020
abbrev pPrtSeqWdN : Nat := 0x9021
abbrev pPrtCompTestS : Nat := 0x9022

/-! Identifiers of the SEQ parameters. -/
abbrev pSeqStringMap : Nat := 0xA000
abbrev pSeqLoadRole : Nat := 0xA001
abbrev pSeqLossIMin : Nat := 0xA002
abbrev pSeqPcsComplyT : Nat := 0xA003
abbrev pSeqJoinIMax : Nat := 0xA004
abbrev pSeqJoinVUnc : Nat := 0xA005
abbrev pSeqJoinWFix : Nat := 0xA006
abbrev pSeqJoinWMax : Nat := 0xA007
abbrev pSeqJoinDwell : Nat := 0xA008
abbrev pSeqJoinWaitT : Nat := 0xA009
abbrev pSeqJoinSettle : Nat := 0xA00A
abbrev pSeqDeadbusV : Nat := 0xA00B
abbrev pSeqMinStrings : Nat := 0xA00C
abbrev pSeqKGapT : Nat := 0xA00D
abbrev pSeqKConfirmT : Nat := 0xA00E
abbrev pSeqWeldV : Nat := 0xA00F
abbrev pSeqWeldVmin : Nat := 0xA010
abbrev pSeqWeldI : Nat := 0xA011
abbrev pSeqWeldT : Nat := 0xA012
abbrev pSeqOpenI : Nat := 0xA013
abbrev pSeqOpenWaitT : Nat := 0xA014
abbrev pSeqStaggerT : Nat := 0xA015
abbrev pSeqPcMode : Nat := 0xA016
abbrev pSeqPcDoneV : Nat := 0xA017
abbrev pSeqPcDoneT : Nat := 0xA018
abbrev pSeqPcTmax : Nat := 0xA019
abbrev pSeqPcShortT : Nat := 0xA01A
abbrev pSeqPcShortV : Nat := 0xA01B
abbrev pSeqPcIMax : Nat := 0xA01C
abbrev pSeqPcDvdt : Nat := 0xA01D
abbrev pSeqPcAiScale : Nat := 0xA01E
abbrev pSeqPcR : Nat := 0xA01F
abbrev pSeqPcEMax : Nat := 0xA020
abbrev pSeqPcCoolT : Nat := 0xA021
abbrev pSeqPcProbeT : Nat := 0xA022
abbrev pSeqDscMode : Nat := 0xA023
abbrev pSeqDscPosOpen : Nat := 0xA024
abbrev pSeqDscPosClosed : Nat := 0xA025
abbrev pSeqDscPosParted : Nat := 0xA026
abbrev pSeqDscMargin : Nat := 0xA027
abbrev pSeqDscSpeed : Nat := 0xA028
abbrev pSeqDscCloseT : Nat := 0xA029
abbrev pSeqDscOpenT : Nat := 0xA02A
abbrev pSeqDscIMax : Nat := 0xA02B
abbrev pSeqDscAiScale : Nat := 0xA02C
abbrev pSeqDscCapture : Nat := 0xA02D

/-! Identifiers of the LSW parameters. -/
abbrev pLswLoadDef : Nat := 0xB000
abbrev pLswIPeak : Nat := 0xB001
abbrev pLswTPeak : Nat := 0xB002
abbrev pLswISteady : Nat := 0xB003
abbrev pLswTPull : Nat := 0xB004
abbrev pLswPHold : Nat := 0xB005
abbrev pLswClampE : Nat := 0xB006
abbrev pLswThMode : Nat := 0xB007
abbrev pLswThRetryN : Nat := 0xB008
abbrev pLswHsILim : Nat := 0xB009
abbrev pLswStaggerMax : Nat := 0xB00A
abbrev pLswStartGap : Nat := 0xB00B
abbrev pLswOcFilt : Nat := 0xB00C
abbrev pLswThHyst : Nat := 0xB00D
abbrev pLswStartT : Nat := 0xB00E
abbrev pLswRecovT : Nat := 0xB00F
abbrev pLswClampESum : Nat := 0xB010

/-! Identifiers of the CTL parameters. -/
abbrev pCtlLoopCfg : Nat := 0xC000
abbrev pCtlRateDiv : Nat := 0xC001
abbrev pCtlKp : Nat := 0xC002
abbrev pCtlKi : Nat := 0xC003
abbrev pCtlKd : Nat := 0xC004
abbrev pCtlKaw : Nat := 0xC005
abbrev pCtlFfGain : Nat := 0xC006
abbrev pCtlDFilt : Nat := 0xC007
abbrev pCtlOutMin : Nat := 0xC008
abbrev pCtlOutMax : Nat := 0xC009
abbrev pCtlSetpoint : Nat := 0xC00A
abbrev pCtlRampTgt : Nat := 0xC00B
abbrev pCtlRampRate : Nat := 0xC00C
abbrev pCtlVstrSel : Nat := 0xC00D
abbrev pCtlInAgeMax : Nat := 0xC00E
abbrev pCtlMissMax : Nat := 0xC00F
abbrev pCtlPwPeriod : Nat := 0xC010
abbrev pCtlPwDutyMax : Nat := 0xC011
abbrev pCtlDaMode : Nat := 0xC012
abbrev pCtlTraceCfg : Nat := 0xC013
abbrev pCtlTraceTrig : Nat := 0xC014
abbrev pCtlTracePre : Nat := 0xC015
abbrev pCtlTraceErr : Nat := 0xC016

/-! Identifiers of the POS parameters. -/
abbrev pPosEnable : Nat := 0xD000
abbrev pPosLines : Nat := 0xD001
abbrev pPosAmpNom : Nat := 0xD002
abbrev pPosSinOfs : Nat := 0xD003
abbrev pPosCosOfs : Nat := 0xD004
abbrev pPosCosGain : Nat := 0xD005
abbrev pPosObsBw : Nat := 0xD006
abbrev pPosDir : Nat := 0xD007
abbrev pPosIdxMode : Nat := 0xD008
abbrev pPosIdxPos : Nat := 0xD009
abbrev pPosIdxQuad : Nat := 0xD00A
abbrev pPosIdxFilt : Nat := 0xD00B
abbrev pPosEndFilt : Nat := 0xD00C
abbrev pPosEndPol : Nat := 0xD00D
abbrev pPosLowSpd : Nat := 0xD00E
abbrev pPosCmpCtrl : Nat := 0xD00F
abbrev pPosCmpPosA : Nat := 0xD010
abbrev pPosCmpPosB : Nat := 0xD011
abbrev pPosCmpHyst : Nat := 0xD012
abbrev pPosCmpPulse : Nat := 0xD013
abbrev pPosQoSrc : Nat := 0xD014
abbrev pPosQoDiv : Nat := 0xD015
abbrev pPosQoMaxRate : Nat := 0xD016
abbrev pPosSlpCreep : Nat := 0xD017

/-! Identifiers of the THM parameters. -/
abbrev pThmHyst : Nat := 0xE000
abbrev pThmDwell : Nat := 0xE001
abbrev pThmHoverN : Nat := 0xE002
abbrev pThmBpWarn : Nat := 0xE003
abbrev pThmBpStop : Nat := 0xE004
abbrev pThmDieWarn : Nat := 0xE005
abbrev pThmDieStop : Nat := 0xE006
abbrev pThmStopLead : Nat := 0xE007
abbrev pThmStopScope : Nat := 0xE008
abbrev pThmActDef : Nat := 0xE009
abbrev pThmActT : Nat := 0xE00A
abbrev pThmActHyst : Nat := 0xE00B
abbrev pThmActDwell : Nat := 0xE00C
abbrev pThmHeatBlockT : Nat := 0xE00D
abbrev pThmNaHoldT : Nat := 0xE00E
abbrev pThmRetryT : Nat := 0xE00F

/-! Identifiers of the LOG parameters. -/
abbrev pLogPolicy : Nat := 0xF000
abbrev pLogCoalesceT : Nat := 0xF001
abbrev pLogClassMax : Nat := 0xF002
abbrev pLogTimeSrc : Nat := 0xF003
abbrev pLogStepThresh : Nat := 0xF004
abbrev pLogHoldoverT : Nat := 0xF005
abbrev pLogLockThresh : Nat := 0xF006
abbrev pLogSyncPeriod : Nat := 0xF007
abbrev pLogFillWarn : Nat := 0xF008
abbrev pLogSyncLossN : Nat := 0xF009
abbrev pLogRingDlyPeriod : Nat := 0xF00A
abbrev pLogHoldReserve : Nat := 0xF00B
abbrev pLogSlewMax : Nat := 0xF00C
abbrev pLogBackstep : Nat := 0xF00D

end Sys2Proof.Machine
end

