-- ==== Sys2Proof/Machine/Params.lean ====
section
/-!
DEFINITION. Parameters as values: reading one, clamping a written one by its own entry, and judging the ordering rules
(R443 to R450 and the rules those name).
-/
namespace Sys2Proof.Machine
open Sys2Proof

/-! ### Reading -/

/-- The row of a configuration ID. -/
def paramRow (id : Nat) : Option PRow := (groupParams (id / 4096))[id % 4096]?

/-- How many information IDs a group has (Table 16.1). -/
def infoCount : Nat → Nat
  | 0 => 96 | 1 => 41 | 2 => 77 | 3 => 139 | 4 => 214 | 5 => 287 | 6 => 290 | 7 => 259
  | 8 => 108 | 9 => 173 | 10 => 146 | 11 => 127 | 12 => 113 | 13 => 88 | 14 => 80 | 15 => 38
  | _ => 0

/-- The ID is an information ID (R443). -/
def isInfo (id : Nat) : Bool := decide (0x800 ≤ id % 4096) && decide (id % 4096 - 0x800 < infoCount (id / 4096)) && decide (id < 65536)

/-- Instances of a kind (Table 16.2); kind 19 depends on the descriptor. -/
def kindCount (kind id : Nat) : Nat :=
  match kind with
  | 0 => 1 | 1 => 9216 | 2 => 512 | 3 => 4096 | 4 => 16 | 5 => 48 | 6 => 8 | 7 => 8 | 8 => 5 | 9 => 2
  | 10 => 12 | 11 => 6 | 12 => 2 | 13 => 4 | 14 => 2 | 15 => 32 | 16 => 32 | 17 => 16 | 18 => 2
  | 19 => if id = pEstOcv then 126 else 6
  | _ => 0

/-- Key of a parameter instance in the value maps. -/
def pk (id inst : Nat) : Nat := id * 65536 + inst

/-- Default actions of the Husk sources (Table 07.1). -/
def tripActions : List Nat := [5, 5, 5, 5, 0, 4, 4, 4, 0, 0, 4, 4, 0, 5, 8, 6, 5, 4, 1, 2, 0, 5, 5, 5, 0, 5, 3]

/-- Floors of the Husk sources (Table 07.1). -/
def tripFloors : List Nat := [5, 5, 5, 0, 0, 0, 0, 0, 0, 0, 0, 0, 0, 5, 8, 5, 5, 4, 1, 2, 0, 5, 5, 5, 0, 5, 3]

/-- Default entry of one source (R506). -/
def tripDefault (src : Nat) : Nat :=
  if 26 < src then 0
  else 2 ^ 31 + (if src = 18 ∨ src = 19 then 0 else 2 ^ 30) + tripActions.getD src 0 * 2 ^ 24

/-- Default of a parameter instance (R22, the Default columns). -/
def paramDefault (id inst : Nat) : Int :=
  match paramRow id with
  | none => 0
  | some r =>
    if id = pEstOcv then 30000 + (inst % 21 : Nat) * 200
    else if id = pEstOcvT then [-2000, 0, 1500, 2500, 3500, 5000].getD inst 0
    else if id = pEstRtFactor then [4000, 2500, 1400, 1000, 800, 650].getD inst 0
    else if id = pEstTdDis then [300, 600, 1000, 1000, 1000, 800].getD inst 0
    else if id = pEstTdChg then [0, 100, 600, 1000, 1000, 700].getD inst 0
    else if id = pHostRoleMax then (if inst = 4 then 0 else 2)
    else if id = pPrtTripMatrix then (tripDefault inst : Int)
    else r.dflt

/-- The applied value of a parameter. -/
def pv (s : State) (id inst : Nat) : Int :=
  if id = pSysClampCount then (s.par.clampCount : Int)
  else (mfind s.par.applied (pk id inst)).getD (paramDefault id inst)

/-- The applied value as a natural number. -/
def pn (s : State) (id inst : Nat) : Nat := (pv s id inst).toNat

/-- The applied value of a parameter without instances. -/
def p0 (s : State) (id : Nat) : Nat := pn s id 0

/-- The staged value where one is pending, else the applied one (view 1 of PARAM_GET). -/
def pStaged (s : State) (id inst : Nat) : Int := (mfind s.par.staged (pk id inst)).getD (pv s id inst)

/-- A value as the 32 bits of its encoding (Table 16.5). -/
def pCode (x : Int) : Nat := code 32 x

/-- The number a written 32-bit value stands for. -/
def pDecode (r : PRow) (raw : Nat) : Int := if r.sgn then signed 32 raw else (raw % 2 ^ 32 : Nat)

/-! ### Writing maps -/

/-- The applied map with a value; a value equal to the default lists no entry. -/
def putApplied (m : SMap Int) (id inst : Nat) (x : Int) : SMap Int :=
  if x = paramDefault id inst then mdel m (pk id inst) else mput m (pk id inst) x

/-- One more change made by a clamp (R449). -/
def countClamps (n : Nat) (s : State) : State :=
  { s with par := { s.par with clampCount := satN 0xFFFFFFFF (s.par.clampCount + n) } }

/-- The state with an applied value. -/
def setApplied (s : State) (id inst : Nat) (x : Int) : State :=
  { s with par := { s.par with applied := putApplied s.par.applied id inst x } }

/-! ### Own clamps (R17, R449) -/

/-- A field of a word replaced, and whether it changed. -/
def fixField (v : Nat × Nat) (hi lo x : Nat) : Nat × Nat :=
  if bits v.1 hi lo = x then v
  else (v.1 - bits v.1 hi lo * 2 ^ lo + x * 2 ^ lo, v.2 + 1)

/-- The reserved bits outside `mask` cleared, counted once (R19). -/
def dropReserved (mask : Nat) (v : Nat × Nat) : Nat × Nat :=
  let w := v.1 &&& mask
  (w, if w = v.1 then v.2 else v.2 + 1)

/-- Effects of an action code (Table 07.3): [0] inhibit charge, [1] inhibit discharge, [2] open strings, [3] mains and
pre-charge, [4] disconnector release, [5] drive off and DME, [6] every load. -/
def actionEffects : Nat → Nat
  | 0 => 0 | 1 => 1 | 2 => 2 | 3 => 3 | 4 => 4 | 5 => 15 | 6 => 63 | 7 => 127 | 8 => 32
  | _ => 15

/-- The source can name strings (R211). -/
def namesStrings (src : Nat) : Bool := (decide (5 ≤ src) && decide (src ≤ 12)) || src == 17

/-- The action a written one becomes under a floor (R507): codes above 8 first as 0x5, 0x4 on a source that names no
string first as 0x5, then the least action with every effect of both; on a floor of 0x4, 0x0 becomes 0x5 as the rule's
list says (log 11). -/
def floorAction (src act : Nat) : Nat :=
  let floor := tripFloors.getD src 0
  let a := if 8 < act ∨ (act = 4 ∧ !namesStrings src) then 5 else act
  let need := actionEffects a ||| actionEffects floor
  if floor = 4 ∧ a = 0 then 5
  else ([0, 1, 2, 3, 4, 8, 5, 6, 7].find? fun c => actionEffects c &&& need = need).getD 7

/-- Sources whose DELAY is clamped to 0 (Table 07.2). -/
def noDelay (src : Nat) : Bool :=
  decide (src ≤ 3) || (decide (13 ≤ src) && decide (src ≤ 16)) || (decide (21 ≤ src) && decide (src ≤ 23)) || src == 25

/-- The clamp of a PRT.TRIP_MATRIX entry. -/
def clampTrip (src raw : Nat) : Nat × Nat :=
  let v := dropReserved 0xCFFF0000 (raw, 0)
  let act := floorAction src (bits v.1 27 24)
  let v := fixField v 27 24 act
  let v := if 0 < tripFloors.getD src 0 then fixField v 31 31 1 else v
  let v := if 3 < act then fixField v 30 30 1 else v
  if noDelay src then fixField v 23 16 0 else v

/-- 95 % of the IL full scale (320 mV) at a shunt in nΩ, in A (R209). -/
def slcMax (shunt : Nat) : Nat := if shunt = 0 then 0 else 304000000 / shunt

/-- The clamp of a LSW.LOAD_DEF word by itself (R270). -/
def clampLoadDef (raw : Nat) : Nat × Nat :=
  let v := dropReserved 0x3EFF3F00 (raw, 0)
  let hs := bits v.1 19 16
  let v := if 0xC ≤ hs ∧ hs ≤ 0xE then fixField v 19 16 0xF else v
  let ls := bits v.1 13 8
  let v := if 40 ≤ ls ∧ ls ≤ 62 then fixField v 13 8 0x3F else v
  let v := if 5 ≤ bits v.1 23 20 then fixField v 23 20 0 else v
  if bits v.1 13 8 = 0x3F then fixField v 25 25 0 else v

/-- The clamp of a CTL.LOOP_CFG word by itself (Tables 10.2 and 10.9, R313). -/
def clampLoopCfg (raw : Nat) : Nat × Nat :=
  let v := dropReserved 0xFFFFFFFC (raw, 0)
  let v := if 0x10 < bits v.1 31 27 then fixField v 31 27 0 else v
  let ref := bits v.1 26 22
  let v := if 0x13 ≤ ref ∧ ref ≤ 0x17 then fixField v 26 22 0x11 else v
  let v := if 0x10 < bits v.1 21 17 then fixField v 21 17 0 else v
  let v := if 0x10 < bits v.1 16 12 then fixField v 16 12 0 else v
  let v := if 0xA ≤ bits v.1 11 8 then fixField v 11 8 0 else v
  if bits v.1 7 6 = 2 ∧ bits v.1 16 12 = 0 then fixField v 7 6 0 else v

/-- The clamp of a POS.CMP_CTRL word (Table 11.3). -/
def clampCmp (inst raw : Nat) : Nat × Nat :=
  let v := dropReserved 0xFFE00000 (raw, 0)
  let v := if 3 ≤ bits v.1 30 28 then fixField v 31 31 0 else v
  let v := if bits v.1 27 26 = 3 then fixField v 27 26 0 else v
  let v := if bits v.1 25 24 = 3 then fixField v 25 24 0 else v
  if 16 ≤ inst then fixField (fixField v 23 23 0) 21 21 0 else v

/-- The clamp of a THM.ACT_DEF word by itself (R342). -/
def clampAct (raw : Nat) : Nat × Nat :=
  let v := dropReserved 0xFF1F003F (raw, 0)
  let v := if 2 ≤ bits v.1 30 28 then fixField v 31 31 0 else v
  let v := if 8 ≤ bits v.1 27 24 then fixField v 27 24 0 else v
  if bits v.1 20 20 = 1 ∧ (bits v.1 27 24 = 6 ∨ bits v.1 27 24 = 7) then fixField v 20 20 0 else v

/-- Leading ones of a 32-bit mask. -/
def leadingOnes (m : Nat) : Nat := ((List.range 32).takeWhile fun i => bit m (31 - i)).length

/-- The IPv4 mask of `n` leading ones. -/
def maskOnes (n : Nat) : Nat := 2 ^ 32 - 2 ^ (32 - n)

/-- A unicast address: not zero, loopback, multicast or above. -/
def unicast (a : Nat) : Bool := bits a 31 24 != 0 && bits a 31 24 != 127 && decide (bits a 31 24 < 224)

/-- The address is the directed broadcast of its subnet under a mask. -/
def directed (a mask : Nat) : Bool := a % 2 ^ 32 ||| mask == 2 ^ 32 - 1

/-- A HOST.IP_ADDR value under a mask (Table 15.15). -/
def clampIp (a mask : Nat) : Nat := if unicast a && !directed a mask then a else 0xC0A8000A

/-- A HOST.IP_GW value under an address and a mask. -/
def clampGw (g a mask : Nat) : Nat := if g &&& mask = a &&& mask then g else 0

/-- The allowed scan rates, and the nearest to a value with ties to the higher (Table 02.11). -/
def scanRates : List Nat := [200, 125, 100, 50, 40, 25, 20, 10]
def nearestRate (x : Nat) : Nat :=
  scanRates.foldl (fun b r => if (if r < x then x - r else r - x) < (if b < x then x - b else b - x) then r else b) 200

/-- Highest LSW.I_PEAK and LSW.I_STEADY of a load, 10 mA, from the channels its definition names: the lower active
current limit minimum and the lower continuous rating (Tables 09.1 and 09.9). -/
def peakMax (df : Nat) : Nat := if bits df 13 8 = 0x3F then 1200 else 600
def steadyMax (df : Nat) : Nat := if bits df 13 8 = 0x3F then 600 else 300

/-- The clamps of Table 15.15 and the like that are rules of their own; the second number counts the changes. -/
def clampSpecial (s : State) (id inst raw : Nat) : Nat × Nat :=
  if id = pSysClampCount then (0, 0)
  else if id = pHostPortEnable then
    let v := dropReserved 0x1F (raw, 0)
    if bit v.1 0 || bit v.1 3 then v else fixField v 3 3 1
  else if id = pHostRoleMax then
    let x := if inst = 4 ∨ 2 < raw then 0 else raw
    (x, if x = raw then 0 else 1)
  else if id = pHostCanDataRate then if 2 < raw then (1, 1) else (raw, 0)
  else if id = pHostIpAddr then
    let x := clampIp raw (p0 s pHostIpMask)
    (x, if x = raw then 0 else 1)
  else if id = pHostIpMask then
    let x := maskOnes (min 30 (max 8 (leadingOnes raw)))
    (x, if x = raw then 0 else 1)
  else if id = pHostIpGw then
    let x := clampGw raw (p0 s pHostIpAddr) (p0 s pHostIpMask)
    (x, if x = raw then 0 else 1)
  else if id = pHostNoticeIp then
    let x := if raw = 0 ∨ unicast raw ∨ (directed raw (p0 s pHostIpMask) ∧
      raw &&& p0 s pHostIpMask = p0 s pHostIpAddr &&& p0 s pHostIpMask) then raw else 0
    (x, if x = raw then 0 else 1)
  else if id = pChnScanRate then
    let x := nearestRate raw
    (x, if x = raw then 0 else 1)
  else if id = pPwrWakeSrc then
    let v := dropReserved 3 (raw, 0)
    if v.1 = 0 then (3, v.2 + 1) else v
  else if id = pMetCapChannels then
    let v := dropReserved 0x7F (raw, 0)
    if v.1 = 0 then (5, v.2 + 1) else v
  else if id = pPrtTripMatrix then clampTrip inst raw
  else if id = pPrtSlcIDis ∨ id = pPrtSlcIChg then
    let x := min (slcMax (p0 s pMetShuntR)) (min 64000 (max 1 raw))
    (x, if x = raw then 0 else 1)
  else if id = pPrtNodataT2 then
    let x := max (p0 s pEstPredMaxT + 1) (min 120 (max 2 raw))
    (x, if x = raw then 0 else 1)
  else if id = pSeqStringMap then if 15 < raw ∧ raw ≠ 0xFF then (0xFF, 1) else (raw, 0)
  else if id = pSeqLoadRole then
    let v := dropReserved 0xFFF (raw, 0)
    if 8 < bits v.1 7 0 then fixField v 7 0 0 else v
  else if id = pLswLoadDef then clampLoadDef raw
  else if id = pLswIPeak then
    let x := max (pn s pLswISteady inst) (min (peakMax (pn s pLswLoadDef inst)) (min 1200 raw))
    (x, if x = raw then 0 else 1)
  else if id = pLswISteady then
    let x := min (steadyMax (pn s pLswLoadDef inst)) (min 600 raw)
    (x, if x = raw then 0 else 1)
  else if id = pLswPHold then
    let x := min 5000 raw
    (x, if x = raw then 0 else 1)
  else if id = pCtlLoopCfg then clampLoopCfg raw
  else if id = pCtlKp ∨ id = pCtlKi ∨ id = pCtlKd ∨ id = pCtlKaw ∨ id = pCtlFfGain then dropReserved 0xF7FFF (raw, 0)
  else if id = pCtlRampTgt then
    if raw ≤ 0x11 ∨ (0x18 ≤ raw ∧ raw ≤ 0x1F) then (raw, 0) else (0x11, 1)
  else if id = pCtlTraceCfg then
    let v := dropReserved 0x7FFFF (raw, 0)
    if bits v.1 7 0 = 0 then fixField v 7 0 1 else v
  else if id = pPosCmpCtrl then clampCmp inst raw
  else if id = pThmActDef then clampAct raw
  else (raw, 0)

/-- The value a written one becomes by its own clamp entry, and how many changes count (R449). -/
def clampOwn (s : State) (r : PRow) (id inst raw : Nat) : Int × Nat :=
  let x := pDecode r raw
  match r.clamp with
  | .nearest => (clampI r.lo r.hi x, if r.lo ≤ x ∧ x ≤ r.hi then 0 else 1)
  | .undef d => if r.lo ≤ x ∧ x ≤ r.hi then (x, 0) else (d, 1)
  | .mask m =>
    let v := dropReserved m (x.toNat, 0)
    ((v.1 : Int), v.2)
  | .whole => (x, 0)
  | .special =>
    let v := clampSpecial s id inst x.toNat
    ((v.1 : Int), v.2)

/-! ### Ordering rules (R450) -/

/-- A rule between two parameters of one instance: the member clamped, the other, and the value the first takes. -/
structure OrdRule where
  clamped : Nat
  other   : Nat
  /-- 0 below the other, 1 at most the other, 2 above the other, 3 at least the other, 4 at most a quarter of it,
  5 at least one more than it, 6 at most 95 % of IL full scale at it. -/
  how     : Nat
  deriving DecidableEq, Repr

/-- What the clamped member becomes. -/
def OrdRule.apply (r : OrdRule) (x y : Int) : Int :=
  match r.how with
  | 0 => if x < y then x else y - 1
  | 1 => if x ≤ y then x else y
  | 2 => if y < x then x else y + 1
  | 3 => if y ≤ x then x else y
  | 4 => if x ≤ y / 4 then x else y / 4
  | 5 => if y + 1 ≤ x then x else y + 1
  | _ => if x ≤ (slcMax y.toNat : Int) then x else (slcMax y.toNat : Int)

/-- A rule from its three parts. -/
def ordRule (clamped other how : Nat) : OrdRule := { clamped, other, how }

/-- The pair rules that name the member clamped: R108, R148, R183, R206, R229, R266, R313, R351, Table 07.12 and
Table 09.9. -/
def ordRules : List OrdRule :=
  [ ordRule pAcqHltVLo pAcqHltVHi 0, ordRule pAcqHltTLo pAcqHltTHi 0, ordRule pAcqAlmUv pAcqAlmOv 0,
    ordRule pMetInsAlarm pMetInsWarn 1, ordRule pMetInsTmin pMetInsTmax 1,
    ordRule pEstVMin pEstVMax 0, ordRule pEstSocMin pEstSocMax 0,
    ordRule pImpGrowthAlarm pImpGrowthWarn 3 ]
  ++ [ ordRule pPrtCvHi2 pPrtCvHi1 2, ordRule pPrtCvLo2 pPrtCvLo1 0, ordRule pPrtCtHi2 pPrtCtHi1 2,
    ordRule pPrtNodataT2 pEstPredMaxT 5, ordRule pPrtSlcIDis pMetShuntR 6, ordRule pPrtSlcIChg pMetShuntR 6,
    ordRule pSeqJoinWFix pSeqJoinWMax 1, ordRule pSeqWeldV pSeqWeldVmin 4,
    ordRule pLswIPeak pLswISteady 3, ordRule pCtlOutMin pCtlOutMax 1 ]
  ++ [ ordRule pThmBpWarn pThmBpStop 0, ordRule pThmDieWarn pThmDieStop 0 ]

/-- One applied value replaced by the clamp of a rule, counted where it changes. -/
def clampTo (s : State) (id inst : Nat) (x : Int) : State :=
  if pv s id inst = x then s else countClamps 1 (setApplied s id inst x)

/-- One pair rule judged at one instance. -/
def judgePair (s : State) (inst : Nat) (r : OrdRule) : State :=
  clampTo s r.clamped inst (r.apply (pv s r.clamped inst) (pv s r.other inst))

/-- R206: `lo` below `hi`; the written member is clamped 1 LSB short of the other, and the one with the higher ID where
both were written (R450, log 12). -/
def judgeImp (s : State) (lo hi : Nat) (hiWritten : Bool) : State :=
  if pv s lo 0 < pv s hi 0 then s
  else if hiWritten then clampTo s hi 0 (pv s lo 0 + 1)
  else clampTo s lo 0 (pv s hi 0 - 1)

/-- R404: stagger and zero wait fit 14.0 ms. -/
def judgePd (s : State) : State :=
  let z := p0 s pPwrPdZeroWait
  let g := p0 s pPwrPdStagger
  if z + 18 * g ≤ 140 then s
  else
    let g' := max 2 ((140 - z) / 18)
    let s := clampTo s pPwrPdStagger 0 (min g g' : Nat)
    if z + 18 * min g g' ≤ 140 then s else clampTo s pPwrPdZeroWait 0 (140 - 18 * min g g' : Nat)

/-- R266: the disconnector positions; `old` is the value of SEQ.DSC_POS_CLOSED before the write. -/
def judgeDsc (s : State) (old : Int) : State :=
  let o := pv s pSeqDscPosOpen 0
  let s := if pv s pSeqDscPosClosed 0 = o then clampTo s pSeqDscPosClosed 0 (if old < o then o - 1 else o + 1) else s
  let c := pv s pSeqDscPosClosed 0
  let lo := min o c
  let hi := max o c
  let p := pv s pSeqDscPosParted 0
  clampTo s pSeqDscPosParted 0 (if p ≤ lo then lo + 1 else if hi ≤ p then hi - 1 else p)

/-- R183: one point of EST.OCV_T against its neighbours; a later point of the same write yields to an earlier one. -/
def judgeOcvT (touched : List Nat) (s : State) (p : Nat) : State :=
  let x := pv s pEstOcvT p
  let s := if 0 < p ∧ x ≤ pv s pEstOcvT (p - 1) then clampTo s pEstOcvT p (pv s pEstOcvT (p - 1) + 1) else s
  let x := pv s pEstOcvT p
  if p < 5 ∧ (p + 1) ∉ touched ∧ pv s pEstOcvT (p + 1) ≤ x then clampTo s pEstOcvT p (pv s pEstOcvT (p + 1) - 1) else s

/-- R183: EST.T_CUT above the highest EST.OCV_T point. -/
def judgeTCut (s : State) : State :=
  let top := pv s pEstOcvT 5
  if pv s pEstTCut 0 ≤ top then clampTo s pEstTCut 0 (top + 1) else s

/-- R183: one point of EST.OCV against its neighbours in SoC at the same temperature. -/
def judgeOcv (touched : List Nat) (s : State) (i : Nat) : State :=
  let x := pv s pEstOcv i
  let s := if 0 < i % 21 ∧ x < pv s pEstOcv (i - 1) then clampTo s pEstOcv i (pv s pEstOcv (i - 1)) else s
  let x := pv s pEstOcv i
  if i % 21 < 20 ∧ (i + 1) ∉ touched ∧ pv s pEstOcv (i + 1) < x then clampTo s pEstOcv i (pv s pEstOcv (i + 1)) else s

/-- R333: POS.CMP_POS_B of a window entry is not below POS.CMP_POS_A. -/
def judgeCmp (s : State) (i : Nat) : State :=
  if 1 ≤ bits (pn s pPosCmpCtrl i) 30 28 ∧ pv s pPosCmpPosB i < pv s pPosCmpPosA i then
    clampTo s pPosCmpPosB i (pv s pPosCmpPosA i)
  else s

/-- R442: address and gateway under the mask in force after the change. -/
def judgeIp (s : State) : State :=
  let s := clampTo s pHostIpAddr 0 (clampIp (p0 s pHostIpAddr) (p0 s pHostIpMask) : Nat)
  clampTo s pHostIpGw 0 (clampGw (p0 s pHostIpGw) (p0 s pHostIpAddr) (p0 s pHostIpMask) : Nat)

/-- R148: the wideband channel needs a spare role. -/
def judgeCap (s : State) : State :=
  if bit (p0 s pMetCapChannels) 6 && p0 s pMetCapSpareRole == 0 then
    clampTo s pMetCapChannels 0 (p0 s pMetCapChannels - 64 : Nat)
  else s

/-- Every pair rule that names a written parameter, at the written instance. -/
def judgePairs (s : State) (key : Nat) : State :=
  let id := key / 65536
  let inst := key % 65536
  (ordRules.filter fun r => r.clamped = id ∨ r.other = id).foldl (fun s r => judgePair s inst r) s

/-- The applied values `keys` have just been put in place: each ordering rule that touches them is judged once (R450). -/
def judgeOrder (old : State) (keys : List Nat) (s : State) : State :=
  let of (id : Nat) : List Nat := (keys.filter fun k => k / 65536 = id).map (· % 65536)
  let has (id : Nat) : Bool := !(of id).isEmpty
  let s := keys.foldl judgePairs s
  let s := if has pImpTauaMin || has pImpTauaMax then judgeImp s pImpTauaMin pImpTauaMax (has pImpTauaMax) else s
  let s := if has pImpTMin || has pImpTMax then judgeImp s pImpTMin pImpTMax (has pImpTMax) else s
  let s := if has pPwrPdZeroWait || has pPwrPdStagger then judgePd s else s
  let s := if has pSeqDscPosOpen || has pSeqDscPosClosed || has pSeqDscPosParted then judgeDsc s (pv old pSeqDscPosClosed 0) else s
  let s := (of pEstOcvT).foldl (judgeOcvT (of pEstOcvT)) s
  let s := if has pEstOcvT || has pEstTCut then judgeTCut s else s
  let s := (of pEstOcv).foldl (judgeOcv (of pEstOcv)) s
  let s := (of pPosCmpCtrl ++ of pPosCmpPosA ++ of pPosCmpPosB).foldl judgeCmp s
  let s := if has pHostIpAddr || has pHostIpMask || has pHostIpGw then judgeIp s else s
  if has pMetCapChannels || has pMetCapSpareRole then judgeCap s else s

end Sys2Proof.Machine
end

