-- ==== Sys2Proof/Machine/Log.lean ====
section
/-!
DEFINITION. The event FIFO and the ledger as operations: queueing an event (R471 to R474), committing a record (R475 to
R481), and time quality (R466).
-/
namespace Sys2Proof.Machine
open Sys2Proof

/-- Time quality field (R466). -/
def quality (s : State) : Nat := if !s.tb.tai then 0 else if s.tb.state = .beyond || s.tb.degraded then 3 else 1

/-- Free reserved and general entries of the FIFO (R472). -/
def fifoReservedFree (f : List Event) : Bool := decide ((f.filter (·.reserved)).length < 64)
def fifoGeneralFree (f : List Event) : Bool := decide ((f.filter fun e => !e.reserved).length < 960)

/-- The list with its last element satisfying `p` changed by `g`. -/
def modLast {α : Type} (p : α → Bool) (g : α → α) (l : List α) : List α :=
  let rec go : List α → List α
    | [] => []
    | x :: xs => if p x then g x :: xs else x :: go xs
  (go l.reverse).reverse

/-- The last element satisfying `p`. -/
def findLast {α : Type} (p : α → Bool) (l : List α) : Option α := l.reverse.find? p

/-- The same type and source. -/
def samePair (a b : Event) : Bool := a.type == b.type && a.srcKind == b.srcKind && a.source == b.source

/-- One entry with another occurrence merged in: COUNT saturates at 65,535 and sets COUNT_SAT (R473). -/
def mergeEvent (now : Nat) (e : Event) : Event :=
  { e with last := now, count := inc16 e.count, countSat := e.countSat || e.count == 0xFFFF }

/-- A drop counted in the pending LOST record (R474). -/
def noteDrop (now cls : Nat) (l : Ledger) : Ledger :=
  { l with
    drops := l.drops.set cls (l.drops.getD cls 0 + 1)
    dropAt := some ((l.dropAt.map (·.1)).getD now, now) }

/-- The FIFO without its oldest class 1 to 3 entry, and that entry's class. -/
def dropOldest : List Event → Option (Nat × List Event)
  | [] => none
  | e :: es => if e.cls = 0 then (dropOldest es).map fun r => (r.1, e :: r.2) else some (e.cls, es)

/-- A new entry placed in the FIFO (R472, R474). -/
def fifoPlace (now : Nat) (e : Event) (l : Ledger) : Ledger :=
  if e.cls = 0 ∧ fifoReservedFree l.fifo then { l with fifo := l.fifo ++ [{ e with reserved := true }] }
  else if fifoGeneralFree l.fifo then { l with fifo := l.fifo ++ [e] }
  else
    match dropOldest l.fifo with
    | some (cls, f) => { noteDrop now cls l with fifo := f ++ [e] }
    | none => noteDrop now e.cls l

/-- An event enters the FIFO: merged within LOG.COALESCE_T, or, for class 0 with 383 class-0 entries held, into the
newest entry of its pair (R473); else placed. -/
def fifoAdd (coalesce : Nat) (now : Nat) (e : Event) (l : Ledger) : Ledger :=
  match findLast (samePair e) l.fifo with
  | none => fifoPlace now e l
  | some old =>
    if e.at_ - old.at_ ≤ coalesce ∨ (e.cls = 0 ∧ 383 ≤ (l.fifo.filter (·.cls = 0)).length) then
      { l with fifo := modLast (samePair e) (mergeEvent now) l.fifo }
    else fifoPlace now e l

/-- The entry of an event detected now. -/
def newEvent (s : State) (type cls kind source : Nat) (payload : Bytes) : Event :=
  { type, srcKind := kind, source, cls, time := s.tb.ns, last := s.tb.ns, count := 1, countSat := false,
    quality := quality s, sidx := s.met.sidx, sidxEp := s.met.sidxEp, payload := sized 88 payload, reserved := false,
    at_ := s.phys }

/-- An event is detected. Nothing is queued before the timebase runs (R464); a class above LOG.CLASS_MAX is only
counted, class 0 never (R471). -/
def post (e : Ev) (kind source : Nat) (payload : Bytes) (s : State) : State :=
  if !s.tb.run then s
  else if evClass e ≠ 0 ∧ p0 s pLogClassMax < evClass e then
    { s with log := { s.log with hidden := mmod 0 s.log.hidden (evNum e) (· + 1) } }
  else
    { s with log := fifoAdd (p0 s pLogCoalesceT * msNs) s.tb.ns (newEvent s (evNum e) (evClass e) kind source payload) s.log }

/-- A record of a kind of its own (Table 17.3) waits in the FIFO as a class-0 entry that is never merged, and is
committed from it in its turn (log 14). -/
def postKind (kind : Nat) (payload : Bytes) (s : State) : State :=
  if !s.tb.run then s
  else { s with log := fifoPlace s.tb.ns (newEvent s (0xF000 + kind) 0 0xFF 0 payload) s.log }

/-! ### Committing records -/

/-- `a` is later than `b`, modularly over half the range of `w` bits (R52, R475). -/
def later (w a b : Nat) : Bool :=
  let d := (a + 2 ^ w - b % 2 ^ w) % 2 ^ w
  decide (1 ≤ d) && decide (d < 2 ^ (w - 1))

/-- The next ledger SEQ: past 0xFFFF_FFFF comes 1 (R475). -/
def nextSeq (n : Nat) : Nat := if 0xFFFFFFFF ≤ n then 1 else n + 1

/-- The record's SEQ is not yet acknowledged. -/
def unacked (l : Ledger) (r : Record) : Bool := later 32 r.seq l.acked

/-- Slots of the ledger (R475). -/
abbrev ledgerSlots : Nat := 16384

/-- Free slots, acknowledged records counted as free (R478, R479). -/
def freeSlots (l : Ledger) : Nat := ledgerSlots - (l.records.filter (unacked l)).length

/-- Fill as a percentage of 16,384 (R478). -/
def ledgerFill (l : Ledger) : Nat := (ledgerSlots - freeSlots l) * 100 / ledgerSlots

/-- The list without its first element satisfying `p`. -/
def eraseFirst {α : Type} (p : α → Bool) : List α → List α
  | [] => []
  | x :: xs => if p x then xs else x :: eraseFirst p xs

/-- Room for one record under LOG.POLICY (R480): the ledger with a slot free for it, or none where the entry waits. -/
def makeRoom (hold : Bool) (reserve cls : Nat) (lost : Bool) (l : Ledger) : Option Ledger :=
  if hold ∧ freeSlots l ≤ reserve ∧ cls ≠ 0 ∧ !lost then none
  else if l.records.length < ledgerSlots then some l
  else if !hold then
    match l.records with
    | [] => some l
    | r :: rs => some { l with records := rs, overwritten := if unacked l r then l.overwritten + 1 else l.overwritten }
  else if 0 < freeSlots l then some { l with records := eraseFirst (fun r => !unacked l r) l.records }
  else if cls = 0 ∧ l.records.any (fun r => bits r.flags.toNat 3 2 ≠ 0) then
    some { l with records := eraseFirst (fun r => bits r.flags.toNat 3 2 ≠ 0) l.records, overwritten := l.overwritten + 1 }
  else none

/-- The record an entry becomes under a SEQ (Table 17.2). -/
def recordOf (epoch seq : Nat) (e : Event) : Record :=
  let kind := if 0xF001 ≤ e.type ∧ e.type ≤ 0xF007 then e.type - 0xF000 else 0
  { seq, time := e.time, dtLast := if e.count = 1 then 0 else satN 0xFFFFFFFF (natRound (e.last - e.time) 1000)
    count := e.count, epoch, type := e.type, source := e.source, srcKind := e.srcKind, kind
    flags := BitVec.ofNat 8 (e.quality + e.cls * 4 + b2n e.countSat * 16)
    sidxEp := e.sidxEp, sidx := e.sidx, payload := e.payload, torn := false }

/-- An event is recorded when the fill rises through LOG.FILL_WARN, and HOLD_FULL follows the free slots (R480). -/
def noteFill (s : State) : State :=
  let full := p0 s pLogPolicy = 1 ∧ freeSlots s.log ≤ p0 s pLogHoldReserve
  let high := p0 s pLogFillWarn ≤ ledgerFill s.log
  let rises := high && !s.log.fillWarn
  let s := { s with log := { s.log with holdFull := decide full, fillWarn := high } }
  if rises then post .logFill 0xFF 0 [] s else s

/-- A record is committed under the next SEQ in one step (R476, log 13); none where its entry waits. -/
def commit (e : Event) (s : State) : Option State :=
  match makeRoom (p0 s pLogPolicy == 1) (p0 s pLogHoldReserve) e.cls (e.type == 0xF001) s.log with
  | none => none
  | some l =>
    let seq := nextSeq l.seq
    some (noteFill { s with log := { l with records := l.records ++ [recordOf s.pow.epoch seq e], seq := seq } })

/-- A record is committed directly by firmware, or left where no slot may take it. -/
def commitDirect (e : Event) (s : State) : State := (commit e s).getD s

/-- TYPE as a record or the catalogue shows it: the group of the model's number with the part's own index (R471, log 6);
the types of kinds 0x01 to 0x07 are the manual's. -/
def shownType (n : Nat) : Nat :=
  if 0xF001 ≤ n ∧ n ≤ 0xF007 then n else n / 4096 * 4096 + (Config.evIndex n).toNat

/-- The 128 bytes of a record (Table 17.2); a torn slot shows a CRC that does not fit (R477). -/
def recordBytes (r : Record) : Bytes :=
  let tail := le 8 r.time ++ le 4 r.dtLast ++ le 2 r.count ++ le 2 r.epoch ++ le 2 (shownType r.type) ++ le 2 r.source
    ++ [BitVec.ofNat 8 r.srcKind, BitVec.ofNat 8 r.kind, r.flags, BitVec.ofNat 8 r.sidxEp] ++ le 4 r.sidx ++ le 4 0
    ++ sized 88 r.payload
  let c := crc32 (le 4 r.seq ++ tail)
  le 4 r.seq ++ le 4 (if r.torn then c ^^^ 1 else c) ++ tail

end Sys2Proof.Machine
end

