-- ==== Sys2Proof/Machine/Hub.lean ====
section
/-!
DEFINITION. The host hub as operations: roles and sessions, the reception checks of Table 15.6, the transaction table,
completions, the replay store and notices (R405 to R438).
-/
namespace Sys2Proof.Machine
open Sys2Proof

/-! ### Service level and OTP bits -/

/-- Service level: 2 Normal, power-down included until its rails go; 1 Cress; 0 otherwise (R36). -/
def level (s : State) : Nat :=
  match s.pow.phase with
  | .normal | .powerDown => 2
  | .cress => 1
  | _ => 0

/-- The module is in Normal and not powering down. -/
def inNormal (s : State) : Bool := s.pow.phase == .normal

/-- The firmware runs in Normal: out of a warm restart and with the cores running. -/
def podUp (s : State) : Bool := inNormal s && s.pod.running && !s.pod.warm && !s.pod.heldReset

/-- INTEGRATOR_CFG of OTP (Table 13.7). -/
def otpCfg (s : State) : Nat := leNat (cellReads s.pod.otp 0x1140 4)

/-- PORT_SECRET, and whether it is programmed and intact: its check word fits and is not blank (Table 13.7, R371). -/
def otpSecret (s : State) : Bytes := cellReads s.pod.otp 0x1100 32
def secretSet (s : State) : Bool :=
  let check := leNat (cellReads s.pod.otp 0x1120 4)
  check == crc32 (otpSecret s) && ((otpSecret s).any (· != 0) || check != 0)

/-- Something of PORT_SECRET is programmed but its check fails. -/
def secretDamaged (s : State) : Bool :=
  !secretSet s && ((otpSecret s).any (· != 0) || leNat (cellReads s.pod.otp 0x1120 4) != 0)

/-- Module unique ID (Table 13.7). -/
def uid (s : State) : Bytes := cellReads s.pod.otp 0 16

/-! ### Ports -/

/-- State of a port. -/
def portOf (s : State) (p : Port) : PortState := mget {} s.hub.ports (portCode p)

/-- The hub changed. -/
def withHub (s : State) (f : Hub → Hub) : State := { s with hub := f s.hub }

/-- A port's state changed. -/
def modPort (p : Port) (f : PortState → PortState) (s : State) : State :=
  withHub s fun h => { h with ports := mmod {} h.ports (portCode p) f }

/-- Largest payload of a port (Table 15.1). -/
def largest : Port → Nat
  | .A | .B | .P => 256
  | .E | .S => 1024

/-- The Cress port: A with BOOT_PORT high, else S (R37). -/
def cressPort (s : State) : Port := if s.pod.bootPort then .A else .S

/-- The port is powered: enabled in Normal, selected in Cress (R406). -/
def portPowered (s : State) (p : Port) : Bool :=
  match s.pow.phase with
  | .normal | .powerDown => bit (p0 s pHostPortEnable) (portCode p)
  | .cress => decide (p = cressPort s)
  | _ => false

/-- Role limit that PORT_RESTRICT sets for Ports A and S (R433). -/
def otpLimit (s : State) (p : Port) : Nat :=
  let c := otpCfg s
  match p with
  | .A => 2 - min 2 (bits c 5 4)
  | .S => 2 - min 2 (bits c 7 6)
  | _ => 2

/-- Highest role the port gives or may grant (R433). -/
def portRole (s : State) (p : Port) : Nat :=
  match p with
  | .P => 0
  | _ => min (pn s pHostRoleMax (portCode p)) (otpLimit s p)

/-- The session of a port by number. -/
def sessionOf (s : State) (p : Port) (n : Nat) : Option Session := (portOf s p).sessions.find? (·.num = n)

/-- The open session a request of Ports E and B names, if any; session 0 is none. -/
def openSession (s : State) (p : Port) (n : Nat) : Option Session :=
  if p = .E ∨ p = .B then if n = 0 then none else (sessionOf s p n).filter (·.opened) else none

/-- Role of a request (R432). -/
def requestRole (s : State) (p : Port) (addr : Nat) : Nat :=
  match p with
  | .A | .S => portRole s p
  | .P => 0
  | _ => ((openSession s p (addr % 8)).map (·.role)).getD 0

/-! ### Opcodes (Table 15.12 and the command tables it names) -/

/-- One opcode: class, minimum role, in the Cress subset, ports allowed by code, and fixed response size (0 where the
size is reduced to fit or is small). -/
structure OpRow where
  cls   : Nat
  role  : Nat
  cress : Bool
  ports : List Nat
  size  : Nat
  deriving DecidableEq, Repr

/-- A row of the opcode table allowed on every port. -/
def opRow (cls role : Nat) (cress : Bool) (size : Nat) : Option OpRow :=
  some { cls, role, cress, ports := [0, 1, 2, 3, 4], size }

/-- The opcode table (R439). -/
def opTable : Nat → Option OpRow
  | 0x0001 => opRow 2 0 true 32
  | 0x0002 => opRow 2 0 true 0
  | 0x0003 => opRow 1 2 false 0
  | 0x0004 => opRow 1 2 false 8
  | 0x0005 => opRow 3 0 false 0
  | 0x0006 => opRow 3 2 false 0
  | 0x1001 => opRow 2 0 true 36
  | 0x1002 => opRow 1 2 false 1
  | 0x1003 => opRow 1 1 true 1
  | 0x2001 => opRow 2 0 true 52
  | 0x2002 => opRow 3 2 true 1
  | 0x2003 => opRow 3 2 true 1
  | 0x2004 => opRow 1 2 true 1
  | 0x2005 => opRow 1 2 true 1
  | 0x2006 => opRow 2 0 true 0
  | 0x2007 => some { cls := 1, role := 2, cress := false, ports := [3], size := 1 }
  | 0x3001 => some { cls := 1, role := 0, cress := false, ports := [1, 2], size := 20 }
  | 0x3002 => some { cls := 1, role := 0, cress := false, ports := [1, 2], size := 32 }
  | 0x3003 => some { cls := 1, role := 0, cress := false, ports := [1, 2], size := 0 }
  | 0x3004 => opRow 2 0 true 80
  | 0x4001 => opRow 1 2 false 9
  | 0x4002 => opRow 1 2 false 8
  | 0x4003 => opRow 2 0 false 32
  | 0x4004 => opRow 0 1 false 0
  | 0x5001 => opRow 2 0 false 0
  | 0x5002 => opRow 2 0 false 0
  | 0x5003 => opRow 2 0 false 0
  | 0x6001 => opRow 2 0 false 30
  | 0x6002 => opRow 1 2 false 0
  | 0x6003 => opRow 1 1 false 0
  | 0x6004 => opRow 2 0 false 33
  | 0x6005 => opRow 2 0 false 16
  | 0x6006 => some { cls := 3, role := 0, cress := false, ports := [2, 3], size := 512 }
  | 0x7001 => opRow 0 0 false 44
  | 0x7002 => opRow 2 0 false 0
  | 0x7003 => opRow 3 0 false 0
  | 0x7004 => opRow 3 2 false 0
  | 0x8001 => opRow 1 2 false 2
  | 0x9001 => opRow 0 0 true 28
  | 0x9002 => opRow 0 2 false 0
  | 0x9003 => opRow 0 2 false 8
  | 0x9004 => opRow 0 1 false 0
  | 0xA001 => opRow 1 1 false 17
  | 0xA002 => opRow 1 1 false 17
  | 0xA003 => opRow 1 1 false 16
  | 0xA004 => opRow 1 1 false 16
  | 0xA005 => opRow 1 1 false 16
  | 0xA006 => opRow 1 1 false 17
  | 0xA007 => opRow 1 1 false 17
  | 0xA008 => opRow 2 0 false 140
  | 0xB001 => opRow 1 1 false 48
  | 0xB002 => opRow 1 1 false 48
  | 0xB003 => opRow 1 1 false 48
  | 0xB004 => opRow 2 0 false 0
  | 0xC001 => opRow 1 1 false 8
  | 0xC002 => opRow 1 1 false 1
  | 0xC003 => opRow 2 0 false 128
  | 0xC004 => opRow 2 1 false 4
  | 0xD001 => opRow 1 1 false 2
  | 0xD002 => opRow 1 2 false 2
  | 0xD003 => opRow 2 0 false 40
  | 0xE001 => opRow 2 0 false 88
  | 0xF001 => opRow 2 0 true 0
  | 0xF002 => opRow 2 1 true 12
  | 0xF003 => opRow 3 0 false 0
  | 0xF004 => opRow 3 0 false 0
  | 0xF005 => opRow 2 1 false 5
  | 0xF006 => opRow 2 0 false 40
  | _ => none

/-- Minimum role of an opcode on a port: RESTART needs Service in Normal, Operate on the Cress port (Table 14.9). -/
def minRole (s : State) (op : Nat) (r : OpRow) : Nat := if op = 0x1003 ∧ level s ≠ 1 then 2 else r.role

/-- Completions of the opcode are kept in the replay store (R424). -/
def replayable (r : OpRow) : Bool := decide (r.cls ≤ 1) || decide (0 < r.role)

/-! ### Messages (Table 15.5) -/

/-- Header bytes 0 to 13 of a message. -/
def headerBytes (m : OutMsg) : Bytes :=
  [BitVec.ofNat 8 (0x10 + m.kind), BitVec.ofNat 8 (portCode m.port * 32 + m.tc * 8 + b2n (!m.trailer.isEmpty) * 4)]
  ++ le 2 m.tag ++ le 2 m.opcode ++ le 2 m.payload.length ++ le 2 m.epoch
  ++ [BitVec.ofNat 8 m.status, BitVec.ofNat 8 m.addr] ++ le 2 m.seq

/-- A whole message with its CRC (R419). -/
def messageBytes (m : OutMsg) : Bytes :=
  headerBytes m ++ le 2 (crc16 (headerBytes m ++ m.payload ++ m.trailer)) ++ m.payload ++ m.trailer

/-- The message with the trailer of an open session (R420). -/
def withTrailer (ses : Option Session) (m : OutMsg) : OutMsg :=
  match ses with
  | none => m
  | some k =>
    let m' := { m with trailer := List.replicate 8 0 }
    { m with trailer := (hmac k.key (headerBytes m' ++ m.payload)).take 8 }

/-! ### CAN frames (R408, R409) -/

/-- Instance of the HOST.CAN parameters: Port A 0, Port B 1. -/
def canInst : Port → Nat
  | .B => 1
  | _ => 0

/-- The identifier of a class from the module to the host (Table 15.2). -/
def canId (s : State) (p : Port) (tc : Nat) : Nat :=
  let i := canInst p
  let node := pn s pHostCanNode i
  if pn s pHostCanIde i = 1 then tc * 2 ^ 27 + 2 ^ 26 + pn s pHostCanPrefix i * 256 + node else tc * 512 + 256 + node

/-- The FD data length a segment of `n` bytes is padded to (R409). -/
def fdLength (n : Nat) : Nat := ([0, 1, 2, 3, 4, 5, 6, 7, 8, 12, 16, 20, 24, 32, 48, 64].find? fun l => n ≤ l).getD 64

/-- Data field of segment `i` of a message's bytes: the segment byte, 63 bytes in every segment but the last, and the last
padded with zeros (R409). -/
def segmentBytes (m : Bytes) (i : Nat) : Bytes :=
  let part := (m.drop (63 * i)).take 63
  let last := decide (m.length ≤ 63 * (i + 1))
  BitVec.ofNat 8 (b2n last * 128 + i) :: part ++ List.replicate (fdLength (part.length + 1) - (part.length + 1)) 0

/-- The frames that carry a message on Port A or B. -/
def canFrames (s : State) (m : OutMsg) : List CanFrame :=
  let b := messageBytes m
  (List.range ((b.length + 62) / 63)).map fun i =>
    { port := m.port, ext := pn s pHostCanIde (canInst m.port) == 1, id := canId s m.port m.tc, data := segmentBytes b i }

/-- A message that a module without a position would originate on Port P (R417). -/
def noOrigin (s : State) (p : Port) : Bool := decide (p = .P) && s.hub.position == 0xFF

/-- A message handed to its port's transmitter: held where the port has failed and it is a completion, lost where it is a
notice (R438); queued for READ on Port S (R414), cut into frames on Ports A and B (R409). -/
def sendMsg (m : OutMsg) (s : State) : State :=
  if !portPowered s m.port || noOrigin s m.port then s
  else if (portOf s m.port).failed then
    if m.kind = 1 then modPort m.port (fun p => { p with held := p.held ++ [m] }) s else s
  else if m.port = .S then withHub s fun h => { h with spiQueue := h.spiQueue ++ [m] }
  else if m.port = .A ∨ m.port = .B then withHub s fun h => { h with sent := h.sent ++ [m], can := h.can ++ canFrames s m }
  else withHub s fun h => { h with sent := h.sent ++ [m] }

/-- Payload a completion carries under its status (R425). -/
def payloadFor (status : Nat) (payload : Bytes) : Bytes :=
  if status = 0x10 ∨ status = 0x12 ∨ status = 0x40 then [] else payload

/-- The completion of a request by its parts. -/
def completionMsg (s : State) (p : Port) (tag op cls session seq status : Nat) (payload : Bytes) : OutMsg :=
  let m : OutMsg :=
    { port := p, kind := 1, tc := cls, tag, opcode := op, status, epoch := s.pow.epoch
      addr := if p = .P then seq % 256 else session
      seq := if p = .P then s.hub.position else if session = 0 then 0 else seq
      payload := payloadFor status payload, trailer := []
      dest := if p = .E then mget 0 s.hub.ethPeer tag else 0, time := s.tb.ns, quality := quality s }
  withTrailer (openSession s p session) m

/-- A request that is not entered is answered at once. -/
def answer (rq : Request) (op status : Nat) (payload : Bytes) (s : State) : State :=
  let cls := ((opTable op).map (·.cls)).getD rq.tc
  let ses := if rq.port = .E ∨ rq.port = .B then rq.addr % 8 else 0
  let s := if status = 0x40 then modPort rq.port (fun p => { p with busy := inc16 p.busy }) s else s
  sendMsg (completionMsg s rq.port rq.tag op cls ses rq.seq status payload) s

/-- The transaction by port code and tag. -/
def findTxn (s : State) (key : Nat × Nat) : Option Txn :=
  s.hub.txns.find? fun t => decide (portCode t.port = key.1) && decide (t.tag = key.2)

/-- Key of a transaction. -/
def txnKey (t : Txn) : Nat × Nat := (portCode t.port, t.tag)

/-- The table without a transaction. -/
def dropTxn (key : Nat × Nat) (h : Hub) : Hub :=
  { h with txns := h.txns.filter fun t => !(decide (portCode t.port = key.1) && decide (t.tag = key.2)) }

/-- A transaction changed. -/
def modTxn (key : Nat × Nat) (f : Txn → Txn) (s : State) : State :=
  withHub s fun h => { h with txns := h.txns.map fun t => if portCode t.port = key.1 ∧ t.tag = key.2 then f t else t }

/-- The completion of a transaction: its entry is freed as it is handed to the transmitter, and the replay store keeps it
where its opcode is stored and it is not BUSY, after which the same request may be sent again (R422 to R425). -/
def complete (t : Txn) (status : Nat) (payload : Bytes) (s : State) : State :=
  let m := completionMsg s t.port t.tag t.opcode t.cls t.session t.seq status payload
  let stored := match opTable t.opcode with
    | some r => replayable r && status != 0x40
    | none => false
  let s := withHub s (dropTxn (txnKey t))
  let s := if stored then
      modPort t.port (fun p => { p with replay := ({ tag := t.tag, crc := t.crc, msg := m } :: p.replay).take 64 }) s
    else s
  sendMsg m s

/-! ### Reception checks 3 to 11 (Table 15.6, R421 to R424) -/

/-- The outcome of the checks: the state after them, and the transaction entered, if one is. -/
abbrev Admit := State × Option Txn

/-- The mailbox service runs (check 3): in Normal with the Pod serving, or in Cress. -/
def serving (s : State) : Bool :=
  match s.pow.phase with
  | .normal => !s.pod.warm && !s.pod.heldReset
  | .cress => !s.pod.warm && !s.pod.heldReset
  | _ => false

/-- Bytes of a request header a session trailer is computed over (R420). -/
def requestHeader (rq : Request) (op : Nat) : Bytes :=
  [0x10, BitVec.ofNat 8 (portCode rq.port * 32 + rq.tc * 8 + b2n rq.trl * 4 + rq.res % 4)]
  ++ le 2 (rq.tag + rq.res / 4 * 1024) ++ le 2 op
  ++ le 2 rq.payload.length ++ le 2 rq.epoch ++ [0, BitVec.ofNat 8 rq.addr] ++ le 2 rq.seq

/-- The trailer verifies under a session key; the port code bits of byte 1 are ignored on receipt, so the code the host
sends is tried for each port code (Table 15.5). -/
def trailerFits (key : Bytes) (rq : Request) (op : Nat) : Bool :=
  rq.trl && ((List.range 8).any fun c =>
    let h := requestHeader rq op
    let h' := h.set 1 (BitVec.ofNat 8 (c * 32 + rq.tc * 8 + b2n rq.trl * 4 + rq.res % 4))
    rq.trailer == (hmac key (h' ++ rq.payload)).take 8)

/-- Check 4: session 0, or an open session whose trailer verifies; Ports A, S and P have no sessions. -/
def sessionFits (s : State) (rq : Request) (op : Nat) : Bool :=
  match rq.port with
  | .E | .B =>
    rq.addr % 8 == 0 ||
    match openSession s rq.port (rq.addr % 8) with
    | none => op == 0x3002 && (sessionOf s rq.port (rq.addr % 8)).isSome
    | some k => trailerFits k.key rq op
  | _ => true

/-- Entries a port holds of one pool; completions held for a failed port keep theirs (R422, R438). -/
def tc0Held (s : State) (p : Port) : Nat :=
  (s.hub.txns.filter fun t => decide (t.port = p) && t.cls == 0).length + ((portOf s p).held.filter (·.tc = 0)).length
def generalHeld (s : State) (p : Port) : Nat :=
  (s.hub.txns.filter fun t => decide (t.port = p) && t.cls != 0).length + ((portOf s p).held.filter (·.tc ≠ 0)).length

/-- Reserved and general entries in use over all ports. -/
def reservedUsed (s : State) : Nat := (s.hub.txns.filter (·.reserved)).length
def heldCount (s : State) : Nat := (s.hub.ports.map fun e => e.2.held.length).sum
def generalUsed (s : State) : Nat := (s.hub.txns.filter fun t => !t.reserved).length + heldCount s

/-- The pool an entry would come from: some true reserved, some false general, none for no entry (R422). -/
def entryFor (s : State) (p : Port) (cls : Nat) : Option Bool :=
  if cls = 0 then
    if 12 ≤ tc0Held s p then none
    else if reservedUsed s < 64 then some true
    else if generalUsed s < 960 then some false else none
  else if generalHeld s p < pn s pHostQuota (portCode p) ∧ generalUsed s < 960 then some false else none

/-- A tag is open on the port: an entry, or a completion held for it. -/
def tagOpen (s : State) (p : Port) (tag : Nat) : Bool :=
  s.hub.txns.any (fun t => decide (t.port = p) && t.tag == tag) || (portOf s p).held.any (·.tag = tag)

/-- Reserved header bits of a request are set: of PORT_TC, TAG, ADDR on Ports E and B, SEQ on Port P (Table 15.5). -/
def reservedSet (rq : Request) : Bool :=
  rq.res != 0 || ((decide (rq.port = .E) || decide (rq.port = .B)) && decide (8 ≤ rq.addr))
  || (decide (rq.port = .P) && decide (256 ≤ rq.seq))

/-- Checks 7 to 11 of Table 15.6. The header's reserved bits are counted as the request is entered (R19, R418). -/
def admitLate (s : State) (rq : Request) (op : Nat) : Admit :=
  if rq.epoch ≠ 0 ∧ rq.epoch ≠ s.pow.epoch then (answer rq op 0x11 [] s, none)
  else
    match opTable op with
    | none => (answer rq op 0x10 [] s, none)
    | some r =>
      let role := requestRole s rq.port rq.addr
      let inSession := op = 0x3003 → (openSession s rq.port (rq.addr % 8)).isSome = true
      if role < minRole s op r ∨ portCode rq.port ∉ r.ports ∨ ¬ inSession then (answer rq op 0x12 [] s, none)
      else if (level s = 1 ∧ !r.cress) ∨ largest rq.port < r.size then (answer rq op 0x11 [] s, none)
      else
        match entryFor s rq.port r.cls with
        | none => (answer rq op 0x40 [] s, none)
        | some reserved =>
          let ses := if rq.port = .E ∨ rq.port = .B then rq.addr % 8 else 0
          let t : Txn := { port := rq.port, tag := rq.tag, opcode := op, cls := r.cls, reserved, crc := rq.crc
                           session := ses, seq := rq.seq, role, payload := rq.payload, served := false
                           items := [], waiting := [] }
          let s := if rq.tc = r.cls then s else countClamps 1 s
          let s := if reservedSet rq then countClamps 1 s else s
          let s := withHub s fun h => { h with txns := h.txns ++ [t] }
          let s := modPort rq.port (fun p => { p with sessions := p.sessions.map fun k =>
            if k.opened ∧ k.num = ses then { k with lastSeq := some rq.seq, used := s.phys } else k }) s
          (s, some t)

/-- Check 6: in a session, SEQ is later than the last accepted one; the first may be any but 0 (R435). -/
def seqFresh (s : State) (rq : Request) : Bool :=
  match openSession s rq.port (rq.addr % 8) with
  | none => true
  | some k =>
    match k.lastSeq with
    | none => rq.seq != 0
    | some n => later 16 rq.seq n

/-- Checks 3 to 11 of Table 15.6 on a request that reached a powered port. -/
def admitTxn (s : State) (rq : Request) (op : Nat) : Admit :=
  if !portPowered s rq.port then (s, none)
  else if !serving s then (answer rq op 0x40 [] s, none)
  else if !sessionFits s rq op then
    (answer rq op 0x12 [] (modPort rq.port (fun p => { p with authFail := inc16 p.authFail }) s), none)
  else if tagOpen s rq.port rq.tag then (modPort rq.port (fun p => { p with dup := inc16 p.dup }) s, none)
  else
    match (portOf s rq.port).replay.find? (fun e => decide (e.tag = rq.tag) && decide (e.crc = rq.crc)) with
    | some e =>
      (sendMsg { e.msg with dest := if rq.port = .E then mget 0 s.hub.ethPeer rq.tag else 0 } (modPort rq.port (fun p => { p with dup := inc16 p.dup, replayed := inc16 p.replayed }) s), none)
    | none =>
      if !seqFresh s rq then
        (answer rq op 0x12 [] (modPort rq.port (fun p => { p with authFail := inc16 p.authFail }) s), none)
      else admitLate s rq op

/-- The entered, not yet served transaction of a request, if the port's traffic has already entered it (log 15). -/
def entered (s : State) (rq : Request) (op : Nat) : Option Txn :=
  s.hub.txns.find? fun t =>
    decide (t.port = rq.port) && decide (t.tag = rq.tag) && decide (t.opcode = op) && decide (t.crc = rq.crc) && !t.served

/-- Length of an opcode's request, where its layout fixes one: none where data or items follow (R426 and the command
tables). -/
def reqSize : Nat → Option Nat
  | 0x0002 | 0x0003 | 0x0005 | 0x0006 | 0x2002 | 0x2007 | 0x7003 | 0x7004 => none
  | 0x3001 => some 20
  | 0x3002 => some 32
  | 0x0004 => some 6
  | 0x2006 => some 8
  | 0x4001 => some 2
  | 0x4002 | 0x4004 => some 1
  | 0x5001 | 0x5002 => some 4
  | 0x5003 => some 2
  | 0x6002 => some 24
  | 0x6006 => some 2
  | 0x7002 => some 6
  | 0x8001 => some 5
  | 0xA001 | 0xA003 | 0xA004 => some 2
  | 0xA002 => some 1
  | 0xA005 => some 4
  | 0xB001 | 0xB003 => some 12
  | 0xB002 | 0xB004 => some 8
  | 0xC001 => some 2
  | 0xC002 => some 3
  | 0xC003 | 0xC004 => some 1
  | 0xD001 | 0xD003 => some 1
  | 0xD002 => some 5
  | 0xF001 | 0xF002 => none
  | 0xF003 | 0xF004 => some 12
  | 0xF005 => some 2
  | _ => some 0

/-- A payload longer or shorter than the opcode's fixed part is truncated or extended, and counted (R426). -/
def noteSize (op : Nat) (payload : Bytes) (s : State) : State :=
  match reqSize op with
  | none => s
  | some n => if payload.length = n then s else countClamps 1 s

/-- A mailbox command: the request's transaction is entered unless it stands entered, marked as being served, and its
opcode's work `body` done on it (R421, R427). -/
def mailbox (op dt : Nat) (rq : Request) (body : Txn → State → State) (s : State) : State :=
  let s := advance dt s
  let serve (t : Txn) (s : State) : State :=
    if serving s then
      body { t with served := true } (noteSize op t.payload (modTxn (txnKey t) (fun t => { t with served := true }) s))
    else s
  match entered s rq op with
  | some t => serve t s
  | none =>
    match admitTxn s rq op with
    | (s, none) => s
    | (s, some t) => serve t s

/-- A command whose completion carries what it read, and which changes nothing else. -/
def readOp (op dt : Nat) (rq : Request) (payload : Txn → State → Bytes) (s : State) : State :=
  mailbox op dt rq (fun t s => complete t 0x00 (payload t s) s) s

/-! ### Notices -/

/-- A notice can leave on the port now. -/
def noticeGoes (s : State) (p : Port) : Bool :=
  portPowered s p && !(portOf s p).failed && !(decide (p = .E) && p0 s pHostNoticeIp == 0) && !noOrigin s p

/-- A notice sent on a port with the port's next counter in TAG (Table 15.5). Port E sends none while HOST.NOTICE_IP is
0 (R411); Port S is no limit port and takes the power-fail frame alone. -/
def notice (p : Port) (op tc addr : Nat) (payload : Bytes) (s : State) : State :=
  if !noticeGoes s p then s
  else
    let n := ((portOf s p).notices + 1) % 1024
    let m : OutMsg :=
      { port := p, kind := 2, tc, tag := n, opcode := op, status := 0, epoch := s.pow.epoch
        addr := if p = .P then addr else 0, seq := if p = .P then s.hub.position else 0
        payload, trailer := [], dest := if p = .E then p0 s pHostNoticeIp * 65536 + p0 s pHostNoticeUdp else 0
        time := s.tb.ns, quality := quality s }
    sendMsg m (modPort p (fun q => { q with notices := n }) s)

/-- The head begins an assignment of the site ring: position 0 is its own, and a notice carrying 0 leaves on PEER_DN
under the next run number (R416). -/
def assignRing (s : State) : State :=
  if s.pod.peerHead && portPowered s .P && !s.hub.conflict then
    let run := (s.hub.run + 1) % 256
    withHub s fun h => { h with
      run, assigning := true, assignAt := s.phys, assigned := true, position := 0, site := h.site ++ [.assign .dn 0 0 run] }
  else s

/-- The ports in code order. -/
def allPorts : List Port := [.A, .B, .E, .S, .P]

/-- An end of all open transactions of the module: each completes with the status, TC0 first, then in ascending tag order
(R397, R438), its payload made by `payload`. -/
def abortAll (status : Nat) (payload : Txn → Bytes) (s : State) : State :=
  let ts := s.hub.txns
  let tc0 := ts.filter (·.cls = 0)
  let rest := sortBy (·.tag) (ts.filter (·.cls ≠ 0))
  (tc0 ++ rest).foldl (fun s t => complete t status (payload t) s) s

end Sys2Proof.Machine
end

