-- ==== Sys2Proof/Machine/Buffers.lean ====
section
/-!
DEFINITION. The capture and trace buffers as operations: arming, triggers and their later list (R144 to R146, R311, R482).
-/
namespace Sys2Proof.Machine
open Sys2Proof

/-- Words of one captured instant under a channel mask: the flag word, one word per channel, ten of wideband (R144). -/
def capWords (channels : Nat) : Nat := 1 + (setBits 6 channels).length + (if bit channels 6 then 10 else 0)

/-- Instants the buffer holds, and those kept before the trigger (R144). -/
def capDepth (words : Nat) : Nat := 262144 / words
def capPre (words pct : Nat) : Nat := capDepth words * pct / 100

/-- The capture is armed: emptied, under the MET.CAP values applied now (R482, Table 16.4). -/
def armCapture (s : State) : State :=
  let ch := p0 s pMetCapChannels
  let w := capWords ch
  { s with met := { s.met with cap :=
    { state := .armed, channels := ch, words := w, pre := capPre w (p0 s pMetCapPre), spare := p0 s pMetCapSpareRole
      freeze := s.met.cap.freeze } } }

/-- A trace buffer's state changed. -/
def modTrace (b : Nat) (f : Trace → Trace) (s : State) : State :=
  { s with ctl := { s.ctl with traces := mmod {} s.ctl.traces b f } }

/-- One buffer sees a trigger of one source: the first enabled one wins, later ones are listed (R311). -/
def hitTrace (src : Nat) (t : Trace) : Trace :=
  if !bit t.trig src then t
  else
    match t.state with
    | .armed =>
      let kept := t.data.take (t.preN + 1)
      { t with
        state := .filling, source := src, data := kept, trigAt := kept.length - 1
        post := if kept.length = 0 then 8192 - t.preN else 8192 - t.preN - 1 }
    | .filling => { t with later := true }
    | _ => t

/-- A trigger of one source reaches the trace buffers of `bufs`; a buffer it starts gives the other buffers source 7. -/
def traceTrigger (src : Nat) (bufs : List Nat) (s : State) : State :=
  let tr (b : Nat) : Trace := mget {} s.ctl.traces b
  let started := bufs.filter fun b => decide ((tr b).state = .armed) && bit (tr b).trig src
  let s := bufs.foldl (fun s b => modTrace b (hitTrace src) s) s
  if started.isEmpty then s
  else
    let others := (List.range 4).filter fun b => started.any (· != b)
    others.foldl (fun s b => modTrace b (hitTrace 7) s) s

/-- Arrival time of a trigger within its sampling instant, in metrology clock periods of 1/40.96 MHz, 0 to 1,279 (R145). -/
def arrivalNow (s : State) : Nat := min 1279 (since s s.met.instAt * 4096 / 100000)

/-- A trigger of one MET.CAP_TRIG bit arrives at the capture (R145, R482); an armed capture it starts gives the trace
buffers source 6. With MET.CAP_PRE at 100 % every instant held is from before the trigger but the trigger instant itself,
which takes one of the buffer's places (DESIGN CHOICE, log 145). -/
def capTriggerAt (src arrival : Nat) (s : State) : State :=
  if !bit (p0 s pMetCapTrig) src then s
  else
    let c := s.met.cap
    match c.state with
    | .armed =>
      let kept := c.data.take (c.pre + 1)
      let c := { c with
        state := .filling, source := src, arrival, trigIdx := s.met.sidx
        trigPre := kept.length - 1, data := kept
        post := if kept.length = 0 then capDepth c.words - c.pre else capDepth c.words - c.pre - 1 }
      traceTrigger 6 (List.range 4) { s with met := { s.met with cap := c } }
    | .filling =>
      if c.later.length < 8 then
        { s with met := { s.met with cap := { c with later := c.later ++ [(src, s.met.sidx)] } } }
      else s
    | _ => s

/-- A trigger from inside the module, stamped as it comes (log 16). -/
def capTrigger (src : Nat) (s : State) : State := capTriggerAt src (arrivalNow s) s

/-- A Husk trip triggers the capture and the trace buffers. -/
def huskTrigger (s : State) : State := traceTrigger 5 (List.range 4) (capTrigger 1 s)

end Sys2Proof.Machine
end

