-- ==== Sys2Proof/Machine/Items.lean ====
section
/-!
DEFINITION. Itemised transactions (R238 and the item tables of the chapters), and the LIMITS notice (R430).
-/
namespace Sys2Proof.Machine
open Sys2Proof

/-! ### Item results -/

/-- Status of a sequencing result code (Table 08.4). -/
def seqStatusOf (c : Nat) : Nat :=
  if c ≤ 0x02 then 0x00
  else if c = 0x10 ∨ c = 0x11 ∨ c = 0x13 ∨ c = 0x14 ∨ c = 0x33 ∨ c = 0x50 then 0x11
  else if c = 0x12 then 0x21
  else if c = 0x20 ∨ c = 0x30 ∨ c = 0x41 then 0x20
  else if c = 0x60 then 0x30
  else if c = 0x61 then 0x31
  else 0x22

/-- Status of a load item result (Table 09.7). -/
def loadStatusOf (c : Nat) : Nat :=
  if c ≤ 0x01 then 0x00
  else if (0x10 ≤ c ∧ c ≤ 0x16) ∨ c = 0x40 then 0x11
  else if c = 0x30 then 0x30
  else if c = 0x31 then 0x31
  else 0x22

/-- Status of the other item results: control, position, rings and buffers (Tables 10.6 and 11.5, R439, R484). -/
def plainStatusOf (c : Nat) : Nat :=
  if c ≤ 0x01 then 0x00
  else if c = 0x21 then 0x21
  else if c = 0x30 then 0x30
  else if c = 0x31 then 0x31
  else 0x11

/-- Status of one item of an opcode. -/
def itemStatus (op c : Nat) : Nat :=
  if op / 4096 = 0xA then seqStatusOf c
  else if op / 4096 = 0xB then loadStatusOf c
  else plainStatusOf c

/-- Bytes of item results. -/
def itemBytes (items : List Nat) : Bytes := items.map (BitVec.ofNat 8)

/-- The items in the order status takes them: of sequencing, the block byte, stored last, comes first (R238). -/
def itemOrder (op : Nat) (items : List Nat) : List Nat :=
  if op / 4096 = 0xA then items.drop 16 ++ items.take 16 else items

/-- Completion status: DONE, or the status of the lowest-numbered failed item (R238). -/
def itemsStatus (op : Nat) (items : List Nat) : Nat :=
  match (itemOrder op items).find? fun c => c ≠ 0xFF ∧ itemStatus op c ≠ 0 with
  | some c => itemStatus op c
  | none => 0

/-- Result bytes a completion carries: of DSC_CLOSE and DSC_OPEN the sixteen of the strings alone (R238). -/
def resultBytes (t : Txn) : Bytes :=
  itemBytes (if t.opcode = 0xA006 ∨ t.opcode = 0xA007 then t.items.take 16 else t.items)

/-- Completion of an itemised transaction: its result bytes alone. -/
def completeItems (t : Txn) (s : State) : State := complete t (itemsStatus t.opcode t.items) (resultBytes t) s

/-- One item of a transaction gets its result; the last one completes the transaction. -/
def endItem (key : Nat × Nat) (i c : Nat) (s : State) : State :=
  match findTxn s key with
  | none => s
  | some t =>
    if i ∈ t.waiting then
      let t := { t with items := t.items.set i c, waiting := t.waiting.erase i }
      if t.waiting.isEmpty then completeItems t s else modTxn key (fun _ => t) s
    else s

/-- Item `i` of every open transaction of the opcodes gets its result. -/
def endItems (ops : List Nat) (i c : Nat) (s : State) : State :=
  (s.hub.txns.filter fun t => decide (t.opcode ∈ ops) && t.served && decide (i ∈ t.waiting)).foldl
    (fun s t => endItem (txnKey t) i c s) s

/-- The transaction is itemised: `n` items, those of `named` open. With none named it completes. -/
def openItems (t : Txn) (n : Nat) (named : List Nat) (s : State) : State :=
  let t := { t with items := List.replicate n 0xFF, waiting := named }
  if named.isEmpty then completeItems t s else modTxn (txnKey t) (fun _ => t) s

/-- An open transaction of the opcodes waits on item `i`. -/
def anyWaits (s : State) (ops : List Nat) (i : Nat) : Bool :=
  s.hub.txns.any fun t => decide (t.opcode ∈ ops) && t.served && decide (i ∈ t.waiting)

/-- Bits a request sets outside `mask` of a field are ignored and counted (R19, R426). -/
def noteReserved (value mask : Nat) (s : State) : State := if value &&& mask = value then s else countClamps 1 s

/-- A read completes with a head and as many items of a size as fit the port; a reduction is counted (R426). -/
def readItems (t : Txn) (size : Nat) (head : Bytes) (items : List Bytes) (s : State) : State :=
  let n := (largest t.port - head.length) / size
  let s := if n < items.length then countClamps 1 s else s
  complete t 0x00 (head ++ (items.take n).flatten) s

/-- First instance and count of a request, reduced to `total` instances and to responses of `size` bytes each after `head`;
size 0 where the response does not grow with the count. -/
def rangeOf (t : Txn) (first count total size head : Nat) (s : State) : Nat × Nat × State :=
  let f := min first (total - 1)
  let fit := if size = 0 then count else (largest t.port - head) / size
  let n := min count (min (total - f) fit)
  let s := if f = first then s else countClamps 1 s
  (f, n, if n = count then s else countClamps 1 s)

/-! ### LIMITS (R430, Table 15.11) -/

/-- The G2 requests standing: charge, discharge. -/
def g2Flags (s : State) : Nat := b2n (!s.prt.g2chg.isEmpty) + 2 * b2n (!s.prt.g2dis.isEmpty)

/-- Payload of a LIMITS notice under given zero flags. -/
def limitsPayload (s : State) (reason flags : Nat) : Bytes :=
  if !s.est.any then
    le 4 0 ++ [BitVec.ofNat 8 reason, BitVec.ofNat 8 flags] ++ le 2 0 ++ List.replicate 32 0 ++ le 4 0xFFFFFFFF
  else
    let p := s.est.set
    le 4 p.sidx ++ [BitVec.ofNat 8 reason, BitVec.ofNat 8 flags] ++ le 2 p.inService.toNat
    ++ (p.block.idis ++ p.block.ichg).flatMap (fun x => le 4 (currentCode (some x)))
    ++ le 4 (p.block.pdis.getD 0 0) ++ le 4 (p.block.pchg.getD 0 0) ++ le 4 (busCode p.vb)

/-- The six block current limits of the newest set. -/
def blockLimits (s : State) : List Int :=
  if s.est.any then s.est.set.block.idis ++ s.est.set.block.ichg else [0, 0, 0, 0, 0, 0]

/-- Ports that HOST.LIMIT_PORTS enables. -/
def limitPorts (s : State) : List Port := allPorts.filter fun p => bit (p0 s pHostLimitPorts) (portCode p)

/-- A LIMITS notice on one port. -/
def limitsOn (reason tc flags : Nat) (s : State) (p : Port) : State :=
  if noticeGoes s p then
    modPort p (fun q => { q with lastLim := some (blockLimits s) })
      (notice p 0x7010 tc 0xFF (limitsPayload s reason flags) s)
  else s

/-- A LIMITS notice on every port enabled; a zero-current request (reason 0x03) is repeated 100 ms after it. -/
def sendLimits (reason tc flags : Nat) (s : State) : State :=
  let s := if reason = 0x03 then withHub s fun h => { h with zeroAt := some s.phys } else s
  (limitPorts s).foldl (limitsOn reason tc flags) s

end Sys2Proof.Machine
end

