-- ==== Sys2Proof/Machine/SeqCore.lean ====
section
/-!
DEFINITION. Sequencing as bookkeeping, with nothing switched: roles, values in force, strings, item ends, and what follows
when a part is opened by the Husk, a gate or the array (R231, R238, R261, R262, R281).
-/
namespace Sys2Proof.Machine
open Sys2Proof

/-! ### Roles (Table 08.1) -/

/-- SEQ.LOAD_ROLE word in force of a load, its role code, and the string of its field (Table 16.4). -/
def roleWord (s : State) (n : Nat) : Nat := (mget 0 s.seq.roles n).toNat
def roleOf (s : State) (n : Nat) : Nat := bits (roleWord s n) 7 0
def roleStr (s : State) (n : Nat) : Nat := bits (roleWord s n) 11 8

/-- The load that holds a role: of string `j` for KP and KN. -/
def loadOfRole (s : State) (role j : Nat) : Option Nat :=
  (List.range 48).find? fun n => roleOf s n == role && (decide (2 < role) || roleStr s n == j)

/-- The strings in ascending order. -/
abbrev allStrings : List Nat := List.range 16

/-- The loads in ascending order. -/
abbrev allLoads : List Nat := List.range 48

/-! ### Values in force (R266) -/

/-- The SEQ values applied now, as a sequence that begins keeps them. -/
def seqPars (s : State) : SMap Int := s.par.applied.filter fun e => decide (e.1 / 65536 / 4096 = 0xA)

/-- A SEQ value kept by a sequence. -/
def kept (m : SMap Int) (id : Nat) : Int := (mfind m (pk id 0)).getD (paramDefault id 0)
def keptN (m : SMap Int) (id : Nat) : Nat := (kept m id).toNat

/-! ### Measurements sequencing uses -/

/-- NA flag clear (Table 04.2 bit [0]). -/
def roleValid (r : RoleSample) : Bool := !bit r.flags.toNat 0

/-- VB, VL and I of the newest sample in mV and mA, none while NA. -/
def vbNow (s : State) : Option Int := if roleValid s.met.vb then some s.met.vb.value else none
def vlNow (s : State) : Option Int := if roleValid s.met.vl then some s.met.vl.value else none

/-- MN is on and MP is not. -/
def ramping (s : State) : Bool := s.seq.step == .pcMn || s.seq.step == .pcRamp

/-- |VB − VL| is within SEQ.PC_DONE_V. -/
def doneWindow (s : State) : Bool :=
  match vbNow s, vlNow s with
  | some b, some l => decide ((b - l).natAbs ≤ keptN s.seq.par pSeqPcDoneV * 1000)
  | _, _ => false
def iNow (s : State) : Option Int := if roleValid s.met.cur then some s.met.cur.value else none

/-- |I| is at most `limit` A. -/
def currentWithin (s : State) (limit : Nat) : Bool :=
  match iNow s with
  | none => false
  | some i => decide (i.natAbs ≤ limit * 1000)

/-! ### Strings -/

/-- A string's sequencing state and its change. -/
def strOf (s : State) (j : Nat) : StrSeq := mget {} s.seq.strs j
def modStr (j : Nat) (f : StrSeq → StrSeq) (s : State) : State :=
  { s with seq := { s.seq with strs := mmod {} s.seq.strs j f } }

/-- A string's sample. -/
def strSample (s : State) (j : Nat) : StringSample := mget {} s.chn.strings j

/-- The string is in service; the strings in service. -/
def inService (s : State) (j : Nat) : Bool := (strOf s j).inService
def serviceList (s : State) : List Nat := allStrings.filter (inService s)
def serviceMask (s : State) : Nat := maskOf (serviceList s)

/-- The string is declared lost (R222). -/
def isLost (s : State) (j : Nat) : Bool := bit s.prt.lost.toNat j

/-- A queued or running join of the string. -/
def joinOf (s : State) (j : Nat) : Option Join := s.seq.joins.find? (·.str = j)
def modJoin (j : Nat) (f : Join → Join) (s : State) : State :=
  { s with seq := { s.seq with joins := s.seq.joins.map fun k => if k.str = j then f k else k } }

/-- The opcodes whose items name strings, and those of the disconnector. -/
abbrev strOps : List Nat := [0xA001, 0xA002, 0xA003, 0xA004]

/-- The sequencing items open on string `j` end, and LAST follows where there is one (Table 08.12). -/
def endStr (ops : List Nat) (j c : Nat) (s : State) : State :=
  if anyWaits s ops j then endItems ops j c { s with seq := { s.seq with last := c } } else s

/-- The block part, or the disconnector's item, of the opcodes ends. -/
def endBlock (ops : List Nat) (c : Nat) (s : State) : State :=
  endItems ops 16 c { s with seq := { s.seq with last := c } }

/-- A join ends with a result: its item, its JOIN_RESULT event where one is due, and the queue (R238, R511). -/
def endJoin (j c : Nat) (s : State) : State :=
  match joinOf s j with
  | none => s
  | some k =>
    let s := { s with seq := { s.seq with joins := s.seq.joins.filter (·.str != j) } }
    let s := if k.report then post .joinResult 4 j [BitVec.ofNat 8 j, BitVec.ofNat 8 c] s else s
    endItems [0xA001, 0xA003] j c { s with seq := { s.seq with last := c } }

/-! ### Loops that sequencing owns (Table 08.7) -/

/-- A loop's state, and its change. -/
def loopOf (s : State) (k : Nat) : Loop := mget {} s.ctl.loops k
def modLoop (k : Nat) (f : Loop → Loop) (s : State) : State :=
  { s with ctl := { s.ctl with loops := mmod {} s.ctl.loops k f } }

/-- A loop is reserved for sequencing (R309). -/
def reserved (s : State) (k : Nat) : Bool :=
  (decide (k ≤ 1) && p0 s pSeqPcMode == 1) || (decide (2 ≤ k) && decide (k ≤ 4) && p0 s pSeqDscMode == 1)

/-- CTL.LOOP_CFG word sequencing gives each reserved loop (Table 10.4): measurement, reference, sink, feed-forward type,
its sources, BRAKE_ON_FAULT and AI_AVG. -/
def reservedCfg : Nat → Nat
  | 0 => 0x0A * 2 ^ 27 + 0x12 * 2 ^ 22 + 9 * 256 + 3 * 64
  | 1 => 0x01 * 2 ^ 27 + 0x18 * 2 ^ 22 + 0x0A * 2 ^ 17 + 0x10 * 2 ^ 12 + 1 * 256 + 2 * 64 + 4
  | 2 => 0x0C * 2 ^ 27 + 0x12 * 2 ^ 22 + 9 * 256 + 3 * 64 + 16
  | 3 => 0x0D * 2 ^ 27 + 0x1A * 2 ^ 22 + 9 * 256 + 3 * 64 + 16
  | _ => 0x03 * 2 ^ 27 + 0x1B * 2 ^ 22 + 3 * 256 + 16 + 4

/-- Configuration in force of a loop. -/
def loopCfg (s : State) (k : Nat) : Nat := if reserved s k then reservedCfg k else pn s pCtlLoopCfg k

/-- Sink, reference source and flags of a configuration (Table 10.9). -/
def cfgMeas (c : Nat) : Nat := bits c 31 27
def cfgRef (c : Nat) : Nat := bits c 26 22
def cfgFf (c : Nat) : Nat := bits c 21 17
def cfgDen (c : Nat) : Nat := bits c 16 12
def cfgSink (c : Nat) : Nat := bits c 11 8
def cfgFfType (c : Nat) : Nat := bits c 7 6

/-- Zero written to a loop's sink at once: its PW duty or DA code (R297, R306). -/
def sinkZero (s : State) (k : Nat) : State :=
  let sink := cfgSink (loopCfg s k)
  if 1 ≤ sink ∧ sink ≤ 6 then
    { s with ctl := { s.ctl with pwNext := mput s.ctl.pwNext (sink - 1) 0, pw := mput s.ctl.pw (sink - 1) 0 } }
  else if sink = 7 ∨ sink = 8 then { s with ctl := { s.ctl with da := mput s.ctl.da (sink - 7) 0 } }
  else s

/-- Items of control commands waiting on a loop end (R310). -/
def endLoopItems (k c : Nat) (s : State) : State := endItems [0xC001] k c s

/-- A loop stops in a state: outputs 0, i = 0, d = 0 (R306, R307). -/
def stopLoop (st : LoopSt) (k : Nat) (s : State) : State :=
  if (loopOf s k).state = .off ∧ st = .forced then s
  else
    let s := modLoop k (fun l => { l with state := st, u := 0, i := 0, d := 0, v := 0, fresh := false }) s
    sinkZero s k

/-- Sequencing switches its loops off. -/
def loopsOff (ks : List Nat) (s : State) : State :=
  ks.foldl (fun s k => if reserved s k ∧ (loopOf s k).state ≠ .off then stopLoop .off k s else s) s

/-! ### Sequences -/

/-- A block sequence is under way (R237). -/
def blockBusy (s : State) : Bool :=
  match s.seq.step with
  | .closeDsc | .closeJoin | .pcProbe | .pcMn | .pcRamp | .pcMp => true
  | _ => s.seq.dscStep != .none

/-- The block sequence of a close ends: its step, and the loops of pre-charge off. Joins it queued go on with 0x02, and a
string it had not yet requested ends as the block part does (R238, R255). -/
def endClose (c : Nat) (s : State) : State :=
  let s := allStrings.foldl (fun s j =>
    if !anyWaits s [0xA001] j then s
    else if (joinOf s j).isSome then endItems [0xA001] j 0x02 (modJoin j (fun k => { k with report := true }) s)
    else endItems [0xA001] j c s) s
  let s := loopsOff [0, 1] { s with seq := { s.seq with
    step := .none, rampAt := none, doneAt := none, pathAt := none, mnAt := none, mpAt := none, shortDone := false } }
  endBlock [0xA001] c s

/-- Steps of a BLOCK_CLOSE. -/
def closing (s : State) : Bool :=
  match s.seq.step with
  | .closeDsc | .closeJoin | .pcProbe | .pcMn | .pcRamp | .pcMp => true
  | _ => false

/-- The disconnector's sequence ends with a result; within a BLOCK_CLOSE, a failure ends that as well (R257, R258). -/
def endDsc (c : Nat) (s : State) : State :=
  let s := loopsOff [2, 3, 4] { s with seq := { s.seq with dscStep := .none, closeCmd := s.seq.closeCmd && c == 0 } }
  let s := endBlock [0xA006, 0xA007] c s
  if s.seq.step = .closeDsc ∧ c ≠ 0 then endClose c s else s

/-- A string is opened: out of service, its weld tests due from now (R247, R248, R261). -/
def strOpened (j : Nat) (s : State) : State :=
  modStr j (fun k => { k with inService := false, joined := false, confPend := false, confAt := none, vTests := 3, vFound := [], iTest := true, offAt := s.phys }) s

/-- The mains are opened: their current test is due. -/
def mainsOpened (s : State) : State :=
  { s with seq := { s.seq with closed := false, mainTest := true, mainOffAt := s.phys } }

/-- A sequenced part that was on has been opened by the Husk, by G3 or G4, by a gate or by the array: the weld tests of
its pair, and every item touching it ends with 0x51 (R261, R262, R281). -/
def partOpened (role j : Nat) (s : State) : State :=
  let s := if s.seq.openMask = 0 && s.seq.opens.isEmpty then { s with seq := { s.seq with openPar := seqPars s } } else s
  if role = 1 ∨ role = 2 then
    let s := strOpened j s
    let s := endJoin j 0x51 s
    endStr strOps j 0x51 { s with seq := { s.seq with
      opens := s.seq.opens.filter fun o => !(o.str == j && decide (o.role ≤ 2))
      openMask := s.seq.openMask &&& ~~~ BitVec.ofNat 16 (2 ^ j) } }
  else if role = 3 ∨ role = 4 then
    let s := mainsOpened s
    let s := if closing s then endClose 0x51 s else s
    let s := match s.seq.step with
      | .openWait | .openMn | .openWeld => { s with seq := { s.seq with
          step := .none, opens := s.seq.opens.filter (·.role != 4), waitAt := none } }
      | _ => s
    if anyWaits s [0xA001, 0xA002] 16 then endBlock [0xA001, 0xA002] 0x51 s else s
  else if role = 5 ∨ role = 6 then
    let s := if role = 5 then { s with seq := { s.seq with pckOffAt := some s.phys } } else s
    if closing s then endClose 0x51 s else s
  else if role = 7 ∨ role = 8 then
    let s := { s with seq := { s.seq with brakeOff := false } }
    let closingDsc := s.seq.dscStep = .dscDrive ∨ s.seq.dscStep = .dscBrake ∨ s.seq.dscStep = .dscMove ∨ s.seq.dscStep = .dscStop
    let s := if closingDsc then endDsc 0x51 { s with seq := { s.seq with dsc := .intermediate } } else s
    if role = 7 ∧ s.seq.dsc ≠ .opened then
      { s with seq := { s.seq with dsc := .opening, dscStep := .openDsc, dscAt := s.phys, closeCmd := false } }
    else s
  else s

end Sys2Proof.Machine
end

