-- ==== Sys2Proof/Machine/LoadOps.lean ====
section
/-!
DEFINITION. The load switch array as operations: definitions, envelopes, admission, channels, clamp energy, hold, gates and
the holds of the Husk (R269 to R291, R509, R513).
-/
namespace Sys2Proof.Machine
open Sys2Proof

/-! ### Definitions (Table 09.2) -/

/-- The definition word in force of an enabled load (R270). -/
def loadDef (s : State) (n : Nat) : Option Nat := (mfind s.lsw.defs n).map (·.toNat)

/-- Channels of a definition. -/
def defHs (w : Nat) : Option Nat := if bits w 19 16 < 12 then some (bits w 19 16) else none
def defLs (w : Nat) : Option Nat := if bits w 13 8 < 40 then some (bits w 13 8) else none
def loadHs (s : State) (n : Nat) : Option Nat := (loadDef s n).bind defHs
def loadLs (s : State) (n : Nat) : Option Nat := (loadDef s n).bind defLs

/-- An HS-only load. -/
def hsOnly (s : State) (n : Nat) : Bool := (loadHs s n).isSome && (loadLs s n).isNone

/-- M2304 clamp mode. -/
def m2304 (s : State) (n : Nat) : Bool := bit ((loadDef s n).getD 0) 25

/-- The thermal manager names the load in an enabled entry (R342). -/
def thmOwned (s : State) (n : Nat) : Bool := s.thm.defs.any fun e => bits e.2.toNat 5 0 == n

/-- The host owns the load (R271). -/
def hostOwned (s : State) (n : Nat) : Bool := (loadDef s n).isSome && roleOf s n == 0 && !thmOwned s n

/-- A load, its change, and the array changed. -/
def loadOf (s : State) (n : Nat) : Load := mget {} s.lsw.loads n
def withLsw (s : State) (f : LoadArray → LoadArray) : State := { s with lsw := f s.lsw }
def modLoad (n : Nat) (f : Load → Load) (s : State) : State :=
  withLsw s fun a => { a with loads := mmod {} a.loads n f }

/-- Channels, and their change. -/
def hsOf (s : State) (h : Nat) : Channel := mget {} s.lsw.hs h
def lsOf (s : State) (l : Nat) : Channel := mget {} s.lsw.ls l
def modHs (h : Nat) (f : Channel → Channel) (s : State) : State := withLsw s fun a => { a with hs := mmod {} a.hs h f }
def modLs (l : Nat) (f : Channel → Channel) (s : State) : State := withLsw s fun a => { a with ls := mmod {} a.ls l f }

/-- A channel by name. -/
def chanOf (s : State) : Chan → Channel
  | .hs h => hsOf s h
  | .ls l => lsOf s l
def modChan (c : Chan) (f : Channel → Channel) (s : State) : State :=
  match c with
  | .hs h => modHs h f s
  | .ls l => modLs l f s

/-- Channels of a load, and loads of a channel. -/
def chansOf (s : State) (n : Nat) : List Chan :=
  (loadHs s n).toList.map Chan.hs ++ (loadLs s n).toList.map Chan.ls
def loadsOn (s : State) (c : Chan) : List Nat := allLoads.filter fun n => decide (c ∈ chansOf s n)

/-- The load draws current or is about to: both channels on, or its LS on and its HS due. -/
def active (l : Load) : Bool :=
  match l.state with
  | .inrush | .on | .hold => true
  | _ => false
def isActive (s : State) (n : Nat) : Bool := active (loadOf s n)

/-- The load waits for admission, a restart included. -/
def waits (l : Load) : Bool := match l.state with
  | .waiting => true
  | _ => false

/-! ### Envelopes (R272, R273) -/

/-- The definition and profile a switch-on now would take (Table 09.9). -/
def defNow (s : State) (n : Nat) : LoadDef :=
  { word := BitVec.ofNat 32 ((loadDef s n).getD 0), iPeak := pn s pLswIPeak n, tPeak := pn s pLswTPeak n
    iSteady := pn s pLswISteady n, tPull := pn s pLswTPull n, clampE := pn s pLswClampE n
    thMode := pn s pLswThMode n, retryN := pn s pLswThRetryN n }

/-- TYPE of a definition; undefined types are as 0x0. -/
def LoadDef.type (r : LoadDef) : Nat := if 5 ≤ bits r.word.toNat 23 20 then 0 else bits r.word.toNat 23 20

/-- e^(−x), 1 at 0 (log 8). -/
def expNeg (x : Rat) : Rat := if x = 0 then 1 else Config.expR (-x)

/-- End of the envelope, ns after switch-on (Table 09.3). -/
def LoadDef.ends (r : LoadDef) : Nat :=
  match r.type with
  | 1 => r.tPull * msNs
  | 2 | 3 => 5 * r.tPeak * msNs
  | 4 => r.tPeak * msNs
  | _ => 0

/-- e(t) in mA at `t` ns after switch-on (Table 09.3). -/
def LoadDef.env (r : LoadDef) (t : Nat) : Rat :=
  let peak : Rat := r.iPeak * 10
  let steady : Rat := r.iSteady * 10
  let tp : Nat := r.tPeak * msNs
  if r.ends ≤ t then steady
  else
    match r.type with
    | 1 | 4 => peak
    | 2 => if t < tp then peak else peak + (steady - peak) * ((t : Rat) - tp) / (4 * tp)
    | 3 => steady + (peak - steady) * expNeg ((t : Rat) / tp)
    | _ => steady

/-- The definition a load runs under. -/
def runDef (s : State) (n : Nat) : LoadDef := ((loadOf s n).run).getD (defNow s n)

/-- e(t) of an active load now. -/
def envNow (s : State) (n : Nat) : Rat :=
  let l := loadOf s n
  (runDef s n).env (if l.starting then 0 else since s l.onAt)

/-- Measured LS current, mA. -/
def lsCurrent (s : State) (n : Nat) : Option Int := (loadLs s n).bind fun l => (lsOf s l).amps

/-- The current a load is attributed (R273); an HS-only load its envelope. -/
def attributed (s : State) (n : Nat) : Rat :=
  match lsCurrent s n with
  | some i => ratMax (envNow s n) (i : Rat)
  | none => envNow s n

/-- The active loads. -/
def activeLoads (s : State) : List Nat := allLoads.filter (isActive s)

/-! ### Admission (R275, R286) -/

/-- Declared clamp energy of a load, mJ (R286, R288). -/
def declaredE (s : State) (n : Nat) : Nat :=
  let l := loadOf s n
  if m2304 s n && !l.fwMiss then 0 else l.eMeas.getD (runDef s n).clampE

/-- The clamp energy admission holds for one more load. -/
def clampFits (s : State) (n : Nat) : Bool :=
  let own := if m2304 s n && !(loadOf s n).fwMiss then 0 else (loadOf s n).eMeas.getD (pn s pLswClampE n)
  decide ((((activeLoads s).filter (· != n)).map (declaredE s)).sum + own ≤ p0 s pLswClampESum * 10)

/-- The first four conditions of R275 but the clamp's. Envelopes never rise with t, so the sums are largest now. -/
def currentsFit (s : State) (n : Nat) : Bool :=
  let others := (activeLoads s).filter (· != n)
  let own := (defNow s n).env 0
  let hsFits := match loadHs s n with
    | none => true
    | some h => decide (((others.filter fun m => loadHs s m == some h).map (attributed s)).sum + own ≤ (pn s pLswHsILim h * 10 : Nat))
  hsFits
  && decide ((others.map (attributed s)).sum + own ≤ 40000)
  && decide ((others.map fun m => (runDef s m).iSteady * 10).sum + pn s pLswISteady n * 10 ≤ 32000)

/-- A request is admitted now (R275, R287). -/
def admitted (s : State) (n : Nat) : Bool :=
  currentsFit s n && clampFits s n && !s.lsw.overload && !s.lsw.locked

/-- LSW.START_GAP has passed since the last channel switch-on (R274). -/
def gapFree (s : State) : Bool :=
  match s.lsw.lastOn with
  | none => true
  | some t => decide (p0 s pLswStartGap * 100000 ≤ s.phys - t)

/-! ### Holds and gates (R279, R280, R509) -/

/-- Loads an acting Husk source opens, by its action and the strings it names (Table 08.2). -/
def tripLoads (s : State) (t : Trip) : List Nat :=
  match t.acting with
  | none => []
  | some 4 => (setBits 16 t.strings.toNat).flatMap fun j => mget [] s.husk.setStr j
  | some 5 => s.husk.setBlk
  | some 6 => s.husk.setBlk ++ s.husk.setDsc
  | some 7 => allLoads
  | some 8 => s.husk.setDme
  | some _ => []

/-- Loads named by an acting action. -/
def huskNamed (s : State) : List Nat := (s.husk.trips.flatMap fun e => tripLoads s e.2).eraseDups

/-- The loads of a list with those that share an HS channel with one of them (R509). -/
def withShared (s : State) (l : List Nat) : List Nat :=
  let hs := l.filterMap (loadHs s)
  allLoads.filter fun n => decide (n ∈ l) || (match loadHs s n with
    | some h => decide (h ∈ hs)
    | none => false)

/-- Loads held off by the Husk. -/
def huskHeld (s : State) : List Nat := withShared s (huskNamed s)

/-- Loads gated off by an LG pin. -/
def gateNamed (s : State) : List Nat :=
  allLoads.filter fun n => match loadDef s n with
    | some w => bit w 28 && !bit s.lsw.lg.toNat (bits w 27 26)
    | none => false
def gated (s : State) : List Nat := withShared s (gateNamed s)

/-! ### Items -/

/-- A LOAD_ON of the thermal manager ended: any result other than 0x00 or 0x01 records ACT_FAIL, and its entries retry
(R347). -/
def thmResult (n c : Nat) (s : State) : State :=
  let named := s.thm.defs.filter fun e => bits e.2.toNat 5 0 == n
  let failed := decide (1 < c)
  let es := named.foldl (fun m e => mmod {} m e.1 fun x => { x with failed := failed, failedAt := if failed then some s.phys else none }) s.thm.entries
  let s := { s with thm := { s.thm with entries := es } }
  if failed then post .actFail 5 n [BitVec.ofNat 8 c] s else s

/-- The open LOAD_ON of a load ends with a result, which is its LAST (Table 09.7). -/
def endLoad (n c : Nat) (s : State) : State :=
  let mine := (loadOf s n).ours
  let s := modLoad n (fun l => { l with last := c, ours := false }) s
  let s := if mine && thmOwned s n then thmResult n c s else s
  endItems [0xB001] n c s

/-! ### Switching on -/

/-- The phase a load is in (Table 09.5): TEST, RECOVERY, START, or NORMAL. -/
def phaseNow (s : State) (n : Nat) : LoadPhase :=
  let l := loadOf s n
  if !active l then .normal
  else if l.test then .test
  else if l.recovAt.isSome && !passed s l.recovAt (p0 s pLswRecovT * secNs) then .recovery
  else if !decide ((runDef s n).ends + p0 s pLswStartT * secNs ≤ since s l.onAt) || l.starting then .start
  else .normal

/-- The phase follows. -/
def setPhase (n : Nat) (s : State) : State := modLoad n (fun l => { l with phase := phaseNow s n }) s

/-- A phase ends by time: the restart count restarts from zero (R285). -/
def phaseEnds (n : Nat) (s : State) : State :=
  if phaseNow s n = (loadOf s n).phase then s else modLoad n (fun l => { l with phase := phaseNow s n, restarts := 0 }) s

/-- Duty of a constant-power hold, 0.01 %, from VLOAD (mV), the mean LS current (mA) and the present duty: D = √(P × R̂) ÷
VLOAD limited to 5 % to 100 % (R278). The second part says that D reached 100 % without the power reaching P. -/
def holdDuty (pHold vload duty : Nat) (amps : Int) : Nat × Bool :=
  if amps ≤ 0 ∨ vload = 0 then (10000, decide (0 < pHold))
  else
    let r : Rat := (duty : Rat) / 10000 * vload / amps
    let d := ratRound (Config.sqrtR ((pHold : Rat) / 100 * r) / ((vload : Rat) / 1000) * 10000)
    let d' := (clampI 500 10000 d).toNat
    (d', decide (10000 ≤ d) && decide ((vload : Rat) * vload / (r * 1000000) < (pHold : Rat) / 100))

/-- The load is held at constant power once it has pulled in (R278). -/
def holds (s : State) (n : Nat) : Bool :=
  decide ((runDef s n).type = 1) && decide (0 < pn s pLswPHold n) && (loadLs s n).isSome

/-- One regulation of a hold; HOLD_LOW is recorded once per entry. -/
def regulate (n : Nat) (s : State) : State :=
  let l := loadOf s n
  match lsCurrent s n with
  | none => s
  | some i =>
    let r := holdDuty (pn s pLswPHold n) s.lsw.vload l.duty i
    let s := modLoad n (fun l => { l with duty := r.1, holdLow := r.2 }) s
    if r.2 && !l.holdLow then post .holdLow 5 n [] s else s

/-- The 1 ms check of a load that has pulled in: a held coil is regulated, and LSW.P_HOLD as it stands begins or ends the hold
(R278, R292). -/
def holdStep (n : Nat) (s : State) : State :=
  let l := loadOf s n
  if l.state == .hold && !holds s n then modLoad n (fun l => { l with state := .on, duty := 10000, holdLow := false }) s
  else if l.state == .hold || (l.state == .on && l.envDone && holds s n) then
    regulate n (modLoad n (fun l => { l with state := .hold }) s)
  else s

/-- The envelope has ended, or a second has passed: the item completes, and a coil enters hold (R277, R278). -/
def envelopeCheck (n : Nat) (s : State) : State :=
  let l := loadOf s n
  if !active l || l.starting then s
  else
    let t := since s l.onAt
    let e := (runDef s n).ends
    let s := if min e secNs ≤ t && (l.ours || anyWaits s [0xB001] n) then endLoad n 0x00 s else s
    if e ≤ t && !l.envDone then
      let s := modLoad n (fun l => { l with envDone := true, state := if holds s n then .hold else .on }) s
      if holds s n then regulate n s else s
    else s

/-- The last channel of a load has switched on: t = 0 (R274). -/
def loadIsOn (n : Nat) (s : State) : State :=
  envelopeCheck n (setPhase n (modLoad n (fun l => { l with starting := false, onAt := s.phys }) s))

/-- A channel switches on. -/
def chanOn (c : Chan) (s : State) : State :=
  withLsw (modChan c (fun k => { k with on := true, cooling := false }) s) fun a => { a with lastOn := some s.phys }

/-- A load that has been admitted starts: its LS first, its HS one gap later where it is not already on (R274). The phase
RECOVERY begins where its thermal latch was cleared within LSW.RECOV_T, or on a thermal restart (Table 09.5). -/
def startLoad (n : Nat) (s : State) : State :=
  let l := loadOf s n
  let recov := l.resume && l.recovAt.isSome || (l.clearAt.isSome && !passed s l.clearAt (p0 s pLswRecovT * secNs))
  let again := l.resume && l.recovAt.isSome
  let df := defNow s n
  let s := withLsw s fun a => { a with queue := a.queue.filter (· != n) }
  let s := modLoad n (fun l => { l with
    state := .inrush, run := some df, starting := true, envDone := false, duty := 10000, holdLow := false, resume := false
    cmd := true, recovAt := if recov then some s.phys else none, onAt := s.phys
    restarts := if again then l.restarts else 0 }) s
  match loadLs s n, loadHs s n with
  | some x, none => loadIsOn n (chanOn (.ls x) s)
  | some x, some h =>
    let s := chanOn (.ls x) s
    if (hsOf s h).on then loadIsOn n s else setPhase n s
  | none, some h => if (hsOf s h).on then loadIsOn n s else loadIsOn n (chanOn (.hs h) s)
  | none, none => s

/-- No request that came earlier waits on the same HS (R276), and no channel of the load is latched (R282). -/
def itsTurn (s : State) (n : Nat) : Bool :=
  let earlier := s.lsw.queue.takeWhile (· != n)
  (match loadHs s n with
  | none => true
  | some h => !earlier.any fun m => loadHs s m == some h)
  && !(chansOf s n).any fun c => (chanOf s c).ocLatch

/-- A waiting load is started where its turn has come, it is admitted and the start gap allows (R274 to R276). -/
def tryStart (n : Nat) (s : State) : State :=
  if s.lsw.clock && waits (loadOf s n) && gapFree s && itsTurn s n && admitted s n && !decide (n ∈ huskHeld s)
      && !decide (n ∈ gated s) then startLoad n s
  else s

/-- A load joins the waiting ones, and starts at once where it may. -/
def enqueueLoad (n : Nat) (s : State) : State :=
  let s := modLoad n (fun l => { l with state := .waiting, waitAt := s.phys }) s
  tryStart n (withLsw s fun a => { a with queue := a.queue.filter (· != n) ++ [n] })

/-- What stops a request to switch a load on at once (Table 09.7), in the order disabled, held, gated, latched, already on
or waiting, clamp. -/
def onRefusal (s : State) (n : Nat) : Option Nat :=
  let l := loadOf s n
  if (loadDef s n).isNone then some 0x10
  else if n ∈ huskHeld s then some 0x12
  else if n ∈ gated s then some 0x13
  else if l.thLatch || (chansOf s n).any (fun c => (chanOf s c).ocLatch) then some 0x14
  else if active l || waits l || l.state == .thermal then some 0x01
  else if s.lsw.locked || !clampFits s n then some 0x15
  else none

/-- A LOAD_ON of sequencing or of the thermal manager. -/
def ownLoadOn (n : Nat) (s : State) : State :=
  match onRefusal s n with
  | some c =>
    let s := modLoad n (fun l => { l with last := c }) s
    if thmOwned s n then thmResult n c s else s
  | none => enqueueLoad n (modLoad n (fun l => { l with ours := true, test := false, cmd := true, resume := false }) s)

/-! ### Switching off -/

/-- Clamp energy of a switch-off, mJ: a measurement, drawn as a free value; none for a coil whose freewheel path is there
(R286, R288, log 4). -/
def clampEnergy (s : State) (n : Nat) : Rat :=
  if m2304 s n && !(loadOf s n).fwMiss then 0 else ratAbs (Config.freeRat s.free)

/-- A switch-off's energy enters the accumulator, which decays with 10 s (R286, R287). -/
def clampRecord (n : Nat) (s : State) : State :=
  let e := clampEnergy s n
  let declared : Rat := (runDef s n).clampE
  let a := s.lsw.clamp * expNeg ((since s s.lsw.clampAt : Rat) / (10 * secNs : Nat)) + e
  let s := withLsw (drawn s) fun x => { x with
    clamp := a, clampAt := s.phys, locked := x.locked || decide ((p0 s pLswClampESum * 10 : Nat) < a) }
  if declared * 5 / 4 < e then
    post .clampEHigh 5 n [] (modLoad n (fun l => { l with eMeas := some (ratRound e).toNat }) s)
  else modLoad n (fun l => { l with eMeas := none }) s

/-- The channels of a load switch off: its LS, and its HS where no other load on it is on (R513). -/
def chansOff (n : Nat) (both : Bool) (s : State) : State :=
  let s := match loadLs s n with
    | some x => modLs x (fun k => { k with on := false, amps := some 0 }) s
    | none => s
  match loadHs s n with
  | none => s
  | some h =>
    if !both && (loadsOn s (.hs h)).any (fun m => m != n && isActive s m) then s
    else modHs h (fun k => { k with on := false, amps := some 0 }) s

/-- LSW.LOAD_DEF of a load as a COMMIT resolves it: none where the load is disabled, with HS and LS both none or its LS
named by a lower-numbered load (R270). -/
def resolvedDef (s : State) (n : Nat) : Option Nat :=
  let w := pn s pLswLoadDef n
  let ls := bits w 13 8
  if 12 ≤ bits w 19 16 ∧ 40 ≤ ls then none
  else if ls < 40 ∧ (List.range n).any (fun m => bits (pn s pLswLoadDef m) 13 8 == ls) then none
  else some w

/-- A load takes its resolved definition: it is disabled, or off where it was disabled (Table 16.4). -/
def takeDef (n : Nat) (s : State) : State :=
  match resolvedDef s n with
  | none => modLoad n (fun l => { l with state := .disabled }) (withLsw s fun a => { a with defs := mdel a.defs n })
  | some w =>
    modLoad n (fun l => if l.state = .disabled then { l with state := .off } else l)
      (withLsw s fun a => { a with defs := mput a.defs n (BitVec.ofNat 32 w) })

/-- A load that has gone off takes a definition that waited for it. -/
def settleDef (n : Nat) (s : State) : State :=
  if n ∈ s.par.pendingDef then takeDef n { s with par := { s.par with pendingDef := s.par.pendingDef.filter (· != n) } } else s

/-- An active load switches off into a state; its open item ends with `c` where one is open. -/
def loadGoesOff (st : LoadSt) (c : Option Nat) (both : Bool) (n : Nat) (s : State) : State :=
  let was := isActive s n
  let s := if was then clampRecord n s else s
  let s := if was || both then chansOff n both s else s
  let s := withLsw s fun a => { a with queue := a.queue.filter (· != n) }
  let s := modLoad n (fun l => { l with
    state := st, starting := false, duty := 10000, holdLow := false, phase := .normal, test := false, run := none }) s
  let s := settleDef n s
  match c with
  | none => s
  | some c => if (loadOf s n).ours || anyWaits s [0xB001] n then endLoad n c s else modLoad n (fun l => { l with last := c }) s

/-- One check of a waiting request: one that fails the clamp energy admission ends at once with 0x15, a restart or an
LG_RESUME waits on (R276, R286, R287). -/
def recheck (n : Nat) (s : State) : State :=
  if waits (loadOf s n) && !(loadOf s n).resume && !s.lsw.locked && !clampFits s n then loadGoesOff .off (some 0x15) false n s
  else tryStart n s

/-- What a command to switch a load off does: 0x01 where it is off, 0x16 for an HS-only load whose HS another load holds
on; a waiting request ends with 0x40 (R276, R513). -/
def loadOffAct (n : Nat) (s : State) : Nat × State :=
  let l := loadOf s n
  let s' := modLoad n (fun l => { l with cmd := false, resume := false }) s
  let sharedOn := match loadHs s n with
    | some h => hsOnly s n && (loadsOn s (.hs h)).any (fun m => m != n && isActive s m)
    | none => false
  if (loadDef s n).isNone then (0x10, s)
  else if active l then if sharedOn then (0x16, s) else (0x00, loadGoesOff .off (some 0x40) false n s')
  else if waits l || l.state == .thermal then (0x00, loadGoesOff .off (some 0x40) false n s')
  else (0x01, s')

/-- A load is switched off on its owner's command; the item's result is the first part, and the load's LAST. -/
def loadOff (n : Nat) (s : State) : Nat × State :=
  let r := loadOffAct n s
  (r.1, modLoad n (fun l => { l with last := r.1 }) r.2)

/-- Sequencing or the thermal manager switches a load off. -/
def ownLoadOff (n : Nat) (s : State) : State := (loadOff n s).2

/-- The load of a role is switched on or off by sequencing. -/
def roleOn (role j : Nat) (s : State) : State :=
  match loadOfRole s role j with
  | some n => ownLoadOn n s
  | none => s
def roleOff (role j : Nat) (s : State) : State :=
  match loadOfRole s role j with
  | some n => ownLoadOff n s
  | none => s

/-- The load of a role is on or about to be. -/
def roleActive (s : State) (role j : Nat) : Bool :=
  match loadOfRole s role j with
  | some n => isActive s n || waits (loadOf s n)
  | none => false

/-! ### What holds and gates do -/

/-- Report of a sequenced load that was switched off against its owner (R261, R281). -/
def reportOff (n : Nat) (was : Bool) (s : State) : State :=
  if was && roleOf s n != 0 then partOpened (roleOf s n) (roleStr s n) s else s

/-- One load meets the holds that stand: it goes off under a hold or a gate, and is off again once neither stands; an
LG_RESUME load that was on asks to be switched on again (R279, R280, R509). -/
def meetHold (held gates : List Nat) (n : Nat) (s : State) : State :=
  let l := loadOf s n
  if (loadDef s n).isNone then s
  else if n ∈ held then
    if l.state = .husk then s
    else
      let was := active l
      reportOff n was (modLoad n (fun l => { l with resume := false, cmd := false })
        (loadGoesOff .husk (if was || waits l || l.state == .thermal then some 0x12 else none) true n s))
  else if n ∈ gates then
    if l.state = .gated then s
    else
      let was := active l
      let again := (was || (waits l && l.resume)) && bit ((loadDef s n).getD 0) 29
      reportOff n was (modLoad n (fun l => { l with resume := again && l.cmd, recovAt := none })
        (loadGoesOff .gated (if was || waits l || l.state == .thermal then some 0x13 else none) true n s))
  else if l.state = .husk then modLoad n (fun l => { l with state := .off }) s
  else if l.state = .gated then
    if l.resume then enqueueLoad n s else modLoad n (fun l => { l with state := .off, cmd := false }) s
  else s

/-- The loads follow the Husk's actions and the gates. -/
def meetHolds (s : State) : State :=
  let held := huskHeld s
  let gates := gated s
  allLoads.foldl (fun s n => meetHold held gates n s) s

/-! ### Latches and restarts (R282 to R285) -/

/-- A channel latches or cools: every load on it that is active switches off with its channels, each by itself. -/
def channelOff (c : Chan) (each : Nat → State → State) (s : State) : State :=
  let loads := (loadsOn s c).filter (isActive s)
  let s := loads.foldl (fun s n => each n s) s
  modChan c (fun k => { k with on := false }) s

/-- A load switches off under overcurrent: event, result 0x21, report (R283). -/
def loadOc (n : Nat) (s : State) : State :=
  reportOff n true (post .loadOvercurrent 5 n [] (loadGoesOff .latched (some 0x21) false n s))

/-- A load latches at a thermal shutdown by its phase and mode; else it restarts (R285). -/
def thermalLatches (s : State) (n : Nat) : Bool :=
  phaseNow s n == .normal || (runDef s n).thMode == 1 || roleOf s n != 0

/-- A load latches with a thermal result (0x22, 0x23). -/
def thermalLatch (n c : Nat) (s : State) : State :=
  let was := isActive s n
  reportOff n was (modLoad n (fun l => { l with thLatch := true, resume := false }) (loadGoesOff .latched (some c) false n s))

/-- The load's part of a thermal shutdown: latched, or off until its restart. -/
def loadTh (n : Nat) (s : State) : State :=
  let l := loadOf s n
  let p := phaseNow s n
  let s := post .loadThShutdown 5 n [] s
  if thermalLatches s n then thermalLatch n 0x22 s
  else
    let s := loadGoesOff .thermal none false n s
    modLoad n (fun k => { k with resume := true, recovAt := some s.phys, phase := p, restarts := l.restarts, test := l.test }) s

/-- A load's part of a thermal restart: one more restart, or TH_LATCH after LSW.TH_RETRY_N (R285). -/
def loadRestarts (n : Nat) (s : State) : State :=
  let l := loadOf s n
  if (runDef s n).retryN ≤ l.restarts then thermalLatch n 0x23 s
  else enqueueLoad n (modLoad n (fun l => { l with restarts := satN 255 (l.restarts + 1) }) s)

end Sys2Proof.Machine
end

