-- ==== Sys2Proof/Machine/HuskOps.lean ====
section
/-!
DEFINITION. The Husk as operations: matrix entries, assertion, acting, latching, release, the fault reset, and the lines and
gates an action drives (R207 to R215, R224, R227, R307, Table 08.2).
-/
namespace Sys2Proof.Machine
open Sys2Proof

/-! ### Entries (Table 07.2) -/

/-- The matrix entry in force of a source (R213, R506). -/
def matrixEntry (s : State) (src : Nat) : Nat := ((mfind s.husk.matrix src).map (·.toNat)).getD (tripDefault src)

/-- A source's trip, and its change. -/
def tripOf (s : State) (src : Nat) : Trip := mget {} s.husk.trips src
def modTrip (src : Nat) (f : Trip → Trip) (s : State) : State :=
  { s with husk := { s.husk with trips := mmod {} s.husk.trips src f } }

/-- The action a source takes: none where EN is clear; codes above 8, and 0x4 on a source that names no string, as 0x5. -/
def sourceAction (s : State) (src : Nat) : Nat :=
  let e := matrixEntry s src
  let a := bits e 27 24
  if !bit e 31 then 0
  else if 8 < a ∨ (a = 4 ∧ (!namesStrings src ∨ (tripOf s src).strings = 0)) then 5 else a

/-! ### Lines and status -/

/-- Effects in force of every acting action (Table 07.3). -/
def effectsNow (s : State) : Nat := s.husk.trips.foldl (fun m e => m ||| ((e.2.acting.map actionEffects).getD 0)) 0

/-- Some action with effect bit `i` acts. -/
def effectOn (s : State) (i : Nat) : Bool := bit (effectsNow s) i

/-- PCS_INH_CHG and PCS_INH_DIS asserted: by an action, and at every level but Normal (R38, R492). -/
def inhCharge (s : State) : Bool := level s != 2 || effectOn s 0
def inhDischarge (s : State) : Bool := level s != 2 || effectOn s 1

/-- Mask of the sources whose trip satisfies `p`. -/
def tripMask (s : State) (p : Trip → Bool) : Nat := maskOf ((s.husk.trips.filter fun e => p e.2).map (·.1))

/-- A trip is latched. -/
def anyLatched (s : State) : Bool := s.husk.trips.any (·.2.latched)

/-- A ring's state. -/
def ringAt (s : State) (r : Nat) : Ring := mget {} s.chn.rings r

/-- Every enabled ring is enumerated and not mis-populated. -/
def ringsFit (s : State) : Bool :=
  (List.range 8).all fun r =>
    !bit (p0 s pChnRingEnable) r ||
    (!(ringAt s r).misPop && match (ringAt s r).service with
      | .served | .wrapped => true
      | _ => false)

/-- SAFE_OK (R38, R340). -/
def safeOk (s : State) : Bool := inNormal s && s.husk.armed && !anyLatched s && !s.thm.stop && ringsFit s

/-! ### Acting -/

/-- Loops that drive one of the PW outputs, with every loop that cascades into them (R307). -/
def loopsInto (s : State) (pws : List Nat) : List Nat :=
  let direct := (List.range 8).filter fun k => decide (1 ≤ cfgSink (loopCfg s k)) && decide (cfgSink (loopCfg s k) - 1 ∈ pws)
  let grow (l : List Nat) : List Nat :=
    (List.range 8).filter fun k => decide (k ∈ l) ||
      (cfgSink (loopCfg s k) == 9 && l.any fun m => cfgRef (loopCfg s m) == 0x18 + k)
  (List.range 8).foldl (fun l _ => grow l) direct

/-- The loops become FORCED; an open LOOP_ENABLE item of one ends with 0x12. -/
def forceLoops (ks : List Nat) (s : State) : State :=
  ks.foldl (fun s k => endLoopItems k 0x12 (stopLoop .forced k s)) s

/-- Since when the inhibit lines are asserted (R224). -/
def noteLines (s : State) : State :=
  { s with husk := { s.husk with
      chgLine := running s (inhCharge s) s.husk.chgLine, disLine := running s (inhDischarge s) s.husk.disLine } }

/-- PW outputs the Husk holds off: all of them without the PWM domain's clock, PW2 while the disconnector's drive is off
(R209, Table 08.2). -/
def gatedPws (s : State) : List Nat := if s.husk.pwmOff then List.range 6 else if effectOn s 5 then [2] else []

/-- What follows from the actions in force: loads held, PW2 gated and its loops FORCED, BRAKE applied (Table 08.2, R307);
and, without the PWM domain's clock, PW0 to PW5, DA0 and DA1 off (R209). -/
def huskEffects (s : State) : State :=
  let s := noteLines (meetHolds s)
  let pws := gatedPws s
  let s := { s with ctl := { s.ctl with
      gated := pws, pw := pws.foldl (fun m n => mput m n 0) s.ctl.pw, pwNext := pws.foldl (fun m n => mput m n 0) s.ctl.pwNext
      da := if s.husk.pwmOff then [(0, 0), (1, 0)] else s.ctl.da } }
  let s := if effectOn s 5 then { s with seq := { s.seq with brakeOff := false } } else s
  forceLoops (loopsInto s pws) s

/-- A trip latches: it is counted, and is FIRST where none has latched since the last reset (Table 07.5); it triggers the
capture and the traces. -/
def noteTrip (src : Nat) (s : State) : State :=
  let h := s.husk
  let h := { h with tripCount := inc16 h.tripCount }
  let h := if h.first = 0xFF then { h with first := src, firstTime := s.tb.ns, firstIdx := s.met.sidx } else h
  huskTrigger { s with husk := h }

/-- A position channel without the clock of its domain is invalid: it acquires anew when the clock is back (R330, log 158). -/
def PosChan.unclocked (c : PosChan) : PosChan :=
  if c.lock = .disabled then c
  else { c with
    lock := .acquiring, ref := false, spdValid := false, extrap := false, lossAt := none, good := 0, badMag := 0, badErr := 0
    timed := none, crossAt := none, supp := true, entries := [], mostOpen := none }

/-- The PWM domain's clock is lost or back: without it both channels are invalid, and the CMP and PFO0 pins low (R28, R209,
R330). -/
def setPwmOff (off : Bool) (s : State) : State :=
  let s := if off then { s with pos := { s.pos with
      chans := mmap (fun _ c => c.unclocked) s.pos.chans, pulses := [], qoAcc := 0, qoPend := 0, qoPhase := 0, qoOvr := false } }
    else s
  huskEffects { s with husk := { s.husk with pwmOff := off } }

/-- A source acts (R210, R213): its assertion is recorded as a class-0 event; with EN clear or action 0x0 that is all. -/
def sourceActs (src : Nat) (s : State) : State :=
  let a := sourceAction s src
  let t := tripOf s src
  let s := post (.husk src) 16 src [BitVec.ofNat 8 a] s
  if a = 0 then s
  else if t.latched then huskEffects s
  else
    let latch := bit (matrixEntry s src) 30 || decide (3 < a)
    let s := modTrip src (fun t => { t with acting := some a, latched := latch }) s
    huskEffects (if latch then noteTrip src s else s)

/-- The source can assert: the Husk is armed, the source exists, and it is not held released (R208, R381). -/
def canAssert (s : State) (src : Nat) : Bool :=
  s.husk.armed && decide (src ≤ 26) && !(src == 20 && s.pod.shelled) && !(s.husk.heldRel && decide (16 ≤ src) && decide (src ≤ 22))

/-- A qualified source asserts at the Husk boundary, naming strings (R214): it acts at once, or its DELAY begins. -/
def assertSource (src : Nat) (strings : BitVec 16) (s : State) : State :=
  if !canAssert s src then s
  else
    let t := tripOf s src
    let e := matrixEntry s src
    let s := if src = 15 then { s with husk := { s.husk with estop := true } } else s
    let s := modTrip src (fun t => { t with
      asserted := true, strings := t.strings ||| strings, since := if t.asserted then t.since else s.phys }) s
    if t.asserted then if t.acting.isSome && t.strings ||| strings != t.strings then huskEffects s else s
    else if sourceAction s src ≠ 0 ∧ 0 < bits e 23 16 then modTrip src (fun t => { t with delaying := true }) s
    else sourceActs src s

/-- A source's DELAY ends: it acts if it is still asserted (R214). -/
def delayEnds (src : Nat) (s : State) : State :=
  let t := tripOf s src
  if t.delaying && decide (bits (matrixEntry s src) 23 16 * msNs ≤ since s t.since) then
    let s := modTrip src (fun t => { t with delaying := false }) s
    if t.asserted then sourceActs src s else s
  else s

/-- A source releases (R210, R214): an unlatched action ends; during its DELAY nothing acts and the assertion is recorded. -/
def releaseSource (src : Nat) (s : State) : State :=
  let t := tripOf s src
  if !t.asserted then s
  else
    let s := if src = 15 then { s with husk := { s.husk with estop := false } } else s
    let s := if src = 24 ∧ s.husk.pwmOff then setPwmOff false s else s
    let s := if t.delaying then post (.husk src) 16 src [0] s else s
    let s := modTrip src (fun t => { t with asserted := false, delaying := false }) s
    if t.latched then s
    else huskEffects (modTrip src (fun t => { t with acting := none, strings := 0 }) s)

/-- An inhibit line has stood asserted for PRT.SLD_T (R224). -/
def lineStands (s : State) (since? : Option Nat) : Bool := passed s since? (p0 s pPrtSldT * msNs)

/-- A current in mA in a direction whose inhibit line stands (R224). -/
def sldHolds (s : State) (i : Int) : Bool :=
  let lim : Int := (p0 s pPrtSldI * 1000 : Nat)
  (lineStands s s.husk.chgLine && decide (i < -lim)) || (lineStands s s.husk.disLine && decide (lim < i))

/-- SLD_VIOL against a current (R224): the IL comparators see the shunt as the IL path does, so that its sample stands for theirs
(DEDUCED, log 138). -/
def followSld (i : Int) (s : State) : State :=
  if sldHolds s i then assertSource 13 0 s else if (tripOf s 13).asserted then releaseSource 13 s else s

/-! ### Firmware sources -/

/-- G4: FW_OPEN_BLK asserts (Table 07.6). -/
def openBlock (s : State) : State :=
  let s := { s with prt := { s.prt with g4 := true }, husk := { s.husk with fwBlk := true } }
  assertSource 16 0 (capTrigger 4 s)

/-- FW_OPEN_STR names a string (Table 07.6). -/
def nameString (j : Nat) (s : State) : State :=
  let m : BitVec 16 := BitVec.ofNat 16 (2 ^ j)
  let s := { s with husk := { s.husk with fwStr := s.husk.fwStr ||| m } }
  assertSource 17 m (capTrigger 4 s)

/-- FW_OPEN_STR names a string no longer. -/
def unnameString (j : Nat) (s : State) : State :=
  let s := { s with husk := { s.husk with fwStr := s.husk.fwStr &&& ~~~ BitVec.ofNat 16 (2 ^ j) } }
  if s.husk.fwStr = 0 then releaseSource 17 s else s

/-- FW_INH_CHG and FW_INH_DIS follow the G2 requests. -/
def setInhibits (chg dis : Bool) (s : State) : State :=
  let s := { s with husk := { s.husk with fwChg := chg, fwDis := dis } }
  let s := if chg then assertSource 18 0 s else releaseSource 18 s
  if dis then assertSource 19 0 s else releaseSource 19 s

/-! ### Fault reset (R227) -/

/-- The fault reset: FW_OPEN_BLK is released and G4 cleared; every latched source no longer asserted is cleared, the others
stay latched; the reset is recorded with both. -/
def faultReset (s : State) : State :=
  let s := { s with prt := { s.prt with g4 := false }, husk := { s.husk with fwBlk := false, arm := none } }
  let s := modTrip 16 (fun t => { t with asserted := false, delaying := false }) s
  let cleared := tripMask s fun t => t.latched && !t.asserted
  let left := tripMask s fun t => t.latched && t.asserted
  let trips := mmap (fun _ t => if t.latched && !t.asserted then { t with latched := false, acting := none, strings := 0 } else t) s.husk.trips
  let s := { s with husk := { s.husk with trips, first := 0xFF, firstTime := 0, firstIdx := 0 } }
  huskEffects (post .faultReset 0xFF 0 (le 4 cleared ++ le 4 left) s)

end Sys2Proof.Machine
end

