-- ==== Sys2Proof/Machine/GradeOps.lean ====
section
/-!
DEFINITION. The firmware grades as operations: G1 to G4 by their callers, the conditions of Table 07.7 with dwell and hover,
and string loss (R216 to R223).
-/
namespace Sys2Proof.Machine
open Sys2Proof

/-! ### Callers -/

/-- Key of a caller: condition and instance. -/
def callKey (c : CondId) (inst : Nat) : Nat := condNum c * 65536 + inst

/-- Keys of the callers that are no condition of Table 07.7: the G2 part of a G3, the failed main pair, and the loss test. -/
def keyG3 (j : Nat) : Nat := 30 * 65536 + j
def keyMain : Nat := 31 * 65536
def keyLoss : Nat := 32 * 65536

/-- The grades changed. -/
def withPrt (s : State) (f : Grades → Grades) : State := { s with prt := f s.prt }

/-- A list with an element, or without it. -/
def addKey (k : Nat) (l : List Nat) : List Nat := if k ∈ l then l else l ++ [k]
def dropKey (k : Nat) (l : List Nat) : List Nat := l.filter (· != k)

/-- The G2 requests after a change of their callers: the inhibit lines, since when each stands, and the notice where the
request changed (Table 07.6, R430). -/
def g2Follow (before : Nat) (reason : Nat) (s : State) : State :=
  let s := withPrt s fun g => { g with
    chgAt := if g.g2chg.isEmpty then none else some (g.chgAt.getD s.phys)
    disAt := if g.g2dis.isEmpty then none else some (g.disAt.getD s.phys) }
  if g2Flags s = before then s
  else
    let s := setInhibits (!s.prt.g2chg.isEmpty) (!s.prt.g2dis.isEmpty) s
    sendLimits reason 0 (g2Flags s) s

/-- A G2 in the directions named is called for. -/
def g2Enter (chg dis : Bool) (key : Nat) (s : State) : State :=
  let before := g2Flags s
  g2Follow before 0x03 (withPrt s fun g => { g with
    g2chg := if chg then addKey key g.g2chg else g.g2chg
    g2dis := if dis then addKey key g.g2dis else g.g2dis })

/-- A caller of G2 calls for one direction and no longer for the other. -/
def g2Turn (chg : Bool) (key : Nat) (s : State) : State :=
  let before := g2Flags s
  g2Follow before 0x03 (withPrt s fun g => { g with
    g2chg := if chg then addKey key g.g2chg else dropKey key g.g2chg
    g2dis := if chg then dropKey key g.g2dis else addKey key g.g2dis })

/-- A caller of G2 leaves. -/
def g2Leave (key : Nat) (s : State) : State :=
  let before := g2Flags s
  g2Follow before 0x04 (withPrt s fun g => { g with g2chg := dropKey key g.g2chg, g2dis := dropKey key g.g2dis })

/-- G1 is called for, or left. A TC0 limit broadcast carries the next set. -/
def g1Enter (key : Nat) (s : State) : State :=
  if key ∈ s.prt.g1 then s else withPrt s fun g => { g with g1 := g.g1 ++ [key], g1Note := true }
def g1Leave (key : Nat) (s : State) : State := withPrt s fun g => { g with g1 := dropKey key g.g1 }

/-! ### G3 -/

/-- A string's current, the last valid one while NA. -/
def strCurrent (s : State) (j : Nat) : Int := (strSample s j).current.getD (strSample s j).lastI

/-- Both contactors of the string are off. -/
def stringOff (s : State) (j : Nat) : Bool := !roleActive s 1 j && !roleActive s 2 j

/-- The G2 part of a G3 is released once the string is open (Table 07.6). -/
def g3Settle (j : Nat) (s : State) : State := if stringOff s j then g2Leave (keyG3 j) s else s

/-- FW_OPEN_STR names the string for its G3, whose wait ends. -/
def g3Name (j : Nat) (s : State) : State :=
  g3Settle j (nameString j (withPrt s fun g => { g with g3wait := mdel g.g3wait j }))

/-- G3 for a string: the latch, and above PRT.OPEN_I the G2 part in the direction of its current; the immediate variant, or a
current within PRT.OPEN_I, names the string at once, else the wait begins (R216). -/
def g3Enter (immediate : Bool) (j : Nat) (s : State) : State :=
  let fresh := !bit s.prt.g3.toNat j
  let s := withPrt s fun g => { g with g3 := g.g3 ||| BitVec.ofNat 16 (2 ^ j) }
  let i := strCurrent s j
  let chg := decide (i < 0)
  let high := decide (p0 s pPrtOpenI * 1000 < i.natAbs)
  let s := if high && (immediate || fresh) then g2Enter chg (!chg) (keyG3 j) s else s
  if immediate || fresh && !high then g3Name j s
  else if !fresh then s
  else withPrt s fun g => { g with g3wait := mput g.g3wait j (s.phys, some chg) }

/-- A waiting G3 sees its string's current, or the end of PRT.OPEN_WAIT_T. -/
def g3Check (j : Nat) (s : State) : State :=
  match mfind s.prt.g3wait j with
  | none => s
  | some w =>
    if (strCurrent s j).natAbs ≤ p0 s pPrtOpenI * 1000 || decide (p0 s pPrtOpenWaitT * msNs ≤ since s w.1) then g3Name j s else s

/-! ### Conditions -/

/-- Grade and scope of each condition's entry (Table 07.7); `j` is the string it names, `chg` the direction of the current
where the grade follows it. -/
def gradeEnter (c : CondId) (key j : Nat) (chg : Bool) (s : State) : State :=
  match c with
  | .cvhi1 | .ctlo => g2Enter true false key s
  | .cvlo1 => g2Enter false true key s
  | .cvhi2 | .cvlo2 | .cthi2 | .impl2 | .sum | .nodata2 => g3Enter false j s
  | .cthi1 | .impl1 | .isum1 => g1Enter key s
  | .isum2 | .nodata1 => g2Enter true true key s
  | .ocstrg2 | .ocblkg2 => g2Enter chg (!chg) key s
  | .ocstrg3 | .loss => g3Enter true j s
  | .ocblkg4 | .nocomply => openBlock s
  | .ins =>
    match p0 s pPrtInsAction with
    | 0 => s
    | 1 => g1Enter key s
    | 2 => g2Enter true true key s
    | _ => openBlock s
  | .growth => if p0 s pPrtGrowthAction = 0 then s else g1Enter key s

/-- A condition has left: its G1 and G2 are called for no longer; G3 and G4 stay latched. -/
def gradeLeave (key : Nat) (s : State) : State := g2Leave key (g1Leave key s)

/-- Source kind of a condition's instance (Table 16.2): cell, string or none. -/
def condKind : CondId → Nat
  | .cvhi1 | .cvhi2 | .cvlo1 | .cvlo2 | .nodata1 | .nodata2 | .growth => 1
  | .isum1 | .isum2 | .ocblkg2 | .ocblkg4 | .ins | .nocomply => 0xFF
  | _ => 4

/-- A condition's state, and its change; a condition as at reset lists no entry. -/
def condOf (s : State) (key : Nat) : Cond := mget {} s.prt.conds key
def setCond (key : Nat) (c : Cond) (s : State) : State :=
  withPrt s fun g => { g with conds := if c = {} then mdel g.conds key else mput g.conds key c }

/-- A condition enters: its event and its grade. -/
def enterCond (c : CondId) (inst j : Nat) (chg : Bool) (s : State) : State :=
  gradeEnter c (callKey c inst) j chg (post (.cond c) (condKind c) inst [1] s)

/-- A condition leaves. -/
def leaveCond (c : CondId) (inst : Nat) (s : State) : State :=
  gradeLeave (callKey c inst) (post (.cond c) (condKind c) inst [0] s)

/-- What a valid reading of a level condition shows: beyond the threshold; inside it by the hysteresis, and by twice. -/
structure LevelReading where
  beyond  : Bool
  inside  : Bool
  inside2 : Bool
  deriving DecidableEq, Repr

/-- One evaluation of a level condition (R220): the condition after it, and 1 where it enters, 2 where it leaves. An NA
reading changes nothing. -/
def levelStep (now dwell hoverN : Nat) (k : Cond) (r : Option LevelReading) : Cond × Nat :=
  match r with
  | none => (k, 0)
  | some r =>
    if !k.entered then
      if !r.beyond then ({ k with since := none }, 0)
      else
        let t := k.since.getD now
        if dwell ≤ now - t then
          let ts := now :: k.toggles.filter fun x => decide (now - x < 3600 * secNs)
          ({ k with entered := true, since := none, toggles := ts, hover := k.hover || decide (hoverN < ts.length) }, 1)
        else ({ k with since := some t }, 0)
    else if !(if k.hover then r.inside2 else r.inside) then ({ k with since := none }, 0)
    else
      let t := k.since.getD now
      if dwell ≤ now - t then
        ({ k with entered := false, since := none, hover := false, toggles := if k.hover then [] else k.toggles }, 2)
      else ({ k with since := some t }, 0)

/-- A level condition of one instance is evaluated; HOVER is recorded when it sets. -/
def levelCond (c : CondId) (inst j dwell : Nat) (r : Option LevelReading) (s : State) : State :=
  let key := callKey c inst
  let k := condOf s key
  let x := levelStep s.phys dwell (p0 s pPrtHoverN) k r
  let s := setCond key x.1 s
  let s := if x.1.hover && !k.hover then post .hover (condKind c) inst (le 2 (evNum (.cond c))) s else s
  if x.2 = 1 then enterCond c inst j false s else if x.2 = 2 then leaveCond c inst s else s

/-- A condition without dwell follows what holds. -/
def plainCond (c : CondId) (inst j : Nat) (chg holds : Bool) (s : State) : State :=
  let key := callKey c inst
  let k := condOf s key
  if holds = k.entered then s
  else
    let s := setCond key { k with entered := holds } s
    if holds then enterCond c inst j chg s else leaveCond c inst s

/-- A condition is entered. -/
def condIn (s : State) (c : CondId) (inst : Nat) : Bool := (condOf s (callKey c inst)).entered

/-- A value above a limit, with its hysteresis; below one likewise. -/
def aboveReading (x limit hyst : Int) : LevelReading :=
  { beyond := decide (limit < x), inside := decide (x ≤ limit - hyst), inside2 := decide (x ≤ limit - 2 * hyst) }
def belowReading (x limit hyst : Int) : LevelReading :=
  { beyond := decide (x < limit), inside := decide (limit + hyst ≤ x), inside2 := decide (limit + 2 * hyst ≤ x) }

/-! ### Strings and their cells -/

/-- String of a node (R235), and nodes of a string. -/
def nodeString (s : State) (a : Nat) : Option Nat := let v := pn s pSeqStringMap a; if v ≤ 15 then some v else none
def nodeOf (s : State) (a : Nat) : Node := mget {} s.chn.nodes a

/-- Node addresses found on a ring that serves, of one type (Table 02.5). -/
def nodesOfType (s : State) (ty : Nat) : List Nat := (s.chn.nodes.filter fun e => e.2.type == ty).map (·.1)

/-- Cell nodes and string-sense nodes of a string. -/
def cellNodes (s : State) (j : Nat) : List Nat := (nodesOfType s 1).filter fun a => nodeString s a == some j
def senseNodes (s : State) (j : Nat) : List Nat := (nodesOfType s 2).filter fun a => nodeString s a == some j

/-- Node addresses SEQ.STRING_MAP gives a string, and those of them with populated positions where no node is found: their
cells and inputs are not available (R165, R343). -/
def mappedNodes (s : State) (j : Nat) : List Nat :=
  (s.par.applied.filter fun e => e.1 / 65536 = pSeqStringMap && e.2 == (j : Int)).map (·.1 % 65536)
def absentNodes (s : State) (j : Nat) : List Nat :=
  (mappedNodes s j).filter fun a => (mfind s.chn.nodes a).isNone && pn s pAcqCellMask a != 0
def absentNode (s : State) (j : Nat) : Bool := !(absentNodes s j).isEmpty

/-- A cell is populated: ACQ.CELL_MASK of its node (R82). -/
def populated (s : State) (c : Nat) : Bool := bit (pn s pAcqCellMask (nodeOfCell c)) (posOfCell c)

/-- Populated cells of a string, by index. -/
def stringCells (s : State) (j : Nat) : List Nat :=
  (cellNodes s j).flatMap fun a => (cellsOfNode a).filter (populated s)

/-- String of a cell. -/
def cellString (s : State) (c : Nat) : Option Nat := nodeString s (nodeOfCell c)

/-! ### String loss (R222, R223) -/

/-- A share test needs the terms of R166 of the set. -/
def shareOver (s : State) (i : Int) : Bool :=
  let p := s.est.set
  let strs := p.strings.filter fun e => inService s e.1
  let cond (e : Nat × StringOut) : Rat := let r := if 0 ≤ i then e.2.rDis2 else e.2.rChg2; if r = 0 then 0 else 1 / r
  let g := (strs.map cond).sum
  if g = 0 then false
  else
    let em := (strs.map fun e => cond e * e.2.e2).sum / g
    strs.any fun e =>
      let share := cond e * (e.2.e2 - em) + cond e / g * ((i : Rat) / 1000)
      let lim : Rat := if 0 ≤ share then (e.2.idis.getD 0 0 : Int) else (e.2.ichg.getD 0 0 : Int)
      decide (lim < ratAbs share * 1000)

/-- The loss test at a block current: G2 in its direction, and in that alone, while a remaining string's share exceeds its
limit. -/
def lossTest (s : State) : State :=
  match iNow s with
  | none => s
  | some i =>
    if shareOver s i then
      let chg := decide (i < 0)
      if s.prt.lossG2 = some chg then s else g2Turn chg keyLoss (withPrt s fun g => { g with lossG2 := some chg })
    else if s.prt.lossG2.isSome then g2Leave keyLoss (withPrt s fun g => { g with lossG2 := none })
    else s

end Sys2Proof.Machine
end

