-- ==== Sys2Proof/Machine/SeqOps.lean ====
section
/-!
DEFINITION. Sequencing as operations: the checks and the window of a join, the queue, pre-charge, the openings and the
disconnector (R232 to R263, R511).
-/
namespace Sys2Proof.Machine
open Sys2Proof

/-! ### Configuration (R232, R233) -/

/-- Bits of the strings that satisfy `p`. -/
def strMask (p : Nat → Bool) : BitVec 16 := BitVec.ofNat 16 (maskOf (allStrings.filter p))

/-- A string is unconfigured. A string without cell nodes is none that can be joined. -/
def strUnconfigured (s : State) (j : Nat) : Bool :=
  (cellNodes s j).isEmpty || (loadOfRole s 1 j).isNone || (loadOfRole s 2 j).isNone || (senseNodes s j).length != 1

/-- The configuration is judged, STRING_MAP_FAULT recorded for strings that newly have more than one string-sense node, and
the open sets rebuilt (R232, R233). -/
def judgeConfig (s : State) : State :=
  let many := strMask fun j => decide (1 < (senseNodes s j).length)
  let fresh := allStrings.filter fun j => bit many.toNat j && !bit s.chn.mapFault.toNat j
  let s := { s with chn := { s.chn with mapFault := many } }
  let s := fresh.foldl (fun s j =>
    post .stringMapFault 4 j (BitVec.ofNat 8 j :: (senseNodes s j).flatMap (le 2)) s) s
  let none? (r : Nat) : Bool := (loadOfRole s r 0).isNone
  let kps := allLoads.filter fun n => roleOf s n == 1 || roleOf s n == 2
  let blk := allLoads.filter fun n => decide (1 ≤ roleOf s n) && decide (roleOf s n ≤ 6)
  let setStr : SMap (List Nat) := (allStrings.map fun j => (j, kps.filter fun n => roleStr s n == j)).filter fun e => !e.2.isEmpty
  { s with
    seq := { s.seq with
      cfgStr := strMask (strUnconfigured s)
      cfgBlk := none? 3 || none? 4
      cfgPc := match p0 s pSeqPcMode with
        | 0 => none? 5
        | 1 => none? 6
        | _ => false
      cfgDsc := p0 s pSeqDscMode == 1 && (none? 7 || none? 8) }
    husk := { s.husk with
      setStr := setStr, setBlk := blk
      setDsc := allLoads.filter fun n => roleOf s n == 7 || roleOf s n == 8
      setDme := allLoads.filter fun n => roleOf s n == 8 } }

/-- The roles in force follow the applied SEQ.LOAD_ROLE, and the open sets reload, once no block sequence and no join runs
(Table 16.4). -/
def settleRoles (s : State) : State :=
  if s.par.pendingRole && !blockBusy s && s.seq.step == .none && s.seq.joins.isEmpty then
    let roles : SMap Int := (allLoads.map fun n => (n, pv s pSeqLoadRole n)).filter fun e => e.2 != 0
    judgeConfig { s with par := { s.par with pendingRole := false }, seq := { s.seq with roles } }
  else s

/-! ### Checks of a join (R239) -/

/-- A Husk action latched whose code satisfies `p`. -/
def latchedAction (s : State) (p : Nat → Trip → Bool) : Bool :=
  s.husk.trips.any fun e => e.2.latched && match e.2.acting with
    | some a => p a e.2
    | none => false

/-- The checks on configuration, latches and state: the result a failing one ends the item with. -/
def joinState (s : State) (j : Nat) : Option Nat :=
  if bit s.seq.cfgStr.toNat j then some 0x10
  else if latchedAction s (fun a t => decide (5 ≤ a) && decide (a ≤ 7) || a == 4 && bit t.strings.toNat j)
      || bit s.prt.g3.toNat j || s.prt.g4 || isLost s j || (strOf s j).weld then some 0x11
  else if !safeOk s then some 0x14
  else none

/-- V_STR of a string as estimation and sequencing take it: NA with more than one string-sense node (R232). -/
def vStr (s : State) (j : Nat) : Option Nat := if bit s.chn.mapFault.toNat j then none else (strSample s j).vstr

/-- A cell is NA, or STALE in the newest set. -/
def cellMissing (s : State) (c : Nat) : Bool :=
  bit (mget {} s.chn.cells c : CellSample).qual.toNat 0 ||
  match mfind s.est.set.cells c with
  | none => true
  | some o => bit o.flags.toNat 0 || bit o.flags.toNat 4

/-- The record of a class for a scan: the newest written for it or before it; the newest of all where none is named. Of the
temperatures, read more seldom than the cells, the last before the scan stands for it (DEDUCED, log 49). -/
def recordFor (s : State) (cls : Nat) (idx : Option Nat) : HltRecord :=
  let rs : List HltRecord := mget [] s.chn.records cls
  ((match idx with
    | none => rs.head?
    | some n => rs.find? fun k => decide ((n + 2 ^ 32 - k.sidx) % 2 ^ 32 < 2 ^ 31)).getD {})

/-- Limit-table records show a violation for the string: a cell in HLT_VHI or HLT_VLO, or a temperature input of its nodes
in HLT_THI, HLT_TBRK or HLT_TLO (R100, R239). -/
def violatesAt (idx : Option Nat) (s : State) (j : Nat) : Bool :=
  let hit (cls : Nat) (own : Nat → Nat) : Bool :=
    (recordFor s cls idx).bitmap.any fun i => nodeString s (own i) == some j
  hit 0 nodeOfCell || hit 1 nodeOfCell || hit 2 nodeOfTemp || hit 3 nodeOfTemp || hit 4 nodeOfTemp

/-- The newest records show a violation (R242). -/
def violates (s : State) (j : Nat) : Bool := violatesAt none s j

/-- Sample index of the set a string is judged on: the one its running dwell has latched, else the newest (R34, R511). -/
def latchedIdx (s : State) (j : Nat) : Nat :=
  match joinOf s j with
  | some k => if k.dwellAt.isSome then k.sidx else s.est.set.sidx
  | none => s.est.set.sidx

/-- The checks on data: 0x12 or 0x13 while one hinders. -/
def joinData (s : State) (j : Nat) : Option Nat :=
  if (stringCells s j).any (cellMissing s) || (vStr s j).isNone || !(strOf s j).auxFresh then some 0x12
  else if violatesAt (some (latchedIdx s j)) s j then some 0x13
  else none

/-! ### The window (R240, R241) -/

/-- A string's published outputs. -/
def strOut (s : State) (j : Nat) : Option StringOut := mfind s.est.set.strings j

/-- Published ohmic resistance in Ω, none where it is not valid or carries RSTALE. -/
def strRes (s : State) (j : Nat) : Option Rat :=
  match strOut s j with
  | none => none
  | some o => if o.res = 0xFFFFFFFF ∨ bit o.flags.toNat 2 then none else some ((o.res : Rat) / 1000000)

/-- VB at the strobe instant of a sample index. -/
def vbAt (s : State) (idx : Nat) : Option Int := (s.met.strobes.find? (·.idx = idx)).bind (·.vb)

/-- V_STR − VB of a string, mV, both at the sample index of V_STR (R25, R240). -/
def strDiff (s : State) (j : Nat) : Option Int :=
  match vStr s j, vbAt s (strSample s j).sidx with
  | some v, some b => some ((v : Int) - b)
  | _, _ => none

/-- W in mV under a join's SEQ values; none while its direction is not known. -/
def joinWindow (s : State) (par : SMap Int) (j : Nat) : Option Rat :=
  let svc := serviceList s
  let fixed : Rat := keptN par pSeqJoinWFix
  match strRes s j, svc.mapM (strRes s), strDiff s j with
  | some _, some _, none => none
  | some rj, some rs, some diff =>
    let gs : Rat := (rs.map fun r => if r = 0 then 0 else 1 / r).sum
    some <| if gs = 0 then fixed
    else
      let rS := 1 / gs
      let dis := decide (0 < diff)
      let i : Rat := ((iNow s).getD (s.met.lastI.getD 0) : Int)
      let lim (k : Nat) (d : Bool) : Rat :=
        match strOut s k with
        | none => 0
        | some o => ((if d then o.idis else o.ichg).getD 0 0 : Int)
      let share := if decide (0 < i) = dis then rS / (rj + rS) * ratAbs i else 0
      let own := lim j dis - share
      let carried (k : Nat) : Rat :=
        let c : Rat := (strCurrent s k : Int)
        if dis then ratMax 0 (-c) else ratMax 0 c
      let heads := (svc.zip rs).map fun e => (lim e.1 (!dis) - carried e.1) * gs * e.2
      let allow := heads.foldl ratMin (ratMin ((keptN par pSeqJoinIMax : Nat) * 1000) own)
      ratMin (keptN par pSeqJoinWMax : Nat) (ratMax 0 (allow * (rj + rS) - (keptN par pSeqJoinVUnc : Nat)))
  | _, _, _ => some fixed

/-! ### The queue (R243, R244, R511) -/

/-- In service, or confirmed and in service from the next limit cycle (R162). -/
def isJoined (s : State) (j : Nat) : Bool := inService s j || (strOf s j).joined
def noneJoined (s : State) : Bool := allStrings.all fun j => !isJoined s j

/-- No string is in service and VB is known below SEQ.DEADBUS_V, or at or above it. -/
def deadBus (s : State) (par : SMap Int) : Bool :=
  noneJoined s && match vbNow s with
    | some v => decide (v < (keptN par pSeqDeadbusV * 1000 : Nat))
    | none => false
def liveUnserved (s : State) (par : SMap Int) : Bool :=
  noneJoined s && match vbNow s with
    | some v => decide (((keptN par pSeqDeadbusV * 1000 : Nat) : Int) ≤ v)
    | none => false

/-- How many other queued strings lie within SEQ.JOIN_W_FIX of a queued string's V_STR. -/
def near (s : State) (k : Join) : Nat :=
  match vStr s k.str with
  | none => 0
  | some v =>
    (s.seq.joins.filter fun m => m.str != k.str && match vStr s m.str with
      | some w => decide (((v : Int) - w).natAbs ≤ keptN k.par pSeqJoinWFix)
      | none => false).length

/-- The lead among the queued strings: the one with most others near, ties to the lowest number (R243). -/
def leadOf (s : State) : Option Nat :=
  (s.seq.joins.foldl (fun (b : Option (Nat × Nat)) k =>
    match b with
    | none => some (near s k, k.str)
    | some (n, j) => if n < near s k ∨ (n = near s k ∧ k.str < j) then some (near s k, k.str) else b) none).map (·.2)

/-- A queued string is judged: a failing state check ends its item, a live bus with no string in service every queued one, and
a failing data check restarts its dwell; where its dwell has not started, the newest set is latched and W computed (R243,
R511). -/
def judgeJoin (j : Nat) (s : State) : State :=
  match joinOf s j with
  | none => s
  | some k =>
    if k.knAt.isSome then s
    else
      match joinState s j with
      | some c => endJoin j c s
      | none =>
        if liveUnserved s k.par then
          (s.seq.joins.map (·.str)).foldl (fun s i => if (joinOf s i).any (·.knAt.isNone) then endJoin i 0x23 s else s) s
        else
        match joinData s j with
        | some c =>
          modJoin j (fun k => { k with
            hinder := some c, dwellAt := none, dwellOk := false, lead := false, setNum := none, window := none }) s
        | none =>
          if deadBus s k.par then
            let lead := leadOf s == some j
            modJoin j (fun k => { k with hinder := none, lead, window := none, dwellOk := lead, dwellAt := none
                                         setNum := some s.est.set.number, sidx := s.est.set.sidx }) s
          else if k.dwellAt.isSome then modJoin j (fun k => { k with hinder := none }) s
          else modJoin j (fun x => { x with
            hinder := none, lead := false, setNum := some s.est.set.number, sidx := s.est.set.sidx
            window := if (serviceList s).isEmpty then none else joinWindow s k.par j }) s

/-- A join's dwell restarts: its set and W are judged afresh in the next limit cycle (R511). -/
def Join.restarted (k : Join) : Join :=
  if k.dwellAt.isSome then { k with dwellAt := none, dwellOk := false, setNum := none, window := none } else k

/-- A string sample meets the join's window: the dwell starts, goes on or restarts (R242). -/
def joinSample (j : Nat) (s : State) : State :=
  match joinOf s j with
  | none => s
  | some k =>
    if k.knAt.isSome || k.lead || k.hinder.isSome then s
    else
      match k.window, strDiff s j with
      | some w, some d =>
        if (d.natAbs : Rat) ≤ w then modJoin j (fun k => { k with dwellAt := some (k.dwellAt.getD s.phys) }) s
        else modJoin j Join.restarted s
      | some _, none => modJoin j Join.restarted s
      | none, _ => s

/-- A dwell that has lasted SEQ.JOIN_DWELL is complete. -/
def dwellEnds (j : Nat) (s : State) : State :=
  match joinOf s j with
  | none => s
  | some k => if passed s k.dwellAt (keptN k.par pSeqJoinDwell * msNs) then modJoin j (fun k => { k with dwellOk := true }) s else s

/-- Rank of a queued string: |V_STR − VB| ÷ W (R244). -/
def joinRank (s : State) (k : Join) : Rat :=
  match k.window, strDiff s k.str with
  | some w, some d => if w = 0 then 0 else (d.natAbs : Rat) / w
  | _, _ => 0

/-- The next string to join: smallest rank among those whose dwell is complete, ties to the lowest number. -/
def nextJoin (s : State) : Option Nat :=
  let ready := s.seq.joins.filter fun k => k.knAt.isNone && k.dwellOk && k.hinder.isNone
  (ready.foldl (fun (b : Option Join) k =>
    match b with
    | none => some k
    | some m => if joinRank s k < joinRank s m ∨ (joinRank s k = joinRank s m ∧ k.str < m.str) then some k else b) none).map (·.str)

/-- KN of the next string is switched on where no join runs, SEQ.JOIN_SETTLE has passed, and every check holds (R244,
R511). -/
def tryKn (s : State) : State :=
  if s.seq.joins.any (·.knAt.isSome) || decide (s.phys < s.seq.settleTo) then s
  else
    match nextJoin s with
    | none => s
    | some j =>
      if (joinState s j).isSome || (joinData s j).isSome then s
      else
        let lead := (joinOf s j).any (·.lead)
        let s := if lead then { s with seq := { s.seq with lead := j } } else s
        roleOn 2 j (modJoin j (fun k => { k with knAt := some s.phys }) s)

/-- A queued string's request: refused at once on a failing state check, else queued and judged (R511). -/
def requestJoin (j : Nat) (report : Bool) (s : State) : State :=
  match joinState s j with
  | some c => endStr [0xA001, 0xA003] j c s
  | none =>
    let k : Join := { str := j, report, reqAt := s.phys, setNum := none, window := none, lead := false, dwellAt := none
                      dwellOk := false, knAt := none, kpAt := none, hinder := none, sidx := 0, par := seqPars s }
    let s := modStr j (fun x => { x with auxFresh := false }) s
    judgeJoin j { s with seq := { s.seq with joins := s.seq.joins ++ [k] } }

/-- The weld tests of a join's string run under the join's SEQ values where no opening runs. -/
def testsUnder (par : SMap Int) (s : State) : State :=
  if s.seq.openMask = 0 && s.seq.opens.isEmpty && s.seq.waitAt.isNone then { s with seq := { s.seq with openPar := par } } else s

/-- A join in progress ends and its string opens, with the weld tests of an opening (R242, R245, R247, R248). -/
def abortJoin (j c : Nat) (s : State) : State :=
  let par := ((joinOf s j).map (·.par)).getD []
  endJoin j c (strOpened j (testsUnder par (roleOff 2 j (roleOff 1 j s))))

/-- Both contactors are seen closed: the join is confirmed, and the string is in service from the next limit cycle (R162, R244,
R245). -/
def confirmJoin (j : Nat) (s : State) : State :=
  let par := ((joinOf s j).map (·.par)).getD []
  let s := modStr j (fun x => { x with joined := true, confPend := true, confAt := none, opening := false, vTests := 0, iTest := false }) s
  let s := { s with seq := { s.seq with settleTo := s.phys + keptN par pSeqJoinSettle * 10 * msNs } }
  endJoin j 0x00 s

/-- Confirmed strings enter service with the limit cycle (R162). -/
def enterService (s : State) : State :=
  (allStrings.filter fun j => (strOf s j).joined).foldl (fun s j => modStr j (fun x => { x with inService := true, joined := false }) s) s

/-! ### Welds (R247 to R249) -/

/-- A weld is recorded, naming role and string. -/
def postWeld (role j : Nat) (s : State) : State := post .weld 4 j [BitVec.ofNat 8 role, BitVec.ofNat 8 j] s

/-- A string is marked WELD_SUSPECT. -/
def markWeld (role j : Nat) (s : State) : State := postWeld role j (modStr j (fun x => { x with weld := true }) s)

/-- What the voltage test finds in a reading (R247): none where it is skipped, else the role found welded, 0 for none. -/
def voltageTest (vmin weld : Nat) (kp kn : Int) : Option Nat :=
  let sum := kp + kn
  if sum.natAbs < vmin then none
  else if kp.natAbs ≤ weld ∧ sum.natAbs ≤ kn.natAbs + weld then some 1
  else if kn.natAbs ≤ weld ∧ sum.natAbs ≤ kp.natAbs + weld then some 2
  else some 0

/-- A string leaves the opening under way once its tests are done: its items end, 0x22 where it is suspect. -/
def openingDone (j : Nat) (s : State) : State :=
  let k := strOf s j
  if bit s.seq.openMask.toNat j && k.vTests == 0 && !k.iTest && (s.seq.opens.all fun o => !(o.str == j && decide (o.role ≤ 2))) then
    let s := { s with seq := { s.seq with openMask := s.seq.openMask &&& ~~~ BitVec.ofNat 16 (2 ^ j) } }
    endStr [0xA002, 0xA004] j (if k.weld then 0x22 else 0x00) (modStr j (fun x => { x with opening := false }) s)
  else s

/-! ### Opening (R258 to R260) -/

/-- Scope of a BLOCK_OPEN transaction; above 2 it is 2 (R512). -/
def scopeOf (t : Txn) : Nat := min 2 (num t.payload 0 1)

/-- The block part of the BLOCK_OPEN transactions whose scope is at most `n` ends. -/
def endScope (n c : Nat) (s : State) : State :=
  let s := { s with seq := { s.seq with last := c } }
  (s.hub.txns.filter fun t => t.opcode == 0xA002 && t.served && decide (16 ∈ t.waiting) && decide (scopeOf t ≤ n)).foldl
    (fun s t => endItem (txnKey t) 16 c s) s

/-- The drive of the disconnector stops: BRAKE applied, its loops off (R258). -/
def driveOff (s : State) : State := loopsOff [2, 3, 4] { s with seq := { s.seq with brakeOff := false } }

/-- A failing close of the disconnector: drive off, DME off, INTERMEDIATE or END_FAULT, its item ended (R258). -/
def dscFails (c : Nat) (st : DscState) (s : State) : State :=
  endDsc c (roleOff 8 0 { driveOff s with seq := { (driveOff s).seq with dsc := st } })

/-- The steps of R259 with its preconditions met: capture armed, DTR and DME off with BRAKE applied. -/
def dscOpenSteps (s : State) : State :=
  let s := if p0 s pSeqDscCapture = 1 ∧ s.met.cap.state ≠ .frozen then armCapture s else s
  let s := driveOff s
  let s := roleOff 8 0 (roleOff 7 0 s)
  { s with seq := { s.seq with dsc := .opening, dscStep := .openDsc, dscAt := s.phys, closeCmd := false } }

/-- The opening of the disconnector ends (R259): its item, and a BLOCK_OPEN of scope 2. -/
def dscOpenEnds (c : Nat) (st : DscState) (s : State) : State :=
  let s := endBlock [0xA007] c { s with seq := { s.seq with dscStep := .none, dsc := st } }
  if s.seq.step = .openDsc then endScope 2 c { s with seq := { s.seq with step := .none } } else s

/-- A closing disconnector step is under way. -/
def dscClosing (s : State) : Bool :=
  match s.seq.dscStep with
  | .dscDrive | .dscBrake | .dscMove | .dscStop => true
  | _ => false

/-- An opening superseded what it opens (R237): joins of the strings, whose contactors the opening itself then switches off, the
strings of a close that has yet to request them, the close's block part for the mains with its disconnector, and a
DSC_CLOSE. -/
def supersede (mains dsc : Bool) (strs : List Nat) (s : State) : State :=
  let s := strs.foldl (fun s j =>
    match joinOf s j with
    | none => endStr [0xA001, 0xA003] j 0x50 s
    | some _ => endJoin j 0x50 s) s
  let s := { s with seq := { s.seq with mask := s.seq.mask &&& ~~~ BitVec.ofNat 16 (maskOf strs) } }
  let s := if (dsc || mains && s.seq.step == .closeDsc) && dscClosing s then dscFails 0x50 .intermediate s else s
  if mains && closing s then endClose 0x50 s else s

/-- The opening switch-offs of strings from time `t` on: KP, then KN, the next string a stagger later (R260). -/
def openItemsOf (par : SMap Int) (t : Nat) (strs : List Nat) : List OpenItem :=
  let gap := keptN par pSeqKGapT * msNs
  let stag := keptN par pSeqStaggerT * msNs
  sortBy (·.due) ((strs.zip (List.range 16)).flatMap fun e =>
    [{ role := 1, str := e.1, due := t + e.2 * stag }, { role := 2, str := e.1, due := t + e.2 * stag + gap }])

/-- Strings with a contactor on. -/
def closedStrings (s : State) : List Nat := allStrings.filter fun j => !stringOff s j

/-- Strings are commanded open now (R181): out of service, their switch-offs due. -/
def openStrings (strs : List Nat) (s : State) : State :=
  let s := strs.foldl (fun s j => modStr j (fun x => { x with inService := false, joined := false, opening := true, confPend := false }) s) s
  let fresh := strs.filter fun j => s.seq.opens.all fun o => !(o.str == j && decide (o.role ≤ 2))
  { s with seq := { s.seq with
      openMask := s.seq.openMask ||| BitVec.ofNat 16 (maskOf strs)
      opens := sortBy (·.due) (s.seq.opens ++ openItemsOf s.seq.openPar s.phys fresh) } }

/-- The disconnector part of a BLOCK_OPEN of scope 2. -/
def openDscPart (s : State) : State :=
  if p0 s pSeqDscMode = 0 ∨ s.seq.cfgDsc then endScope 2 0x10 { s with seq := { s.seq with step := .none } }
  else if s.seq.endOpen then endScope 2 0x00 { s with seq := { s.seq with step := .none } }
  else
    let s := dscOpenSteps s
    { s with seq := { s.seq with step := .openDsc } }

/-- The strings of a BLOCK_OPEN are opened and tested: its scope goes on or ends. -/
def openStringsDone (s : State) : State :=
  if s.seq.step = .openTests ∧ s.seq.openMask = 0 then
    let s := endScope 1 0x00 s
    if s.seq.scope = 2 then openDscPart s else { s with seq := { s.seq with step := .none } }
  else s

/-- The mains are open and tested: scope 0 ends, the strings follow otherwise (Table 08.10). -/
def openMainsDone (s : State) : State :=
  let s := endScope 0 0x00 s
  if s.seq.scope = 0 then { s with seq := { s.seq with step := .none } }
  else
    let s := openStrings (closedStrings s) { s with seq := { s.seq with step := .openTests } }
    let s := allStrings.foldl (fun s j =>
      if stringOff s j && !bit s.seq.openMask.toNat j then endItems [0xA002] j 0x01 s else s) s
    openStringsDone s

/-- MP, PCK and PCE off, MN due after SEQ.K_GAP_T (Table 08.10 step 2); with the mains off already the strings follow. -/
def openMains (s : State) : State :=
  if !roleActive s 3 0 && !roleActive s 4 0 && !roleActive s 5 0 && !roleActive s 6 0 then
    openMainsDone { s with seq := { s.seq with waitAt := none, closed := false } }
  else
    let pck := roleActive s 5 0
    let s := roleOff 6 0 (roleOff 5 0 (roleOff 3 0 s))
    let mn : OpenItem := { role := 4, str := 0, due := s.phys + keptN s.seq.openPar pSeqKGapT * msNs }
    { s with seq := { s.seq with
        step := .openMn, waitAt := none, closed := false, opens := sortBy (·.due) (s.seq.opens ++ [mn])
        pckOffAt := if pck then some s.phys else s.seq.pckOffAt } }

/-- A BLOCK_OPEN of a scope begins (R237, R260): what it opens is superseded, zero current requested, the wait begun. -/
def blockOpen (scope : Nat) (s : State) : State :=
  let s := supersede true (scope == 2) (if scope = 0 then [] else allStrings) s
  let s := sendLimits 0x03 0 3 s
  match s.seq.step with
  | .openWait | .openMn | .openWeld | .openStrings | .openTests | .openDsc =>
    { s with seq := { s.seq with scope := max scope s.seq.scope } }
  | _ =>
    { s with seq := { s.seq with step := .openWait, scope := scope, waitAt := some s.phys, openPar := seqPars s } }

/-- |I| has reached SEQ.OPEN_I, or SEQ.OPEN_WAIT_T has passed (R260). -/
def waitOver (s : State) : Bool :=
  currentWithin s (keptN s.seq.openPar pSeqOpenI) || passed s s.seq.waitAt (keptN s.seq.openPar pSeqOpenWaitT * msNs)

/-! ### Pre-charge (R250 to R254) -/

/-- Converter current, mA, from AI0 through SEQ.PC_AI_SCALE. -/
def convCurrent (s : State) : Rat := ((s.ctl.aiMean.getD 0 0 : Int) : Rat) * (p0 s pSeqPcAiScale : Nat) / 32768

/-- SEQ.PC_I_MAX of the close under way, mA; SEQ.PC_MODE. -/
def pcImax (s : State) : Rat := (keptN s.seq.par pSeqPcIMax : Nat) * 100
def pcMode (s : State) : Nat := keptN s.seq.par pSeqPcMode

/-- A loop is started by its owner (R302): its first evaluation starts it without a kick. -/
def startLoop (k : Nat) (s : State) : State :=
  modLoop k (fun l => { l with state := .running, fresh := true, i := 0, d := 0, u := 0, miss := false, missRun := 0, ffInv := false, ffAt := none, satRun := 0 }) s

/-- Pre-charge ends without success: PCE or PCK, MN and MP off, and the main pair tested where it was on; the strings stay in
service (R248, R253, R262). -/
def pcFails (c : Nat) (s : State) : State :=
  let pck := roleActive s 5 0
  let s := if roleActive s 3 0 || roleActive s 4 0 then mainsOpened (testsUnder s.seq.par s) else s
  let s := roleOff 4 0 (roleOff 3 0 (roleOff 6 0 (roleOff 5 0 s)))
  endClose c { s with seq := { s.seq with pckOffAt := if pck then some s.phys else s.seq.pckOffAt } }

/-- MN is switched on and the ramp begins (log 17). -/
def mnOn (s : State) : State :=
  let s := roleOn 4 0 s
  let s := { s with seq := { s.seq with
    step := .pcMn, mnAt := some s.phys, rampAt := some s.phys, vlStart := (vlNow s).getD 0, doneAt := none, shortDone := false } }
  if pcMode s = 1 then startLoop 1 (startLoop 0 s) else s

/-- Pre-charge begins (R248, R252, R253): cooling time, MP weld check, then the probe, or MN at once in mode 2. -/
def pcBegin (s : State) : State :=
  let weldV : Int := (keptN s.seq.par pSeqWeldV * 1000 : Nat)
  let cool := pcMode s = 0 ∧ s.seq.pckOffAt.isSome ∧ !passed s s.seq.pckOffAt (keptN s.seq.par pSeqPcCoolT * secNs)
  let welded : Bool := match vbNow s, vlNow s with
    | some b, some l => decide (b - weldV ≤ l)
    | _, _ => false
  if cool then endClose 0x33 s
  else if pcMode s != 2 && welded then endClose 0x22 (postWeld 3 0 s)
  else if pcMode s = 2 then mnOn { s with seq := { s.seq with energy := 0 } }
  else
    let s := { s with seq := { s.seq with step := .pcProbe, pathAt := some s.phys, vlStart := (vlNow s).getD 0, energy := 0, shortDone := false } }
    if pcMode s = 1 then startLoop 1 (roleOn 6 0 s) else roleOn 5 0 s

/-- BLOCK_CLOSE's joins are requested (R255 step 2). -/
def closeJoins (s : State) : State :=
  let s := { s with seq := { s.seq with step := .closeJoin, joinAt := s.phys } }
  (setBits 16 s.seq.mask.toNat).foldl (fun s j =>
    if isJoined s j then endItems [0xA001] j 0x01 s
    else if (joinOf s j).isSome then endItems [0xA001] j 0x02 (modJoin j (fun k => { k with report := true }) s)
    else requestJoin j false s) s

/-- BLOCK_CLOSE goes on to pre-charge once SEQ.MIN_STRINGS are in service and no join of the mask that can complete is left
(R255). -/
def closeGoesOn (s : State) : State :=
  let inside := s.seq.joins.any fun k => bit s.seq.mask.toNat k.str && (k.knAt.isSome || k.dwellAt.isSome || k.lead)
  if s.seq.step = .closeJoin ∧ keptN s.seq.par pSeqMinStrings ≤ (serviceList s).length ∧ !inside then
    let s := (setBits 16 s.seq.mask.toNat).foldl (fun s j =>
      if anyWaits s [0xA001] j then endItems [0xA001] j 0x02 (modJoin j (fun k => { k with report := true }) s) else s) s
    pcBegin s
  else s

/-- A loop of sequencing entered FAULT: its item ends with the code its step would reach at timeout (R306). -/
def seqLoopFault (k : Nat) (s : State) : State :=
  if !reserved s k then s
  else if k ≤ 1 then
    match s.seq.step with
    | .pcProbe | .pcMn | .pcRamp | .pcMp => pcFails 0x30 s
    | _ => s
  else if dscClosing s then dscFails 0x41 .intermediate s
  else s

/-! ### The disconnector (R257) -/

/-- Counts of a position in 0.01° on a channel (R315). -/
def posCounts (s : State) (ch : Nat) (x : Int) : Int := divRound (x * (pn s pPosLines ch * 4096 : Nat)) 36000

/-- DSC_CLOSE starts, or its result at once: configuration, latches, SAFE_OK, the preconditions of R257, and a state in which
only DSC_OPEN is accepted (R258). -/
def dscCloseCheck (s : State) : Option Nat :=
  let pf0 : PosChan := mget {} s.pos.chans 0
  if p0 s pSeqDscMode = 0 ∨ s.seq.cfgDsc then some 0x10
  else if latchedAction s (fun a _ => decide (5 ≤ a) && decide (a ≤ 8)) || s.prt.g4 then some 0x11
  else if !safeOk s || roleActive s 3 0 || roleActive s 4 0 || roleActive s 5 0 || roleActive s 6 0
      || !s.seq.endOpen || s.seq.endClosed || !pf0.ref || s.seq.dsc == .intermediate || s.seq.dsc == .endFault then some 0x14
  else none

/-- DTR and DME on; the brake is released 50 ms later (Table 08.9). -/
def dscCloseBegin (s : State) : State :=
  let s := roleOn 8 0 (roleOn 7 0 s)
  { s with seq := { s.seq with
      dscStep := .dscDrive, dscAt := s.phys, dscFrom := s.phys, dsc := .closing, closeCmd := true } }

end Sys2Proof.Machine
end

