-- ==== Sys2Proof/Machine/ParamApply.lean ====
section
/-!
DEFINITION. How a written parameter takes effect: idle conditions, reservations, the resolutions a COMMIT makes, and the
batch every write goes through (R446 to R450, R452, R461 and the rules those name).
-/
namespace Sys2Proof.Machine
open Sys2Proof

/-! ### Idle conditions (Table 16.3) -/

/-- A ring is served. -/
def ringServed (s : State) (r : Nat) : Bool :=
  match (ringAt s r).service with
  | .served | .wrapped => true
  | _ => false

/-- No string is in service. -/
def noService (s : State) : Bool := (serviceList s).isEmpty

/-- The string of a node, or of a cell, is not in service. -/
def nodeIdle (s : State) (a : Nat) : Bool :=
  match nodeString s a with
  | none => true
  | some j => !inService s j

/-- A port holds no open transaction. -/
def portIdle (s : State) (p : Port) : Bool := !s.hub.txns.any fun t => decide (t.port = p)

/-- A position channel is idle (R332). -/
def posIdle (s : State) (ch : Nat) : Bool :=
  let c : PosChan := mget {} s.pos.chans ch
  p0' s ch || (passed s c.slowAt secNs && (p0 s pSeqDscMode == 0 || !(s.seq.dsc == .closing || s.seq.dsc == .opening)))
where
  p0' (s : State) (ch : Nat) : Bool := pn s pPosEnable ch == 0

/-- A loop is off. -/
def loopIsOff (s : State) (k : Nat) : Bool := (loopOf s k).state == .off

/-- Every loop that drives a sink is off. -/
def sinkIdle (s : State) (sink : Nat) : Bool :=
  (List.range 8).all fun k => cfgSink (loopCfg s k) != sink || loopIsOff s k

/-- Bits in which two masks differ. -/
def diffBits (w a b : Nat) : List Nat := (List.range w).filter fun i => bit a i != bit b i

/-- The block of a class-H parameter is idle for a value `x` (Table 16.3). -/
def idleH (s : State) (id inst : Nat) (x : Int) : Bool :=
  match id / 4096 with
  | 3 =>
    if id = pHostPortEnable then
      (diffBits 5 (p0 s id) x.toNat).all fun c => (allPorts.filter fun p => portCode p = c).all (portIdle s)
    else if id = pHostCanIde ∨ id = pHostCanNode ∨ id = pHostCanPrefix ∨ id = pHostCanNomRate ∨ id = pHostCanDataRate then
      portIdle s (if inst = 0 then .A else .B)
    else portIdle s .E
  | 4 =>
    if id = pChnRingEnable then (diffBits 8 (p0 s id) x.toNat).all fun r => !ringServed s r
    else !ringServed s inst
  | 5 => if id = pAcqTempCfg then nodeIdle s (nodeOfTemp inst) else nodeIdle s inst
  | 6 => noService s
  | 7 => if id = pEstTempSel then nodeIdle s (nodeOfCell inst) else noService s
  | 9 => noService s && !roleActive s 3 0 && !roleActive s 4 0
  | 10 =>
    if id = pSeqStringMap then
      let old := nodeString s inst
      let new := if x ≤ 15 then some x.toNat else none
      old == new || (old.toList ++ new.toList).all fun j => stringOff s j && !inService s j
    else if id = pSeqPcAiScale then [0, 1].all (loopIsOff s)
    else [2, 3, 4].all (loopIsOff s)
  | 12 =>
    if id = pCtlPwPeriod then sinkIdle s (inst + 1)
    else if id = pCtlDaMode then sinkIdle s (inst + 7)
    else loopIsOff s inst
  | 13 =>
    if id = pPosQoSrc then [p0 s pPosQoSrc, x.toNat].all fun c => 2 ≤ c || posIdle s c
    else if id = pPosQoDiv then 2 ≤ p0 s pPosQoSrc || posIdle s (p0 s pPosQoSrc)
    else if id = pPosEndPol then posIdle s 0
    else posIdle s inst
  | _ => true

/-- A reservation holds host writes to the value (R309, R328). -/
def heldNow (s : State) (id inst : Nat) : Bool :=
  if id = pCtlLoopCfg ∨ id = pCtlRateDiv ∨ id = pCtlSetpoint ∨ id = pCtlRampTgt ∨ id = pCtlRampRate ∨ id = pCtlVstrSel
      ∨ id = pCtlOutMin ∨ id = pCtlOutMax then reserved s inst
  else if id = pPosCmpCtrl ∨ id = pPosCmpPosA ∨ id = pPosCmpPosB then decide (inst ≤ 1) && p0 s pSeqDscMode == 1
  else false

/-! ### Resolutions at COMMIT -/

/-- R232: each role held once, the lowest-numbered load keeping it; the others become 0x00, counted. -/
def resolveRoles (s : State) : State :=
  allLoads.foldl (fun s n =>
    let r := pn s pSeqLoadRole n
    let same (m : Nat) : Bool :=
      let q := pn s pSeqLoadRole m
      bits q 7 0 == bits r 7 0 && (decide (2 < bits r 7 0) || bits q 11 8 == bits r 11 8)
    if bits r 7 0 != 0 && (List.range n).any same then clampTo s pSeqLoadRole n 0 else s) s

/-- Role a load has been committed, whether or not it is in force yet. -/
def roleGiven (s : State) (n : Nat) : Nat := bits (pn s pSeqLoadRole n) 7 0

/-- R270: LG_RESUME cleared on sequenced loads, a load whose LS a lower one names disabled, both counted; each load takes
its definition now, or at its next switch-off where it is in use (Table 16.4). -/
def resolveDefs (s : State) : State :=
  let s := allLoads.foldl (fun s n =>
    let w := pn s pLswLoadDef n
    if bit w 29 && roleGiven s n != 0 then clampTo s pLswLoadDef n ((w : Int) - 2 ^ 29) else s) s
  allLoads.foldl (fun s n =>
    let taken := (resolvedDef s n).isNone && decide (bits (pn s pLswLoadDef n) 13 8 < 40)
    let newly := taken && (loadDef s n).isSome
    let s := if newly then countClamps 1 s else s
    if isActive s n || waits (loadOf s n) then
      { s with par := { s.par with pendingDef := addKey n s.par.pendingDef } }
    else takeDef n s) s

/-- NOT_DOUBLE for each HS-only load that has a role (R270). -/
def noteSingle (s : State) : State :=
  allLoads.foldl (fun s n =>
    if roleGiven s n != 0 && (match resolvedDef s n with
      | some w => (defHs w).isSome && (defLs w).isNone
      | none => false) then post .notDouble 5 n [] s else s) s

/-- R342: an entry with no load, a sequenced or a disabled load, or a FUNC other than that of the lowest entry of its load
is disabled, counted. The entries come into force at the next evaluation (Table 16.4). -/
def resolveActs (s : State) : State :=
  (List.range 16).foldl (fun s e =>
    let w := pn s pThmActDef e
    let n := bits w 5 0
    let clash := (List.range e).find? fun f => bit (pn s pThmActDef f) 31 && bits (pn s pThmActDef f) 5 0 == n
    let bad := decide (48 ≤ n) || roleGiven s n != 0 || (resolvedDef s n).isNone || (match clash with
      | some f => bits (pn s pThmActDef f) 30 28 != bits w 30 28
      | none => false)
    if bit w 31 && bad then clampTo s pThmActDef e ((w : Int) - 2 ^ 31) else s) s

/-- R213: the applied matrix comes into force; a latched action keeps the entry it latched under, an unlatched one follows. -/
def rematrix (s : State) : State :=
  let m : SMap (BitVec 32) := (s.par.applied.filter fun e => e.1 / 65536 = pPrtTripMatrix).map fun e =>
    (e.1 % 65536, BitVec.ofNat 32 e.2.toNat)
  let s := { s with husk := { s.husk with matrix := m } }
  let s := (List.range 27).foldl (fun s src =>
    let t := tripOf s src
    if t.asserted && !t.latched && !t.delaying then
      let a := sourceAction s src
      let latch := a != 0 && (bit (matrixEntry s src) 30 || decide (3 < a))
      let s := modTrip src (fun t => { t with acting := if a = 0 then none else some a, latched := latch }) s
      if latch then noteTrip src s else s
    else s) s
  huskEffects s

/-- R72: a change of CHN.SCAN_RATE waits for an anchor on a scan boundary of the schedule in force, the first one at least
20 chain cycles on, and is broadcast; a value already pending stays as it is. -/
def scheduleRate (s : State) : State :=
  let p := 1000 / max 10 (p0 s pChnScanRate)
  let c := s.chn
  if (c.pending.map (·.1)).getD c.period = p then s
  else
    let wait := 20 + (c.period - (c.phase + 20) % c.period) % c.period
    { s with chn := { c with pending := some (p, (c.cycle + wait) % 32768), scanDue := true } }

/-- The sequencer's copy of SEQ.STRING_MAP is replaced, and the configuration judged (R232, R235). -/
def remap (s : State) : State :=
  let m : SMap Nat := (s.par.applied.filter fun e => e.1 / 65536 = pSeqStringMap).map fun e => (e.1 % 65536, e.2.toNat)
  judgeConfig { s with chn := { s.chn with mapCopy := m } }

/-! ### Loops (R294, R304, R309) -/

/-- Outer loop that a loop's reference names. -/
def outerOf (s : State) (k : Nat) : Option Nat :=
  let r := cfgRef (loopCfg s k)
  if 0x18 ≤ r ∧ r ≤ 0x1F then some (r - 0x18) else none

/-- Following references from loop `k` comes back to `k` within `n` steps. -/
def cyclic (s : State) (k : Nat) : Nat → Option Nat → Bool
  | 0, _ => false
  | _ + 1, none => false
  | n + 1, some m => m == k || cyclic s k n (outerOf s m)

/-- R304: a written REF_SRC that closes a cycle becomes 0x11, counted. -/
def breakCycle (s : State) (k : Nat) : State :=
  if !reserved s k && cyclic s k 8 (outerOf s k) then
    let w := pn s pCtlLoopCfg k
    clampTo s pCtlLoopCfg k ((w : Int) - (cfgRef w : Int) * 2 ^ 22 + 0x11 * 2 ^ 22)
  else s

/-- R309: a sink named by two loops stays with the lower one, and a reserved output with its reservation; the other's SINK
becomes none, counted. -/
def shareSinks (s : State) : State :=
  (List.range 8).foldl (fun s k =>
    let w := pn s pCtlLoopCfg k
    let sink := cfgSink w
    let other := (List.range 8).any fun m => m != k && (decide (m < k) || reserved s m) && cfgSink (loopCfg s m) == sink
    if !reserved s k && 1 ≤ sink && sink ≤ 8 && other then clampTo s pCtlLoopCfg k ((w : Int) - (sink : Int) * 256) else s) s

/-- CTL.RATE_DIV asked of a loop (Table 10.4 while reserved). -/
def divAsked (s : State) (k : Nat) : Nat :=
  if reserved s k then [20, 2, 100, 10, 2].getD k 10 else pn s pCtlRateDiv k

/-- A loop placed: slot, phase and divisor. -/
abbrev Place := Nat × Nat × Nat

/-- No loop of the slot falls in a same tick. -/
def placeFree (ps : List Place) (slot phase dv : Nat) : Bool :=
  ps.all fun p => p.1 != slot || (phase + p.2.1 * (Nat.gcd dv p.2.2 - 1)) % Nat.gcd dv p.2.2 != 0

/-- First free slot and phase of a divisor, slots before phases. -/
def findPlace (ps : List Place) (dv : Nat) : Option Place :=
  (List.range 4).findSome? fun slot =>
    ((List.range dv).find? fun ph => placeFree ps slot ph dv).map fun ph => (slot, ph, dv)

/-- A divisor doubled until it can be placed, at most 14 times (log 20). -/
def placeLoop (ps : List Place) (dv : Nat) : Nat → Option Place
  | 0 => none
  | n + 1 =>
    match findPlace ps dv with
    | some p => some p
    | none => placeLoop ps (dv * 2) n

/-- Divisors of outer loops raised to multiples of their inner loops' divisors. -/
def raiseOuter (s : State) (ds : List Nat) : List Nat :=
  (List.range 8).foldl (fun ds k =>
    match outerOf s k with
    | none => ds
    | some m =>
      let inner := max 1 (ds.getD k 1)
      let d := ds.getD m 1
      ds.set m ((d + inner - 1) / inner * inner)) ds

/-- The loops that take part: those with a measurement (log 20). -/
def loopUsed (s : State) (k : Nat) : Bool := cfgMeas (loopCfg s k) != 0

/-- The loops placed in ascending number, with the divisors they got. -/
def placeAll (s : State) (ds : List Nat) : List (Nat × Option Place) :=
  ((List.range 8).foldl (fun (acc : List (Nat × Option Place) × List Place) k =>
    if loopUsed s k then
      let p := placeLoop acc.2 (ds.getD k 1) 15
      (acc.1 ++ [(k, p)], acc.2 ++ p.toList)
    else acc) ([], [])).1

/-- Rounds of raising and placing until neither changes a divisor. -/
def scheduleRounds (s : State) : Nat → List Nat → List (Nat × Option Place)
  | 0, ds => placeAll s ds
  | n + 1, ds =>
    let ds := (List.range 8).foldl (fun d _ => raiseOuter s d) ds
    let ps := placeAll s ds
    let ds' := ps.foldl (fun d e => match e.2 with
      | some p => d.set e.1 p.2.2
      | none => d) ds
    if raiseOuter s ds' = ds' then ps else scheduleRounds s n ds'

/-- R294: every loop gets a slot and a phase; a divisor adjusted is counted. -/
def scheduleLoops (s : State) : State :=
  let asked := (List.range 8).map (divAsked s)
  let ps := scheduleRounds s 8 asked
  let changed := (ps.filter fun e => match e.2 with
    | some p => p.2.2 != asked.getD e.1 0
    | none => false).length
  let s := if changed = 0 then s else countClamps changed s
  let s := (List.range 8).foldl (fun s k => modLoop k (fun l => { l with placed := false, cfg := BitVec.ofNat 32 (loopCfg s k) }) s) s
  ps.foldl (fun s e => match e.2 with
    | some p => modLoop e.1 (fun l => { l with placed := true, slot := p.1, phase := p.2.1, div := p.2.2 }) s
    | none => s) s

/-! ### Hub parameters (R442) -/

/-- Sum of the quotas of the enabled ports but one. -/
def quotaOthers (s : State) (c : Nat) : Nat :=
  (((List.range 5).filter fun d => d != c && bit (p0 s pHostPortEnable) d).map (pn s pHostQuota)).sum

/-- A port's quota clamped to what remains of 960, not below 16. -/
def clampQuota (s : State) (c : Nat) : State :=
  let rest := 960 - quotaOthers s c
  if rest < pn s pHostQuota c then clampTo s pHostQuota c ((max 16 rest : Nat) : Int) else s

/-- Quotas written, and quotas of ports an applied change enables, in descending port code. -/
def judgeQuotas (old : State) (written : List Nat) (s : State) : State :=
  let s := (written.filter fun c => bit (p0 s pHostPortEnable) c).foldl clampQuota s
  ([4, 3, 2, 1, 0].filter fun c => bit (p0 s pHostPortEnable) c && !bit (p0 old pHostPortEnable) c).foldl clampQuota s

/-- Parameters whose applied change restarts a port's link. -/
def relinkIds : List Nat :=
  [pHostCanIde, pHostCanNode, pHostCanPrefix, pHostCanNomRate, pHostCanDataRate, pHostIpMode, pHostIpAddr, pHostIpMask,
   pHostIpGw, pHostUdpPort, pHostPtpDomain]

/-- Thresholds, hystereses and dwells of the thermal manager, whose change restarts any dwell in progress (R351). -/
def thmDwellKey (k : Nat) : Bool :=
  [pThmHyst, pThmDwell, pThmBpWarn, pThmBpStop, pThmDieWarn, pThmDieStop, pThmActT, pThmActHyst, pThmActDwell].any (· == k / 65536)
def restartDwells (s : State) : State :=
  { s with thm := { s.thm with
    levels := mmap (fun _ e => { e with since := none }) s.thm.levels
    entries := mmap (fun _ e => { e with since := none }) s.thm.entries } }

/-! ### The batch -/

/-- Rings that CHN.RING_ENABLE disables are unpowered (R38). -/
def dropRings (s : State) : State :=
  (List.range 8).foldl (fun s r =>
    if bit (p0 s pChnRingEnable) r || !bit s.pow.rails.toNat (7 + r) then s
    else { s with
      pow := { s.pow with rails := s.pow.rails &&& ~~~ BitVec.ofNat 16 (2 ^ (7 + r)) }
      chn := { s.chn with rings := mmod {} s.chn.rings r fun g => { g with service := .unpowered, misPop := false, lostAt := none } } }) s

/-- What follows the application of the values of `keys` (Tables 16.3 and 16.4). -/
def afterApply (old : State) (keys : List Nat) (s : State) : State :=
  let has (id : Nat) : Bool := keys.any fun k => k / 65536 == id
  let insts (id : Nat) : List Nat := (keys.filter fun k => k / 65536 = id).map (· % 65536)
  let modes := has pSeqPcMode || has pSeqDscMode
  let s := if has pSeqLoadRole then settleRoles { resolveRoles s with par := { (resolveRoles s).par with pendingRole := true } } else s
  let s := if has pLswLoadDef then resolveDefs s else s
  let s := if has pLswLoadDef || has pSeqLoadRole then noteSingle s else s
  let s := if has pThmActDef then resolveActs s else s
  let s := if keys.any thmDwellKey then restartDwells s else s
  let s := if has pPrtTripMatrix then rematrix s else s
  let s := if has pChnScanRate then scheduleRate s else s
  let s := if has pAcqAlmOv || has pAcqAlmUv || has pAcqAlmOt || has pAcqAlmIoc || has pAcqAlmFuse then
      { s with chn := { s.chn with alarmDue := true } } else s
  let s := if has pChnRingEnable then dropRings s else s
  let s := if has pSeqStringMap then remap s else s
  let s := if modes then judgeConfig s else s
  let s := (insts pCtlLoopCfg).foldl breakCycle s
  let s := if has pCtlLoopCfg || modes then shareSinks s else s
  let s := if has pCtlLoopCfg || has pCtlRateDiv || modes then scheduleLoops s else s
  let s := if has pHostQuota || has pHostPortEnable then judgeQuotas old (insts pHostQuota) s else s
  let s := if relinkIds.any has then withHub s fun h => { h with relinks := h.relinks + 1 } else s
  (insts pPosLines ++ insts pPosDir ++ insts pPosIdxMode).foldl (fun s ch =>
    { s with pos := { s.pos with chans := mmod {} s.pos.chans ch fun c => { c with ref := false } } }) s

/-- One value of a batch: applied or staged by its class (R446); the flag says which. -/
def placeValue (commit : Bool) (old s : State) (key : Nat) (x : Int) : State × Bool :=
  let id := key / 65536
  let inst := key % 65536
  if id = pSysClampCount then ({ s with par := { s.par with clampCount := 0 } }, true)
  else
    let cls := ((paramRow id).map (·.cls)).getD 0
    let held := heldNow old id inst
    let now := !held && (cls == 0 || (cls == 1 && commit) || (cls == 2 && idleH old id inst x))
    if now then
      let s := setApplied s id inst x
      ({ s with par := { s.par with staged := mdel s.par.staged key, held := s.par.held.filter (· != key) } }, true)
    else
      let tag := held && (cls == 0 || (cls == 1 && commit))
      ({ s with par := { s.par with
          staged := mput s.par.staged key x, held := if tag then addKey key s.par.held else s.par.held } }, false)

/-- The values of a batch put in place, and the keys applied. -/
def placeAllValues (commit : Bool) (old : State) (batch : List (Nat × Int)) (s : State) : State × List Nat :=
  batch.foldl (fun (acc : State × List Nat) e =>
    let r := placeValue commit old acc.1 e.1 e.2
    (r.1, if r.2 then acc.2 ++ [e.1] else acc.2)) (s, [])

/-- A batch written as one transaction: all put in place, then each ordering rule judged once, then what follows (R448,
R450). -/
def writeValues (commit : Bool) (batch : List (Nat × Int)) (s : State) : State :=
  let r := placeAllValues commit s batch s
  afterApply s r.2 (judgeOrder s r.2 r.1)

/-- Values whose reservation has ended are applied (R309, R328, R447). -/
def releaseHeld (s : State) : State :=
  let free := s.par.held.filter fun k => !heldNow s (k / 65536) (k % 65536)
  if free.isEmpty then s
  else writeValues true (free.filterMap fun k => (mfind s.par.staged k).map fun x => (k, x)) s

/-- A batch, and the held values it releases. -/
def writeBatch (commit : Bool) (batch : List (Nat × Int)) (s : State) : State := releaseHeld (writeValues commit batch s)

/-- Staged class-H values of given keys are applied: their block stands idle for them now. -/
def applyIdle (keys : List Nat) (s : State) : State :=
  let batch := keys.filterMap fun k => (mfind s.par.staged k).map fun x => (k, x)
  if batch.isEmpty then s else writeBatch false batch s

/-- Staged values of one group that wait for idle. -/
def staged (s : State) (p : Nat → Bool) : List Nat := (s.par.staged.map (·.1)).filter fun k => p (k / 65536)

/-- Class of a configuration ID. -/
def paramClass (id : Nat) : Nat := ((paramRow id).map (·.cls)).getD 0

/-- Class-H values that still await idle. -/
def awaitingH (s : State) : Nat := (staged s fun id => paramClass id == 2).length

end Sys2Proof.Machine
end

