-- ==== Sys2Proof/Machine/ImpOps.lean ====
section
/-!
DEFINITION. The impedance engine's own memory: current histories, the events that exclude a step, the scans and filter
states a step refers to, and the step's record (R184 to R195).
-/
namespace Sys2Proof.Machine
open Sys2Proof

/-- The engine changed, its step whose response is open, and every step it has not closed yet. -/
def withImp (s : State) (f : Imp → Imp) : State := { s with imp := f s.imp }
def modStep (f : Step → Step) (s : State) : State := withImp s fun i => { i with open_ := i.open_.map f }
def modSteps (f : Step → Step) (s : State) : State :=
  withImp s fun i => { i with open_ := i.open_.map f, closing := i.closing.map f }

/-- Sample instants from index `b` to index `a`, modulo 2^32. -/
def idxDiff (a b : Nat) : Nat := (a + 2 ^ 32 - b) % 2 ^ 32

/-- Index `a` is at or after index `b`, the two within 2^31 of each other. -/
def idxGe (a b : Nat) : Bool := decide (idxDiff a b < 2 ^ 31)

/-- Time from the edge to the instant of a sample index, µs (R185, R189). -/
def stepUs (k : Step) (idx : Nat) : Rat := (idxDiff idx k.edge : Nat) * 125 / 4 + (k.back : Nat)

/-- Physical time of the instant of a past sample index. -/
def physOf (s : State) (idx : Nat) : Nat := s.phys - (idxDiff s.met.sidx idx * 31250 + since s s.met.instAt)

/-- The response is past its last instant: a sample index lies after its 1 s response instant, or after its end (R186, R192). -/
def Step.past (k : Step) (sidx : Nat) : Bool :=
  let after (i : Nat) : Bool := sidx != i && idxGe sidx i
  k.failed || k.ended.any after || (mfind k.insts 3).any after

/-- An event of Table 06.3 is present at a physical time and sample index: `n` is the ring or string it belongs to, 0 where it is
the block's. -/
def noteAt (t idx outcome n : Nat) (s : State) : State :=
  let key := outcome * 65536 + n
  modSteps (fun k =>
      if k.confirmed && !k.past idx && decide (k.quietAt ≤ t) && !decide (key ∈ k.hits) then { k with hits := key :: k.hits } else k)
    (withImp s fun i => { i with events := mmod 0 i.events key (max t) })

/-- An event of Table 06.3 is present now. -/
def noteImp (outcome n : Nat) (s : State) : State := noteAt s.phys s.met.sidx outcome n s

/-- An IMP value of a step. -/
def Step.parN (k : Step) (id : Nat) : Nat := keptN k.par id

/-- A step's event (R195): t_e, outcome, counts of strings, fitted and excluded cells, then the strings of the step as a mask
and each one's ΔI in order. A replaced record's report has a source of its own, so that it merges with no other step's
(R190, log 153). -/
def postStep (outcome fitted excluded : Nat) (k : Step) (s : State) : State :=
  post .impStep 0xFF (if outcome = 0x19 then 1 else 0)
    (le 8 k.time ++ [BitVec.ofNat 8 outcome, BitVec.ofNat 8 k.strs.length] ++ le 2 fitted ++ le 2 excluded
      ++ le 2 (maskOf (mkeys k.strs)) ++ k.strs.flatMap fun e => le 4 (signedCode (ratRound e.2.2))) s

/-- A string's ΔI as far as it is known: the mean over the part of R185's window that has passed, less I0. -/
def deltaSoFar (k : Step) (j : Nat) (x : Rat × Rat) : Rat :=
  let a := mget (0, 0) k.sums j
  if a.2 = 0 then x.2 else (a.1 : Rat) / (a.2 : Nat) - x.1

/-- A string leaves its hold band at a sample from t_e + 1 ms on (R193). The band lies about ΔI as far as R185's mean is known by
then (DEDUCED, log 154). -/
def leavesBand (k : Step) (j : Nat) (i : Int) : Bool :=
  match mfind k.strs j with
  | none => false
  | some x =>
    let d := deltaSoFar k j x
    decide (((k.parN pImpHoldBand : Nat) : Rat) / 100 * ratAbs d < ratAbs (i - (x.1 + d)))

/-- A string's 1 kHz current in a step: it enters ΔI, and is held against the band until the 1 s response instant. -/
def stepCurrent (j sidx : Nat) (i : Int) (k : Step) : Step :=
  let t := stepUs k sidx
  if !k.confirmed || (mfind k.strs j).isNone || !idxGe sidx k.edge || decide (t < 1000) then k
  else
    let k := if t ≤ 1000000 then { k with sums := mmod (0, 0) k.sums j fun x => (x.1 + i, x.2 + 1) } else k
    if !k.past sidx && k.ended.isNone && leavesBand k j i then { k with ended := some sidx } else k

/-- A string's 1 kHz current enters the engine: its history, and the steps not closed yet. -/
def impCurrent (j sidx : Nat) (i : Int) (s : State) : State :=
  let s := withImp s fun m => { m with
    histS := mput m.histS j (((sidx, i) :: mget [] m.histS j).take (p0 s pImpQuietT * 10 + 8)) }
  modSteps (stepCurrent j sidx i) s

/-- Values and quality bytes of every cell at a scan. -/
def scanValues (idx : Nat) (s : State) : SMap CellValue :=
  s.chn.cells.map fun e => (e.1, if e.2.sidx = idx then { volt := e.2.volt, qual := e.2.qual.toNat } else {})

/-- A held scan enters the engine: a pre-step sample or a response that awaits it takes it, one whose strobe did not come
fails; strings with a BLEED sample are noted at its strobe (R192). -/
def impScan (idx : Nat) (s : State) : State :=
  let vals := scanValues idx s
  let s := withImp s fun m => { m with scans := ((idx, vals) :: m.scans).take 2 }
  let s := modSteps (fun k =>
    let k := if k.pre.isNone && k.preIdx == idx then { k with pre := some vals } else k
    let due := k.insts.filter fun e => (mfind k.resp e.1).isNone
    let k := match due.find? (·.2 = idx) with
      | some e => { k with resp := mput k.resp e.1 vals }
      | none => k
    if due.any fun e => e.2 != idx && idxGe idx e.2 then { k with failed := true } else k) s
  allStrings.foldl (fun s j =>
    if (stringCells s j).any fun c => bit (mget {} vals c).qual 1 then noteAt (physOf s idx) idx 0x12 j s else s) s

/-- The filter states after a pass enter the engine. -/
def impPass (idx : Nat) (s : State) : State :=
  let states : SMap FilterState := s.est.cells.map fun e =>
    (e.1, { soc := e.2.soc, vpa := e.2.vpa, vpb := e.2.vpb, tMod := e.2.tMod })
  let s := withImp s fun m => { m with passes := ((idx, states) :: m.passes).take 2 }
  modSteps (fun k => if k.states.isNone && k.confirmed && k.preIdx == idx then { k with states := some states } else k) s

/-- The switching elements that are on: contactors, pre-charge path and disconnector. -/
def elementsOn (s : State) : List Nat := allLoads.filter fun n => roleOf s n != 0 && isActive s n

/-- Code of the disconnector's state among the switching elements. -/
def dscMark : DscState → Nat
  | .opened => 100 | .closed => 101 | .closing => 102 | .opening => 103 | .intermediate => 104 | .unreferenced => 105 | .endFault => 106

/-- The switching elements that are on, and the state of the disconnector (R133, R192). -/
def switchMarks (s : State) : List Nat := elementsOn s ++ [dscMark s.seq.dsc]

end Sys2Proof.Machine
end

