-- ==== Sys2Proof/Machine/ChainOps.lean ====
section
/-!
DEFINITION. The chain rings as operations: frames, retries, segments of a ring, enumeration, and the break and the wrap
(R46 to R81).
-/
namespace Sys2Proof.Machine
open Sys2Proof

/-! ### Rings and nodes -/

/-- The chain part, a ring and a node changed. -/
def withChn (s : State) (f : Chain → Chain) : State := { s with chn := f s.chn }
def modRing (r : Nat) (f : Ring → Ring) (s : State) : State := withChn s fun c => { c with rings := mmod {} c.rings r f }
def modNode (a : Nat) (f : Node → Node) (s : State) : State :=
  if (mfind s.chn.nodes a).isSome then withChn s fun c => { c with nodes := mmod {} c.nodes a f } else s

/-- A temperature code read as the hottest value (Table 00.5). -/
abbrev hottest : Int := 0x7FFF

/-- The rings in order. -/
abbrev allRings : List Nat := List.range 8

/-- Addresses of the nodes of a ring, by hop. -/
def ringNodes (s : State) (r : Nat) : List Nat := (mkeys s.chn.nodes).filter fun a => ringOf a == r

/-- The ring is split in two segments (R74). -/
def Ring.wraps (g : Ring) : Bool := g.cutA.isSome || g.cutB.isSome

/-- First hop not served from end A, and first hop served from end B, of a wrapped ring. One of them not yet known is
where the other stands (Table 02.9 step 6). -/
def Ring.endsA (g : Ring) : Nat := g.cutA.getD (g.cutB.getD 64)
def Ring.startsB (g : Ring) : Nat := g.cutB.getD (g.cutA.getD 64)

/-- The hop is served, from the end that `dir` names: end A and the forward lane for false (Table 02.2). -/
def Ring.servedBy (g : Ring) (dir : Bool) (hop : Nat) : Bool :=
  if g.wraps then (if dir then decide (g.startsB ≤ hop) else decide (hop < g.endsA)) else true

/-- The hop is reached from an end. -/
def Ring.reaches (g : Ring) (hop : Nat) : Bool := g.servedBy false hop || g.servedBy true hop

/-- The wrap is complete: where each segment ends is known (R35, R74). -/
def Ring.wrapDone (g : Ring) : Bool := !g.wraps || (g.cutA.isSome && g.cutB.isSome)

/-- The node answers: its ring is served and reaches it, and it has not been declared failed. -/
def nodeLive (s : State) (a : Nat) : Bool :=
  ringServed s (ringOf a) && !(nodeOf s a).failed && (ringAt s (ringOf a)).reaches (hopOf a)

/-- The sequencer runs (R24): its rails and clock are up. -/
def sequencing (s : State) : Bool :=
  match s.pow.phase with
  | .late | .normal | .powerDown => true
  | _ => false

/-- Rings that are served. -/
def servedRings (s : State) : List Nat := allRings.filter (ringServed s)

/-- Sample index of the strobe instant of the chain cycle under way (R29). -/
def strobeIdx (s : State) : Nat := s.met.sidx / 32 * 32 + 4

/-- Stamp of a strobe instant by its sample index (R15, R25). -/
def stampOf (s : State) (idx : Nat) : Stamp := ((s.met.strobes.find? (·.idx = idx)).map (·.stamp)).getD {}

/-! ### Time on a lane (R49, R68, R69) -/

/-- ns since the chain cycle under way began, by the metrology's instants (R29). -/
def cycleNs (s : State) : Nat := s.met.sidx % 32 * 31250 + min 31249 (since s s.met.instAt)

/-- Words a node of a type appends to a frame: its segment's header, payload and CRC; 0 where it appends nothing (R53,
Table 02.5). -/
def answerWords (ty opc : Nat) (data : List (BitVec 16)) : Nat :=
  let frag := (data.getD 1 0).toNat
  match opc with
  | 0x10 | 0x11 | 0x12 | 0x7F => 0
  | 0x01 | 0x08 => 8
  | 0x06 => 5
  | 0x20 => if ty = 1 then 2 + bits frag 7 0 + (if bits frag 15 8 = 0 then 2 else 0) else 0
  | 0x21 => if ty = 2 then 6 else 0
  | 0x22 => 12
  | 0x23 => if ty = 1 then 14 else 0
  | 0x24 => 10
  | 0x25 => if ty = 2 then 9 else 0
  | _ => 2

/-- Length of a train, ns: 57 bit times of framing, gap, header and CRC, and 16 for each word, at 12 Mbit/s. -/
def trainNs (words : Nat) : Nat := ((57 + 16 * words) * 250 + 2) / 3

/-- Times of a chain cycle, ns: the TC0 slot ends, the strobe's frame begins, and it has left. -/
abbrev slotEnd : Nat := 40000
abbrev strobeBegins : Nat := 87583
abbrev strobeLeft : Nat := 95000

/-- Earliest time from `t` on at which a train of `n` ns fits: outside the TC0 slot unless it is one of the slot's, and gone
before the next strobe launch and the next slot; `c0` is where the cycle began (R68, R70). -/
def fitAt (slot : Bool) (c0 t n : Nat) : Nat :=
  let r := (t - c0) % msNs
  let b := t - r
  let lo := if slot then r else max r slotEnd
  let first := if slot then 0 else slotEnd
  if lo + n ≤ strobeBegins then b + lo
  else if max lo strobeLeft + n ≤ msNs then b + max lo strobeLeft
  else if first + n ≤ strobeBegins then b + msNs + first
  else b + msNs + strobeLeft

/-- Frames with an instant of their own: STROBE, BLEED_OFF and BLEED_ON (R71, R73). -/
def timedOpc (opc : Nat) : Bool := decide (0x10 ≤ opc) && decide (opc ≤ 0x12)

/-- Frames the TC0 slot carries: ALARM_ACK, and READ_STATUS after an alarm tone (R68). -/
def slotOpc (s : State) (r opc : Nat) : Bool := opc == 0x31 || opc == 0x24 && (ringAt s r).tone

/-! ### Frames (R50 to R52) -/

/-- The master frame header (Table 02.2). -/
def headerOf (dir bc : Bool) (hop opc tag len : Nat) : BitVec 32 :=
  BitVec.ofNat 32 (fld 1 31 (b2n dir) + fld 1 30 (b2n bc) + fld 6 24 hop + fld 8 16 opc + fld 10 6 tag + fld 6 0 len)

/-- CRC-16 of a master frame: its header and payload, most significant byte first (R55). -/
def frameCrc (hdr : BitVec 32) (data : List (BitVec 16)) : BitVec 16 :=
  BitVec.ofNat 16 (crc16 (be 4 hdr.toNat ++ data.flatMap fun w => be 2 w.toNat))

/-- Words the nodes a frame reaches append to it (R51, R53). -/
def segWords (s : State) (r : Nat) (dir bc : Bool) (hop opc : Nat) (data : List (BitVec 16)) : Nat :=
  let own (a : Nat) : Nat := answerWords (nodeOf s a).type opc data
  if bc then
    (((ringNodes s r).filter fun a =>
      (if dir then decide (hop ≤ hopOf a) else decide (hopOf a ≤ hop)) && (ringAt s r).servedBy dir (hopOf a)).map own).sum
  else max 2 (own (r * 64 + hop))

/-- A frame is launched under a given sequence word, `n` times in a row under consecutive tags. The manual leaves it to the
sequencer how tags are given out: each launch takes the ring's next one, modulo 1,024 (DESIGN CHOICE, log 133). -/
def launchTimes (n r : Nat) (dir bc : Bool) (hop opc : Nat) (data : List (BitVec 16)) (s : State) : State :=
  let g := ringAt s r
  let tag := (g.tag + 1) % 1024
  let hdr := headerOf dir bc hop opc tag data.length
  let ns := n * trainNs (data.length + segWords s r dir bc hop opc data)
  let free := max s.phys (if dir then g.laneB else g.laneA)
  let at_ := if timedOpc opc then free else fitAt (slotOpc s r opc) (s.phys - cycleNs s) free ns
  let f : Frame := { ring := r, dir, bc, hop, opc, tag, data, hdr, crc := frameCrc hdr data, times := n, at_ }
  modRing r (fun g => { g with
      tag := (g.tag + n) % 1024, laneA := if dir then g.laneA else at_ + ns, laneB := if dir then at_ + ns else g.laneB })
    (withChn s fun c => { c with frames := c.frames ++ [f] })

/-- A frame is launched once under a given sequence word. -/
def launchSeq (r : Nat) (dir bc : Bool) (hop opc : Nat) (data : List (BitVec 16)) (s : State) : State :=
  launchTimes 1 r dir bc hop opc data s

/-- The ring's next sequence word: every frame takes a new number but a retry of an acknowledged command (R52). -/
def nextWord (s : State) (r : Nat) : BitVec 16 := BitVec.ofNat 16 ((ringAt s r).seq + 1)

/-- A new frame is launched: its payload begins with the ring's next sequence word. -/
def launch (r : Nat) (dir bc : Bool) (hop opc : Nat) (data : List (BitVec 16)) (s : State) : State :=
  launchSeq r dir bc hop opc (nextWord s r :: data) (modRing r (fun g => { g with seq := (g.seq + 1) % 65536 }) s)

/-- The frame launched last is awaited: its train, or its retries, are due. -/
def await (tries sidx : Nat) (s : State) : State :=
  match s.chn.frames.getLast? with
  | none => s
  | some f => withChn s fun c => { c with pend := c.pend ++ [{
      ring := f.ring, bc := f.bc, dir := f.dir, hop := f.hop, opc := f.opc, tag := f.tag, data := f.data, hdr := f.hdr
      tries, sidx }] }

/-- Launches of a read that both ends share: each end reads its half, or its segment (R51, R70). -/
def readEnds (g : Ring) : List (Bool × Nat) :=
  if g.wraps then (if 0 < g.endsA then [(false, 63)] else []) ++ (if g.startsB < g.found then [(true, 0)] else [])
  else
    let m := (g.found + 1) / 2
    (if 0 < g.found then [(false, m - 1)] else []) ++ (if m < g.found then [(true, m)] else [])

/-- Launches of a command to a whole ring: from end A, or from each end of a wrapped ring. -/
def commandEnds (g : Ring) : List (Bool × Nat) :=
  if g.wraps then readEnds g else if 0 < g.found then [(false, 63)] else []

/-- A broadcast read is launched on a ring. -/
def broadcastRead (opc : Nat) (data : List (BitVec 16)) (sidx : Nat) (s : State) (r : Nat) : State :=
  (readEnds (ringAt s r)).foldl (fun s e => await 0 sidx (launch r e.1 true e.2 opc data s)) s

/-- A broadcast command is launched on a ring; `acked` where its nodes answer it. -/
def broadcast (opc : Nat) (data : List (BitVec 16)) (acked : Bool) (s : State) (r : Nat) : State :=
  (commandEnds (ringAt s r)).foldl (fun s e =>
    let s := launch r e.1 true e.2 opc data s
    if acked then await 0 0 s else s) s

/-- The end a node is served from: false end A. -/
def endOf (s : State) (a : Nat) : Bool := !(ringAt s (ringOf a)).servedBy false (hopOf a)

/-- A frame addressed to a node, awaited. -/
def addressed (opc : Nat) (data : List (BitVec 16)) (sidx : Nat) (a : Nat) (s : State) : State :=
  await 0 sidx (launch (ringOf a) (endOf s a) false (hopOf a) opc data s)

/-! ### Trains (R53 to R56) -/

/-- CRC-16 of a segment: its header and payload, most significant byte first (R55). -/
def segCrc (g : Segment) : Nat := crc16 ((g.hdr :: g.data).flatMap fun w => be 2 w.toNat)

/-- HOP, STS and LEN of a segment header (Table 02.3). -/
def segHop (g : Segment) : Nat := bits g.hdr.toNat 15 10
def segSts (g : Segment) : Nat := bits g.hdr.toNat 9 6
def segLen (g : Segment) : Nat := bits g.hdr.toNat 5 0

/-- A read opcode, whose retry is a new frame. -/
def isRead (opc : Nat) : Bool := decide (0x20 ≤ opc) && decide (opc ≤ 0x25)

/-- A segment the sequencer accepts of a node: intact, and, in a read, not of a reserved status (R56, R78); a reserved
status of a command's answer counts as 0x4 (Table 02.4). -/
def goodSegment (t : Train) (a : Nat) : Option Segment :=
  t.segs.find? fun g => segHop g == hopOf a && g.crc.toNat == segCrc g && segLen g == g.data.length
    && (decide (segSts g < 0xA) || !isRead (bits t.hdr.toNat 23 16))

/-- The master frame of a train has come back intact (R55). -/
def intactFrame (t : Train) : Bool := t.crc == frameCrc t.hdr t.payload

/-- Nodes whose answer a pending frame awaits (R51, R53): string-sense nodes alone answer READ_STRING and READ_SS_AUX, cell
nodes READ_CELLS and READ_COARSE. -/
def expected (s : State) (p : Pend) : List Nat :=
  let g := ringAt s p.ring
  (ringNodes s p.ring).filter fun a =>
    let h := hopOf a
    let ty := (nodeOf s a).type
    nodeLive s a
    && (if p.bc then (if p.dir then decide (p.hop ≤ h) else decide (h ≤ p.hop)) && g.servedBy p.dir h else h == p.hop)
    && (if p.opc = 0x20 ∨ p.opc = 0x23 then ty == 1 else if p.opc = 0x21 ∨ p.opc = 0x25 then ty == 2 else true)

/-- The retry of an item is still allowed: by CHN.RETRY_MAX and, of held samples, within t0 + 2 ms (R78). -/
def mayRetry (s : State) (p : Pend) : Bool :=
  decide (p.tries < p0 s pChnRetryMax)
  && (!(p.opc == 0x20 || p.opc == 0x21) || decide ((s.met.sidx + 2 ^ 32 - p.sidx) % 2 ^ 32 ≤ 64))

/-- One more try of an item at one node: an addressed read as a new frame, a command under its own number (R78). -/
def retryAt (p : Pend) (a : Nat) (s : State) : State :=
  if isRead p.opc then await (p.tries + 1) p.sidx (launch p.ring (endOf s a) false (hopOf a) p.opc p.data.tail s)
  else await (p.tries + 1) p.sidx (launchSeq p.ring (endOf s a) false (hopOf a) p.opc p.data s)

/-! ### Hardware limit tables (R99, R100) -/

/-- Instance numbers of HLT_NA: cells, then temperature inputs, then strings. The counts of the string classes are kept by
string-sense node, so that each node of a string that has more than one is checked by itself (R232). -/
def naTemp (t : Nat) : Nat := 9216 + t
def naStr (a : Nat) : Nat := 13312 + a

/-- An ACQ.HLT value in force. -/
def hltLimit (s : State) (id inst : Nat) : Int := (mfind s.chn.hltPar (pk id inst)).getD (paramDefault id inst)

/-- One reading checked for one class: a violating one counts, one inside the limit clears. -/
def hltStep (cls inst n : Nat) (viol : Bool) (s : State) : State :=
  let key := cls * 65536 + inst
  withChn s fun c =>
    if viol then
      let k := (mget {} c.hlt key : HltCount).count + 1
      { c with hlt := mput c.hlt key { count := k, met := decide (n ≤ k) || (mget {} c.hlt key : HltCount).met } }
    else { c with hlt := mdel c.hlt key }

/-- String of a node by the sequencer's copy of SEQ.STRING_MAP (R235). -/
def copyString (s : State) (a : Nat) : Option Nat :=
  let v := mget 0xFF s.chn.mapCopy a
  if v ≤ 15 then some v else none

/-- String of a count of a class. -/
def hltString (s : State) (cls inst : Nat) : Option Nat :=
  match cls with
  | 0 | 1 => copyString s (nodeOfCell inst)
  | 2 | 3 | 4 => copyString s (nodeOfTemp inst)
  | 5 | 6 => copyString s inst
  | _ =>
    if inst < 9216 then copyString s (nodeOfCell inst)
    else if inst < 13312 then copyString s (nodeOfTemp (inst - 9216))
    else copyString s (inst - 13312)

/-- Instance of a count in its class's record: the string for the string classes. -/
def hltInst (s : State) (cls inst : Nat) : Option Nat :=
  if cls = 5 ∨ cls = 6 then copyString s inst
  else if cls = 7 ∧ 13312 ≤ inst then (copyString s (inst - 13312)).map (13312 + ·)
  else some inst

/-- One class after readings of it: its record of the scan or cycle, its violation bit, and its Husk source with the strings it
names. -/
def hltClass (sidx cls : Nat) (s : State) : State :=
  let hits := (s.chn.hlt.filter fun e => e.1 / 65536 = cls).map fun e => (e.1 % 65536, e.2.met)
  let met := (hits.filter (·.2)).map (·.1)
  let insts := (hits.filterMap fun e => hltInst s cls e.1).eraseDups
  let rec_ : HltRecord := { sidx, count := insts.length, lowest := (sortBy id insts).headD 0
                            bitmap := (met.filterMap (hltInst s cls)).eraseDups }
  let was := bit s.chn.viol.toNat cls
  let now := !met.isEmpty
  let s := withChn s fun c => { c with
    records := mput c.records cls ((rec_ :: (mget [] c.records cls).filter (·.sidx != sidx)).take 64)
    viol := if now then c.viol ||| BitVec.ofNat 8 (2 ^ cls) else c.viol &&& ~~~ BitVec.ofNat 8 (2 ^ cls) }
  if now then assertSource (5 + cls) (BitVec.ofNat 16 (maskOf (met.filterMap (hltString s cls)))) s
  else if was then releaseSource (5 + cls) s
  else s

/-- The classes after a train's readings. -/
def hltFollow (sidx : Nat) (classes : List Nat) (s : State) : State := classes.foldl (fun s c => hltClass sidx c s) s

/-! ### Cells (R85, R91 to R93) -/

/-- A cell's sample, and its change. -/
def cellOf (s : State) (c : Nat) : CellSample := mget {} s.chn.cells c
def modCell (c : Nat) (f : CellSample → CellSample) (s : State) : State :=
  withChn s fun k => { k with cells := mmod {} k.cells c f }

/-- A cell of the node is implausible: its coarse values are read at every scan (R93). -/
def underCoarse (s : State) (a : Nat) : Bool := (nodeOf s a).refImpl || (cellsOfNode a).any fun c => (cellOf s c).impl

/-- Quality byte of a cell sample (Table 03.5). -/
def cellQual (s : State) (a c : Nat) (na bleed fly carry : Bool) : BitVec 8 :=
  let n := nodeOf s a
  BitVec.ofNat 8 (b2n na + 2 * b2n bleed + 4 * b2n fly + 8 * b2n carry
    + 16 * b2n (n.noApt || (ringAt s (ringOf a)).noApt) + 32 * b2n (n.refImpl || (cellOf s c).impl))

/-- A cell's primary reading arrives: stored and limit-checked. Under R93 a reading inside the limits waits for the coarse
value before it clears a count. -/
def putCell (a c raw sidx : Nat) (bleed fly carry : Bool) (s : State) : State :=
  let na := raw == 0xFFFF
  let q := cellQual s a c na bleed fly carry
  let s := modCell c (fun x => { x with
    volt := raw, qual := q, sidx := sidx, stamp := stampOf s sidx, vLast := if na then x.vLast else raw }) s
  let s := hltStep 7 c (p0 s pAcqHltNaN) na s
  if na then s
  else
    let hi := decide (hltLimit s pAcqHltVHi c < (raw : Int))
    let lo := decide ((raw : Int) < hltLimit s pAcqHltVLo c)
    let keep := underCoarse s a
    let s := if hi || !keep then hltStep 0 c (p0 s pAcqHltN) hi s else s
    if lo || !keep then hltStep 1 c (p0 s pAcqHltN) lo s else s

/-- Consecutive failures and passes of a comparison, and the fault they declare or clear (R92). -/
def plausStep (n clearN : Nat) (fails : Bool) (st : Nat × Nat × Bool) : Nat × Nat × Bool :=
  if fails then (satN 255 (st.1 + 1), 0, st.2.2 || decide (n ≤ st.1 + 1))
  else (0, satN 255 (st.2.1 + 1), st.2.2 && !decide (clearN ≤ st.2.1 + 1))

/-- The reference word of a node arrives (R88, R92). -/
def putRef (a raw : Nat) (s : State) : State :=
  let n := nodeOf s a
  if raw = 0xFFFF then modNode a (fun n => { n with refWord := raw }) s
  else
    let fails := decide (p0 s pAcqRefTol < ((raw : Int) - n.refNom).natAbs)
    let st := plausStep (p0 s pAcqPlausN) (p0 s pAcqPlausClearN) fails (n.refFail, n.refPass, n.refImpl)
    let s := modNode a (fun n => { n with refWord := raw, refFail := st.1, refPass := st.2.1, refImpl := st.2.2 }) s
    if st.2.2 && !n.refImpl then post .refImpl 2 a (le 2 raw ++ le 2 n.refNom) s else s

/-! ### Bleed as the module reckons it (R73, R102, R105) -/

/-- Bleed may flow at a node: it holds a schedule and is reached, its ring is between BLEED_ON and BLEED_OFF, and it does
not report NODE_OT (R72, R73, R101). -/
def mayBleed (s : State) (a : Nat) : Bool :=
  let n := nodeOf s a
  (ringAt s (ringOf a)).bleedOn && n.scanAck && !bit n.status.toNat 10 && nodeLive s a

/-- Charge in As that a cell bleeds in `ns`, from its last primary value and ACQ.BAL_RBLEED (R151). -/
def bledCharge (s : State) (c ns : Nat) : Rat :=
  (ns : Rat) / 1000000000 * ((cellOf s c).vLast : Rat) / 10000 * 10 / (pn s pAcqBalRbleed (nodeOfCell c) : Nat)

/-- The time since it was last booked is taken from a node's budgets, and its charge booked to its cells. -/
def bookNode (ns : Nat) (s : State) (a : Nat) : State :=
  let n := nodeOf s a
  if ns = 0 || n.left.all (· == 0) || !mayBleed s a then s
  else
    let spent (i : Nat) : Nat := min ns (n.left.getD i 0)
    let cells := (cellsOfNode a).filter fun c => spent (posOfCell c) != 0
    let est := cells.foldl (fun (m : SMap CellEst) c =>
      match mfind m c with
      | none => m
      | some e =>
        let q := bledCharge s c (spent (posOfCell c))
        mput m c { e with qb := e.qb + q, qbSet := e.qbSet + q, qbLearn := e.qbLearn + q, bled := e.bled + q }) s.est.cells
    modNode a (fun n => { n with left := n.left.map fun x => x - min ns x }) { s with est := { s.est with cells := est } }

/-- A ring's bleed is booked up to now. -/
def bookRing (r : Nat) (s : State) : State :=
  let ns := since s (ringAt s r).bleedAt
  let s := if (ringAt s r).bleedOn then (ringNodes s r).foldl (bookNode ns) s else s
  modRing r (fun g => { g with bleedAt := s.phys }) s

/-- Bleed may flow on a ring from now on, or no longer. -/
def setBleed (on : Bool) (r : Nat) (s : State) : State := modRing r (fun g => { g with bleedOn := on }) (bookRing r s)

/-- A node's status word arrives: its time under NODE_OT counts from here (R105). -/
def putStatus (a sidx : Nat) (w : BitVec 16) (s : State) : State :=
  modNode a (fun n => { n with status := w, statIdx := sidx }) (bookRing (ringOf a) s)

/-- A READ_CELLS segment (R85): fragment 0 carries the status and the reference word first. -/
def takeCells (p : Pend) (a : Nat) (g : Segment) (s : State) : State :=
  let word := (p.data.getD 1 0).toNat
  let first := bits word 15 8
  let count := bits word 7 0
  let none_ := decide (1 ≤ segSts g) && decide (segSts g ≤ 3)
  let s := if first = 0 ∧ !none_ then putRef a (g.data.getD 1 0xFFFF).toNat (putStatus a p.sidx (g.data.getD 0 0) s) else s
  let vals := if first = 0 then g.data.drop 2 else g.data
  let st := (nodeOf s a).status.toNat
  (List.range count).foldl (fun s i =>
    let c := a * 18 + first + i
    let raw := if none_ || !populated s c then 0xFFFF else (vals.getD i 0xFFFF).toNat
    putCell a c raw p.sidx (segSts g == 5 || !bit st 15) (segSts g == 6 || bit st 14) (segSts g == 7 || bit st 13) s) s

/-- The cells of a fragment of a node are not available for this scan (R78). -/
def naCells (p : Pend) (a : Nat) (s : State) : State :=
  let word := (p.data.getD 1 0).toNat
  (List.range (bits word 7 0)).foldl (fun s i => putCell a (a * 18 + bits word 15 8 + i) 0xFFFF p.sidx false false false s) s

/-- A coarse value: 10 bits of the packed words (R87). -/
def coarseOf (d : List (BitVec 16)) (i : Nat) : Nat := beNat ((d.take 12).flatMap fun w => be 2 w.toNat) / 2 ^ (16 * (min 12 d.length) - 10 * (i + 1)) % 1024

/-- One coarse value of a strobe arrives: compared with the primary one of the same strobe, and the worse of the two governs
the limits (R25, R92, R93). -/
def putCoarse (a c sidx raw : Nat) (s : State) : State :=
  let x := cellOf s c
  let na := raw == 0x3FF
  let pna := bit x.qual.toNat 0 || x.sidx != sidx
  let skip := na || pna || bit x.qual.toNat 3
  let fails := decide (p0 s pAcqCoarseTol * 10 < ((x.volt : Int) - (raw * 80 : Nat)).natAbs)
  let st := if skip then (x.fails, x.passes, x.impl)
    else plausStep (p0 s pAcqPlausN) (p0 s pAcqPlausClearN) fails (x.fails, x.passes, x.impl)
  let keep := underCoarse s a
  let q := if st.2.2 || (nodeOf s a).refImpl then x.qual ||| 0x20 else x.qual &&& 0xDF
  let s := modCell c (fun y => { y with
    coarse := raw, coarseIdx := sidx, fails := st.1, passes := st.2.1, impl := st.2.2, qual := q }) s
  let s := if st.2.2 && !x.impl then post .cellImpl 1 c (le 2 x.volt ++ le 2 raw ++ [q]) s else s
  let v : Int := (raw * 80 : Nat)
  let n := p0 s pAcqHltN
  let side (cls : Nat) (prim crs : Bool) (s : State) : State :=
    if !pna && prim then s else if !na && crs then hltStep cls c n true s
    else if keep && !(pna && na) then hltStep cls c n false s else s
  let hi := hltLimit s pAcqHltVHi c
  let lo := hltLimit s pAcqHltVLo c
  side 1 (decide ((x.volt : Int) < lo)) (decide (v < lo)) (side 0 (decide (hi < (x.volt : Int))) (decide (hi < v)) s)

/-- A READ_COARSE segment. -/
def takeCoarse (p : Pend) (a : Nat) (g : Segment) (s : State) : State :=
  let none_ := decide (1 ≤ segSts g) && decide (segSts g ≤ 3)
  (List.range 18).foldl (fun s i =>
    if populated s (a * 18 + i) then putCoarse a (a * 18 + i) p.sidx (if none_ then 0x3FF else coarseOf g.data i) s else s) s

/-! ### Temperatures (R95, R96, R508) -/

/-- A temperature input, and its change. -/
def tempOf (s : State) (t : Nat) : TempSample := mget {} s.chn.temps t
def modTemp (t : Nat) (f : TempSample → TempSample) (s : State) : State :=
  withChn s fun k => { k with temps := mmod {} k.temps t f }

/-- A value is implausible against the range and the slew limit (R95). -/
def tempBad (s : State) (x : TempSample) (v : Int) : Bool :=
  v == 0x7FFF || decide (v < pv s pAcqTempMin 0) || decide (pv s pAcqTempMax 0 < v) ||
  match x.accepted with
  | none => false
  | some w => decide (p0 s pAcqTempSlew * (s.phys - x.acceptAt) < (v - w).natAbs * secNs)

/-- An input as a firmware policy sees it: one that is not available is its last accepted value for THM.NA_HOLD_T, then the
hottest (R508). -/
def policyTemp (s : State) (t : Nat) : Int :=
  let x := tempOf s t
  if !bit x.qual.toNat 0 then x.code
  else
    match x.accepted, x.naAt with
    | some v, some n => if s.phys - n < p0 s pThmNaHoldT * 100 * msNs then v else 0x7FFF
    | _, _ => 0x7FFF

/-- What a reading that has arrived makes of an input (R95). -/
def tempStep (s : State) (x : TempSample) (v : Int) (sidx : Nat) : TempSample :=
  let x := { x with naAt := none, sidx := sidx, stamp := stampOf s sidx, seen := true }
  if tempBad s x v then { x with code := 0x7FFF, qual := 0x20, goodAt := none, impl := true }
  else
    let x := { x with accepted := some v, acceptAt := s.phys }
    if !x.impl then { x with code := v, qual := 0 }
    else
      let t := x.goodAt.getD s.phys
      if p0 s pAcqTempClearT * secNs ≤ s.phys - t then { x with code := v, qual := 0, goodAt := none, impl := false }
      else { x with code := 0x7FFF, qual := 0x20, goodAt := some t }

/-- An instance takes no part in the limit checks of its classes: its counts are gone. -/
def dropCounts (keys : List Nat) (s : State) : State := withChn s fun c => { c with hlt := keys.foldl mdel c.hlt }

/-- Limit counts of a temperature input. -/
def tempKeys (t : Nat) : List Nat := [2 * 65536 + t, 3 * 65536 + t, 4 * 65536 + t, 7 * 65536 + naTemp t]

/-- An input's reading arrives, or none where it is not available: stored and limit-checked. An input that is not configured
enters no table (R96). An NA reading ends the run of plausible ones that ACQ.TEMP_CLEAR_T asks for (DESIGN CHOICE, log 134). -/
def putTemp (t sidx : Nat) (raw : Option Int) (s : State) : State :=
  if pn s pAcqTempCfg t = 0 then
    dropCounts (tempKeys t) (modTemp t (fun x => {
      code := -0x8000, qual := 0, sidx, stamp := stampOf s sidx, seen := x.seen || raw.isSome }) s)
  else
    let x := tempOf s t
    let n := p0 s pAcqHltN
    match raw with
    | none =>
      hltStep 7 (naTemp t) (p0 s pAcqHltNaN) true
        (modTemp t (fun x => { x with
          code := 0x7FFF, qual := 1, sidx, stamp := stampOf s sidx, goodAt := none, naAt := some (x.naAt.getD s.phys) }) s)
    | some v =>
      let y := tempStep s x v sidx
      let s := modTemp t (fun _ => y) s
      let s := if y.impl && !x.impl then post .tempImpl 3 t (le 2 (code 16 v) ++ [y.qual]) s else s
      let s := hltStep 7 (naTemp t) (p0 s pAcqHltNaN) false s
      let s := hltStep 2 t n (y.code != 0x7FFF && decide (hltLimit s pAcqHltTHi t < y.code)) s
      let s := hltStep 3 t n (y.code == 0x7FFF) s
      hltStep 4 t n (decide (y.code < hltLimit s pAcqHltTLo t)) s

/-- W in node ticks of 1/192 MHz from a delay in 1/16 ns, rounded to the nearest (R62). -/
def waitTicks (d : Nat) : Nat := (divRound ((480000 - (d : Int)) * 3) 250).toNat

/-- A sum moved by twice a change in 1/8 ns, as 1/16 ns. -/
def shifted (x : Nat) (d : Int) : Nat := ((x : Int) + 2 * d).toNat

/-- A delay leaves a W below 2 µs (R67). -/
def shortWait (dA dB : Nat) : Bool := decide (480000 < dA + 32000) || decide (480000 < dB + 32000)

/-- W is rewritten at a node where it differs by a tick or more from the one the node holds (R65). -/
def writeDelay (s : State) (b : Nat) : State :=
  let m := nodeOf s b
  let want := [BitVec.ofNat 16 (waitTicks m.dA), BitVec.ofNat 16 (waitTicks m.dB)]
  let sent := s.chn.pend.any fun p => p.ring == ringOf b && !p.bc && p.hop == hopOf b && p.opc == 0x07 && p.data.drop 1 == want
  if (waitTicks m.dA = m.wA ∧ waitTicks m.dB = m.wB) ∨ !nodeLive s b ∨ sent then s else addressed 0x07 want 0 b s

/-- Repeat latencies read again move the delays behind the node, and W is rewritten where it changes (R65). A W below 2 µs
leaves the ring's aperture not assured (R67). -/
def retrack (a fwd rev : Nat) (s : State) : State :=
  let n := nodeOf s a
  let df : Int := (fwd : Int) - n.repFwd
  let dr : Int := (rev : Int) - n.repRev
  if p0 s pChnDlyTrack = 0 ∨ (df = 0 ∧ dr = 0) then s
  else
    let r := ringOf a
    let s := modNode a (fun n => { n with repFwd := fwd, repRev := rev }) s
    let s := modRing r (fun g => { g with tAB := shifted g.tAB df }) s
    (ringNodes s r).foldl (fun s b =>
      let m := nodeOf s b
      let dA := if a < b then shifted m.dA df else m.dA
      let dB := if b < a then shifted m.dB dr else m.dB
      let s := modNode b (fun m => { m with dA, dB }) s
      writeDelay (if shortWait dA dB then modRing r (fun g => { g with noApt := true }) s else s) b) s

/-- A string sample's change. -/
def modSample (j : Nat) (f : StringSample → StringSample) (s : State) : State :=
  withChn s fun c => { c with strings := mmod {} c.strings j f }

/-- The shunt temperature of a string-sense node arrives: the first of the eight values (log 135). -/
def putShunt (a : Nat) (v : Int) (s : State) : State :=
  match copyString s a with
  | none => s
  | some j => modSample j (fun x => { x with shuntT := v }) s

/-- A READ_TEMPS segment: eight inputs of a cell node, the shunt of a string-sense node, and the repeat latencies of either
node type. -/
def takeTemps (p : Pend) (a : Nat) (g : Segment) (s : State) : State :=
  let none_ := decide (1 ≤ segSts g) && decide (segSts g ≤ 3)
  let s := if (nodeOf s a).type = 1 then
      (List.range 8).foldl (fun s i =>
        putTemp (a * 8 + i) p.sidx (if none_ then none else some (signed 16 (g.data.getD i 0x7FFF).toNat)) s) s
    else putShunt a (if none_ then 0x7FFF else signed 16 (g.data.getD 0 0x7FFF).toNat) s
  if none_ || g.data.length < 10 then s else retrack a (g.data.getD 8 0).toNat (g.data.getD 9 0).toNat s

/-- A node's inputs are not available. -/
def naTemps (a sidx : Nat) (s : State) : State :=
  if (nodeOf s a).type = 1 then (tempsOfNode a).foldl (fun s t => putTemp t sidx none s) s else putShunt a 0x7FFF s

/-! ### Strings (R89) -/

/-- A signed 32-bit value of two words, high word first; none for the reserved code 0x8000_0000. -/
def pairInt (d : List (BitVec 16)) (i : Nat) : Option Int :=
  let x := (d.getD i 0x8000).toNat * 65536 + (d.getD (i + 1) 0).toNat
  if x = 0x80000000 then none else some (signed 32 x)

/-- An unsigned 32-bit value of two words; none for 0xFFFF_FFFF. -/
def pairNat (d : List (BitVec 16)) (i : Nat) : Option Nat :=
  let x := (d.getD i 0xFFFF).toNat * 65536 + (d.getD (i + 1) 0xFFFF).toNat
  if x = 0xFFFFFFFF then none else some x

/-- A 1 kHz current of a string enters its sums (R151, R168). -/
def sumCurrent (j : Nat) (i : Int) (s : State) : State :=
  modSample j (fun x => { x with sumI := x.sumI + i, cntI := x.cntI + 1, sumL := x.sumL + i, cntL := x.cntL + 1 }) s

/-- The sample of a cell strobe: kept for the scan; a regular strobe ends the interval the next filter pass predicts over. -/
def latchScan (j : Nat) (c : Option Int) (u : Option Nat) (s : State) : State :=
  modSample j (fun x =>
    let x := { x with scanI := c, scanV := u }
    if s.chn.inserted then x
    else { x with
      sumS := x.sumS + x.sumI, cntS := x.cntS + x.cntI, intI := x.sumI, intN := x.cntI, sumI := 0, cntI := 0 }) s

/-- A string's current and V_STR arrive. With more than one string-sense node its values are NA to the firmware, while
the limit tables check each node's current (R232). -/
def putString (a j sidx : Nat) (cur : Option Int) (v : Option Nat) (fly carry : Bool) (s : State) : State :=
  let many := bit s.chn.mapFault.toNat j
  let c := if many then none else cur
  let u := if many then none else v
  let s := modSample j (fun x => { x with
    prev := x.current, current := c, vstr := u, sidx, stamp := stampOf s sidx
    qual := BitVec.ofNat 8 (b2n (c.isNone || u.isNone) + 4 * b2n fly + 8 * b2n carry)
    lastI := c.getD x.lastI }) s
  let s := match c with
    | some i => impCurrent j sidx i (sumCurrent j i s)
    | none => s
  let s := if s.chn.started && sidx == s.chn.scanSidx then latchScan j c u s else s
  let s := hltStep 7 (naStr a) (p0 s pAcqHltNaN) cur.isNone s
  match cur with
  | none => s
  | some i =>
    let n := p0 s pAcqHltIn
    hltStep 6 a n (decide (hltLimit s pAcqHltIDis j * 1000 < i))
      (hltStep 5 a n (decide (i < -(hltLimit s pAcqHltIChg j * 1000))) s)

/-- A READ_STRING segment. -/
def takeString (p : Pend) (a : Nat) (g : Segment) (s : State) : State :=
  match copyString s a with
  | none => s
  | some j =>
    if 1 ≤ segSts g ∧ segSts g ≤ 3 then putString a j p.sidx none none false false s
    else putString a j p.sidx (pairInt g.data 0) (pairNat g.data 2) (segSts g == 6) (segSts g == 7) s

/-- A string-sense node's current and voltage are not available. -/
def naString (a sidx : Nat) (s : State) : State :=
  if (nodeOf s a).type = 2 then
    match copyString s a with
    | none => s
    | some j => putString a j sidx none none false false s
  else s

/-- A READ_SS_AUX segment (Table 03.4). -/
def takeAux (p : Pend) (a : Nat) (g : Segment) (s : State) : State :=
  match copyString s a with
  | none => s
  | some j =>
    let d := if (decide (1 ≤ segSts g) && decide (segSts g ≤ 3)) || bit s.chn.mapFault.toNat j then [] else g.data
    modSample j (fun x => { x with
      vfuse := pairInt d 0, vkp := pairInt d 2, vkn := pairInt d 4, shuntT := signed 16 (d.getD 6 0x7FFF).toNat
      auxIdx := p.sidx, auxAt := some s.phys }) s

/-- A string-sense node's auxiliary values are not available. -/
def naAux (a : Nat) (s : State) : State :=
  match copyString s a with
  | none => s
  | some j => modSample j (fun x => { x with vfuse := none, vkp := none, vkn := none, shuntT := 0x7FFF }) s

/-- A READ_STATUS segment (R85). -/
def takeStatus (p : Pend) (a : Nat) (g : Segment) (s : State) : State :=
  let d := g.data
  let w := (d.getD 1 0).toNat * 65536 + (d.getD 2 0).toNat
  let s := modNode a (fun n => { n with
    alarm := BitVec.ofNat 32 w
    counters := [3, 4, 5, 6].map fun i => (d.getD i 0).toNat
    balWord := d.getD 7 0 }) (putStatus a p.sidx (d.getD 0 0) s)
  if w = 0 then s else modRing (ringOf a) (fun g => { g with ackDue := g.ackDue || g.tone, tone := false }) s

/-! ### Answers and failures -/

/-- A wrapped ring whose nodes have cleared their loops is restored: every hop is served from end A, and W is rewritten where
it moved while the node was out of reach (R65, R77). -/
def restoreRing (r : Nat) (s : State) : State :=
  let s := (ringNodes s r).foldl (fun s a => modNode a (fun n => { n with failed := false, fails := 0 }) s) s
  let s := modRing r (fun g => { g with
    service := .served, cutA := none, cutB := none, cleanAt := none, restoreDue := false, clearing := [] }) s
  endItems [0x4002] r 0x00 ((ringNodes s r).foldl writeDelay s)

/-- A restore ends without success: the ring stays wrapped, and its item ends FAILED_CHAIN (R78). -/
def dropRestore (r : Nat) (s : State) : State :=
  let g := ringAt s r
  if g.restoreDue || !g.clearing.isEmpty then
    endItems [0x4002] r 0x21 (modRing r (fun g => { g with restoreDue := false, clearing := [] }) s)
  else s

/-- A wrapped node has acknowledged LOOP_CLR. -/
def loopCleared (a : Nat) (s : State) : State :=
  let r := ringOf a
  if !decide (hopOf a ∈ (ringAt s r).clearing) then s
  else
    let s := modRing r (fun g => { g with clearing := g.clearing.filter (· != hopOf a) }) s
    if (ringAt s r).clearing.isEmpty then restoreRing r s else s

/-- A node has acknowledged a plan: it replaces the one held (R101). -/
def planHeld (p : Pend) (a : Nat) (s : State) : State :=
  let plan := (p.data.drop 2).map (·.toNat)
  modNode a (fun n => { n with
    planNum := bits (p.data.getD 1 0).toNat 15 8, plan, left := plan.map (· * 100 * msNs) }) (bookRing (ringOf a) s)

/-- A segment of an accepted status, taken by its opcode. UNSUPPORTED and BAD_ARG fail the item; under ALARM the alarm source
is read in the next TC0 slot (Table 02.4). -/
def takeAnswer (p : Pend) (a : Nat) (g : Segment) (s : State) : State :=
  let s := modNode a (fun n => { n with sts := segSts g }) s
  let s := if segSts g == 8 && p.opc != 0x24 then modRing p.ring (fun k => { k with tone := true }) s else s
  let fails := segSts g == 2 || segSts g == 3
  match p.opc with
  | 0x20 => takeCells p a g s
  | 0x21 => takeString p a g s
  | 0x22 => takeTemps p a g s
  | 0x23 => takeCoarse p a g s
  | 0x24 => if fails then s else takeStatus p a g s
  | 0x25 => takeAux p a g s
  | 0x05 => if fails then dropRestore p.ring s else loopCleared a s
  | 0x07 =>
    if fails then s else modNode a (fun n => { n with wA := (p.data.getD 1 0).toNat, wB := (p.data.getD 2 0).toNat }) s
  | 0x13 => if fails then s else planHeld p a s
  | 0x14 => if fails then s else modNode a (fun n => { n with scanAck := true }) s
  | 0x30 => if fails then s else modNode a (fun n => { n with alarmAck := true }) s
  | _ => s

/-- An item is exhausted at a node: its values are not available, and the failure is counted (R78, R79). -/
def exhausted (p : Pend) (a : Nat) (s : State) : State :=
  let s := if isRead p.opc then modNode a (fun n => { n with errors := inc16 n.errors, failScan := true }) s
    else modNode a (fun n => { n with errors := inc16 n.errors }) s
  match p.opc with
  | 0x20 => naCells p a s
  | 0x21 => naString a p.sidx s
  | 0x22 => naTemps a p.sidx s
  | 0x23 => (cellsOfNode a).foldl (fun s c => if populated s c then putCoarse a c p.sidx 0x3FF s else s) s
  | 0x25 => naAux a s
  | 0x05 => dropRestore p.ring s
  | 0x14 => modNode a (fun n => { n with scanAck := false }) s
  | 0x30 => modNode a (fun n => { n with alarmAck := false }) s
  | _ => s

/-- A node's answer is missing: tried again, or exhausted. -/
def missing (p : Pend) (a : Nat) (s : State) : State := if mayRetry s p then retryAt p a s else exhausted p a s

/-- Limit classes an opcode's readings belong to. -/
def classesOf : Nat → List Nat
  | 0x20 => [0, 1, 7]
  | 0x21 => [5, 6, 7]
  | 0x22 => [2, 3, 4, 7]
  | 0x23 => [0, 1]
  | _ => []

/-- The frame a train answers: by ring and by the header launched, its tag among it (Table 02.2). -/
def pendOf (s : State) (t : Train) : Option Pend := s.chn.pend.find? fun p => p.ring == t.ring && p.hdr == t.hdr

/-- A pending frame is settled. -/
def dropPend (p : Pend) (s : State) : State := withChn s fun c => { c with pend := c.pend.filter (· != p) }

/-- A train is received whole: each awaited segment is taken, and a missing or broken one tried again (R53, R56, R78). -/
def takeTrain (t : Train) (s : State) : State :=
  match pendOf s t with
  | none => s
  | some p =>
    let s := (expected s p).foldl (fun s a =>
      match goodSegment t a with
      | some g => takeAnswer p a g s
      | none => missing p a s) (dropPend p s)
    hltFollow p.sidx (classesOf p.opc) s

/-- Trains that did not come: each awaited answer is tried again or exhausted; `only` limits it to an opcode, without
another try. -/
def sweep (only : Option Nat) (s : State) : State :=
  let ps := s.chn.pend.filter fun p => only.all (· == p.opc)
  ps.foldl (fun s p =>
    let s := (expected s p).foldl (fun s a => if only.isSome then exhausted p a s else missing p a s) (dropPend p s)
    hltFollow p.sidx (classesOf p.opc) s) s

/-- The transit a train measured across the whole ring leaves its tracked prediction, or not (R65). -/
def noteTransit (t : Train) (s : State) : State :=
  match t.tAB8 with
  | none => s
  | some x =>
    let g := ringAt s t.ring
    if g.wraps || !ringServed s t.ring || p0 s pChnDlyTrack == 0 then s
    else
      let off := decide (p0 s pChnDriftTol * 16 < ((2 * x : Nat) - (g.tAB : Int)).natAbs)
      modRing t.ring (fun g => { g with driftNow := some (off || g.driftNow.getD false) }) s

/-- A chain cycle's transits are judged: 16 cycles in a row off the prediction leave the aperture not assured. A cycle in which
no train across the ring was measured neither counts nor clears (DESIGN CHOICE, log 136). -/
def judgeDrift (g : Ring) : Ring :=
  match g.driftNow with
  | none => g
  | some false => { g with drift := 0, driftNow := none }
  | some true => { g with drift := satN 16 (g.drift + 1), driftNow := none, noApt := g.noApt || decide (16 ≤ g.drift + 1) }

/-! ### Breaks and isolation (R74 to R79) -/

/-- Where a break or a failed node cuts a ring. -/
def cutRing (a b : Option Nat) (r : Nat) (s : State) : State :=
  let s := dropRestore r (modRing r (fun g => { g with cutA := a, cutB := b, cleanAt := none }) (bookRing r s))
  let g := ringAt s r
  if !ringServed s r then s
  else if g.endsA = 0 ∧ g.found ≤ g.startsB then
    modRing r (fun g => { g with service := .notServed, lostAt := some s.phys }) s
  else modRing r (fun g => { g with service := .wrapped }) s

/-- Frames in flight on a broken ring, those of the TC0 slot first: each answer still awaited is tried again in the segment
that holds its node, as R78 allows, and given up where no segment does (Table 02.9 step 7, R75, R78). `before` is the state
before the break. -/
def relaunch (before : State) (r : Nat) (s : State) : State :=
  let ps := s.chn.pend.filter fun p => p.ring == r
  let slot (p : Pend) : Bool := p.opc == 0x24 || p.opc == 0x31
  let s := withChn s fun c => { c with pend := c.pend.filter fun p => p.ring != r }
  (ps.filter slot ++ ps.filter fun p => !slot p).foldl (fun s p =>
    hltFollow p.sidx (classesOf p.opc)
      ((expected before p).foldl (fun s a => if nodeLive s a then missing p a s else exhausted p a s) s)) s

/-- LOOP_SET to hop `k` from an end, for a side. -/
def loopSet (dir : Bool) (r k side : Nat) (s : State) : State :=
  await 0 0 (launch r dir false k 0x04 [BitVec.ofNat 16 side] s)

/-- LOOP_SET to both neighbours of hop `k`: to hop k − 1 from end A where it is reached from there, then to hop k + 1 from
end B. The manual names neither the ends nor the order; on a ring that has not wrapped, end B is the one that reaches hop
k + 1 without the node given up (DESIGN CHOICE, log 137). -/
def loopAround (r k : Nat) (s : State) : State :=
  let g := ringAt s r
  let s := if 0 < k ∧ g.servedBy false (k - 1) then loopSet false r (k - 1) 0 s else s
  if k + 1 < g.found ∧ g.servedBy true (k + 1) then loopSet true r (k + 1) 1 s else s

/-- A notice of loss from hop `h`, its B side lost or its A side: the ring is split there. A node between two notices has lost
carrier on both ports, and is isolated (R74, R76, R77). -/
def breakNotice (r h : Nat) (lostB : Bool) (s : State) : State :=
  let g := ringAt s r
  let t := if lostB then cutRing (some (h + 1)) g.cutB r s else cutRing g.cutA (some h) r s
  let k := (ringAt t r).endsA
  let t := if (ringAt t r).cutB = some (k + 1) ∧ (ringAt t r).cutA = some k ∧ !(nodeOf t (r * 64 + k)).failed then
      loopAround r k (modNode (r * 64 + k) (fun n => { n with failed := true }) t) else t
  relaunch s r t

/-- An end of the ring has no carrier: the whole ring is served from the other end (R75). -/
def endLost (r : Nat) (e : RingEnd) (s : State) : State :=
  let g := ringAt s r
  match e with
  | .endA => relaunch s r (cutRing (some 0) (some (g.cutB.getD 0)) r s)
  | .endB => relaunch s r (cutRing (some (g.cutA.getD g.found)) (some g.found) r s)

/-- A node is declared failed and isolated by LOOP_SET to its neighbours (R76, R79). -/
def isolate (a : Nat) (s : State) : State :=
  let r := ringOf a
  let k := hopOf a
  let g := ringAt s r
  let s := loopAround r k (modNode a (fun n => { n with failed := true }) s)
  if !g.wraps then cutRing (some k) (some (k + 1)) r s
  else if g.servedBy false k then cutRing (some k) (some g.startsB) r s
  else cutRing (some g.endsA) (some (k + 1)) r s

/-- LOOP_CLR to both wrapped nodes of a ring (R77); a ring with none is restored at once. -/
def clearLoops (r : Nat) (s : State) : State :=
  let g := ringAt s r
  let hops := (if 0 < g.endsA ∧ g.endsA ≤ g.found then [g.endsA - 1] else []) ++ (if g.startsB < g.found then [g.startsB] else [])
  let s := modRing r (fun g => { g with restoreDue := false, clearing := hops }) s
  if hops.isEmpty then restoreRing r s else hops.foldl (fun s h => addressed 0x05 [] 0 (r * 64 + h) s) s

/-- A restore is ordered: LOOP_CLR goes inside a chain cycle without a cell strobe, right after its TC0 slot (R77). -/
def orderRestore (r : Nat) (s : State) : State :=
  if !s.chn.cellNow && decide (cycleNs s ≤ slotEnd) then clearLoops r s
  else modRing r (fun g => { g with restoreDue := true }) s

/-- Since when no master frame reaches a node; after 500 ms of it the node has dropped its plan and its schedule (Table 02.10,
R101). -/
def noteReach (s : State) (a : Nat) : State :=
  let n := nodeOf s a
  let t := running s (!nodeLive s a) n.lostAt
  let gone := passed s t (500 * msNs) && (!n.plan.isEmpty || n.scanAck)
  if t = n.lostAt && !gone then s
  else if gone then modNode a (fun n => { n with lostAt := t, planNum := 0, plan := [], left := [], scanAck := false }) s
  else modNode a (fun n => { n with lostAt := t }) s

/-! ### Enumeration (R59 to R64) -/

/-- A found node with its delays and waits (R62), the acknowledgements of its commands, and whether it passes the check of
R64. -/
def newNode (tol tries tAB8 : Nat) (f : FoundNode) : Node :=
  let dA := f.rttA - f.tLoop
  let dB := f.rttB - f.tLoop
  let off := ((dA : Int) + dB + 2 * f.repFwd - 2 * tAB8).natAbs
  { uid := f.uid, type := f.nodeType, rev := f.rev, dA, dB, wA := waitTicks dA, wB := waitTicks dB, tLoop := f.tLoop
    repFwd := f.repFwd, repRev := f.repRev, refNom := f.refNom
    scanAck := decide (f.scanMiss ≤ tries), alarmAck := decide (f.alarmMiss ≤ tries), noApt := decide (tol * 16 < off) }

/-- Nothing is known of a ring's nodes: their cells, temperatures and strings read as not available. What R95 and R508 hold of
an input, and the counts of R92 and R99, stand until a reading comes. -/
def forgetRing (r : Nat) (s : State) : State :=
  let strs := (ringNodes s r).filterMap fun a => if (nodeOf s a).type = 2 then copyString s a else none
  let s := withChn s fun c => { c with
    nodes := c.nodes.filter fun e => ringOf e.1 != r
    pend := c.pend.filter fun p => p.ring != r
    cells := mmap (fun c x => if ringOf (nodeOfCell c) = r then { x with volt := 0xFFFF, qual := 1, coarse := 0x3FF } else x) c.cells
    temps := mmap (fun t x => if ringOf (nodeOfTemp t) = r then
      { x with code := 0x7FFF, qual := 1, goodAt := none, naAt := some (x.naAt.getD s.phys) } else x) c.temps }
  strs.foldl (fun s j => modSample j (fun x => { x with
    current := none, vstr := none, qual := 1, vfuse := none, vkp := none, vkn := none, prev := none }) s) s

/-- Class-H values of a ring's parameters that wait for it to stand unserved. -/
def ringKeys (s : State) (r : Nat) : List Nat :=
  (s.par.staged.map (·.1)).filter fun k => k == pk pChnExpectNodes r || k == pk pChnRingEnable 0

/-- A ring fails its enumeration (R60). -/
def failRing (over_ open_ : Bool) (r : Nat) (s : State) : State :=
  let s := modRing r (fun g => { g with
    service := .notServed, overpop := over_, openRing := open_, cutA := none, cutB := none, lostAt := some s.phys }) s
  endItems [0x4001] r 0x21 (judgeConfig s)

/-- The words of ALARM_CFG (Table 03.7). -/
def alarmWords (s : State) : List (BitVec 16) :=
  [pAcqAlmOv, pAcqAlmUv, pAcqAlmOt, pAcqAlmIoc, pAcqAlmFuse].map fun id => BitVec.ofNat 16 (code 16 (pv s id 0))

/-- The words of SCAN_CFG (Table 02.5): of the pending schedule, else of the one in force. -/
def scanWords (s : State) : List (BitVec 16) :=
  match s.chn.pending with
  | some (p, a) => [BitVec.ofNat 16 p, BitVec.ofNat 16 a, 0]
  | none => [BitVec.ofNat 16 s.chn.period, BitVec.ofNat 16 s.chn.anchor, 0]

/-- New frames of enumeration, `n` in a row, addressed to a hop from an end: each takes a sequence number (R52). -/
def launchMany (n r : Nat) (dir : Bool) (hop opc : Nat) (data : List (BitVec 16)) (s : State) : State :=
  launchTimes n r dir false hop opc (nextWord s r :: data) (modRing r (fun g => { g with seq := (g.seq + n) % 65536 }) s)

/-- A command of enumeration, and its retries under its own number: one for every miss CHN.RETRY_MAX allows (R78). -/
def launchTried (misses r hop opc : Nat) (data : List (BitVec 16)) (s : State) : State :=
  let w := nextWord s r
  (List.range (min misses (p0 s pChnRetryMax))).foldl (fun s _ => launchSeq r false false hop opc (w :: data) s)
    (launch r false false hop opc data s)

/-- A node is found and addressed from end A: WAKE, ASSIGN, 256 pings, REPEAT_ON (R59). -/
def findNode (r : Nat) (s : State) (e : Nat × FoundNode) : State :=
  let s := launchTried e.2.asgMiss r e.1 0x02 [BitVec.ofNat 16 (r * 256 + e.1), e.2.uid.headD 0] (launchMany 1 r false e.1 0x01 [] s)
  launchMany 1 r false e.1 0x03 [] (launchMany 256 r false e.1 0x06 [] s)

/-- A node is measured from end B: LOOP_SET, 256 pings, LOOP_CLR (R59). -/
def measureNode (r : Nat) (s : State) (hop : Nat) : State :=
  launchMany 1 r true hop 0x05 [] (launchMany 256 r true hop 0x06 [] (launchMany 1 r true hop 0x04 [1] s))

/-- One command to every node of a ring, in hop order. -/
def tellNodes (r opc : Nat) (misses : FoundNode → Nat) (words : Nat → List (BitVec 16)) (nodes : List (Nat × FoundNode))
    (s : State) : State := nodes.foldl (fun s e => launchTried (misses e.2) r e.1 opc (words e.1) s) s

/-- What a closed ring's nodes are told, in the order of the procedure: the nominal reference is read (R88), the waits are
written, then the thresholds and the schedule (R59, R72, R97). -/
def setUpNodes (r : Nat) (nodes : List (Nat × FoundNode)) (s : State) : State :=
  let s := nodes.foldl (fun s e => launchMany 1 r false e.1 0x39 [] s) s
  let waits (h : Nat) : List (BitVec 16) :=
    [BitVec.ofNat 16 (nodeOf s (r * 64 + h)).wA, BitVec.ofNat 16 (nodeOf s (r * 64 + h)).wB]
  let s := tellNodes r 0x07 (·.dlyMiss) waits nodes s
  let s := tellNodes r 0x30 (·.alarmMiss) (fun _ => alarmWords s) nodes s
  tellNodes r 0x14 (·.scanMiss) (fun _ => scanWords s) nodes s

/-- The counts of a ring's addresses where no node of their kind stands any more are gone, with the violations they kept. -/
def pruneCounts (r : Nat) (s : State) : State :=
  let gone (k : Nat) : Bool :=
    let inst := k % 65536
    let cell (a : Nat) : Bool := ringOf a == r && (nodeOf s a).type != 1
    let sense (a : Nat) : Bool := ringOf a == r && (nodeOf s a).type != 2
    match k / 65536 with
    | 0 | 1 => cell (nodeOfCell inst)
    | 2 | 3 | 4 => cell (nodeOfTemp inst)
    | 5 | 6 => sense inst
    | _ =>
      if inst < 9216 then cell (nodeOfCell inst)
      else if inst < 13312 then cell (nodeOfTemp (inst - 9216))
      else sense (inst - 13312)
  let s := withChn s fun c => { c with hlt := c.hlt.filter fun e => !gone e.1 }
  hltFollow s.chn.scanSidx (setBits 8 s.chn.viol.toNat) s

/-- The hops that fail the check of R64 are reported with their numbers, each as its node's event. -/
def reportHops (r : Nat) (s : State) : State :=
  ((ringNodes s r).filter fun a => (nodeOf s a).noApt).foldl (fun s a =>
    post .dlyInconsistent 2 a [BitVec.ofNat 8 r, BitVec.ofNat 8 (hopOf a)] s) s

/-- A ring is enumerated (R59, R60): its frames are launched, nodes, delays and waits are as found; the ring is served, waits
for carrier at end B, or fails: overpopulated, or with a node that does not acknowledge ASSIGN or DLY_WRITE. -/
def enumerate (r : Nat) (run : EnumRun) (s : State) : State :=
  let s := forgetRing r s
  let s := modRing r (fun g => { g with
    service := .enumerating, found := run.nodes.length, cutA := none, cutB := none, noApt := false, drift := 0, driftNow := none
    tAB := 2 * run.tAB, overpop := false, openRing := false, lostAt := none, cleanAt := none, calHop := 0, calStep := 0
    calAt := none, offWait := [], offAgain := false, bleedOn := false, restoreDue := false, clearing := [] }) s
  let s := applyIdle (ringKeys s r) s
  let tries := p0 s pChnRetryMax
  let nodes := (List.range 64).zip run.nodes
  let lost := nodes.find? fun e => decide (tries < e.2.asgMiss)
  let s := ((nodes.takeWhile fun e => decide (e.2.asgMiss ≤ tries)).foldl (findNode r) s)
  match lost with
  | some e =>
    failRing false false r
      (launchTried e.2.asgMiss r e.1 0x02 [BitVec.ofNat 16 (r * 256 + e.1), e.2.uid.headD 0] (launchMany 1 r false e.1 0x01 [] s))
  | none =>
    let s := launchMany 1 r false (min 63 nodes.length) 0x01 [] s
    if run.more ∨ 64 < run.nodes.length then failRing true false r s
    else if !run.closed then s
    else
      let tol := p0 s pChnDlyCheckTol
      let s := nodes.foldl (fun s e =>
        withChn s fun c => { c with nodes := mput c.nodes (r * 64 + e.1) (newNode tol tries run.tAB e.2) }) s
      let s := setUpNodes r nodes ((nodes.map (·.1)).reverse.foldl (measureNode r) s)
      if nodes.any fun e => decide (tries < e.2.dlyMiss) then failRing false false r s
      else
        let want := pn s pChnExpectNodes r
        let short := (ringNodes s r).any fun a => shortWait (nodeOf s a).dA (nodeOf s a).dB
        let s := modRing r (fun g => { g with
          service := .served, misPop := want != 0 && want != run.nodes.length, noApt := short }) s
        endItems [0x4001] r 0x00 (judgeConfig (pruneCounts r (reportHops r s)))

/-! ### Scans -/

/-- Held scans and chain cycles the module's memory keeps for the firmware and the array (DESIGN CHOICE, log 140). -/
abbrev scanDepth : Nat := 8
abbrev cycleDepth : Nat := 64

/-- The scan as it is held (R70). -/
def scanRecord (s : State) : ScanRec :=
  { idx := s.chn.scanSidx, regular := !s.chn.inserted, cells := s.chn.cells
    strs := s.chn.strings.map fun e => (e.1, e.2.scanI, e.2.scanV)
    subs := s.chn.strings.filterMap fun e => e.2.scanSub.map fun i => (e.1, i)
    sums := s.chn.strings.map fun e => (e.1, e.2.intI, e.2.intN)
    bled := s.chn.scanBled, bus := s.met.strobes.find? (·.idx = s.chn.scanSidx) }

/-- Σ and counts of two intervals joined, and their bled charges. -/
def addSums (a b : SMap (Int × Nat)) : SMap (Int × Nat) :=
  a.foldl (fun m e => let x := mget (0, 0) m e.1; mput m e.1 (x.1 + e.2.1, x.2 + e.2.2)) b
def addBled (a b : SMap Rat) : SMap Rat := a.foldl (fun m e => mput m e.1 (mget 0 m e.1 + e.2)) b

/-- A scan is put behind those still due; where memory is full the oldest is overwritten, and its interval becomes a part of
the next one's (R158). -/
def holdScan (q : List ScanRec) (k : ScanRec) : List ScanRec :=
  match q ++ [k] with
  | a :: b :: rest =>
    if scanDepth < rest.length + 2 then { b with sums := addSums a.sums b.sums, bled := addBled a.bled b.bled } :: rest
    else a :: b :: rest
  | l => l

/-- The scan is closed: what did not come is not available, node failures are counted, and failed nodes isolated (R79). -/
def closeScan (s : State) : State :=
  if s.chn.scanHeld || !s.chn.started then s
  else
    let s := sweep (some 0x20) s
    let idx := s.chn.scanSidx
    let out := (nodesOfType s 1).filter fun a => !nodeLive s a
    let s := out.foldl (fun s a => ((cellsOfNode a).filter fun c => (cellOf s c).sidx != idx).foldl (fun s c =>
      putCell a c 0xFFFF idx false false false s) s) s
    let s := if out.isEmpty then s else hltFollow s.chn.scanSidx [7] s
    let s := (mkeys s.chn.nodes).foldl (fun s a =>
      let s := modNode a (fun n => { n with fails := if n.failScan then n.fails + 1 else 0, failScan := false }) s
      if p0 s pChnNodeFailN ≤ (nodeOf s a).fails ∧ nodeLive s a then isolate a s else s) s
    let k := scanRecord s
    let s := withChn s fun c => { c with scanHeld := true, evalDue := holdScan c.evalDue k }
    impScan idx (if s.chn.inserted then s else { s with est := { s.est with scanDue := holdScan s.est.scanDue k } })

/-- The chain cycle `m` cycles on is one of the regular cell strobes', under a change of rate that comes before it (R72). -/
def regularIn (c : Chain) (m : Nat) : Bool :=
  match c.pending with
  | some (p, a) =>
    let wait := (a + 32768 - c.cycle) % 32768
    if wait ≤ m then (m - wait) % p == 0 else (c.phase + m) % c.period == 0
  | none => (c.phase + m) % c.period == 0

end Sys2Proof.Machine
end

