-- ==== Sys2Proof/Machine/EstOps.lean ====
section
/-!
DEFINITION. The estimation array as operations, first part: the cell model, temperatures, the filter pass with the
initialisation of cells, and an accepted restore (R151 to R158, R170, R175).
-/
namespace Sys2Proof.Machine
open Sys2Proof

/-! ### Tables (R152, R164) -/

/-- Segment and fraction of `x` on the six ascending points of EST.OCV_T, held at the ends. -/
def tempSeg (s : State) (x : Rat) : Nat × Rat :=
  let pt (i : Nat) : Rat := pv s pEstOcvT i
  if x ≤ pt 0 then (0, 0)
  else if pt 5 ≤ x then (4, 1)
  else
    let k := ((List.range 5).find? fun i => decide (x < pt (i + 1))).getD 4
    (k, (x - pt k) / (pt (k + 1) - pt k))

/-- Between two values. -/
def lerp (a b f : Rat) : Rat := a + (b - a) * f

/-- A table of six points over temperature. -/
def overTemp (s : State) (id : Nat) (x : Rat) : Rat :=
  let g := tempSeg s x
  lerp (pv s id g.1) (pv s id (g.1 + 1)) g.2

/-- OCV at SoC point `i`, V. -/
def ocvPoint (s : State) (t : Rat) (i : Nat) : Rat :=
  let g := tempSeg s t
  lerp (pv s pEstOcv (g.1 * 21 + i)) (pv s pEstOcv ((g.1 + 1) * 21 + i)) g.2 / 10000

/-- A fraction limited to 0 to 1. -/
def unit01 (x : Rat) : Rat := ratMax 0 (ratMin 1 x)

/-- SoC segment and fraction. -/
def socSeg (soc : Rat) : Nat × Rat :=
  let x := unit01 soc * 20
  let i := min 19 x.floor.toNat
  (i, x - (i : Nat))

/-- OCV, V (R152). -/
def ocvAt (s : State) (soc t : Rat) : Rat :=
  let g := socSeg soc
  lerp (ocvPoint s t g.1) (ocvPoint s t (g.1 + 1)) g.2

/-- Local slope of OCV, V per unit SoC: 0 beyond the end points. -/
def ocvSlope (s : State) (soc t : Rat) : Rat :=
  if soc < 0 ∨ 1 < soc then 0
  else
    let g := socSeg soc
    (ocvPoint s t (g.1 + 1) - ocvPoint s t g.1) * 20

/-- Secant slope between two SoC values; the local slope where they are one (R163). -/
def ocvSecant (s : State) (soc soc1 t : Rat) : Rat :=
  if soc = soc1 then ocvSlope s soc t else (ocvAt s soc t - ocvAt s soc1 t) / (soc - soc1)

/-- SoC of an open-circuit voltage (R170). On a flat stretch of the table any SoC of it fits: a free value there (log 26). -/
def ocvInverse (s : State) (v t : Rat) : Rat :=
  let pts := (List.range 21).map (ocvPoint s t)
  let a := (pts.filter fun x => decide (x < v)).length
  let b := (pts.filter fun x => decide (x ≤ v)).length
  if b = 0 then 0
  else if a = 21 then 1
  else if a = b then
    let lo := pts.getD (a - 1) 0
    (((a - 1 : Nat) : Rat) + (v - lo) / (pts.getD a 0 - lo)) / 20
  else ratMax ((a : Nat) / 20) (ratMin (((b - 1 : Nat) : Rat) / 20) (Config.freeRat s.free))

/-! ### Cells -/

/-- A cell's estimate changed, where it has one. -/
def modEst (c : Nat) (f : CellEst → CellEst) (s : State) : State :=
  match mfind s.est.cells c with
  | none => s
  | some e => { s with est := { s.est with cells := mput s.est.cells c (f e) } }

/-- The estimation part, and a string's learning state, changed. -/
def withEst (s : State) (f : Est → Est) : State := { s with est := f s.est }
def learnOf (s : State) (j : Nat) : Learn := mget {} s.est.learn j
def modLearn (j : Nat) (f : Learn → Learn) (s : State) : State :=
  withEst s fun e => { e with learn := mmod {} e.learn j f }

/-- The array is served: its firmware runs (R158). -/
def arrayUp (s : State) : Bool := sequencing s && s.pod.running && !s.pod.warm && !s.pod.heldReset

/-- Model values of a cell at a temperature: EST defaults while DFLT, else its own (R152). -/
structure Model where
  rser : Rat
  rpa  : Rat
  cpa  : Rat
  rpb  : Rat
  cpb  : Rat
  deriving DecidableEq, Repr

/-- The cell's values at 25 °C. -/
def model25 (s : State) (e : CellEst) : Model :=
  if e.dflt then
    { rser := (p0 s pEstRserDef : Rat) / 1000000, rpa := (p0 s pEstRpaDef : Rat) / 1000000, cpa := p0 s pEstCpaDef
      rpb := (p0 s pEstRpbDef : Rat) / 1000000, cpb := p0 s pEstCpbDef }
  else { rser := e.rser, rpa := e.rpa, cpa := e.cpa, rpb := e.rpb, cpb := e.cpb }

/-- EST.RT_FACTOR at a temperature. -/
def rtFactor (s : State) (t : Rat) : Rat := overTemp s pEstRtFactor t / 1000

/-- The cell's values at its T_mod. -/
def modelOf (s : State) (e : CellEst) : Model :=
  let m := model25 s e
  let f := rtFactor s e.tMod
  { m with rser := m.rser * f, rpa := m.rpa * f, rpb := m.rpb * f }

/-- exp(−t ÷ τ); 0 for a pair without a time constant. -/
def decay (t tau : Rat) : Rat := if 0 < tau then Config.expR (-(t / tau)) else 0

/-- Values are held in single precision (log 8). -/
def CellEst.rounded (e : CellEst) : CellEst :=
  { e with
    soc := Config.fp32 e.soc, vpa := Config.fp32 e.vpa, vpb := Config.fp32 e.vpb
    p11 := Config.fp32 e.p11, p12 := Config.fp32 e.p12, p13 := Config.fp32 e.p13
    p22 := Config.fp32 e.p22, p23 := Config.fp32 e.p23, p33 := Config.fp32 e.p33 }

/-! ### Temperatures (R153, R508) -/


/-- Cell-surface inputs of a node's mask. -/
def surfaceOf (s : State) (a mask : Nat) : List Nat :=
  (tempsOfNode a).filter fun t => bit mask (t % 8) && pn s pAcqTempCfg t == 1

/-- Inputs a cell takes its temperatures from: those of EST.TEMP_SEL, else every cell-surface input of its string's nodes. -/
def cellInputs (s : State) (c : Nat) : List Nat :=
  let own := surfaceOf s (nodeOfCell c) (pn s pEstTempSel c)
  if !own.isEmpty then own
  else match cellString s c with
    | none => []
    | some j => (cellNodes s j).flatMap fun a => surfaceOf s a 0xFF

/-- T_mod of the inputs in 0.01 °C, none where every one reads 0x7FFF. -/
def tModOf (vs : List Int) : Option Rat :=
  let ok := vs.filter (· != hottest)
  if ok.isEmpty then none else some ((ok.sum : Int) / ((ok.length : Nat) : Rat))

/-- T_lim: the highest input; none for a string without any. -/
def tLimOf (vs : List Int) : Option Int := vs.foldl (fun m v => some (max v (m.getD v))) none

/-- Policy temperatures of a cell's inputs. -/
def cellTemps (s : State) (c : Nat) : List Int := (cellInputs s c).map (policyTemp s)

/-- T_mod is formed anew where it can be. -/
def CellEst.warmed (e : CellEst) (vs : List Int) : CellEst := { e with tMod := (tModOf vs).getD e.tMod }

/-! ### The filter (R151, R155) -/

/-- One prediction over `dt` s with the mean current `i` A and the bled charge `qb` As. -/
def predictCell (s : State) (dt i qb : Rat) (e : CellEst) : CellEst :=
  let m := modelOf s e
  let ea := decay dt (m.rpa * m.cpa)
  let eb := decay dt (m.rpb * m.cpb)
  let qi := (p0 s pEstISigma : Rat) / 1000 * dt / e.cap
  let v := (p0 s pEstVProcSigma : Rat) / 10000
  let qv := v * v * dt
  { e with
    soc := e.soc - (i * dt + qb) / e.cap
    vpa := ea * e.vpa + (1 - ea) * m.rpa * i
    vpb := eb * e.vpb + (1 - eb) * m.rpb * i
    p11 := e.p11 + qi * qi, p12 := ea * e.p12, p13 := eb * e.p13
    p22 := ea * ea * e.p22 + qv, p23 := ea * eb * e.p23, p33 := eb * eb * e.p33 + qv }

/-- EST.INIT_SIGMA², the variance of a SoC newly acquired. -/
def initVar (s : State) : Rat := let x := (p0 s pEstInitSigma : Rat) / 10000; x * x

/-- EST.MEAS_SIGMA², V². -/
def measVar (s : State) : Rat := let x := (p0 s pEstMeasSigma : Rat) / 10000; x * x

/-- σ is set to EST.INIT_SIGMA (R155, R181). -/
def reacquire (s : State) (e : CellEst) : CellEst := { e with p11 := initVar s, p12 := 0, p13 := 0, rejects := 0 }

/-- A measurement of `v` V at `i` A: applied, or counted as rejected where the innovation exceeds six standard deviations. -/
def measureCell (s : State) (v i : Rat) (e : CellEst) : CellEst :=
  let m := modelOf s e
  let h := ocvSlope s e.soc e.tMod
  let y := v - (ocvAt s e.soc e.tMod - i * m.rser - e.vpa - e.vpb)
  let a := h * e.p11 - e.p12 - e.p13
  let b := h * e.p12 - e.p22 - e.p23
  let c := h * e.p13 - e.p23 - e.p33
  let z := h * a - b - c + measVar s
  if 36 * z < y * y then
    let e := { e with gated := inc16 e.gated, rejects := e.rejects + 1 }
    if 10 ≤ e.rejects then reacquire s e else e
  else
    { e with
      soc := e.soc + a / z * y, vpa := e.vpa + b / z * y, vpb := e.vpb + c / z * y
      p11 := e.p11 - a * a / z, p12 := e.p12 - a * b / z, p13 := e.p13 - a * c / z
      p22 := e.p22 - b * b / z, p23 := e.p23 - b * c / z, p33 := e.p33 - c * c / z
      rejects := 0, fresh := true, updated := some s.phys }

/-! ### An accepted restore (R175, Table 05.8) -/

/-- A value limited from below, and from above where there is a limit. -/
def limitRat (lo : Rat) (hi : Option Rat) (x : Rat) : Rat :=
  match hi with
  | none => ratMax lo x
  | some h => ratMax lo (ratMin h x)

/-- Relative standard deviation a confidence stands for (R199, R200): 100 % for confidence 0. -/
def rsdOf (s : State) (conf : Nat) : Rat :=
  if conf = 0 then 1 else (1 - (conf : Rat) / 65535) * (p0 s pImpConfRsd0 : Rat) / 1000

/-- IMP.DRIFT_RSD per day as a fraction. -/
def driftRsd (s : State) : Rat := (p0 s pImpDriftRsd : Rat) / 10000

/-- Square of the relative standard deviation of an Rser whose last fit is `age` s old, before its drift (R200). -/
def baseVar (s : State) (rsd : Rat) (age : Nat) : Rat :=
  let d := driftRsd s * (age : Rat) / 86400
  ratMax 0 (rsd * rsd - d * d)

/-- A record takes effect on a cell. -/
def fuse (s : State) (r : Restored) (e : CellEst) : CellEst :=
  let x := (p0 s pEstRestoreSigma : Rat) / 10000
  let vr := r.p11 + x * x
  let sum := e.p11 + vr
  let k := if sum = 0 then 1 else vr / sum
  let rsd := rsdOf s r.conf
  let e := { e with
    soc := Config.fp32 (e.soc * k + r.soc * (1 - k)), p11 := e.p11 * k, p12 := e.p12 * k, p13 := e.p13 * k
    cap := r.cap, capVar := r.capVar, learned := r.learned
    rserRef := r.rserRef, fits := r.fits, cycles := r.cycles, efc := r.efc, bled := r.bled
    rAt := (s.phys : Int) - (r.rAge * secNs : Nat), cAt := (s.phys : Int) - (r.cAge * secNs : Nat) }
  let tauA := r.rpa * r.cpa
  let g := if r.cpb = 0 then 0 else 1 / r.cpb
  if !r.rValid then e
  else if e.dflt then
    { e with
      dflt := false, rser := r.rser, rpa := r.rpa, cpa := r.cpa, rpb := r.rpb, cpb := r.cpb
      varRser := baseVar s rsd r.rAge * r.rser * r.rser, varRpa := rsd * rsd * r.rpa * r.rpa
      varTauA := rsd * rsd * tauA * tauA, varG := rsd * rsd * g * g }
  else { e with prior := some { rser := r.rser, rpa := r.rpa, tauA, g, rsd, rOpen := true } }

/-- Whether a cell takes part: its node found, the position populated. -/
def cellThere (s : State) (c : Nat) : Bool := (nodeOf s (nodeOfCell c)).type == 1 && populated s c

/-- The accepted restore is applied at a limit-cycle boundary; a record of a cell not yet initialised is kept. -/
def applyRestore (s : State) : State :=
  if !s.est.applyDue then s
  else
    let recs := s.est.restore.filter fun e => cellThere s e.1
    let s := recs.foldl (fun s e =>
      if (mfind s.est.cells e.1).isSome then modEst e.1 (fuse s e.2) s
      else withEst s fun k => { k with kept := mput k.kept e.1 e.2 }) s
    withEst s fun k => { k with applyDue := false, restore := [] }

/-! ### The filter pass (R155, R170) -/

/-- The node has delivered a temperature read in this epoch. -/
def tempRead (s : State) (a : Nat) : Bool :=
  (tempsOfNode a).any fun t => (mfind s.chn.temps t).any (·.seen)

/-- A cell's sample in a held scan. -/
def cellIn (k : ScanRec) (c : Nat) : CellSample := mget {} k.cells c

/-- The cell's sample of the scan may update estimation (Table 03.5): not NA, BLEED, CARRY or IMPL. -/
def usable (k : ScanRec) (c : Nat) : Bool :=
  let x := cellIn k c
  x.sidx == k.idx && x.qual.toNat &&& 0x2B == 0

/-- EST.C_NOM in As. -/
def nominal (s : State) : Rat := (p0 s pEstCNom : Rat) * 36 / 10

/-- A cell is initialised at a scan (R170), and a kept record applied. The capacity variance it starts from is not stated:
a free value (log 26). -/
def initCell (c volt : Nat) (i : Rat) (s : State) : State :=
  let vs := cellTemps s c
  let t := (tModOf vs).getD 2500
  let v := volt / (10000 : Rat) + i * (p0 s pEstRserDef : Rat) / 1000000
  let soc := Config.fp32 (ocvInverse s v t)
  let sq (r : Nat) : Rat := let x := (p0 s r : Rat) / 1000000 * i; x * x + measVar s
  let e : CellEst := {
    soc, vpa := 0, vpb := 0, p11 := initVar s, p12 := 0, p13 := 0, p22 := sq pEstRpaDef, p23 := 0, p33 := sq pEstRpbDef
    cap := nominal s, capVar := ratAbs (Config.freeRat (s.free + 1)), dflt := true, tMod := t, rAt := s.phys, cAt := s.phys
    socRep := soc, updated := some s.phys, fresh := true }
  let e := match mfind s.est.kept c with
    | some r => { fuse s r e with socRep := soc }
    | none => e
  drawn (drawn (withEst s fun k => { k with cells := mput k.cells c e, kept := mdel k.kept c }))

/-- Mean of the 1 kHz currents of an interval, A; the last valid current where none was taken (R151, R154). -/
def meanAmps (sum : Int) (n : Nat) (last : Int) : Rat :=
  if n = 0 then (last : Rat) / 1000 else (sum : Rat) / n / 1000

/-- A cell's filter runs for a held scan. -/
def passCell (k : ScanRec) (dt i : Rat) (meas : Option Int) (last : Int) (s : State) (c : Nat) : State :=
  let volt := (cellIn k c).volt
  match mfind s.est.cells c with
  | none => if usable k c && tempRead s (nodeOfCell c) then initCell c volt ((meas.getD last : Int) / (1000 : Rat)) s else s
  | some _ =>
    modEst c (fun e =>
      let qb := mget 0 k.bled c
      let e := predictCell s dt i qb (e.warmed (cellTemps s c))
      let e := { e with qb := e.qb - qb }
      let e := match meas with
        | some a => if usable k c then measureCell s (volt / (10000 : Rat)) ((a : Rat) / 1000) e else e
        | none => e
      e.rounded) s

/-- What a scan adds to a string's learning cycle: bad samples in a rest, cells whose data is missing. -/
def learnScan (k : ScanRec) (j : Nat) (s : State) : State :=
  let cells := stringCells s j
  let l := learnOf s j
  let bad (c : Nat) : Bool := (cellIn k c).sidx == k.idx && (cellIn k c).qual.toNat &&& 0x23 != 0
  let s := if l.restAt.isSome then
      cells.foldl (fun s c => if bad c then modEst c (fun e => { e with restBad := true }) s else s) s
    else s
  let out := cells.filter fun c => (cellIn k c).sidx != k.idx || bit (cellIn k c).qual.toNat 0
  let missing : SMap Nat := out.foldl (fun m c => mput m c ((mfind l.missing c).getD s.phys)) []
  let long := missing.any fun e => decide (5 * secNs < s.phys - e.2)
  modLearn j (fun l => { l with missing, outage := l.outage || long }) s

/-- Σ of a string's 1 kHz currents in the interval a scan's strobe ended, and their count. -/
def sumsOf (k : ScanRec) (j : Nat) : Int × Nat := mget (0, 0) k.sums j

/-- A string's current at a scan's strobe: its own, or the one substituted for it (R154). -/
def strobeCurrent (k : ScanRec) (j : Nat) : Option Int := (mget (none, none) k.strs j).1.or (mfind k.subs j)

/-- The filter pass of one string; a lost string's cells are frozen, and what the interval brought them is dropped (R180). -/
def passString (k : ScanRec) (dt : Rat) (s : State) (j : Nat) : State :=
  let x := strSample s j
  let q := sumsOf k j
  let s := modSample j (fun x => { x with sumS := x.sumS - q.1, cntS := x.cntS - q.2 }) s
  if isLost s j then (stringCells s j).foldl (fun s c => modEst c (fun e => { e with qb := e.qb - mget 0 k.bled c }) s) s
  else learnScan k j ((stringCells s j).foldl (passCell k dt (meanAmps q.1 q.2 x.lastI) (strobeCurrent k j) x.lastI) s)

/-- The filter pass of one held scan: every string that is not frozen. -/
def passScan (s : State) (k : ScanRec) : State :=
  let dt : Rat := match s.est.passIdx with
    | none => 0
    | some n => (((k.idx + 2 ^ 32 - n) % 2 ^ 32 : Nat) : Rat) / 32000
  let s := withEst s fun e => { e with passIdx := some k.idx, passNew := true }
  impPass k.idx (allStrings.foldl (passString k dt) s)

/-- The filter passes of the held scans that are due, in the order of their sample indices (R155, R158). -/
def filterPass (s : State) : State := s.est.scanDue.foldl passScan (withEst s fun e => { e with scanDue := [] })

end Sys2Proof.Machine
end

