-- ==== Sys2Proof/Machine/LimitOps.lean ====
section
/-!
DEFINITION. The estimation array as operations, second part: current and power limits of cells, strings and the block
(R163 to R167), validity and growth of resistances (R200 to R204), and the published set (R156 to R162, R168, R169).
-/
namespace Sys2Proof.Machine
open Sys2Proof

/-! ### Cell limits (R163, R164) -/

/-- The horizons, s. -/
abbrev horizons : List Rat := [2, 10, 30]

/-- Derating factor of a curve at a T_lim code; 0 for a string without any input. -/
def derating (s : State) (id : Nat) : Option Int → Rat
  | none => 0
  | some t =>
    let cut : Rat := pv s pEstTCut 0
    let top : Rat := pv s pEstOcvT 5
    if t = hottest ∨ cut ≤ t then 0
    else if top < t then (pv s id 5 : Rat) / 1000 * (cut - t) / (cut - top)
    else overTemp s id t / 1000

/-- R_h and V_h0 of a cell at a horizon. -/
structure Term where
  r : Rat
  v : Rat
  deriving DecidableEq, Repr

/-- The drop terms of a cell. -/
def termOf (s : State) (e : CellEst) (h : Rat) : Term :=
  let m := modelOf s e
  let ea := decay h (m.rpa * m.cpa)
  let eb := decay h (m.rpb * m.cpb)
  { r := m.rser + m.rpa * (1 - ea) + m.rpb * (1 - eb), v := ocvAt s e.soc e.tMod - e.vpa * ea - e.vpb * eb }

/-- R_h + h × s ÷ C with s the secant slope to the SoC that the current `i` (discharge positive) reaches at the horizon. -/
def effective (s : State) (e : CellEst) (h r i : Rat) : Rat :=
  r + h * ocvSecant s e.soc (e.soc - i * h / e.cap) e.tMod / e.cap

/-- The voltage limit: `head` over R_h + h × s ÷ C, s iterated twice from the local slope; none where no resistance limits it. -/
def voltLimit (s : State) (e : CellEst) (h r head sign : Rat) : Option Rat :=
  let den (sl : Rat) : Rat := r + h * sl / e.cap
  let next (sl : Rat) : Rat :=
    if den sl ≤ 0 then sl else ocvSecant s e.soc (e.soc - sign * head / den sl * h / e.cap) e.tMod
  let d := den (next (next (ocvSlope s e.soc e.tMod)))
  if 0 < d then some (head / d) else if 0 < head then none else some 0

/-- The smallest of three, the first where there is one; a negative result is 0. -/
def least3 (a : Option Rat) (b c : Rat) : Rat := ratMax 0 (ratMin (match a with | some x => ratMin x b | none => b) c)

/-- Rating of a string in a direction, A. -/
def rating (s : State) (j : Nat) (dis : Bool) : Rat := pn s (if dis then pEstIDisMax else pEstIChgMax) j

/-- Discharge limit of a cell of string `j` at a horizon. -/
def disLimit (s : State) (j : Nat) (e : CellEst) (tLim : Option Int) (h : Rat) : Rat :=
  let t := termOf s e h
  least3 (voltLimit s e h t.r (t.v - (p0 s pEstVMin : Rat) / 10000) 1)
    ((e.soc - (p0 s pEstSocMin : Rat) / 10000) * e.cap / h) (rating s j true * derating s pEstTdDis tLim)

/-- Charge limit of a cell at a horizon. -/
def chgLimit (s : State) (j : Nat) (e : CellEst) (tLim : Option Int) (h : Rat) : Rat :=
  let t := termOf s e h
  least3 (voltLimit s e h t.r ((p0 s pEstVMax : Rat) / 10000 - t.v) (-1))
    (((p0 s pEstSocMax : Rat) / 10000 - e.soc) * e.cap / h) (rating s j false * derating s pEstTdChg tLim)

/-! ### The rise limit (R167) -/

/-- A published limit falls at once and rises by EST.LIM_RISE per second of its rating. -/
def rising (s : State) (rate old new : Rat) : Rat :=
  let dt : Rat := ((s.phys - s.est.setAt : Nat) : Rat) / 1000000000
  ratMin new (old + (p0 s pEstLimRise : Rat) / 1000 * rate * dt)

/-- Six limits, discharge then charge, risen from those published before. -/
def riseAll (s : State) (dis chg : Rat) (old new : List Rat) : List Rat :=
  (List.range 6).map fun i => rising s (if i < 3 then dis else chg) (old.getD i 0) (new.getD i 0)

/-- A power limit follows its current limit in proportion. -/
def inProportion (p i risen : Rat) : Rat := if i = 0 then 0 else p * (risen / i)

/-! ### Strings (R165, R157, R216) -/

/-- A cell of a string as the set computes with it. -/
structure CellView where
  c    : Nat
  e    : CellEst
  lims : List Rat
  deriving DecidableEq, Repr

/-- What a string contributes: limits, powers, and per horizon E_j and R_j for discharge and charge. -/
structure StringLim where
  lims : List Rat
  pows : List Rat
  e    : List Rat
  rDis : List Rat
  rChg : List Rat
  deriving DecidableEq, Repr

/-- A condition that calls for G1 has the scope: the string's number, or none for the block (Table 07.7). -/
def g1Calls (s : State) (j : Option Nat) : Bool :=
  s.prt.g1.any fun k =>
    let cond := k / 65536
    let inst := k % 65536
    match j with
    | none => cond == 10 || cond == 18
    | some j => (cond == 4 || cond == 7) && inst == j || cond == 19 && cellString s inst == some j

/-- PRT.DERATE_FACTOR while a G1 of the scope stands (Table 07.6). -/
def g1Factor (s : State) (j : Option Nat) : Rat := if g1Calls s j then (p0 s pPrtDerateFactor : Rat) / 100 else 1

/-- Smallest of a list; 0 of none. -/
def leastOf : List Rat → Rat
  | [] => 0
  | x :: xs => xs.foldl ratMin x

/-- Limits of a string whose every populated cell has an estimate. -/
def stringLim (s : State) (j : Nat) (stale : Bool) (vs : List CellView) : StringLim :=
  let f := (if stale then (p0 s pEstStaleLimFactor : Rat) / 100 else 1) * g1Factor s (some j)
  let rp : Rat := (pn s pAcqSumRpath j : Rat) / 1000000
  let own (k : Nat) : Rat := leastOf (vs.map fun v => v.lims.getD k 0)
  let es := horizons.map fun h => (vs.map fun v => (termOf s v.e h).v).sum
  let rs (sign : Rat) (o : Nat) := (horizons.zip (List.range 3)).map fun x =>
    rp + (vs.map fun v => effective s v.e x.1 (termOf s v.e x.1).r (sign * own (o + x.2))).sum
  let rd := rs 1 0
  let rc := rs (-1) 3
  let pow (k : Nat) : Rat :=
    let i := own k
    let v := if k < 3 then es.getD k 0 - i * rd.getD k 0 else es.getD (k - 3) 0 + i * rc.getD (k - 3) 0
    ratMax 0 (i * v)
  { lims := (List.range 6).map fun k => own k * f, pows := (List.range 6).map fun k => pow k * f, e := es, rDis := rd, rChg := rc }

/-! ### The block (R166) -/

/-- Conductance of a string's resistance. Of a resistance of 0 the rule states none: a free value (log 26). -/
def conductance (s : State) (j : Nat) (r : Rat) : Rat := if r = 0 then ratAbs (Config.freeRat (s.free + j)) else 1 / r

/-- Limit and power of the block at horizon `k` in a direction, over the strings in service. -/
def blockAt (s : State) (dis : Bool) (k : Nat) (ls : List (Nat × StringLim)) : Rat × Rat :=
  let sign : Rat := if dis then 1 else -1
  let es := ls.map fun l => l.2.e.getD k 0
  let gs := ls.map fun l => conductance s l.1 ((if dis then l.2.rDis else l.2.rChg).getD k 0)
  let g := gs.sum
  let vm := ((es.zip gs).map fun x => x.1 * x.2).sum / g
  let bounds := (ls.zip (es.zip gs)).map fun x =>
    (x.1.2.lims.getD (if dis then k else k + 3) 0 - sign * ((x.2.1 - vm) * x.2.2)) * g / x.2.2
  let i := ratMax 0 (bounds.foldl ratMin (p0 s pEstBlkIMax : Rat))
  (i, ratMax 0 (i * (vm - sign * i / g)))

/-- Six limits and six powers of the block: 0 with no string in service, or while one has no terms; under G1 and G2. -/
def blockLims (s : State) (strs : List Nat) (ls : List (Nat × StringLim)) : List Rat × List Rat :=
  if strs.isEmpty || ls.length != strs.length then (List.replicate 6 0, List.replicate 6 0)
  else
    let f := g1Factor s none
    let x := (List.range 6).map fun k =>
      let z : Rat := if (if k < 3 then s.prt.g2dis else s.prt.g2chg).isEmpty then f else 0
      let b := blockAt s (decide (k < 3)) (k % 3) ls
      (b.1 * z, b.2 * z)
    (x.map (·.1), x.map (·.2))

/-! ### Resistances (R200 to R204) -/

/-- Validity of a cell's resistances (Table 06.5). -/
inductive Validity where
  | default | stale | weak | valid
  deriving DecidableEq, Repr

/-- Age in s from a physical time. -/
def ageOf (s : State) (t : Int) : Nat := satN 0xFFFFFFFF (((s.phys : Int) - t).toNat / secNs)

/-- Confidence of a cell's Rser (R200). -/
def confidence (s : State) (e : CellEst) : Nat :=
  let d := driftRsd s * e.rser * (((s.phys : Int) - e.rAt : Int) : Rat) / 86400000000000
  let rsd := if e.rser = 0 then 1 else Config.sqrtR (e.varRser + d * d) / e.rser
  satN 65535 (ratRound (65535 * ratMax 0 (1 - rsd / ((p0 s pImpConfRsd0 : Rat) / 1000)))).toNat

/-- Validity of a cell. -/
def validity (s : State) (e : CellEst) : Validity :=
  if e.dflt then .default
  else if e.rstale ∨ p0 s pImpRAgeMax * 3600 < ageOf s e.rAt then .stale
  else if confidence s e < p0 s pImpConfValid then .weak
  else .valid

/-- A condition of a ratio in %: raised at its threshold, cleared below 95 % of it. -/
def growthStep (was : Bool) (ratio threshold : Rat) : Bool :=
  if was then decide (threshold * 95 / 100 ≤ ratio) else decide (threshold ≤ ratio)

/-- The outlier condition: raised where its share is exceeded, cleared below 95 % of it. -/
def outlierStep (was : Bool) (ratio threshold : Rat) : Bool :=
  if was then decide (threshold * 95 / 100 ≤ ratio) else decide (threshold < ratio)

/-- The median of values, none of fewer than nine. -/
def medianOf (xs : List Rat) : Option Rat :=
  if xs.length < 9 then none
  else
    let rec ins (x : Rat) : List Rat → List Rat
      | [] => [x]
      | y :: ys => if x ≤ y then x :: y :: ys else y :: ins x ys
    let l := xs.foldr ins []
    let n := l.length
    some (if n % 2 = 1 then l.getD (n / 2) 0 else (l.getD (n / 2 - 1) 0 + l.getD (n / 2) 0) / 2)

/-- An event of a growth condition that changed: cell index and ratio in 0.01 %. -/
def growthEvent (ev : Ev) (c : Nat) (was now : Bool) (ratio : Rat) (s : State) : State :=
  if was = now then s else post ev 1 c (le 2 c ++ le 4 (ratRound (ratio * 100)).toNat ++ [BitVec.ofNat 8 (b2n now)]) s

/-- Growth and outlier checks of a Valid cell (R203, R204); a cell not Valid keeps its conditions. -/
def growthCell (median : Option Rat) (s : State) (c : Nat) : State :=
  match mfind s.est.cells c with
  | none => s
  | some e =>
    if validity s e ≠ .valid then withEst s fun k => { k with unchecked := k.unchecked + 1 }
    else
      let e := if e.rserRef = 0 ∧ p0 s pImpRefMode = 1 then { e with rserRef := e.rser } else e
      let g := if e.rserRef = 0 then 0 else e.rser / e.rserRef * 100
      let w := if e.rserRef = 0 then e.gWarn else growthStep e.gWarn g (p0 s pImpGrowthWarn : Rat)
      let a := if e.rserRef = 0 then e.gAlarm else growthStep e.gAlarm g (p0 s pImpGrowthAlarm : Rat)
      let ratio : Rat := match median with
        | some m => if m = 0 then 0 else e.rser / m * 100
        | none => 0
      let o := if median.isNone then e.outlier else outlierStep e.outlier ratio (p0 s pImpOutlier : Rat)
      let s := growthEvent .growthWarn c e.gWarn w g s
      let s := growthEvent .growthAlarm c e.gAlarm a g s
      let s := growthEvent .outlier c e.outlier o ratio s
      let s := modEst c (fun _ => { e with gWarn := w, gAlarm := a, outlier := o }) s
      let j := (cellString s c).getD 0
      plainCond .growth c j false a s

/-- Growth checks of a string's cells in a set. -/
def growthString (s : State) (j : Nat) : State :=
  let cells := stringCells s j
  let rs := cells.filterMap fun c => match mfind s.est.cells c with
    | some e => if validity s e = .valid then some e.rser else none
    | none => none
  cells.foldl (growthCell (medianOf rs)) s

/-! ### Reported values (R168, R169) -/

/-- A value moved towards another by at most a step. -/
def towards (x y step : Rat) : Rat := x + ratMax (-step) (ratMin step (y - x))

/-- A cell's reported SoC and SoH over `dt` s with the mean current `i` A and the bled charge `qb`; `view` is the internal
state they move towards. -/
def report (s : State) (dt i qb : Rat) (view e : CellEst) : CellEst :=
  let cc := e.socRep - (i * dt + qb) / e.cap
  { e with
    socRep := Config.fp32 (unit01 (towards cc view.soc ((p0 s pEstSocSlew : Rat) / 10000 / 60 * dt)))
    sohRep := Config.fp32 (towards e.sohRep (e.cap / nominal s) ((p0 s pEstSohSlew : Rat) / 10000 / 60 * dt))
    efc := e.efc + Config.efcGain (ratAbs (i * dt)) e.cap }

/-! ### Codes (R6, R159) -/

/-- A fraction as a SoC or SoH code, 0 to 10,000. -/
def socCode (x : Rat) : Nat := satN 10000 (ratRound (x * 10000)).toNat

/-- A non-negative value as an unsigned 32-bit code. -/
def u32Code (x : Rat) : Nat := satN 0xFFFFFFFE (ratRound x).toNat

/-- A limit in A as a current code value, mA. -/
def limCode (x : Rat) : Int := clampI 0 0x7FFFFFFF (ratRound (x * 1000))

/-- The not-available codes of a cell (R510). -/
def cellOutNa (flags : BitVec 8) : CellOut :=
  { socRep := 0xFFFF, socInt := 0xFFFF, sigma := 0xFFFF, soh := 0xFFFF, cap := 0xFFFFFFFF, rser := 0xFFFFFFFF, rpa := 0xFFFFFFFF
    rpb := 0xFFFFFFFF, cpa := 0xFFFFFFFF, cpb := 0xFFFFFFFF, idis := [], ichg := [], flags }

/-- Flags of a cell (Table 05.4). -/
def cellFlags (s : State) (j c : Nat) (view : CellEst) : BitVec 8 :=
  let x := strSample s j
  let vs := cellTemps s c
  let sigma := (p0 s pEstSigmaOk : Rat) / 10000
  let late := decide (p0 s pEstPredMaxT * secNs < s.phys - (view.updated.getD s.est.startAt))
  let v := validity s view
  BitVec.ofNat 8 (2 * b2n (v == .default) + 4 * b2n (v == .stale)
    + 8 * b2n (!view.fresh || x.predI || (!vs.isEmpty && (tModOf vs).isNone)) + 16 * b2n late
    + 32 * b2n (decide (sigma * sigma < view.p11) || decide ((p0 s pEstConvBand : Rat) / 10000 < ratAbs (view.socRep - view.soc)))
    + 64 * b2n (isLost s j) + 128 * b2n (!inService s j))

/-- A cell's outputs. -/
def cellOut (s : State) (v : CellView) (risen : List Rat) (flags : BitVec 8) : CellOut :=
  let m := modelOf s v.e
  let r (x : Rat) : Nat := if v.e.dflt then 0xFFFFFFFF else u32Code (x * 1000000)
  let f (x : Rat) : Nat := if v.e.dflt then 0xFFFFFFFF else u32Code x
  { socRep := socCode v.e.socRep, socInt := socCode v.e.soc, sigma := socCode (Config.sqrtR (ratMax 0 v.e.p11))
    soh := socCode v.e.sohRep, cap := u32Code (v.e.cap * 10 / 36), rser := r m.rser, rpa := r m.rpa, rpb := r m.rpb
    cpa := f m.cpa, cpb := f m.cpb, idis := (risen.take 3).map limCode, ichg := ((risen.drop 3).take 3).map limCode, flags }

/-! ### The set (R156 to R162) -/

/-- Sample index a set is stamped with: the scan's of a filter pass since the last set, else the present strobe's. -/
def setIndex (s : State) : Nat := if s.est.passNew then s.est.passIdx.getD (strobeIdx s) else strobeIdx s

/-- The state of a cell as the set holds it: as the filter left it, or predicted on to the present strobe where no scan came. -/
def viewOf (s : State) (j : Nat) (e : CellEst) : CellEst :=
  if s.est.passNew || isLost s j then e
  else
    match s.est.passIdx with
    | none => e
    | some k =>
      let x := strSample s j
      let dt : Rat := (((strobeIdx s + 2 ^ 32 - k) % 2 ^ 32 : Nat) : Rat) / 32000
      predictCell s dt (meanAmps (x.sumI + x.sumS) (x.cntI + x.cntS) x.lastI) e.qb e

/-- Cells of a string with their views and limits, those with an estimate and a served node. -/
def stringViews (s : State) (j : Nat) : List CellView :=
  (stringCells s j).filterMap fun c =>
    match mfind s.est.cells c with
    | none => none
    | some e =>
      if !nodeLive s (nodeOfCell c) then none
      else
        let v := viewOf s j (e.warmed (cellTemps s c))
        let t := tLimOf (cellTemps s c)
        some { c, e := v, lims := horizons.map (disLimit s j v t) ++ horizons.map (chgLimit s j v t) }

/-- min Qd and min Qc of a string's cells by a value of SoC (R161). -/
def seriesCharge (soc : CellEst → Rat) (vs : List CellView) : Rat × Rat :=
  (leastOf (vs.map fun v => soc v.e * v.e.cap), leastOf (vs.map fun v => (1 - soc v.e) * v.e.cap))

/-- What the set computes of a string before its limits have risen. -/
structure StringPart where
  j      : Nat
  views  : List CellView
  /-- every populated cell has an estimate -/
  whole  : Bool
  flags  : BitVec 8
  lim    : Option StringLim
  qd     : Rat
  qc     : Rat
  /-- the same from the internal values -/
  qdInt  : Rat
  qcInt  : Rat
  /-- Ω, none where R202 publishes none -/
  ohm    : Option Rat
  deriving DecidableEq, Repr

/-- Flags of a cell of a string that has no estimate, or whose node is not served. -/
def naFlags (s : State) (j c : Nat) : BitVec 8 :=
  match mfind s.est.cells c with
  | some e => cellFlags s j c e ||| 1
  | none => BitVec.ofNat 8 (1 + 8 + 16 * b2n (decide (p0 s pEstPredMaxT * secNs < s.phys - s.est.startAt))
      + 64 * b2n (isLost s j) + 128 * b2n (!inService s j))

/-- Flags of one cell of a string in the set. -/
def flagsOf (s : State) (j : Nat) (vs : List CellView) (c : Nat) : BitVec 8 :=
  match vs.find? (·.c = c) with
  | some v => cellFlags s j c v.e
  | none => naFlags s j c

/-- One string of the set. -/
def stringPart (s : State) (j : Nat) : StringPart :=
  let cells := stringCells s j
  let vs := stringViews s j
  let absent := absentNode s j
  let whole := vs.length == cells.length && !cells.isEmpty && !absent
  let base : BitVec 8 := if absent then BitVec.ofNat 8 (9 + 64 * b2n (isLost s j) + 128 * b2n (!inService s j)) else 0
  let flags := cells.foldl (fun f c => f ||| flagsOf s j vs c) base
  let q := seriesCharge (·.socRep) vs
  let qi := seriesCharge (·.soc) vs
  let bad := vs.any fun v => let x := validity s v.e; x == .default || x == .weak
  { j, views := vs, whole, flags
    lim := if whole then some (stringLim s j (bit flags.toNat 4) vs) else none
    qd := q.1, qc := q.2, qdInt := qi.1, qcInt := qi.2
    ohm := if whole && !bad then
        some ((vs.map fun v => (modelOf s v.e).rser).sum + (pn s pAcqSumRpath j : Rat) / 1000000) else none }

/-- The lowest and the highest reported cell SoC of a string, with their indices. -/
def extremes (vs : List CellView) : (Nat × Nat) × (Nat × Nat) :=
  match vs with
  | [] => ((0xFFFF, 0xFFFF), (0xFFFF, 0xFFFF))
  | v :: vs =>
    let lo := vs.foldl (fun m x => if x.e.socRep < m.e.socRep then x else m) v
    let hi := vs.foldl (fun m x => if m.e.socRep < x.e.socRep then x else m) v
    ((socCode lo.e.socRep, lo.c), (socCode hi.e.socRep, hi.c))

/-- A string's outputs (Table 05.12). -/
def stringOut (s : State) (p : StringPart) (risen : List Rat) : StringOut :=
  let x := extremes (if p.whole then p.views else [])
  let l : StringLim := p.lim.getD { lims := [], pows := [], e := [], rDis := [], rChg := [] }
  let pow (k : Nat) : Nat := u32Code (inProportion (l.pows.getD k 0) (l.lims.getD k 0) (risen.getD k 0))
  let cap := p.qd + p.qc
  let capI := p.qdInt + p.qcInt
  { socInt := if p.whole then socCode (if capI = 0 then 0 else p.qdInt / capI) else 0xFFFF
    sohInt := if p.whole then socCode (capI / nominal s) else 0xFFFF
    capInt := if p.whole then u32Code (capI * 10 / 36) else 0xFFFFFFFF
    tempNa := ((cellNodes s p.j).flatMap fun a => surfaceOf s a 0xFF).isEmpty
    soc := if p.whole then socCode (if cap = 0 then 0 else p.qd / cap) else 0xFFFF
    soh := if p.whole then socCode (cap / nominal s) else 0xFFFF
    cap := if p.whole then u32Code (cap * 10 / 36) else 0xFFFFFFFF
    res := match p.ohm with | some r => u32Code (r * 1000000) | none => 0xFFFFFFFF
    lowSoc := x.1.1, lowIdx := x.1.2, highSoc := x.2.1, highIdx := x.2.2
    idis := (risen.take 3).map limCode, ichg := ((risen.drop 3).take 3).map limCode
    pdis := [0, 1, 2].map pow, pchg := [3, 4, 5].map pow
    flags := p.flags, flags2 := BitVec.ofNat 8 (b2n (learnOf s p.j).stale)
    e2 := l.e.getD 0 0, rDis2 := l.rDis.getD 0 0, rChg2 := l.rChg.getD 0 0 }

/-- The block's outputs over the strings in service (Table 05.13, R162). -/
def blockOut (s : State) (ps : List StringPart) (raw : List Rat × List Rat) (risen : List Rat) : BlockOut :=
  let pow (k : Nat) : Nat := u32Code (inProportion (raw.2.getD k 0) (raw.1.getD k 0) (risen.getD k 0))
  let whole := !ps.isEmpty && ps.all (·.whole)
  let qd := (ps.map (·.qd)).sum
  let cap := qd + (ps.map (·.qc)).sum
  let ohm := ps.mapM (·.ohm)
  { soc := if whole then socCode (if cap = 0 then 0 else qd / cap) else 0xFFFF
    soh := if whole then socCode (cap / ((ps.length : Rat) * nominal s)) else 0xFFFF
    cap := if whole then u32Code (cap * 10 / 36) else 0xFFFFFFFF
    res := match ohm with
      | some rs => if rs.isEmpty then 0xFFFFFFFF else u32Code (1 / (rs.map fun r => 1 / r).sum * 1000000)
      | none => 0xFFFFFFFF
    idis := (risen.take 3).map limCode, ichg := ((risen.drop 3).take 3).map limCode
    pdis := [0, 1, 2].map pow, pchg := [3, 4, 5].map pow
    flags := if ps.isEmpty then 1 else (ps.foldl (fun f p => f ||| p.flags) 0) &&& 0x3F }

/-- Strings that have cell nodes, or a mapped address where none is found. -/
def knownStrings (s : State) : List Nat := allStrings.filter fun j => !(cellNodes s j).isEmpty || absentNode s j

/-- Reported values and the bled charge of the limit cycle, before the set is assembled. -/
def reportString (ns : Nat) (s : State) (j : Nat) : State :=
  let x := strSample s j
  let i := meanAmps x.sumL x.cntL x.lastI
  let dt : Rat := (ns : Rat) / 1000000000
  let s := modSample j (fun x => { x with sumL := 0, cntL := 0 }) s
  if isLost s j then s
  else (stringCells s j).foldl (fun s c =>
    modEst c (fun e => { report s dt i e.qbSet (viewOf s j e) e with qbSet := 0 }) s) s

/-- What a set is assembled from is brought up to now: bleed is booked (R105), reported values move (R156), growth is checked (R204). -/
def bringUp (s : State) : State :=
  let ns := s.phys - s.est.setAt
  let s := allRings.foldl (fun s r => bookRing r s) s
  let strs := knownStrings s
  strs.foldl growthString (withEst (strs.foldl (reportString ns) s) fun e => { e with unchecked := 0 })

/-- One set is assembled and published (R33, R156): limits are computed and rise, and every measurement mark is taken up. -/
def publish (s : State) : State :=
  let s := bringUp s
  let strs := knownStrings s
  let ps := strs.map (stringPart s)
  let inS := ps.filter fun p => inService s p.j && !isLost s p.j
  let raw := blockLims s (serviceList s) (inS.filterMap fun p => p.lim.map (p.j, ·))
  let limB := riseAll s (p0 s pEstBlkIMax : Rat) (p0 s pEstBlkIMax : Rat) s.est.limB raw.1
  let risenOf (p : StringPart) : List Rat :=
    riseAll s (rating s p.j true) (rating s p.j false) (mget [] s.est.limS p.j) ((p.lim.map (·.lims)).getD [])
  let cellLims := ps.flatMap fun p => p.views.map fun v =>
    (p.j, v, riseAll s (rating s p.j true) (rating s p.j false) v.e.lims v.lims)
  let outs : SMap CellOut := ps.foldl (fun m p => (stringCells s p.j).foldl (fun m c => mput m c (cellOutNa (flagsOf s p.j p.views c))) m) []
  let outs := cellLims.foldl (fun m x => mput m x.2.1.c (cellOut s x.2.1 x.2.2 (cellFlags s x.1 x.2.1.c x.2.1.e))) outs
  let views : SMap CellEst := s.est.cells.map fun e => (e.1, match cellLims.find? (·.2.1.c = e.1) with
    | some x => x.2.1.e
    | none => e.2)
  let idx := setIndex s
  let set : PubSet := {
    number := s.est.set.number + 1, sidx := idx, views, at_ := s.phys, cells := outs
    strings := ps.map fun p => (p.j, stringOut s p (risenOf p)), block := blockOut s inS raw limB
    inService := BitVec.ofNat 16 (serviceMask s), vb := vbAt s idx }
  let s := cellLims.foldl (fun s x => modEst x.2.1.c (fun e => { e with lims := x.2.2, tMod := x.2.1.e.tMod }) s) s
  let s := withEst s fun e => { e with
    set, any := true, limS := ps.map fun p => (p.j, risenOf p), limB, setAt := s.phys, passNew := false
    cells := mmap (fun _ c => { c with fresh := false }) e.cells }
  let s := withChn s fun c => { c with strings := mmap (fun _ x => { x with predI := false }) c.strings }
  { s with free := s.free + 16 }

/-! ### Notices of a set (R430) -/

/-- A block limit of the newest set lies below its value in the port's last notice by more than HOST.LIMIT_DROP % of
EST.BLK_I_MAX, or has fallen to 0. -/
def limitsFell (s : State) (p : Port) : Bool :=
  match (portOf s p).lastLim with
  | none => false
  | some old =>
    let drop : Int := (p0 s pHostLimitDrop * p0 s pEstBlkIMax * 10 : Nat)
    ((blockLimits s).zip old).any fun x => decide (drop < x.2 - x.1) || (x.1 == 0 && decide (0 < x.2))

/-- The notices that follow a publication: a reduction, or a G1 newly entered (Table 07.6). -/
def noticeSet (s : State) : State :=
  let g1 := s.prt.g1Note
  let s := (limitPorts s).foldl (fun s p => if g1 || limitsFell s p then limitsOn 0x01 0 (g2Flags s) s p else s) s
  withPrt s fun g => { g with g1Note := false }

end Sys2Proof.Machine
end

