-- ==== Sys2Proof/Machine/BalOps.lean ====
section
/-!
DEFINITION. The balancing planner as operations: eligibility, targets and budgets, plans, and the hold of a string
(R101 to R106).
-/
namespace Sys2Proof.Machine
open Sys2Proof

/-- A string's balancing state, and its change. -/
def balOf (s : State) (j : Nat) : Balance := mget {} s.chn.balance j
def modBal (j : Nat) (f : Balance → Balance) (s : State) : State :=
  withChn s fun c => { c with balance := mmod {} c.balance j f }

/-- A node may receive a budget (R104). A position ACQ.CELL_MASK marks as unpopulated, which always reads as not available, does not
count as a cell that is NA (DEDUCED, log 141). -/
def eligible (s : State) (j a : Nat) : Bool :=
  let bad (c : Nat) : Bool := populated s c && (cellOf s c).qual.toNat &&& 0x21 != 0
  let hot (t : Nat) : Bool := pn s pAcqTempCfg t != 0 && decide (pv s pAcqBalTMax 0 < policyTemp s t)
  nodeLive s a && !(cellsOfNode a).any bad && !(tempsOfNode a).any hot && !isLost s j
  && decide ((strCurrent s j).natAbs ≤ pn s pAcqBalIMax j * 1000) && !(strSample s j).sumFault

/-- Mode a string is planned in: its SoC estimates stale, or not converged, make mode 1 mode 2 (R103). -/
def balMode (s : State) (j : Nat) : Nat :=
  let m := p0 s pAcqBalMode
  let f : Nat := ((mfind s.est.set.strings j).map (·.flags.toNat)).getD 1
  if m = 1 ∧ f &&& 0x31 ≠ 0 then 2 else m

/-- A cell that needs bleeding: what it is ranked by, its budget in 100 ms, and whether it keeps on (mode 1). -/
structure Want where
  c      : Nat
  rank   : Rat
  budget : Nat
  deriving DecidableEq, Repr

/-- A bleed-on time as a budget: rounded down to 100 ms, at most one and a half periods. -/
def budgetOf (s : State) (t : Rat) : Nat := min (ratMax 0 (t * 10)).floor.toNat (p0 s pAcqBalPeriod * 15)

/-- Cells that need bleeding by SoC, against the lowest SoC of the cells `base`, all of the newest published set (R33). -/
def wantSoc (s : State) (j : Nat) (base cells : List Nat) : List Want :=
  let soc (c : Nat) : Option Rat := (mfind s.est.set.views c).map (·.soc)
  match (base.filterMap soc) with
  | [] => []
  | x :: xs =>
    let lo := xs.foldl ratMin x
    let band : Rat := (p0 s pAcqBalDeadband : Rat) / 10000
    let was := (balOf s j).bleeding
    cells.filterMap fun c =>
      match mfind s.est.set.views c with
      | none => none
      | some e =>
        let target := lo + band / 4
        if lo + band < e.soc ∨ (c ∈ was ∧ target < e.soc) then
          let q := (e.soc - target) * e.cap
          let r : Rat := (pn s pAcqBalRbleed (nodeOfCell c) : Rat) / 10
          some { c, rank := q, budget := budgetOf s (q * r / (((cellOf s c).vLast : Rat) / 10000)) }
        else none

/-- Cells that need bleeding by voltage, after 10 min at |I| ≤ 1 A. -/
def wantVolt (s : State) (j : Nat) (base cells : List Nat) : List Want :=
  if !passed s (balOf s j).quietAt (600 * secNs) then []
  else
    match base.map fun c => (cellOf s c).volt with
    | [] => []
    | x :: xs =>
      let lo := xs.foldl min x
      (cells.filter fun c => (cellOf s c).volt != 0xFFFF && decide (lo + p0 s pAcqBalDv * 10 < (cellOf s c).volt)).map fun c =>
        { c, rank := ((cellOf s c).volt - lo : Nat), budget := p0 s pAcqBalPeriod * 10 }

/-- Cells of a string that need bleeding (R103); without an eligible cell the string's own lowest stands in. -/
def wantsOf (s : State) (j : Nat) : List Want :=
  let cells := stringCells s j
  let good := cells.filter fun c => eligible s j (nodeOfCell c)
  let base := if good.isEmpty then cells else good
  match balMode s j with
  | 0 => []
  | 1 => wantSoc s j base cells
  | _ => wantVolt s j base cells

/-- The wants of a node, those of the largest rank first, as many as may bleed at once. -/
def chosenOf (s : State) (ws : List Want) (a : Nat) : List Want :=
  let own := ws.filter fun w => nodeOfCell w.c == a && decide (0 < w.budget)
  (own.filter fun w => decide ((own.filter fun v => decide (w.rank < v.rank) || (v.rank == w.rank && decide (v.c < w.c))).length
    < p0 s pAcqBalMaxPerNode))

/-- Budgets of a node's 18 positions. -/
def planOf (s : State) (j : Nat) (ws : List Want) (a : Nat) : List Nat :=
  let ch := if eligible s j a then chosenOf s ws a else []
  (cellsOfNode a).map fun c => ((ch.find? (·.c = c)).map (·.budget)).getD 0

/-- The node's held plan as 18 budgets. -/
def heldPlan (n : Node) : List Nat := (List.range 18).map fun i => n.plan.getD i 0

/-- BLEED_PLAN to a node (Table 03.10). -/
def sendPlan (plan : List Nat) (a : Nat) (s : State) : State :=
  let num := ((nodeOf s a).planNum + 1) % 256
  addressed 0x13 (BitVec.ofNat 16 (num * 256) :: plan.map (BitVec.ofNat 16)) 0 a s

/-- A plan is sent where it differs from the one the node holds, or where a budget would run out before the next period. -/
def renewPlan (plan : List Nat) (a : Nat) (s : State) : State :=
  let n := nodeOf s a
  let short := (List.range 18).any fun i =>
    decide (0 < plan.getD i 0) && decide (n.left.getD i 0 < p0 s pAcqBalPeriod * secNs)
  if !nodeLive s a || (plan == heldPlan n && !short) then s else sendPlan plan a s

/-- One string is planned. A cell that needs bleeding but gets no budget counts as bleeding and keeps its target; a period planned
in another mode than 1 ends the record (DESIGN CHOICE, log 142). -/
def planString (s : State) (j : Nat) : State :=
  let ws := wantsOf s j
  let plans := (cellNodes s j).map fun a => (a, planOf s j ws a)
  let mode := balMode s j
  let s := modBal j (fun b => { b with need := !ws.isEmpty, bleeding := if mode = 1 then ws.map (·.c) else [] }) s
  plans.foldl (fun s p => renewPlan p.2 p.1 s) s

/-- A cell of the node bleeds: budget left, no hold, no over-temperature. The window about a strobe is no hold (R106). -/
def nodeBleeds (s : State) (a : Nat) : Bool :=
  let n := nodeOf s a
  n.left.any (· != 0) && !(ringAt s (ringOf a)).hold && !bit n.status.toNat 10 && nodeLive s a

/-- Times of a string's hold and of its bleeding without one (R106). -/
def watchHold (s : State) (j : Nat) : State :=
  let b := balOf s j
  let on := (cellNodes s j).any (nodeBleeds s)
  let free := running s (b.need && on) b.freeAt
  let clear := !b.need || passed s free (60 * secNs)
  let b1 := { b with heldAt := running s (b.need && !on) b.heldAt, freeAt := free, stale := b.stale && !clear }
  if b1 = b then s else modBal j (fun _ => b1) s

/-- A node with a budget that is eligible no longer receives zero budgets (R104). -/
def withdraw (j : Nat) (s : State) (a : Nat) : State :=
  let waiting := s.chn.pend.any fun p => p.ring == ringOf a && !p.bc && p.hop == hopOf a && p.opc == 0x13
  if (heldPlan (nodeOf s a)).all (· == 0) || (nodeOf s a).left.all (· == 0) || eligible s j a || waiting || !nodeLive s a then s
  else sendPlan (List.replicate 18 0) a s

/-- What the planner does in a limit cycle for a string. -/
def balanceCycle (s : State) (j : Nat) : State := watchHold ((cellNodes s j).foldl (withdraw j) s) j

/-- A string's current has been at most 1 A since when (R103). -/
def balSample (j : Nat) (i : Int) (s : State) : State :=
  let q := running s (decide (i.natAbs ≤ 1000)) (balOf s j).quietAt
  if q = (balOf s j).quietAt then s else modBal j (fun b => { b with quietAt := q }) s

/-- BALANCE_PLAN (R103): every string is planned. -/
def execBalancePlan (dt : Nat) (s : State) : Out :=
  let s := advance dt s
  .next (if podUp s then (knownStrings s).foldl planString s else s)

/-- BAL_HOLD_EXPIRY (R106): held for ACQ.BAL_HOLD_MAX, a string sets BAL_STALE. -/
def execBalHoldExpiry (dt str : Nat) (s : State) : Out :=
  let s := advance dt s
  let b := balOf s str
  if passed s b.heldAt (p0 s pAcqBalHoldMax * secNs) && !b.stale then
    .next (post .balStale 4 str [BitVec.ofNat 8 str] (modBal str (fun b => { b with stale := true }) s))
  else .next s

end Sys2Proof.Machine
end

