-- ==== Sys2Proof/Machine/EvalOps.lean ====
section
/-!
DEFINITION. What the firmware makes of new data: conditions and grades of a scan, a string sample, an auxiliary reading, a
chain cycle and a limit cycle, string loss and learning (R92, R154, R176, R216 to R223, R244 to R249, R511).
-/
namespace Sys2Proof.Machine
open Sys2Proof

/-! ### Heat indices (R219) -/

/-- Overcurrent ratio of a current in mA against a rating in A. Against a rating of 0 the rule states none: a free value
(log 26). -/
def heatRatio (s : State) (i : Int) (rate : Nat) : Rat :=
  if i = 0 then 0 else if rate = 0 then ratAbs (Config.freeRat s.free) else (i.natAbs : Nat) / ((rate * 1000 : Nat) : Rat)

/-- A heat index after 1 ms at a ratio. -/
def heatStep (s : State) (h m : Rat) : Rat := ratMax 0 (h + (m * m - 1) / (1000 * (p0 s pPrtOcTk : Nat)))

/-- G2 of an index: entered at one half, left at one quarter. -/
def heatHolds (was : Bool) (h : Rat) : Bool := if was then decide ((1 : Rat) / 4 < h) else decide ((1 : Rat) / 2 ≤ h)

/-- A string's index advances at a sample of its current. -/
def stringHeat (j : Nat) (i : Int) (s : State) : State :=
  let m := heatRatio s i (pn s (if 0 < i then pEstIDisMax else pEstIChgMax) j)
  let h := heatStep s (mget 0 s.prt.heat j) m
  let s := withPrt s fun g => { g with heat := mput g.heat j h }
  let chg := decide (i < 0)
  let s := plainCond .ocstrg2 j j chg (heatHolds (condIn s .ocstrg2 j) h) s
  plainCond .ocstrg3 j j chg (decide (1 ≤ h) || decide ((p0 s pPrtOcInst : Rat) / 100 ≤ m)) s

/-- The block's index advances at a strobe's current. -/
def blockHeat (i : Int) (s : State) : State :=
  let h := heatStep s s.prt.heatBlk (heatRatio s i (p0 s pEstBlkIMax))
  let s := withPrt s fun g => { g with heatBlk := h }
  let chg := decide (i < 0)
  let s := plainCond .ocblkg2 0 0 chg (heatHolds (condIn s .ocblkg2 0) h) s
  plainCond .ocblkg4 0 0 chg (decide (1 ≤ h)) s

/-! ### String loss (R222, R223, R180) -/

/-- A string is declared lost: G3 at once, the capture, its filters frozen, and a set out of turn with its notice and the test
of the remaining strings. -/
def loseString (j : Nat) (s : State) : State :=
  if isLost s j then s
  else
    let s := withPrt s fun g => { g with lost := g.lost ||| BitVec.ofNat 16 (2 ^ j) }
    let s := capTrigger 3 (plainCond .loss j j false true (noteImp 0x10 j s))
    let s := modLearn j (fun l => { l with lostIn := true }) (modStr j (fun x => { x with inService := false, joined := false, confPend := false }) s)
    let s := publish s
    lossTest (sendLimits 0x02 0 (g2Flags s) s)

/-- A string can be lost: its contactors are commanded closed, it joins no more, and it is not commanded open. -/
def canLose (s : State) (j : Nat) : Bool := inService s j && !(strOf s j).opening && !isLost s j

/-- Two samples in a row, the older one first, show the loss (R222). -/
def lossSeen (s : State) (prev cur : Option Int) : Bool :=
  match prev, cur with
  | some a, some b => decide (p0 s pSeqLossIMin * 1000 < a.natAbs) && decide (b.natAbs * 100 < a.natAbs)
  | _, _ => false

/-! ### Learning cycles (R176, R178) -/

/-- A string's current is at rest (R176). -/
def atRest (s : State) (i : Int) : Bool := decide (i.natAbs * 1000 ≤ p0 s pEstAnchorI * p0 s pEstCNom)

/-- A string's current at a sample index enters its learning cycle: its sums, a rest begun, or a rest that ends. -/
def learnSample (j idx : Nat) (i : Int) (s : State) : State :=
  let l := learnOf s j
  let s := if l.startIdx.isNone then s
    else modLearn j (fun l => { l with charge := l.charge + i, absSum := l.absSum + i.natAbs, samples := l.samples + 1 }) s
  match l.restAt with
  | none =>
    if atRest s i then
      (stringCells s j).foldl (fun s c => modEst c (fun e => { e with restBad := false }) s)
        (modLearn j (fun l => { l with restAt := some s.phys }) s)
    else s
  | some t =>
    if atRest s i then s
    else
      let dur := s.phys - t
      let whole := decide (p0 s pEstAnchorT * secNs ≤ dur)
      modLearn j (fun l => { l with
        restAt := none, restOver := if whole then some idx else l.restOver
        longRest := l.longRest || (!whole && decide (600 * secNs < dur)) }) s

/-! ### String samples -/

/-- What a string's current at a sample index means for its grades, the loss test, learning and balancing. -/
def stringJudged (idx j : Nat) (prev : Option Int) (i : Int) (s : State) : State :=
  let s := stringHeat j i s
  let s := if canLose s j && lossSeen s prev (some i) then loseString j s else s
  balSample j i (learnSample j idx i s)

/-- What the firmware makes of a string's new sample: its join's dwell, heat, loss, learning, and a waiting G3. -/
def stringFirmware (s : State) (j : Nat) : State :=
  if !podUp s then s
  else
    let x := strSample s j
    let s := joinSample j (modSample j (fun x => { x with fwIdx := some x.sidx }) s)
    match x.current with
    | none => s
    | some i => g3Check j (stringJudged x.sidx j x.prev i s)

/-- Strings whose sample is newer than before. -/
def freshStrings (before s : State) : List Nat :=
  allStrings.filter fun j => (strSample before j).sidx != (strSample s j).sidx

/-- The firmware part of a step of the sequencer that may have brought string samples. -/
def afterStrings (before s : State) : State := (freshStrings before s).foldl stringFirmware s

/-! ### Auxiliary readings (R244, R247) -/

/-- A voltage test with the SEQ values of a sequence. -/
def testWith (par : SMap Int) (kp kn : Int) : Option Nat :=
  voltageTest (keptN par pSeqWeldVmin * 1000) (keptN par pSeqWeldV * 1000) kp kn

/-- A skipped test is counted. -/
def countSkip (s : State) : State := withChn s fun c => { c with weldSkips := inc32 c.weldSkips }

/-- A reading on a string being joined: taken open it is tested before KN; after KP it confirms the join. -/
def joinReading (j : Nat) (kp kn : Int) (k : Join) (s : State) : State :=
  if k.knAt.isSome then
    let v := keptN k.par pSeqWeldV * 1000
    if k.kpAt.isSome && decide (kp.natAbs ≤ v) && decide (kn.natAbs ≤ v) then confirmJoin j s else s
  else if !stringOff s j then s
  else
    let first := !(strOf s j).auxFresh
    let s := modStr j (fun x => { x with auxFresh := true }) s
    match testWith k.par kp kn with
    | none => if first then countSkip s else s
    | some 0 => s
    | some r => endJoin j 0x22 (markWeld r j s)

/-- One of the three readings after an opening: the same contactor found in every one that was not skipped is suspect. -/
def openReading (j : Nat) (kp kn : Int) (s : State) : State :=
  let t := testWith s.seq.openPar kp kn
  let s := if t.isNone then countSkip s else s
  let s := modStr j (fun x => { x with vTests := x.vTests - 1, vFound := x.vFound ++ t.toList }) s
  let k := strOf s j
  if k.vTests != 0 then s
  else
    let r := k.vFound.headD 0
    let s := if r != 0 && k.vFound.all (· == r) then markWeld r j s else s
    openStringsDone (openingDone j s)

/-- What the firmware makes of a READ_SS_AUX reading. -/
def auxFirmware (s : State) (j : Nat) : State :=
  if !podUp s then s
  else
    match (strSample s j).vkp, (strSample s j).vkn with
    | some kp, some kn =>
      let s := if decide (0 < (strOf s j).vTests) && stringOff s j then openReading j kp kn s else s
      match joinOf s j with
      | some k => joinReading j kp kn k s
      | none => s
    | _, _ => s

/-- An alarm source read from a string-sense node shows the fuse open (R222). -/
def statusFirmware (s : State) (a : Nat) : State :=
  let n := nodeOf s a
  if n.type != 2 || !bit n.alarm.toNat 29 then s
  else
    match copyString s a with
    | none => s
    | some j =>
      let s := modSample j (fun x => { x with fuseOpen := true }) s
      if podUp s && canLose s j then loseString j s else s

/-! ### Scans (R92, R217) -/

/-- What was held of a past instant is decided as at that instant: dwells and rests run by the times of their samples (R221). -/
def atTime (t : Nat) (f : State → State) (s : State) : State := { f { s with phys := t } with phys := s.phys }

/-- A cell's reading of a held scan as a level: its primary value, none where it is not available. -/
def cellReading (k : ScanRec) (c : Nat) : Option Int :=
  let x := cellIn k c
  if x.sidx = k.idx ∧ !bit x.qual.toNat 0 then some (x.volt : Int) else none

/-- The four voltage conditions of a cell; those of G3 where its node is mapped to a string. -/
def cellConds (k : ScanRec) (s : State) (c : Nat) : State :=
  let r := cellReading k c
  let hyst : Int := (p0 s pPrtCvHyst * 10 : Nat)
  let d1 := p0 s pPrtCvDwell1 * 10 * msNs
  let d2 := p0 s pPrtCvDwell2 * 10 * msNs
  let hi (id : Nat) := r.map fun x => aboveReading x (pv s id 0) hyst
  let lo (id : Nat) := r.map fun x => belowReading x (pv s id 0) hyst
  let j := cellString s c
  let s := levelCond .cvlo1 c (j.getD 0) d1 (lo pPrtCvLo1) (levelCond .cvhi1 c (j.getD 0) d1 (hi pPrtCvHi1) s)
  match j with
  | none => s
  | some j => levelCond .cvlo2 c j d2 (lo pPrtCvLo2) (levelCond .cvhi2 c j d2 (hi pPrtCvHi2) s)

/-- Cell-surface inputs of a string's nodes. -/
def stringSurface (s : State) (j : Nat) : List Nat := (cellNodes s j).flatMap fun a => surfaceOf s a 0xFF

/-- The temperature conditions of a string. -/
def tempConds (s : State) (j : Nat) : State :=
  let hyst : Int := (p0 s pPrtTHyst : Nat)
  let d := p0 s pPrtTDwell * 10 * msNs
  let t := tLimOf ((stringCells s j).flatMap (cellTemps s))
  let low := (((stringSurface s j).map (policyTemp s)).filter (· != hottest)).foldl (fun m v => some (min v (m.getD v))) (none : Option Int)
  let s := levelCond .cthi1 j j d (t.map fun x => aboveReading x (pv s pPrtCtHi1 0) hyst) s
  let s := levelCond .cthi2 j j d (t.map fun x => aboveReading x (pv s pPrtCtHi2 0) hyst) s
  levelCond .ctlo j j d (low.map fun x => belowReading x (pv s pPrtCtLoChg 0) hyst) s

/-- IMPL1 and IMPL2 of a string. -/
def implConds (k : ScanRec) (s : State) (j : Nat) : State :=
  let n := ((stringCells s j).filter fun c => bit (cellIn k c).qual.toNat 5).length
  let s := plainCond .impl1 j j false (decide (1 ≤ n)) s
  plainCond .impl2 j j false (decide (p0 s pPrtImplMax ≤ n)) s

/-- Residual of the sum comparison, mV; none where it is skipped (Table 03.6): a current substituted for one that is NA does not
enter it. -/
def sumResidual (s : State) (k : ScanRec) (j : Nat) : Option Rat :=
  let cells := stringCells s j
  let ok (c : Nat) : Bool := (cellIn k c).sidx == k.idx && (cellIn k c).qual.toNat &&& 9 == 0
  match mget (none, none) k.strs j with
  | (some i, some v) =>
    if cells.isEmpty || absentNode s j || !cells.all ok then none
    else
      let sum : Nat := (cells.map fun c => (cellIn k c).volt).sum
      some ((v : Rat) - ((sum : Rat) / 10 - (i : Rat) * (pn s pAcqSumRpath j : Nat) / 1000000))
  | _ => none

/-- The sum comparison of a string; its event carries the residual as a signed 32-bit code in mV (R6, R94). -/
def sumCompare (k : ScanRec) (s : State) (j : Nat) : State :=
  match sumResidual s k j with
  | none => s
  | some r =>
    let x := strSample s j
    let fails := decide (((p0 s pAcqSumTol : Nat) : Rat) < ratAbs r)
    let st := plausStep (p0 s pAcqSumN) (p0 s pAcqPlausClearN) fails (x.sumFail, x.sumPass, x.sumFault)
    let s := modSample j (fun x => { x with sumFail := st.1, sumPass := st.2.1, sumFault := st.2.2, sumRes := ratRound r }) s
    let s := if st.2.2 && !x.sumFault then post .sumFault 4 j (BitVec.ofNat 8 j :: le 4 (signedCode (ratRound r))) s else s
    plainCond .sum j j false st.2.2 s

/-- A held scan is evaluated: its cells' conditions, and each string's. -/
def scanJudge (k : ScanRec) (s : State) : State :=
  let cells := (nodesOfType s 1).flatMap fun a => (cellsOfNode a).filter (populated s)
  let s := cells.foldl (cellConds k) s
  (knownStrings s).foldl (fun s j => sumCompare k (implConds k (tempConds s j) j) j) s

/-- The same at its own time, where it is not the newest. -/
def scanAt (s : State) (k : ScanRec) : State :=
  if k.idx = s.chn.scanSidx then scanJudge k s else atTime (physOf s k.idx) (scanJudge k) s

/-- The held scans are evaluated, once each, in the order of their sample indices. -/
def scanEval (s : State) : State :=
  if !podUp s then s else s.chn.evalDue.foldl scanAt (withChn s fun c => { c with evalDue := [] })

/-- Those of them that come before a sample index. -/
def scanEvalTo (idx : Nat) (s : State) : State :=
  let old (k : ScanRec) : Bool := k.idx != idx && idxGe idx k.idx
  (s.chn.evalDue.filter old).foldl scanAt (withChn s fun c => { c with evalDue := c.evalDue.filter (!old ·) })

/-- Every fragment of the scan is launched and answered, tried or given up: the scan is held. -/
def closeIfHeld (s : State) : State :=
  if s.chn.frags ≤ s.chn.fragsOut ∧ s.chn.pend.all (·.opc != 0x20) then closeScan s else s

/-! ### Chain cycles (R92, R154, R218, R219) -/

/-- What the chain cycle under way has brought so far. -/
def cycleNow (s : State) (idx : Nat) : CycleRec :=
  let own := s.chn.strings.filter fun e => e.2.sidx = idx
  { idx, strs := own.map fun e => (e.1, e.2.current, e.2.prev)
    seen := (own.filter fun e => e.2.fwIdx = some idx).map (·.1)
    done := s.chn.cycDone == some idx, bus := s.met.strobes.find? (·.idx = idx) }

/-- A string's current in a chain cycle. -/
def cycleCur (k : CycleRec) (j : Nat) : Option Int := (mget (none, none) k.strs j).1

/-- A current that stands in for a string's at a sample index enters the interval it belongs to (R151, R154); `sub` where it is
measured, so that it stands at the strobe itself as well. -/
def bookCurrent (idx j : Nat) (i : Int) (sub : Bool) (s : State) : State :=
  let s := modSample j (fun x => { x with sumL := x.sumL + i, cntL := x.cntL + 1 }) s
  let add (k : ScanRec) : ScanRec :=
    let q := mget (0, 0) k.sums j
    { k with sums := mput k.sums j (q.1 + i, q.2 + 1), subs := if sub && k.idx == idx then mput k.subs j i else k.subs }
  match s.est.scanDue.find? fun k => idxGe k.idx idx with
  | some k =>
    withEst (modSample j (fun x => { x with sumS := x.sumS + i, cntS := x.cntS + 1 }) s) fun e =>
      { e with scanDue := e.scanDue.map fun m => if m.idx = k.idx then add m else m }
  | none =>
    if !s.chn.inserted && !s.chn.scanHeld && idxGe s.chn.scanSidx idx then
      modSample j (fun x => { x with
        sumS := x.sumS + i, cntS := x.cntS + 1, intI := x.intI + i, intN := x.intN + 1
        scanSub := if sub && s.chn.scanSidx == idx then some i else x.scanSub }) s
    else modSample j (fun x => { x with sumI := x.sumI + i, cntI := x.cntI + 1 }) s

/-- A string's current is not available in a cycle: the difference of the block current and the other strings', or the last
valid one (R154); either enters the string's learning cycle (R178). -/
def substitute (k : CycleRec) (s : State) : State :=
  let out := (knownStrings s).filter fun j => (mfind k.strs j).any (·.1.isNone)
  let inS := (serviceList s).filter fun j => (cycleCur k j).isNone
  out.foldl (fun s j =>
    match inS == [j] && !s.chn.isumFault, k.bus.bind (·.cur) with
    | true, some i =>
      let rest := (allStrings.filter fun m => m != j).map fun m => (cycleCur k m).getD 0
      let x := i - rest.sum
      learnSample j k.idx x (bookCurrent k.idx j x true s)
    | _, _ =>
      let x := (strSample s j).lastI
      learnSample j k.idx x (bookCurrent k.idx j x false (modSample j (fun y => { y with predI := true }) s))) s

/-- The current-sum comparison, and the two conditions it feeds; its event carries the residual as a signed 32-bit code in mA
(R6, R94). -/
def isumCompare (k : CycleRec) (s : State) : State :=
  let strs := allStrings.filter fun j => !(senseNodes s j).isEmpty
  let s := match p0 s pAcqIsumEnable == 1 && !strs.isEmpty, strs.mapM (cycleCur k), k.bus.bind (·.cur) with
    | true, some is, some i =>
      let r := is.sum - i
      let fails := decide (p0 s pAcqIsumTol < r.natAbs)
      let st := plausStep (p0 s pAcqIsumN) (p0 s pAcqPlausClearN) fails (s.chn.isumFail, s.chn.isumPass, s.chn.isumFault)
      let fresh := st.2.2 && !s.chn.isumFault
      let s := withChn s fun c => { c with
        isumFail := st.1, isumPass := st.2.1, isumFault := st.2.2, isumRes := r, isumAt := running s st.2.2 c.isumAt }
      if fresh then post .isumFault 0xFF 0 (le 4 (signedCode r)) s else s
    | _, _, _ => s
  let s := plainCond .isum1 0 0 false s.chn.isumFault s
  plainCond .isum2 0 0 false (s.chn.isumFault && passed s s.chn.isumAt (p0 s pPrtIsumEscT * secNs)) s

/-- A G2 is not complied with (R218). -/
def notComplied (i : Int) (s : State) : Bool :=
  let t := p0 s pSeqPcsComplyT * msNs
  let lim : Int := (p0 s pPrtSldI * 1000 : Nat)
  (passed s s.prt.chgAt t && decide (i < -lim)) || (passed s s.prt.disAt t && decide (lim < i))

/-- Strings in service that await their confirmation see the block current (R245). -/
def confirmTimes (s : State) : State :=
  let n := (serviceList s).length
  let high := match iNow s with
    | some i => decide (n * p0 s pSeqWeldI * 1000 ≤ i.natAbs)
    | none => false
  (serviceList s).foldl (fun s j =>
    if (strOf s j).confPend then modStr j (fun x => { x with confAt := running s high x.confAt }) s else s) s

/-- A chain cycle's currents are compared, and its block current judged (R92, R218, R219). -/
def cycleJudge (k : CycleRec) (s : State) : State :=
  let s := isumCompare k (substitute k s)
  match k.bus.bind (·.cur) with
  | some i => plainCond .nocomply 0 0 false (notComplied i s) (blockHeat i s)
  | none => s

/-- A chain cycle is evaluated, once. -/
def cycleEval (s : State) : State :=
  let idx := strobeIdx s
  if !podUp s || s.chn.cycDone == some idx then s
  else
    let s := cycleJudge (cycleNow s idx) (withChn s fun c => { c with cycDone := some idx })
    let s := allStrings.foldl (fun s j => g3Settle j (g3Check j s)) (settleRoles (confirmTimes s))
    openStringsDone s

/-- A chain cycle that ended while no firmware ran is kept for it; beyond the depth of memory the oldest is overwritten (R92,
R221). -/
def keepCycle (s : State) : State :=
  match s.chn.cycIdx with
  | none => s
  | some n =>
    let k := cycleNow s ((n + 4) % 2 ^ 32)
    if podUp s || (k.done && k.strs.all fun e => decide (e.1 ∈ k.seen)) then s
    else withChn s fun c => { c with missed := (c.missed ++ [k]).drop (c.missed.length + 1 - cycleDepth) }

/-- What a missed chain cycle brought is decided, as at its time. -/
def replayCycle (k : CycleRec) (s : State) : State :=
  let s := (k.strs.filter fun e => !decide (e.1 ∈ k.seen)).foldl (fun s e =>
    match e.2.1 with
    | some i => stringJudged k.idx e.1 e.2.2 i s
    | none => s) s
  if k.done then s else cycleJudge k s

/-! ### Limit cycles (R156, R157, R242, R511) -/

/-- NODATA1 and NODATA2 of a cell (R157, Table 07.7). -/
def dataConds (j : Nat) (s : State) (c : Nat) : State :=
  let last := ((mfind s.est.cells c).bind (·.updated)).getD s.est.startAt
  let age := s.phys - last
  let s := plainCond .nodata1 c j false (!isLost s j && decide (p0 s pEstPredMaxT * secNs < age)) s
  plainCond .nodata2 c j false (!isLost s j && decide (p0 s pPrtNodataT2 * secNs < age)) s

/-- Temperatures of a string's cells in its learning cycle: T_mod within 15 to 35 °C, spread at most 8 K (Table 05.9). -/
def learnTemps (s : State) (j : Nat) : State :=
  let ts := (stringCells s j).filterMap fun c => (mfind s.est.cells c).map (·.tMod)
  match ts with
  | [] => s
  | t :: rest =>
    let lo := rest.foldl ratMin t
    let hi := rest.foldl ratMax t
    modLearn j (fun l => { l with
      badTemp := l.badTemp || decide (lo < 1500) || decide (3500 < hi), badSpread := l.badSpread || decide (800 < hi - lo) }) s

/-- A join past KN whose string is lost, or violates a limit, ends (R242). -/
def guardJoin (s : State) (j : Nat) : State :=
  if (joinOf s j).any (·.knAt.isSome) && (isLost s j || violates s j) then abortJoin j 0x13 s else s

/-- The joins of a limit cycle: those in progress guarded, the queued ones judged, and KN where one is due. -/
def joinCycle (s : State) : State :=
  let strs := s.seq.joins.map (·.str)
  let s := strs.foldl guardJoin s
  let s := strs.foldl (fun s j => dwellEnds j (judgeJoin j s)) s
  closeGoesOn (tryKn s)

/-- The limit cycle: an accepted restore, one set and its notices, and what is judged on the set. -/
def limitWork (s : State) : State :=
  if !podUp s then s
  else
    let s := lossTest (noticeSet (publish (enterService (applyRestore s))))
    let strs := knownStrings s
    let s := strs.foldl (fun s j => balanceCycle (learnTemps ((stringCells s j).foldl (dataConds j) s) j) j) s
    joinCycle s

/-- What a Pod restart left to be done when mailbox service resumes: chain cycles and scans held in memory in the order of their
sample indices, what the cycle under way has brought, the filter passes that are due, and a set (R92, R158, R221). -/
def resumeWork (s : State) : State :=
  if !podUp s then s
  else
    let missed := s.chn.missed
    let s := missed.foldl (fun s k => atTime (physOf s k.idx) (replayCycle k) (scanEvalTo k.idx s))
      (withChn s fun c => { c with missed := [] })
    let now := cycleNow s (strobeIdx s)
    let s := (now.strs.filter fun e => !decide (e.1 ∈ now.seen)).foldl (fun s e => stringFirmware s e.1) s
    limitWork (filterPass (scanEval (cycleEval s)))

end Sys2Proof.Machine
end

