-- ==== Sys2Proof/Machine/Chain.lean ====
section
/-!
DEFINITION. The commands and events of the chain rings and of acquisition (chapters 2 and 3), and the chain's mailbox
commands (R439).
-/
namespace Sys2Proof.Machine
open Sys2Proof

/-! ### Service of the rings -/

/-- Every served ring in order. -/
def onServed (f : State → Nat → State) (s : State) : State := (servedRings s).foldl f s

/-- Rings enabled and not yet powered, in ring order. -/
def unpoweredRings (s : State) : List Nat :=
  allRings.filter fun r => bit (p0 s pChnRingEnable) r && !bit s.pow.rails.toNat (7 + r)

/-- The next ring may be powered: VHV is in its window for 2 ms, or a ring powered 5 ms before (R380, R382). -/
def ringPowerDue (s : State) : Bool :=
  bit s.pow.rails.toNat 6 && decide ((if s.pow.rails &&& 0x7F80 = 0 then 2 * msNs else 5 * msNs) ≤ since s s.pow.railAt)

/-- RING_POWER_UP (R382): the next enabled ring is powered and enumerated. -/
def execRingPowerUp (dt ring : Nat) (run : EnumRun) (s : State) : Out :=
  let s := advance dt s
  if (s.pow.phase == .late || s.pow.phase == .normal) && (unpoweredRings s).head? == some ring && ringPowerDue s then
    .next (enumerate ring run { s with pow := { s.pow with
      rails := s.pow.rails ||| BitVec.ofNat 16 (2 ^ (7 + ring)), railAt := s.phys } })
  else .next s

/-- ENUMERATION_REPLY_TIMEOUT (R59, R60): end B has no carrier within 1 ms of the search's end and the ring is open; the
missing WAKE reply only ends the search. -/
def execEnumerationReplyTimeout (dt ring : Nat) (closing : Bool) (s : State) : Out :=
  let s := advance dt s
  if closing && (ringAt s ring).service == .enumerating then .next (failRing false true ring s) else .next s

/-- RING_SERVICE_LOSS (R61): a ring without service for 500 ms is enumerated again. -/
def execRingServiceLoss (dt ring : Nat) (run : EnumRun) (s : State) : Out :=
  let s := advance dt s
  let g := ringAt s ring
  if sequencing s && g.service == .notServed && passed s g.lostAt (500 * msNs) then .next (enumerate ring run s) else .next s

/-- ALARM_TONE_DETECT (R47): a tone at an end of an enabled ring is passed to the Husk, and its source is read next (R68). -/
def execAlarmToneDetect (dt ring : Nat) (_rxEnd : RingEnd) (s : State) : Out :=
  let s := advance dt s
  if bit (p0 s pChnRingEnable) ring && decide (ring < 8) then
    .next (assertSource 4 0 (modRing ring (fun g => { g with tone := true }) s))
  else .next s

/-- CARRIER_LOSS (R48, R75): a ring end without carrier leaves the whole ring to the other end. -/
def execCarrierLoss (dt ring : Nat) (rxEnd : RingEnd) (s : State) : Out :=
  let s := advance dt s
  if ringServed s ring then .next (endLost ring rxEnd s) else .next s

/-- BREAK_NOTICE_RECEIVE (R74): the ring is split at the sender. An enumeration it falls into fails (R439). -/
def execBreakNoticeReceive (dt ring : Nat) (_rxEnd : RingEnd) (hop : Nat) (lostB : Bool) (s : State) : Out :=
  let s := advance dt s
  if ringServed s ring then .next (breakNotice ring hop lostB s)
  else if (ringAt s ring).service == .enumerating then .next (failRing false true ring s)
  else .next s

/-- CARRIER_RETURN (R77): carrier is back on both sides of the break. -/
def execCarrierReturn (dt ring : Nat) (s : State) : Out :=
  let s := advance dt s
  if (ringAt s ring).service == .wrapped then .next (modRing ring (fun g => { g with cleanAt := some s.phys }) s) else .next s

/-- WRAP_RESTORE (R77): 10 s of clean carrier restore the ring where CHN.WRAP_RESTORE is 1. -/
def execWrapRestore (dt ring : Nat) (s : State) : Out :=
  let s := advance dt s
  let g := ringAt s ring
  if g.service == .wrapped && p0 s pChnWrapRestore == 1 && passed s g.cleanAt (10 * secNs) then .next (orderRestore ring s)
  else .next s

/-! ### The chain cycle (R68 to R73) -/

/-- What the TC0 slot of a ring sends: a bleed hold or its release, and ALARM_ACK (R68, R102). ALARM_ACK may go as a broadcast
or addressed to a node (Table 02.5), and R68 does not say which: the ring is sent a broadcast (DESIGN CHOICE, log 83). -/
def slotRing (s : State) (r : Nat) : State :=
  let g := ringAt s r
  let s := match g.holdDue with
    | some true => setBleed false r (broadcast 0x11 [] false s r)
    | _ => s
  let s := if g.ackDue then broadcast 0x31 [] true s r else s
  modRing r (fun g => { g with hold := g.holdDue.getD g.hold, holdDue := none, ackDue := false }) s

/-- The chain cycle that begins at a sample index: its number and place in the scan, and whether it carries a cell strobe (R29,
R72, R84). -/
def nextCycle (idx : Nat) (c : Chain) : Chain :=
  let c := if c.started then { c with
      cycle := (c.cycle + 1) % 32768, hundred := (c.hundred + 1) % 100, phase := (c.phase + 1) % c.period, since := c.since + 1 }
    else { c with started := true, cycle := 0, hundred := 0, phase := 0, scanHeld := true }
  { c with
    cellNow := c.phase == 0 || c.insertAt == some c.cycle
    insertAt := if c.insertAt == some c.cycle then none else c.insertAt
    tempDue := c.tempDue || c.hundred == 0
    cycIdx := some idx, strobed := false, offOut := false, onOut := false, strOut := false }

/-- Frames due at the start of a chain cycle: those of the TC0 slot, then LOOP_CLR in a cycle without a cell strobe (R77), then
thresholds and schedules that changed (R72, R97). -/
def cycleFrames (s : State) : State :=
  let s := onServed slotRing s
  let s := if s.chn.cellNow then s
    else (allRings.filter fun r => (ringAt s r).restoreDue).foldl (fun s r => clearLoops r s) s
  let s := if s.chn.alarmDue then onServed (broadcast 0x30 (alarmWords s) true) (withChn s fun c => { c with alarmDue := false }) else s
  if s.chn.scanDue then onServed (broadcast 0x14 (scanWords s) true) (withChn s fun c => { c with scanDue := false }) else s

/-- ACQ.HLT parameters that apply from a scan boundary, and from the next chain cycle (Table 03.11). -/
def scanKeys : List Nat := [pAcqHltVHi, pAcqHltVLo, pAcqHltTHi, pAcqHltTLo]
def cycleKeys : List Nat := [pAcqHltIChg, pAcqHltIDis]

/-- The sequencer takes over the applied values of limit parameters (R100). -/
def takeLimits (ids : List Nat) (s : State) : State :=
  withChn s fun c => { c with
    hltPar := (s.par.applied.filter fun e => decide (e.1 / 65536 ∈ ids)).foldl (fun m e => mput m e.1 e.2)
      (c.hltPar.filter fun e => !decide (e.1 / 65536 ∈ ids)) }

/-- A chain cycle begins at the sampling instant under way: its index is a multiple of 32 (R27, R29). -/
def cycleDue (s : State) : Bool :=
  sequencing s && s.met.begun && s.met.sidx % 32 == 0 && s.chn.cycIdx != some s.met.sidx

/-- CHAIN_CYCLE_START (R29, R68): what the cycle before left unanswered is tried again or given up, the cycle's number
advances, and the TC0 slot opens. -/
def execChainCycleStart (dt : Nat) (s : State) : Out :=
  let s := advance dt s
  if !cycleDue s then .next s
  else
    let t := sweep none s
    let t := keepCycle (closeIfHeld (afterStrings s t))
    let t := (mkeys t.chn.nodes).foldl noteReach
      (withChn t fun c => nextCycle t.met.sidx { c with rings := mmap (fun _ g => judgeDrift g) c.rings })
    .next (cycleFrames (takeLimits cycleKeys t))

/-- SCAN_RATE_ANCHOR (R72): from the anchor on, the new rate and its F apply. -/
def execScanRateAnchor (dt : Nat) (s : State) : Out :=
  let s := advance dt s
  match s.chn.pending with
  | none => .next s
  | some (p, a) =>
    let d := (s.chn.cycle + 32768 - a) % 32768
    if s.chn.started && decide (d < 16384) then
      .next (withChn s fun c => { c with
        period := p, anchor := a, frags := if p < 10 then 3 else 2, phase := d % p, pending := none })
    else .next s

/-- Charge bled from each cell since the last regular strobe: what is booked and belongs to no scan still due (R151). -/
def bledNow (s : State) : SMap Rat :=
  s.est.cells.map fun e => (e.1, e.2.qb - (s.est.scanDue.map fun k => mget 0 k.bled e.1).sum)

/-- A cell strobe: the scan before it is closed, and a new one begins. A regular one ends the interval of the filter, and limit
values apply from it (R100, R151). -/
def beginScan (s : State) : State :=
  let s := closeScan s
  let idx := strobeIdx s
  let ins := s.chn.phase != 0
  let s := withChn s fun c => { c with
    prevSidx := c.scanSidx, scanSidx := idx, inserted := ins, fragsOut := 0, scanHeld := false, since := 0
    strings := mmap (fun _ x => { x with scanI := none, scanV := none, scanSub := none, intI := 0, intN := 0 }) c.strings }
  if ins then s
  else
    let s := allRings.foldl (fun s r => bookRing r s) s
    takeLimits scanKeys (withChn s fun c => { c with scanBled := bledNow s })

/-- The strobe word (Table 02.5). -/
def strobeWord (c : Chain) : BitVec 16 := BitVec.ofNat 16 (b2n c.cellNow * 32768 + c.cycle)

/-- The strobe of the chain cycle under way is due: its frame leaves 30 µs before the instant whose index is 4 mod 32 (R29,
R71). -/
def strobeDue (s : State) : Bool := sequencing s && s.chn.started && s.met.sidx % 32 == 3 && !s.chn.strobed

/-- STROBE_LAUNCH (R71): with CELL set in a scan cycle. -/
def execStrobeLaunch (dt : Nat) (s : State) : Out :=
  let s := advance dt s
  if !strobeDue s then .next s
  else
    let s := withChn (if s.chn.cellNow then beginScan s else s) fun c => { c with strobed := true }
    .next (onServed (broadcast 0x10 [strobeWord s.chn] false) s)

/-- The next chain cycle carries a cell strobe. -/
def strobeNext (c : Chain) : Bool := regularIn c 1 || c.insertAt == some ((c.cycle + 1) % 32768)

/-- A frame's direction and tag, by which its train is known. -/
def trainsFrom (n : Nat) (s : State) : List (Bool × Nat) := (s.chn.frames.drop n).map fun f => (f.dir, f.tag)

/-- BLEED_OFF on a ring, whose trains are awaited at the ends that receive them. -/
def bleedOff (s : State) (r : Nat) : State :=
  let t := broadcast 0x11 [] false (setBleed false r s) r
  modRing r (fun g => { g with offWait := trainsFrom s.chn.frames.length t, offAgain := false }) t

/-- BLEED_OFF_BROADCAST (R73): 200 µs before a cell strobe. -/
def execBleedOffBroadcast (dt : Nat) (s : State) : Out :=
  let s := advance dt s
  if sequencing s && s.chn.started && strobeNext s.chn && !s.chn.offOut then
    .next (onServed bleedOff (withChn s fun c => { c with offOut := true }))
  else .next s

/-- BLEED_OFF_REPEAT (R73): once more, from each end whose train did not arrive intact. -/
def execBleedOffRepeat (dt ring : Nat) (s : State) : Out :=
  let s := advance dt s
  let g := ringAt s ring
  if sequencing s && s.chn.started && strobeNext s.chn && ringServed s ring && !g.offAgain && !g.offWait.isEmpty then
    let t := ((commandEnds g).filter fun e => g.offWait.any (·.1 == e.1)).foldl (fun s e => launch ring e.1 true e.2 0x11 [] s) s
    .next (modRing ring (fun g => { g with offWait := trainsFrom s.chn.frames.length t, offAgain := true }) t)
  else .next s

/-- BLEED_ON_BROADCAST (R73, R102): once after a cell strobe, but on rings whose bleed is held. -/
def execBleedOnBroadcast (dt : Nat) (s : State) : Out :=
  let s := advance dt s
  if sequencing s && s.chn.strobed && s.chn.cellNow && !s.chn.onOut then
    .next (onServed (fun s r => if (ringAt s r).hold then s else setBleed true r (broadcast 0x12 [] false s r))
      (withChn s fun c => { c with onOut := true }))
  else .next s

/-! ### Reads (R70, R83, R84, R93) -/

/-- Nodes of a type that are not served, or have failed. -/
def deadNodes (s : State) (ty : Nat) : List Nat := (nodesOfType s ty).filter fun a => !nodeLive s a

/-- READ_STRING_LAUNCH (R71, R83): once after every strobe, from both ends of every ring; nodes out of service read as not
available. -/
def execReadStringLaunch (dt : Nat) (s : State) : Out :=
  let s := advance dt s
  if !sequencing s || !s.chn.strobed || s.chn.strOut then .next s
  else
    let idx := strobeIdx s
    let s := withChn s fun c => { c with strOut := true }
    let out := deadNodes s 2
    let t := out.foldl (fun s a => naString a idx s) s
    let t := if out.isEmpty then t else hltFollow idx [7] t
    .next (onServed (broadcastRead 0x21 [] idx) (afterStrings s t))

/-- The fragment word (Table 02.5, R70). -/
def fragmentWord (frags k : Nat) : BitVec 16 := let n := 18 / frags; BitVec.ofNat 16 (k * n * 256 + n)

/-- A fragment belongs to the chain cycle under way: fragment 0 to the cell strobe's own, the others to the next (R70). -/
def fragmentDue (c : Chain) (k : Nat) : Bool :=
  c.started && !c.scanHeld && decide (c.fragsOut < c.frags) && k == c.fragsOut
  && (if k = 0 then c.since == 0 && c.strobed else c.since == 1)

/-- CELL_FRAGMENT_LAUNCH (R70): the fragments of a scan in their order and their chain cycles. -/
def execCellFragmentLaunch (dt fragment : Nat) (s : State) : Out :=
  let s := advance dt s
  let c := s.chn
  if sequencing s && fragmentDue c fragment then
    let s := onServed (broadcastRead 0x20 [fragmentWord c.frags fragment] c.scanSidx) s
    .next (closeIfHeld (withChn s fun c => { c with fragsOut := c.fragsOut + 1 }))
  else .next s

/-- READ_TEMPS_LAUNCH (R84): due every 100 chain cycles, in a cycle that carries no cell fragment. -/
def execReadTempsLaunch (dt : Nat) (s : State) : Out :=
  let s := advance dt s
  if sequencing s && s.chn.started && s.chn.tempDue && !s.chn.cellNow && s.chn.since != 1 then
    let idx := strobeIdx s
    let out := (mkeys s.chn.nodes).filter fun a => !nodeLive s a
    let s := out.foldl (fun s a => naTemps a idx s) s
    let s := if out.isEmpty then s else hltFollow idx [2, 3, 4, 7] s
    .next (onServed (broadcastRead 0x22 [] idx) (withChn s fun c => { c with tempDue := false }))
  else .next s

/-- A read of `rate` Hz is due. -/
def rateDue (s : State) (last : Option Nat) (rate : Nat) : Bool :=
  match last with
  | none => true
  | some t => decide (secNs ≤ since s t * rate)

/-- READ_COARSE_LAUNCH (R83, R93): at ACQ.COARSE_RATE a broadcast; once for every scan, in the chain cycle after its fragments,
each node of an implausible cell alone. -/
def execReadCoarseLaunch (dt : Nat) (s : State) : Out :=
  let s := advance dt s
  let idx := s.chn.scanSidx
  if !sequencing s || !s.chn.started then .next s
  else if rateDue s s.chn.coarseAt (p0 s pAcqCoarseRate) then
    .next (onServed (broadcastRead 0x23 [] idx) (withChn s fun c => { c with coarseAt := some s.phys }))
  else if s.chn.since = 2 ∧ s.chn.coarseIdx ≠ some idx then
    let nodes := (nodesOfType s 1).filter fun a => nodeLive s a && underCoarse s a
    .next (nodes.foldl (fun s a => addressed 0x23 [] idx a s) (withChn s fun c => { c with coarseIdx := some idx }))
  else .next s

/-- READ_SS_AUX_LAUNCH (R83): at ACQ.SSAUX_RATE. -/
def execReadSsAuxLaunch (dt : Nat) (s : State) : Out :=
  let s := advance dt s
  if sequencing s && s.chn.started && rateDue s s.chn.auxAt (p0 s pAcqSsauxRate) then
    .next (onServed (broadcastRead 0x25 [] (strobeIdx s))
      ((deadNodes s 2).foldl (fun s a => naAux a s) (withChn s fun c => { c with auxAt := some s.phys })))
  else .next s

/-- READ_STATUS_LAUNCH (R68, R83): of rings with an alarm tone at once, else once a second of every ring. -/
def execReadStatusLaunch (dt : Nat) (s : State) : Out :=
  let s := advance dt s
  let toned := (servedRings s).filter fun r => (ringAt s r).tone
  if !sequencing s || !s.chn.started then .next s
  else if !toned.isEmpty then .next (toned.foldl (broadcastRead 0x24 [] (strobeIdx s)) s)
  else if rateDue s s.chn.statAt 1 then
    .next (onServed (broadcastRead 0x24 [] (strobeIdx s)) (withChn s fun c => { c with statAt := some s.phys }))
  else .next s

/-- The node of a ring that CAL_RUN goes to next, its step number, and whether a round begins with it: in hop order, a round
once per CHN.CAL_PERIOD (R80). -/
def calNext (s : State) (ring : Nat) : Option (Nat × Nat × Bool) :=
  let g := ringAt s ring
  let nodes := (ringNodes s ring).filter (nodeLive s)
  match nodes.find? fun a => decide (g.calHop ≤ hopOf a), nodes with
  | some a, _ => some (a, g.calStep, g.calAt.isNone)
  | none, a :: _ => if passed s g.calAt (p0 s pChnCalPeriod * secNs) then some (a, (g.calStep + 1) % 65536, true) else none
  | none, [] => none

/-- CAL_RUN_ISSUE (R80): one node of a ring at a time; a cell node after BLEED_ON, a string-sense node after READ_STRING. -/
def execCalRunIssue (dt ring : Nat) (s : State) : Out :=
  let s := advance dt s
  let busy := s.chn.pend.any fun p => p.ring == ring && p.opc == 0x38
  match calNext s ring with
  | none => .next s
  | some (a, k, fresh) =>
    if sequencing s && !busy && (if (nodeOf s a).type = 1 then s.chn.onOut else s.chn.strOut) then
      .next (modRing ring (fun g => { g with
          calHop := hopOf a + 1, calStep := k, calAt := if fresh then some s.phys else g.calAt })
        (addressed 0x38 [BitVec.ofNat 16 k] 0 a s))
    else .next s

/-! ### Trains -/

/-- Nodes of an answered frame whose segment was accepted. -/
def answered (s : State) (t : Train) : List Nat :=
  match pendOf s t with
  | none => []
  | some p => (expected s p).filter fun a => (goodSegment t a).isSome

/-- What the firmware makes of a train's readings. -/
def trainFirmware (before : State) (t : Train) (s : State) : State :=
  let nodes := answered before t
  match bits t.hdr.toNat 23 16 with
  | 0x20 => closeIfHeld s
  | 0x21 => afterStrings before s
  | 0x24 => nodes.foldl statusFirmware s
  | 0x25 => ((nodes.filterMap (copyString s)).eraseDups).foldl auxFirmware s
  | _ => s

/-- The end that receives a train launched in a direction: the other one, or on a wrapped ring the same (R73, R74). -/
def arrivesAt (g : Ring) (dir : Bool) : RingEnd := if dir = g.wraps then .endB else .endA

/-- A BLEED_OFF train has arrived intact at the end that receives it (R73). -/
def noteOff (t : Train) (s : State) : State :=
  let dir := bit t.hdr.toNat 31
  if bits t.hdr.toNat 23 16 = 0x11 ∧ intactFrame t ∧ t.rxEnd = arrivesAt (ringAt s t.ring) dir then
    modRing t.ring (fun g => { g with offWait := g.offWait.filter (· != (dir, bits t.hdr.toNat 15 6)) }) s
  else s

/-- RESPONSE_TRAIN_RECEIVE (R53, R56, R65, R78, R99). -/
def execResponseTrainReceive (dt : Nat) (train : Train) (s : State) : Out :=
  let s := advance dt s
  if sequencing s && ringServed s train.ring then
    .next (trainFirmware s train (takeTrain train (noteTransit train (noteOff train s))))
  else .next s

/-! ### Mailbox commands (R426, R439) -/

/-- RING_ENUMERATE on one ring. -/
def enumerateItem (key : Nat × Nat) (runs : SMap EnumRun) (s : State) (r : Nat) : State :=
  if !bit (p0 s pChnRingEnable) r then endItem key r 0x10 s
  else if (ringAt s r).service == .unpowered then endItem key r 0x21 s
  else enumerate r (mget { nodes := [], more := false, closed := false, tAB := 0 } runs r) s

/-- RING_ENUMERATE on the site ring (R416). -/
def siteItem (key : Nat × Nat) (s : State) : State :=
  if !s.pod.peerHead then endItem key 8 0x10 s
  else if s.hub.conflict || !portPowered s .P then endItem key 8 0x21 s
  else assignRing s

/-- RING_ENUMERATE (R61, R439). -/
def execRingEnumerate (dt : Nat) (rq : Request) (runs : SMap EnumRun) (s : State) : Out :=
  .next (mailbox 0x4001 dt rq (fun t s =>
    let m := num t.payload 0 2
    let named := setBits 9 m
    let s := openItems t (if bit m 8 then 9 else 8) named (noteReserved m 0x1FF s)
    let s := (named.filter (· < 8)).foldl (enumerateItem (txnKey t) runs) s
    if 8 ∈ named then siteItem (txnKey t) s else s) s)

/-- RING_RESTORE on one ring: ordered where carrier is back on both sides of the break; its item ends when both wrapped nodes
have answered LOOP_CLR, or one has not (R77, R78). -/
def restoreItem (key : Nat × Nat) (s : State) (r : Nat) : State :=
  let g := ringAt s r
  if !bit (p0 s pChnRingEnable) r then endItem key r 0x10 s
  else
    match g.service with
    | .served => endItem key r 0x01 s
    | .wrapped => if g.cleanAt.isSome then orderRestore r s else endItem key r 0x21 s
    | _ => endItem key r 0x21 s

/-- RING_RESTORE (R77, R439). -/
def execRingRestore (dt : Nat) (rq : Request) (s : State) : Out :=
  .next (mailbox 0x4002 dt rq (fun t s =>
    let named := setBits 8 (num t.payload 0 1)
    named.foldl (restoreItem (txnKey t)) (openItems t 8 named s)) s)

/-- A ring's word of CHN_STATUS (Table 15.12). -/
def ringWord (s : State) (r : Nat) : Nat :=
  let g := ringAt s r
  let k := match g.service with
    | .unpowered => 0
    | .enumerating => 1
    | .served => 2
    | .wrapped => 3
    | .notServed => 4
  fld 4 28 k + fld 7 21 g.found + fld 6 15 (if g.service == .wrapped then g.startsB else 0) + fld 1 14 (b2n g.misPop)
  + fld 1 13 (b2n (g.noApt || (ringNodes s r).any fun a => (nodeOf s a).noApt))

/-- CHN_STATUS. -/
def execChnStatus (dt : Nat) (rq : Request) (s : State) : Out :=
  .next (readOp 0x4003 dt rq (fun _ s => words (allRings.map (ringWord s))) s)

/-- BLEED_HOLD (R102, R512): a hold or its release for every ring's next TC0 slot. -/
def execBleedHold (dt : Nat) (rq : Request) (s : State) : Out :=
  .next (mailbox 0x4004 dt rq (fun t s =>
    let b := num t.payload 0 1
    let s := if 1 < b then countClamps 1 s else s
    complete t 0x00 [] (allRings.foldl (fun s r => modRing r (fun g => { g with holdDue := some (b != 0) }) s) s)) s)

/-- CELL_READ. -/
def execCellRead (dt : Nat) (rq : Request) (s : State) : Out :=
  .next (mailbox 0x5001 dt rq (fun t s =>
    let g := rangeOf t (num t.payload 0 2) (num t.payload 2 2) 9216 4 4 s
    let items := (List.range g.2.1).flatMap fun i =>
      let x := cellOf g.2.2 (g.1 + i)
      le 2 x.volt ++ [x.qual, 0]
    complete t 0x00 (le 4 (cellOf g.2.2 g.1).sidx ++ items) g.2.2) s)

/-- An input as TEMP_READ delivers it: code, quality and role. An index of a string-sense node, and an input that is not
configured, read as the code 0x8000 (R12, R96). -/
def tempBytes (s : State) (t : Nat) : Bytes :=
  let x := tempOf s t
  if (nodeOf s (nodeOfTemp t)).type = 2 then le 2 0x8000 ++ [1, 0]
  else if pn s pAcqTempCfg t = 0 then le 2 0x8000 ++ [x.qual, 0]
  else le 2 (code 16 x.code) ++ [x.qual, BitVec.ofNat 8 (pn s pAcqTempCfg t)]

/-- TEMP_READ. -/
def execTempRead (dt : Nat) (rq : Request) (s : State) : Out :=
  .next (mailbox 0x5002 dt rq (fun t s =>
    let g := rangeOf t (num t.payload 0 2) (num t.payload 2 2) 4096 4 4 s
    let items := (List.range g.2.1).flatMap fun i => tempBytes g.2.2 (g.1 + i)
    complete t 0x00 (le 4 (tempOf g.2.2 g.1).sidx ++ items) g.2.2) s)

/-- A string's part of STRING_READ (Table 03.4). -/
def stringBytes (s : State) (j : Nat) : Bytes :=
  let x := strSample s j
  le 4 (currentCode x.current) ++ le 4 (busCode (x.vstr.map fun (v : Nat) => (v : Int)))
  ++ [x.vfuse, x.vkp, x.vkn].flatMap (fun v => le 4 (currentCode v)) ++ [x.qual, 0, 0, 0]

/-- STRING_READ: the named strings that fit the port. -/
def execStringRead (dt : Nat) (rq : Request) (s : State) : Out :=
  .next (mailbox 0x5003 dt rq (fun t s =>
    let strs := setBits 16 (num t.payload 0 2)
    readItems t 24 (le 4 ((strs.head?.map fun j => (strSample s j).sidx).getD 0)) (strs.map (stringBytes s)) s) s)

end Sys2Proof.Machine
end

