-- ==== Sys2Proof/Machine/Sequencing.lean ====
section
/-!
DEFINITION. The commands and events of contactor sequencing, pre-charge and the disconnector (chapter 8).
-/
namespace Sys2Proof.Machine
open Sys2Proof

/-! ### Commands (Table 08.3) -/

/-- What refuses a BLOCK_CLOSE as a whole. -/
def closeRefusal (s : State) : Option Nat :=
  if s.seq.cfgBlk || s.seq.cfgPc || s.seq.cfgDsc then some 0x10
  else if blockBusy s || s.seq.step != .none then some 0x11
  else if latchedAction s (fun a _ => decide (5 ≤ a) && decide (a ≤ 7)) || s.prt.g4 then some 0x11
  else if !safeOk s then some 0x14
  else none

/-- BLOCK_CLOSE begins: the disconnector first, where it is not at END_CLOSED, else the joins (R255). -/
def closeBegin (mask : Nat) (s : State) : State :=
  let s := { s with seq := { s.seq with mask := BitVec.ofNat 16 mask, par := seqPars s } }
  if p0 s pSeqDscMode = 1 ∧ !s.seq.endClosed then
    match dscCloseCheck s with
    | some c => endClose c s
    | none => dscCloseBegin { s with seq := { s.seq with step := .closeDsc } }
  else closeGoesOn (closeJoins s)

/-- BLOCK_CLOSE (R237, R238, R255): mask 0x0000 means every configured string. With the block closed already its part
ends with 0x01 and the strings are handed to the join queue. -/
def execBlockClose (dt : Nat) (rq : Request) (s : State) : Out :=
  .next (mailbox 0xA001 dt rq (fun t s =>
    let s := settleRoles s
    let m := num t.payload 0 2
    let m := if m = 0 then maskOf (allStrings.filter fun j => !bit s.seq.cfgStr.toNat j) else m
    let strs := setBits 16 m
    let s := openItems t 17 (strs ++ [16]) s
    if s.seq.closed then
      let s := strs.foldl (fun s j =>
        if isJoined s j then endItem (txnKey t) j 0x01 s
        else if (joinOf s j).isSome then endItem (txnKey t) j 0x02 (modJoin j (fun k => { k with report := true }) s)
        else
          match joinState s j with
          | some c => endItem (txnKey t) j c s
          | none => requestJoin j true (endItem (txnKey t) j 0x02 s)) s
      endItem (txnKey t) 16 0x01 s
    else
      match closeRefusal s with
      | some c => (strs ++ [16]).foldl (fun s i => endItem (txnKey t) i c s) { s with seq := { s.seq with last := c } }
      | none => closeBegin m s) s)

/-- BLOCK_OPEN (R237, R260): always accepted. -/
def execBlockOpen (dt : Nat) (rq : Request) (s : State) : Out :=
  .next (mailbox 0xA002 dt rq (fun t s =>
    let scope := scopeOf t
    let s := if 2 < num t.payload 0 1 then countClamps 1 s else s
    let s := openItems t 17 ((if scope = 0 then [] else closedStrings s) ++ [16]) s
    blockOpen scope s) s)

/-- STRING_JOIN (R237, R511). -/
def execStringJoin (dt : Nat) (rq : Request) (s : State) : Out :=
  .next (mailbox 0xA003 dt rq (fun t s =>
    let s := settleRoles s
    let strs := setBits 16 (num t.payload 0 2)
    strs.foldl (fun s j =>
      if isJoined s j then endItem (txnKey t) j 0x01 s
      else if (joinOf s j).isSome then endItem (txnKey t) j 0x02 (modJoin j (fun k => { k with report := true }) s)
      else
        match joinState s j with
        | some c => endItem (txnKey t) j c s
        | none => requestJoin j false s) (openItems t 16 strs s)) s)

/-- STRING_OPEN (R237, R260): a reduction is requested first where a string carries more than SEQ.OPEN_I. -/
def execStringOpen (dt : Nat) (rq : Request) (s : State) : Out :=
  .next (mailbox 0xA004 dt rq (fun t s =>
    let strs := setBits 16 (num t.payload 0 2)
    let s := openItems t 16 strs s
    let s := supersede false false strs s
    let toOpen := strs.filter fun j => !stringOff s j
    let s := strs.foldl (fun s j =>
      if stringOff s j && !bit s.seq.openMask.toNat j then endItem (txnKey t) j 0x01 s else s) s
    if toOpen.isEmpty then s
    else
      let s := if s.seq.openMask = 0 then { s with seq := { s.seq with openPar := seqPars s } } else s
      let carries := toOpen.any fun j => decide (keptN s.seq.openPar pSeqOpenI * 1000 < (strCurrent s j).natAbs)
      let s := if carries then sendLimits 0x01 0 (g2Flags s) s else s
      openStrings toOpen s) s)

/-- The one item of a disconnector command, held behind the bytes of the strings, which name none (R238, log 19). -/
def dscItem (t : Txn) (s : State) : State := openItems t 17 [16] s

/-- DSC_CLOSE (R257). -/
def execDscClose (dt : Nat) (rq : Request) (s : State) : Out :=
  .next (mailbox 0xA006 dt rq (fun t s =>
    let s := settleRoles s
    let s := dscItem t s
    let busy := blockBusy s || s.seq.step != .none
    let refusal := if p0 s pSeqDscMode = 0 ∨ s.seq.cfgDsc then some 0x10 else if busy then some 0x11 else dscCloseCheck s
    match refusal with
    | some c => endItem (txnKey t) 16 c { s with seq := { s.seq with last := c } }
    | none => dscCloseBegin { s with seq := { s.seq with par := seqPars s } }) s)

/-- DSC_OPEN (R258, R259): MP and MN off; with END_OPEN active already it is reached at once. -/
def execDscOpen (dt : Nat) (rq : Request) (s : State) : Out :=
  .next (mailbox 0xA007 dt rq (fun t s =>
    let s := dscItem t s
    let refusal : Option Nat :=
      if p0 s pSeqDscMode = 0 ∨ s.seq.cfgDsc then some 0x10
      else if blockBusy s || s.seq.step != .none then some 0x11
      else if roleActive s 3 0 || roleActive s 4 0 then some 0x14
      else if s.seq.endOpen && s.seq.dsc == .opened then some 0x01
      else none
    match refusal with
    | some c => endItem (txnKey t) 16 c { s with seq := { s.seq with last := c } }
    | none =>
      let s := dscOpenSteps { s with seq := { s.seq with openPar := seqPars s } }
      if s.seq.endOpen then dscOpenEnds 0x00 .opened s else s) s)

/-- BLOCK code of SEQ_STATUS (Table 08.12). -/
def blockCode (s : State) : Nat :=
  match s.seq.step with
  | .openWait | .openMn | .openWeld | .openStrings | .openTests | .openDsc => 4
  | .pcProbe | .pcMn | .pcRamp | .pcMp => 2
  | _ => if s.seq.closed then 3 else if (serviceList s).isEmpty then 0 else 1

/-- DSC code of SEQ_STATUS. -/
def dscCode (s : State) : Nat :=
  if p0 s pSeqDscMode = 0 then 6
  else
    match s.seq.dsc with
    | .opened => 0 | .closed => 1 | .closing => 2 | .opening => 3 | .intermediate => 4 | .unreferenced => 5 | .endFault => 7

/-- The 35 words of SEQ_STATUS. -/
def seqWords (s : State) : Bytes :=
  let q := maskOf (s.seq.joins.map (·.str))
  let weld := maskOf (allStrings.filter fun j => (strOf s j).weld)
  let str (j : Nat) : List Nat :=
    let w := match (joinOf s j).bind (·.window) with
      | some w => (ratRound w).toNat
      | none => 0xFFFFFFFF
    let d := match strDiff s j with
      | some d => d.natAbs
      | none => 0xFFFFFFFF
    [w, d]
  words ([fld 4 28 (blockCode s) + fld 4 24 (dscCode s) + fld 8 16 s.seq.last + serviceMask s,
    fld 16 16 s.prt.lost.toNat + s.prt.g3.toNat, fld 16 16 q + weld] ++ allStrings.flatMap str)

/-- SEQ_STATUS (R264). -/
def execSeqStatus (dt : Nat) (rq : Request) (s : State) : Out := .next (readOp 0xA008 dt rq (fun _ s => seqWords s) s)

/-! ### Joins -/

/-- JOIN_DWELL_COMPLETE (R242, R244): KN is switched on where every check holds. -/
def execJoinDwellComplete (dt str : Nat) (s : State) : Out := .next (tryKn (dwellEnds str (advance dt s)))

/-- KP_ON (R244, R260): SEQ.K_GAP_T after KN. -/
def execKpOn (dt : Nat) (s : State) : Out :=
  let s := advance dt s
  match s.seq.joins.find? fun k => k.knAt.isSome && k.kpAt.isNone with
  | none => .next s
  | some k =>
    if passed s k.knAt (keptN k.par pSeqKGapT * msNs) then
      .next (roleOn 1 k.str (modJoin k.str (fun k => { k with kpAt := some s.phys }) s))
    else .next s

/-- JOIN_CONFIRM_TIMEOUT (R245). -/
def execJoinConfirmTimeout (dt : Nat) (s : State) : Out :=
  let s := advance dt s
  match s.seq.joins.find? (·.kpAt.isSome) with
  | none => .next s
  | some k => if passed s k.kpAt (keptN k.par pSeqKConfirmT * msNs) then .next (abortJoin k.str 0x21 s) else .next s

/-- CONF_PENDING_CHECK (R245): judged at a valid string sample once |I| ≥ n × SEQ.WELD_I has held for SEQ.K_CONFIRM_T. -/
def execConfPendingCheck (dt str : Nat) (s : State) : Out :=
  let s := advance dt s
  let k := strOf s str
  let n := (serviceList s).length
  match k.confPend && passed s k.confAt (p0 s pSeqKConfirmT * msNs), iNow s, (strSample s str).current with
  | true, some i, some x =>
    if i.natAbs < n * p0 s pSeqWeldI * 1000 then .next s
    else
      let along : Int := if 0 ≤ i then x else -x
      if (i.natAbs : Int) ≤ along * (4 * n) then .next (modStr str (fun x => { x with confPend := false, confAt := none }) s)
      else
        let s := post .kNoConfirm 4 str [] s
        let s := if s.seq.openMask = 0 then { s with seq := { s.seq with openPar := seqPars s } } else s
        .next (openStrings [str] s)
  | _, _, _ => .next s

/-- JOIN_WAIT_EXPIRY (R244, R255, R511). -/
def execJoinWaitExpiry (dt str : Nat) (s : State) : Out :=
  let s := advance dt s
  let s := match joinOf s str with
    | none => s
    | some k =>
      if k.knAt.isNone && decide (keptN k.par pSeqJoinWaitT * secNs ≤ since s k.reqAt) then endJoin str (k.hinder.getD 0x20) s else s
  if s.seq.step = .closeJoin ∧ keptN s.seq.par pSeqJoinWaitT * secNs ≤ since s s.seq.joinAt
      ∧ (serviceList s).length < keptN s.seq.par pSeqMinStrings then .next (endClose 0x20 s)
  else .next (closeGoesOn s)

/-- JOIN_SETTLE_EXPIRY (R244). -/
def execJoinSettleExpiry (dt : Nat) (s : State) : Out := .next (tryKn (advance dt s))

/-! ### Welds -/

/-- WELD_CURRENT_TEST (R248, R249): SEQ.WELD_T after the second coil went off, at a valid current. -/
def execWeldCurrentTest (dt : Nat) (pair : Pair) (s : State) : Out :=
  let s := advance dt s
  match pair with
  | .string j =>
    let k := strOf s j
    match k.iTest && decide (keptN s.seq.openPar pSeqWeldT * msNs ≤ since s k.offAt), (strSample s j).current with
    | true, some i =>
      let s := modStr j (fun x => { x with iTest := false }) s
      let s := if keptN s.seq.openPar pSeqWeldI * 1000 < i.natAbs then openBlock (markWeld 1 j s) else s
      .next (openStringsDone (openingDone j (g3Settle j s)))
    | _, _ => .next s
  | .main =>
    match s.seq.mainTest && decide (keptN s.seq.openPar pSeqWeldT * msNs ≤ since s s.seq.mainOffAt), iNow s with
    | true, some i =>
      let s := { s with seq := { s.seq with mainTest := false } }
      if keptN s.seq.openPar pSeqWeldI * 1000 < i.natAbs then
        let s := g2Enter true true keyMain (postWeld 3 0 { s with seq := { s.seq with mainWeld := true, step := .none } })
        let s := if p0 s pSeqDscMode = 1 then roleOff 7 0 s else s
        .next (endScope 2 0x22 (allStrings.foldl (fun s j => endItems [0xA002] j 0x22 s) s))
      else
        let s := g2Leave keyMain { s with seq := { s.seq with mainWeld := false } }
        .next (if s.seq.step = .openWeld then openMainsDone s else s)
    | _, _ => .next s

/-! ### Pre-charge -/

/-- PRECHARGE_PROBE_END (R252): a current or a rise of VL with MN open finds MN welded; else MN is switched on. -/
def execPrechargeProbeEnd (dt : Nat) (s : State) : Out :=
  let s := advance dt s
  if s.seq.step = .pcProbe ∧ passed s s.seq.pathAt (keptN s.seq.par pSeqPcProbeT * msNs) then
    let welded : Bool :=
      if pcMode s = 1 then decide (pcImax s / 20 < convCurrent s)
      else match vlNow s with
        | some v => decide ((keptN s.seq.par pSeqWeldV * 1000 : Nat) < v - s.seq.vlStart)
        | none => false
    .next (if welded then pcFails 0x22 (postWeld 4 0 s) else mnOn s)
  else .next s

/-- MN is seen closed (R254): the converter current at half its setpoint, or VL risen by 2 × SEQ.WELD_V. -/
def mnSeen (s : State) : Bool :=
  if pcMode s = 1 then
    let set : Rat := ((loopOf s 0).u : Int) * (p0 s pSeqPcAiScale : Nat) / 32768
    decide (0 < set) && decide (set / 2 ≤ convCurrent s)
  else match vlNow s with
    | some v => decide ((2 * keptN s.seq.par pSeqWeldV * 1000 : Nat) ≤ v - s.seq.vlStart)
    | none => false

/-- MN_CONFIRM (R254). -/
def execMnConfirm (dt : Nat) (s : State) : Out :=
  let s := advance dt s
  if s.seq.step != .pcMn then .next s
  else if mnSeen s then .next { s with seq := { s.seq with step := .pcRamp } }
  else
    let bound := if pcMode s = 2 then keptN s.seq.par pSeqPcTmax * 100 * msNs else keptN s.seq.par pSeqKConfirmT * msNs
    .next (if passed s s.seq.rampAt bound then pcFails 0x21 s else s)

/-- PRECHARGE_DONE (R253, R254): the window has held for SEQ.PC_DONE_T, so MP closes; in mode 0 PCK opens with it. -/
def execPrechargeDone (dt : Nat) (s : State) : Out :=
  let s := advance dt s
  if ramping s && doneWindow s && passed s s.seq.doneAt (keptN s.seq.par pSeqPcDoneT * msNs) then
    let s := roleOn 3 0 { s with seq := { s.seq with step := .pcMp, mpAt := some s.phys } }
    .next (if pcMode s = 0 then roleOff 5 0 { s with seq := { s.seq with pckOffAt := some s.phys } } else s)
  else .next s

/-- PRECHARGE_SHORT_CHECK (R253): once, SEQ.PC_SHORT_T after the ramp or PCK began. -/
def execPrechargeShortCheck (dt : Nat) (s : State) : Out :=
  let s := advance dt s
  let from_ := if pcMode s = 1 then s.seq.rampAt else s.seq.pathAt
  if ramping s && pcMode s != 2 && !s.seq.shortDone && passed s from_ (keptN s.seq.par pSeqPcShortT * msNs) then
    match vlNow s with
    | none => .next s
    | some v =>
      if v < (keptN s.seq.par pSeqPcShortV * 1000 : Nat) then .next (pcFails 0x31 s)
      else .next { s with seq := { s.seq with shortDone := true } }
  else .next s

/-- PRECHARGE_TIMEOUT (R253): SEQ.PC_TMAX from MN on. -/
def execPrechargeTimeout (dt : Nat) (s : State) : Out :=
  let s := advance dt s
  if ramping s && passed s s.seq.mnAt (keptN s.seq.par pSeqPcTmax * 100 * msNs) then .next (pcFails 0x30 s) else .next s

/-- PRECHARGE_OVERCURRENT (R253): converter current above 1.25 × SEQ.PC_I_MAX for 1 ms. -/
def execPrechargeOvercurrent (dt : Nat) (s : State) : Out :=
  let s := advance dt s
  if (ramping s || s.seq.step == .pcProbe) && pcMode s == 1 && decide (pcImax s * 5 / 4 < convCurrent s) then
    .next (pcFails 0x32 s)
  else .next s

/-- MP_CONFIRM (R254): the block is closed, PCE off and the limits sent; or 0x21. -/
def execMpConfirm (dt : Nat) (s : State) : Out :=
  let s := advance dt s
  if s.seq.step != .pcMp then .next s
  else
    let late := passed s s.seq.mpAt (keptN s.seq.par pSeqKConfirmT * msNs)
    let seen : Bool :=
      if pcMode s = 1 then decide (convCurrent s < pcImax s / 20)
      else late && doneWindow s && match s.seq.doneAt, s.seq.mpAt with
        | some d, some m => decide (d ≤ m)
        | _, _ => false
    if seen then
      let s := roleOff 6 0 { s with seq := { s.seq with closed := true } }
      .next (sendLimits 0x00 1 (g2Flags s) (endClose 0x00 s))
    else .next (if late then pcFails 0x21 s else s)

/-! ### The disconnector -/

/-- DSC_BRAKE_RELEASE (R257): 50 ms after DTR and DME on. -/
def execDscBrakeRelease (dt : Nat) (s : State) : Out :=
  let s := advance dt s
  if s.seq.dscStep = .dscDrive ∧ 50 * msNs ≤ since s s.seq.dscAt ∧ !effectOn s 5 then
    let s := { s with seq := { s.seq with brakeOff := true, dscStep := .dscMove, dscAt := s.phys } }
    .next (startLoop 4 (startLoop 3 (startLoop 2 s)))
  else .next s

/-- Position of PF0 within SEQ.DSC_MARGIN of SEQ.DSC_POS_CLOSED. -/
def nearClosed (s : State) : Bool :=
  let c : PosChan := mget {} s.pos.chans 0
  decide ((c.count - posCounts s 0 (kept s.seq.par pSeqDscPosClosed)).natAbs ≤ (posCounts s 0 (keptN s.seq.par pSeqDscMargin)).natAbs)

/-- DSC_CLOSE_REACHED (R257): loop outputs to zero, BRAKE applied. -/
def execDscCloseReached (dt : Nat) (s : State) : Out :=
  let s := advance dt s
  if s.seq.dscStep = .dscMove ∧ s.seq.endClosed ∧ nearClosed s then
    let s := driveOff s
    .next { s with seq := { s.seq with dscStep := .dscStop, dscAt := s.phys } }
  else .next s

/-- DSC_DME_OFF (R255, R257): 100 ms after the brake; the close completes, and a BLOCK_CLOSE goes on to its joins. -/
def execDscDmeOff (dt : Nat) (s : State) : Out :=
  let s := advance dt s
  if s.seq.dscStep = .dscStop ∧ 100 * msNs ≤ since s s.seq.dscAt then
    let s := endDsc 0x00 (roleOff 8 0 { s with seq := { s.seq with dsc := .closed } })
    .next (if s.seq.step = .closeDsc then closeGoesOn (closeJoins s) else s)
  else .next s

/-- DSC_CLOSE_TIMEOUT (R257). -/
def execDscCloseTimeout (dt : Nat) (s : State) : Out :=
  let s := advance dt s
  if (s.seq.dscStep = .dscDrive ∨ s.seq.dscStep = .dscMove) ∧ keptN s.seq.par pSeqDscCloseT * 100 * msNs ≤ since s s.seq.dscFrom then
    .next (dscFails 0x41 .intermediate s)
  else .next s

/-- DSC_OPEN_TIMEOUT (R259): END_OPEN has not come within SEQ.DSC_OPEN_T. -/
def execDscOpenTimeout (dt : Nat) (s : State) : Out :=
  let s := advance dt s
  if s.seq.dscStep = .openDsc ∧ keptN s.seq.openPar pSeqDscOpenT * msNs ≤ since s s.seq.dscAt then
    .next (dscOpenEnds 0x42 .intermediate s)
  else .next s

/-! ### Opening -/

/-- OPEN_CURRENT_WAIT_END (R260). -/
def execOpenCurrentWaitEnd (dt : Nat) (s : State) : Out :=
  let s := advance dt s
  if s.seq.step = .openWait ∧ waitOver s then .next (openMains s) else .next s

/-- One due switch-off: MN starts the main test, a KN the tests of its string (R247, R248, R260). -/
def openDue (o : OpenItem) (s : State) : State :=
  if o.role = 4 then
    let s := mainsOpened (roleOff 4 0 s)
    if s.seq.step = .openMn then { s with seq := { s.seq with step := .openWeld } } else s
  else if o.role = 2 then strOpened o.str (roleOff 2 o.str s)
  else roleOff 1 o.str s

/-- OPEN_STAGGER (R260): the next opening switch-off that is due. -/
def execOpenStagger (dt : Nat) (s : State) : Out :=
  let s := advance dt s
  match s.seq.opens with
  | [] => .next s
  | o :: os => if o.due ≤ s.phys then .next (openDue o { s with seq := { s.seq with opens := os } }) else .next s

end Sys2Proof.Machine
end

