-- ==== Sys2Proof/Machine/Position.lean ====
section
/-!
DEFINITION. Position and speed feedback: the observer, lock and reference, index and end switches, SLP, the compare table,
the quadrature output, and the position commands (R314 to R333).
-/
namespace Sys2Proof.Machine
open Sys2Proof

/-- The position part, and a channel, changed. -/
def withPos (s : State) (f : Position → Position) : State := { s with pos := f s.pos }
def chanAt (s : State) (ch : Nat) : PosChan := mget {} s.pos.chans ch
def modPos (ch : Nat) (f : PosChan → PosChan) (s : State) : State :=
  withPos s fun p => { p with chans := mmod {} p.chans ch f }

/-- The channel is enabled (R318). -/
def posEnabled (s : State) (ch : Nat) : Bool := pn s pPosEnable ch == 1 || (ch == 0 && p0 s pSeqDscMode == 1)

/-- Position is valid (R320). -/
def PosChan.valid (c : PosChan) : Bool := c.lock == .locked && c.ref

/-! ### The observer (R314 to R317) -/

/-- A converted pair after its corrections, 0.1 mV. -/
def corrected (s : State) (ch : Nat) (x : SinCos) : Rat × Rat :=
  ((x.sin - pv s pPosSinOfs ch : Int), ((x.cos - pv s pPosCosOfs ch : Int) : Rat) * (pn s pPosCosGain ch : Nat) / 10000)

/-- `x` less its whole part, and `x` brought within half a line of zero. -/
def fracOf (x : Rat) : Rat := x - (x.floor : Int)
def wrapHalf (x : Rat) : Rat := x - ((x + 1 / 2).floor : Int)

/-- One step of the tracking loop at 1 MS/s (R316). -/
def track (s : State) (ch : Nat) (x : SinCos) (c : PosChan) : PosChan :=
  let v := corrected s ch x
  let phi := Config.atan2R v.1 v.2
  let wn : Rat := Config.twoPi * (pn s pPosObsBw ch : Nat)
  let ts : Rat := 1 / 1000000
  let e := wrapHalf (phi - fracOf c.theta)
  { c with
    err := e, mag2 := v.1 * v.1 + v.2 * v.2
    theta := c.theta + c.omega * ts + 1414 / 1000 * wn * ts * e
    omega := c.omega + wn * wn * ts * e
    quad := (fracOf phi * 4).floor.toNat % 4 }

/-- The count of the observer before references: theta × 4,096 with the sign of POS.DIR (R315). -/
def liveCount (s : State) (ch : Nat) (c : PosChan) : Int :=
  let n := ratRound (c.theta * 4096)
  if pn s pPosDir ch = 1 then -n else n

/-- A signed 32-bit count. -/
def wrap32 (x : Int) : Int := signed 32 (code 32 x)

/-- Speed of the observer, and of one quadrant of 1,024 counts in a time in ns, 0.01 °/s. -/
def obsSpeed (s : State) (ch : Nat) (c : PosChan) : Rat :=
  let w := c.omega * 36000 / (pn s pPosLines ch : Nat)
  if pn s pPosDir ch = 1 then -w else w
def quadSpeed (s : State) (ch : Nat) (ns : Rat) : Rat :=
  if ns = 0 then 0 else 9000 * 1000000000 / ((pn s pPosLines ch : Nat) * ns)

/-- The speed taken from timing: the interval's, or less while no new crossing has arrived. -/
def timedSpeed (s : State) (ch : Nat) (c : PosChan) : Option Rat :=
  match c.timed with
  | none => none
  | some t =>
    let a := quadSpeed s ch ((t.1 : Nat) * 25 / 4)
    let gone := s.phys - c.crossAt.getD s.phys
    let b := if gone = 0 then a else ratMin a (quadSpeed s ch (gone : Nat))
    some (if t.2 then b else -b)

/-- The speed reported while locked (R317), and what follows it. -/
def settleSpeed (s : State) (ch : Nat) (c : PosChan) : PosChan :=
  let w := obsSpeed s ch c
  let low := decide (ratAbs w < (pn s pPosLowSpd ch : Nat))
  let v := if low then (timedSpeed s ch c).getD w else w
  let sp := clampI (-0x80000000) 0x7FFFFFFF (ratRound v)
  { c with lowSpd := low && c.timed.isSome, speed := sp, slowAt := running s (decide (sp.natAbs < pn s pPosLowSpd ch)) c.slowAt }

/-! ### References (R320, R322, R323) -/

/-- A reference keeps the fraction of the line and sets its whole part to come nearest a count; one that moves a referenced
count records IDX_CORR (R322, R323). The entries take up their state anew. -/
def reference (ch : Nat) (target : Int) (index : Bool) (s : State) : State :=
  let c := chanAt s ch
  let live := liveCount s ch c
  let off := divRound (target - live) 4096 * 4096
  let new := wrap32 (live + off)
  let corr := new - c.count
  let s := modPos ch (fun c => { c with
    offset := off, count := new, idxLast := clampI (-32768) 32767 corr, ref := true, armed := if index then false else c.armed
    entries := [], mostOpen := none }) s
  if c.ref && corr != 0 then post .idxCorr 14 ch (le 4 (code 32 corr)) s else s

/-- END_OPEN is active on PF0 with a motor-driven disconnector: it references a locked channel. -/
def referenceOpen (s : State) : State :=
  if p0 s pSeqDscMode = 1 ∧ (chanAt s 0).lock = .locked then reference 0 (posCounts s 0 (pv s pSeqDscPosOpen 0)) false s else s

/-! ### Lock (R318, R319) -/

/-- The vector lies within 0.5 to 1.5 × POS.AMP_NOM. -/
def magFits (s : State) (ch : Nat) (c : PosChan) : Bool :=
  let a : Rat := (pn s pPosAmpNom ch * 10 : Nat)
  decide (a * a / 4 ≤ c.mag2) && decide (c.mag2 ≤ a * a * 9 / 4)

/-- The drive acts toward closed: DME is on and the output of CL4 above 0 (R324). -/
def drivesClosed (s : State) : Bool := roleActive s 8 0 && decide (0 < (loopOf s 4).u)

/-- The stop of the drive at a lock loss, or with both end switches active (R258). -/
def stopDrive (st : DscState) (s : State) : State :=
  if dscClosing s then dscFails 0x40 st s else { s with seq := { s.seq with dsc := st } }

/-- Lock loss is declared: REF and validity go, the count stands, the speed is held, the compare outputs are suppressed.
On PF0 it violates while the drive acts toward closed. -/
def loseLock (ch : Nat) (s : State) : State :=
  let act := ch == 0 && p0 s pSeqDscMode == 1 && drivesClosed s
  let s := modPos ch (fun c => { c with
    lock := .lost, ref := false, extrap := true, lossAt := some s.phys, losses := inc16 c.losses, good := 0, badMag := 0, badErr := 0
    timed := none, crossAt := none, supp := true, entries := [], mostOpen := none
    armed := c.armed || pn s pPosIdxMode ch != 0 }) s
  let s := post .lockLoss 14 ch [] s
  if act then stopDrive .intermediate (assertSource 14 0 (withPos s fun p => { p with slp := true })) else s

/-- A channel is locked, with REF clear; an active END_OPEN references PF0 then. -/
def gainLock (ch : Nat) (s : State) : State :=
  let s := modPos ch (fun c => { c with lock := .locked, good := 0, badMag := 0, badErr := 0, spdValid := true, extrap := false, lossAt := none }) s
  if ch = 0 ∧ s.seq.endOpen then referenceOpen s else s

/-- A sample of a channel judged for lock. -/
def judgeLock (ch : Nat) (s : State) : State :=
  let c := chanAt s ch
  let fits := magFits s ch c
  let e := ratAbs c.err
  if c.lock = .locked then
    let m := if fits then 0 else c.badMag + 1
    let x := if 1 / 8 < e then c.badErr + 1 else 0
    if 2 ≤ m ∨ 4 ≤ x then loseLock ch s else modPos ch (fun c => { c with badMag := m, badErr := x }) s
  else
    let n := if fits && decide (e < 1 / 16) then c.good + 1 else 0
    if 64 ≤ n then gainLock ch s else modPos ch (fun c => { c with good := n }) s

/-! ### The compare table (R325 to R328, R333) -/

/-- Fields of Table 11.3. -/
def cmpType (w : Nat) : Nat := bits w 30 28
def cmpDir (w : Nat) : Nat := bits w 27 26
def cmpPin (w : Nat) : Nat := bits w 25 24

/-- An entry as sequencing loads it on PF0 (R328), or as the parameters hold it. -/
def cmpEntry (s : State) (i : Nat) : BitVec 32 × Int × Int :=
  let o := pv s pSeqDscPosOpen 0
  let c := pv s pSeqDscPosClosed 0
  if p0 s pSeqDscMode = 1 ∧ i = 0 then
    let m := pv s pSeqDscMargin 0
    (0xA0200000, (if o < c then o else c) - m, (if o < c then c else o) + m)
  else if p0 s pSeqDscMode = 1 ∧ i = 1 then
    let x := pv s pSeqDscPosParted 0
    (if o < c then 0x88C00000 else 0x84C00000, x, x)
  else (BitVec.ofNat 32 (pn s pPosCmpCtrl i), pv s pPosCmpPosA i, pv s pPosCmpPosB i)

/-- The entries in force: those enabled of the enabled channels. -/
def cmpTable (s : State) : SMap (BitVec 32 × Int × Int) :=
  ((List.range 32).filter fun i => posEnabled s (i / 16)).filterMap fun i =>
    let e := cmpEntry s i
    if bit e.1.toNat 31 then some (i, e) else none

/-- The table applied now comes into force at one sample: every entry of a channel whose table changed takes up its state. -/
def takeTable (s : State) : State :=
  let t := cmpTable s
  if t = s.pos.table then s
  else withPos s fun p => { p with table := t, chans := mmap (fun _ c => { c with entries := [] }) p.chans }

/-- An entry's state at a position, taken up without firing. -/
def cmpTakeUp (w : Nat) (a b pos : Int) : CmpEntry :=
  let ins := decide (a ≤ pos) && decide (pos ≤ b)
  { inside := ins, above := decide (a ≤ pos), active := cmpType w != 0 && (ins == (cmpType w == 1)) }

/-- One evaluation of a pulse entry, and whether it fires: armed, and the position passes A in the selected direction. -/
def cmpPulse (w : Nat) (a h pos : Int) (e : CmpEntry) : CmpEntry × Bool :=
  let now := decide (a ≤ pos)
  if e.ready then
    if now = e.above then (e, false)
    else if cmpDir w = 0 ∨ (cmpDir w = 1 ∧ now) ∨ (cmpDir w = 2 ∧ !now) then ({ e with ready := false, active := cmpPin w != 0 }, true)
    else ({ e with above := now }, false)
  else if (e.above ∧ a + h < pos) ∨ (!e.above ∧ pos < a - h) then ({ e with ready := true }, false)
  else (e, false)

/-- One evaluation of a window entry, and whether it changes: only beyond a boundary by POS.CMP_HYST. -/
def cmpWindow (w : Nat) (a b h pos : Int) (e : CmpEntry) : CmpEntry × Bool :=
  let ins := if e.inside then !(decide (pos < a - h) || decide (b + h < pos)) else decide (a + h < pos) && decide (pos < b - h)
  if ins = e.inside then (e, false) else ({ e with inside := ins, active := (ins == (cmpType w == 1)) }, true)

/-- What a firing or a window's change does besides: the pin's pulse, the metrology trigger and the event. -/
def cmpActs (i w : Nat) (pulse : Bool) (s : State) : State :=
  let pin := cmpPin w
  let s := if pulse && (pin == 1 || pin == 2) then
      withPos s fun p => { p with pulses := mput p.pulses (pin - 1) (s.phys + pn s pPosCmpPulse (pin - 1) * 1000) } else s
  let s := if bit w 23 && pulse then capTrigger 2 s else s
  if bit w 22 then post .cmpFire 15 i [] s else s

/-- One entry of a channel whose position is valid is evaluated. -/
def evalCmp (ch : Nat) (s : State) (d : Nat × (BitVec 32 × Int × Int)) : State :=
  let w := d.2.1.toNat
  let c := chanAt s ch
  let a := posCounts s ch d.2.2.1
  let b := posCounts s ch d.2.2.2
  let h := posCounts s ch (pn s pPosCmpHyst ch : Nat)
  let put (e : CmpEntry) (s : State) : State := modPos ch (fun c => { c with entries := mput c.entries (d.1 % 16) e }) s
  match mfind c.entries (d.1 % 16) with
  | none => put (cmpTakeUp w a b c.count) s
  | some e =>
    let r := if cmpType w = 0 then cmpPulse w a h c.count e else cmpWindow w a b h c.count e
    let s := if r.1 = e then s else put r.1 s
    if r.2 then cmpActs d.1 w (cmpType w == 0) s else s

/-- A pulse is being output on a pin for an entry of a channel. -/
def pulsing (s : State) (ch pin : Nat) : Bool :=
  s.pos.table.any fun d => d.1 / 16 == ch && cmpType d.2.1.toNat == 0 && cmpPin d.2.1.toNat == pin + 1
    && (mget {} (chanAt s ch).entries (d.1 % 16) : CmpEntry).active

/-- The entries of a channel at a sample; without a valid position they are suppressed, its pulses with them. -/
def evalTable (ch : Nat) (s : State) : State :=
  if !(chanAt s ch).valid then
    let s := modPos ch (fun c => { c with supp := true, entries := [] }) s
    if s.pos.pulses.isEmpty then s
    else withPos s fun p => { p with pulses := p.pulses.filter fun e => pulsing s (1 - ch) e.1 }
  else (s.pos.table.filter fun d => d.1 / 16 == ch).foldl (evalCmp ch) (modPos ch (fun c => { c with supp := false }) s)

/-! ### SLP (R224, R324) -/

/-- Close of the disconnector is permitted: commanded, and no Husk action above 0x3 latched. -/
def closePermitted (s : State) : Bool := s.seq.closeCmd && !latchedAction s (fun a _ => decide (3 < a))

/-- The most-open position since close stopped being permitted, while position is valid. -/
def followCreep (s : State) : State :=
  let c := chanAt s 0
  if closePermitted s || !c.valid then modPos 0 (fun c => { c with mostOpen := none }) s
  else
    let up := decide (pv s pSeqDscPosOpen 0 < pv s pSeqDscPosClosed 0)
    let m := match c.mostOpen with
      | none => c.count
      | some m => if up then (if c.count < m then c.count else m) else (if m < c.count then c.count else m)
    modPos 0 (fun c => { c with mostOpen := some m }) s

/-- A standing condition of R224 on PF0. -/
def slpHolds (s : State) : Bool :=
  let c := chanAt s 0
  let up := decide (pv s pSeqDscPosOpen 0 < pv s pSeqDscPosClosed 0)
  let creep := posCounts s 0 (pn s pPosSlpCreep 0 : Nat)
  let out := c.valid && s.pos.table.any fun d => decide (d.1 < 16) && bit d.2.1.toNat 21 && cmpType d.2.1.toNat != 0 && match mfind c.entries d.1 with
    | some e => !e.inside
    | none => false
  let crept := c.valid && match c.mostOpen with
    | some m => if up then decide (creep < c.count - m) else decide (creep < m - c.count)
    | none => false
  s.pos.endBoth || out || crept

/-- SLP_VIOL follows its conditions. -/
def followSlp (s : State) : State :=
  if p0 s pSeqDscMode ≠ 1 then
    if s.pos.slp then releaseSource 14 (withPos s fun p => { p with slp := false }) else s
  else
    let now := slpHolds s
    if now = s.pos.slp then s
    else
      let s := withPos s fun p => { p with slp := now }
      if now then assertSource 14 0 s else releaseSource 14 s

/-! ### The quadrature output (R329) -/

/-- The output after a movement of `d` counts of its source: edges owed, and those the rate lets out in one sample of 1 µs. -/
def quadOut (d : Int) (s : State) : State :=
  let div : Int := (max 1 (p0 s pPosQoDiv) : Nat)
  let sep := 1000000 / max 1 (p0 s pPosQoMaxRate)
  withPos s fun p =>
    let acc := p.qoAcc + d
    let n := Int.tdiv acc div
    let owed := p.qoPend + n
    let room := min ((s.phys - p.qoAt) / sep) (max 1 (1000 / sep))
    let out := min owed.natAbs room
    let step : Int := if owed < 0 then -(out : Int) else out
    { p with
      qoAcc := acc - n * div, qoPend := owed - step, qoOvr := decide (owed ≠ step)
      qoPhase := ((p.qoPhase + step) % 4).toNat, qoAt := if out = 0 then p.qoAt else s.phys }

/-- The output's pins are low: no source, or a disabled one. -/
def quadOff (s : State) : State := withPos s fun p => { p with qoAcc := 0, qoPend := 0, qoPhase := 0, qoOvr := false }

/-! ### The sample -/

/-- A channel's observer sample: track, judge lock, count, speed and compare table. -/
def samplePos (ch : Nat) (x : SinCos) (s : State) : State :=
  if !posEnabled s ch then
    let c := chanAt s ch
    let s := if c.lock = .disabled then s else modPos ch (fun c => { losses := c.losses, count := c.count }) s
    if p0 s pPosQoSrc = ch then quadOff s else s
  else
    let s := if (chanAt s ch).lock = .disabled then modPos ch (fun c => { c with lock := .acquiring, ref := false }) s else s
    let before := liveCount s ch (chanAt s ch)
    let was := (chanAt s ch).valid
    let s := judgeLock ch (modPos ch (track s ch x) s)
    let s := if (chanAt s ch).lock = .locked then modPos ch (settleSpeed s ch) s else s
    let c := chanAt s ch
    let live := liveCount s ch c
    let s := if c.valid then modPos ch (fun c => { c with count := wrap32 (live + c.offset) }) s else s
    let s := if p0 s pPosQoSrc = ch && c.valid then quadOut (if was then live - before else 0) s else s
    evalTable ch s

/-- Staged class-H values that wait for a channel to be idle are applied where it is. -/
def posIdleApply (s : State) : State :=
  let ks := (s.par.staged.map (·.1)).filter fun k => decide (k / 65536 / 4096 = 0xD) && decide (paramClass (k / 65536) = 2)
  if ks.isEmpty || !((chanAt s 0).slowAt.isSome || (chanAt s 1).slowAt.isSome) then s else applyIdle ks s

/-- An end switch that is active no longer. -/
def endReleased (endOpen endClosed : Bool) (s : State) : State :=
  let o := s.seq.endOpen && endOpen
  let c := s.seq.endClosed && endClosed
  let d := if (s.seq.dsc = .opened ∧ !o) ∨ (s.seq.dsc = .closed ∧ !c) then .intermediate else s.seq.dsc
  withPos { s with seq := { s.seq with endOpen := o, endClosed := c, dsc := if p0 s pSeqDscMode = 1 then d else s.seq.dsc } }
    fun p => { p with endBoth := o && c }

/-- OBSERVER_SAMPLE: both channels, the end switches' release, SLP. There is none without the domain's clock (R330). -/
def execObserverSample (dt : Nat) (pf0 pf1 : SinCos) (endOpen endClosed : Bool) (s : State) : Out :=
  let s := advance dt s
  if !sequencing s || s.husk.pwmOff then .next s
  else
    let s := takeTable (endReleased endOpen endClosed s)
    let s := samplePos 1 pf1 (samplePos 0 pf0 s)
    let s := if p0 s pPosQoSrc = 2 then quadOff s else s
    .next (posIdleApply (followSlp (followCreep s)))

/-- SPD_VALID_EXPIRY: 2 ms after a lock loss. -/
def execSpdValidExpiry (dt chan : Nat) (s : State) : Out :=
  let s := advance dt s
  if passed s (chanAt s chan).lossAt (2 * msNs) then
    .next (modPos chan (fun c => { c with spdValid := false, extrap := false, lossAt := none }) s)
  else .next s

/-- CMP_PULSE_END: the pin falls once its pulse time is over. -/
def execCmpPulseEnd (dt pin : Nat) (s : State) : Out :=
  let s := advance dt s
  match mfind s.pos.pulses pin with
  | none => .next s
  | some t =>
    if s.phys < t then .next s
    else
      let over_ (ch i : Nat) (e : CmpEntry) : CmpEntry :=
        match mfind s.pos.table (ch * 16 + i) with
        | some d => if cmpType d.1.toNat = 0 ∧ cmpPin d.1.toNat = pin + 1 then { e with active := false } else e
        | none => e
      .next (withPos s fun p => { p with
        pulses := mdel p.pulses pin
        chans := mmap (fun ch c => { c with entries := mmap (over_ ch) c.entries }) p.chans })

/-- INDEX_EDGE: a qualified rising edge in the quadrant POS.IDX_QUAD references as POS.IDX_MODE selects. -/
def execIndexEdge (dt chan : Nat) (s : State) : Out :=
  let s := advance dt s
  let c := chanAt s chan
  let mode := pn s pPosIdxMode chan
  if sequencing s && c.lock == .locked && c.quad == pn s pPosIdxQuad chan && (mode == 1 || (mode == 2 && c.armed)) then
    .next (reference chan (posCounts s chan (pv s pPosIdxPos chan)) true s)
  else .next s

/-- TIMED_SPEED_CROSSING: the interval between two crossings in one direction; one of a reversal is discarded. `up` says that
the count increases. -/
def execTimedSpeedCrossing (dt chan : Nat) (up : Bool) (interval625 : Nat) (s : State) : Out :=
  let s := advance dt s
  if !sequencing s || (chanAt s chan).lock != .locked then .next s
  else
    .next (modPos chan (fun c =>
      let c' := { c with crossAt := some s.phys, crossUp := up }
      if c.crossAt.isNone then c'
      else if c.crossUp = up then { c' with timed := some (interval625, up), dirChg := false }
      else { c' with timed := none, dirChg := true }) s)

/-! ### End switches (R321, R323, R259) -/

/-- Both end switches are active: END_BOTH stops the drive and violates. -/
def checkBoth (s : State) : State :=
  if s.seq.endOpen && s.seq.endClosed then
    let s := withPos s fun p => { p with endBoth := true }
    if p0 s pSeqDscMode = 1 then followSlp (stopDrive .endFault s) else s
  else s

/-- END_OPEN_ACTIVE: it references PF0, completes an opening, and is the disconnector's state. -/
def execEndOpenActive (dt : Nat) (s : State) : Out :=
  let s := advance dt s
  if !sequencing s then .next s
  else
    let s := referenceOpen { s with seq := { s.seq with endOpen := true } }
    let s := if s.seq.dscStep = .openDsc then dscOpenEnds 0x00 .opened s
      else if p0 s pSeqDscMode = 1 ∧ !dscClosing s then { s with seq := { s.seq with dsc := .opened } } else s
    .next (checkBoth s)

/-- END_CLOSED_ACTIVE: it references PF0 where REF is clear; else END_MISMATCH where the position lies too far. -/
def execEndClosedActive (dt : Nat) (s : State) : Out :=
  let s := advance dt s
  if !sequencing s then .next s
  else
    let s := { s with seq := { s.seq with endClosed := true } }
    let c := chanAt s 0
    let target := posCounts s 0 (pv s pSeqDscPosClosed 0)
    let s :=
      if p0 s pSeqDscMode ≠ 1 ∨ c.lock ≠ .locked then s
      else if !c.ref then reference 0 target false s
      else if (posCounts s 0 (pv s pSeqDscMargin 0)).natAbs < (c.count - target).natAbs then post .endMismatch 14 0 (le 4 (code 32 c.count)) s
      else s
    let s := if p0 s pSeqDscMode = 1 ∧ !dscClosing s ∧ s.seq.dscStep ≠ .openDsc then { s with seq := { s.seq with dsc := .closed } } else s
    .next (checkBoth s)

/-! ### Commands (R331) -/

/-- A command over the channels of a mask: two result bytes, 0xFF for a channel not named. -/
def posItems (t : Txn) (act : Nat → State → Nat × State) (s : State) : State :=
  let m := num t.payload 0 1
  let s := noteReserved m 0x3 s
  let r := [0, 1].foldl (fun (a : List Nat × State) ch =>
    if bit m ch then
      let x := act ch a.2
      (a.1 ++ [x.1], x.2)
    else (a.1 ++ [0xFF], a.2)) ([], s)
  complete t (itemsStatus t.opcode r.1) (itemBytes r.1) r.2

/-- POS_ARM of one channel. -/
def armPos (ch : Nat) (s : State) : Nat × State :=
  if !posEnabled s ch || pn s pPosIdxMode ch != 2 then (0x10, s)
  else if (chanAt s ch).armed then (0x01, s)
  else (0x00, modPos ch (fun c => { c with armed := true }) s)

/-- POS_ARM. -/
def execPosArm (dt : Nat) (rq : Request) (s : State) : Out := .next (mailbox 0xD001 dt rq (fun t s => posItems t armPos s) s)

/-- POS_PRESET of one channel: the count and REF are set. -/
def presetPos (x : Int) (ch : Nat) (s : State) : Nat × State :=
  let c := chanAt s ch
  if !posEnabled s ch then (0x10, s)
  else if ch = 0 ∧ p0 s pSeqDscMode = 1 then (0x12, s)
  else if c.lock ≠ .locked then (0x11, s)
  else
    let n := wrap32 (posCounts s ch x)
    (0x00, modPos ch (fun c => { c with count := n, offset := n - liveCount s ch c, ref := true, entries := [], mostOpen := none }) s)

/-- POS_PRESET. -/
def execPosPreset (dt : Nat) (rq : Request) (s : State) : Out :=
  .next (mailbox 0xD002 dt rq (fun t s => posItems t (presetPos (signed 32 (num t.payload 1 4))) s) s)

/-- LOCK code (Table 11.6). -/
def lockCode : LockSt → Nat
  | .disabled => 0 | .acquiring => 1 | .locked => 2 | .lost => 3

/-- The five words of a channel (Table 11.6). -/
def posWords (s : State) (ch : Nat) : List Nat :=
  let c := chanAt s ch
  let b (i : Nat) (x : Bool) : Nat := fld 1 i (b2n x)
  let pf0 := ch == 0
  let amp : Rat := (pn s pPosAmpNom ch * 10 : Nat)
  let mag := satN 0xFFFF (ratRound (Config.sqrtR c.mag2 * 1000 / amp)).toNat
  let act := maskOf ((c.entries.filter (·.2.active)).map (·.1))
  [fld 4 28 (lockCode c.lock) + b 27 c.ref + b 26 c.valid + b 25 c.spdValid + b 24 c.extrap + b 23 c.lowSpd + b 22 c.dirChg
      + b 21 c.armed + b 20 (pf0 && s.seq.endOpen) + b 19 (pf0 && s.seq.endClosed) + b 18 (pf0 && s.pos.endBoth)
      + b 17 (s.pos.qoOvr && p0 s pPosQoSrc == ch) + b 16 c.supp + c.losses,
    code 32 c.count, code 32 c.speed,
    fld 16 16 mag + code 16 (ratRound (c.err * 4096)),
    fld 16 16 (code 16 c.idxLast) + act]

/-- POS_STATUS. -/
def execPosStatus (dt : Nat) (rq : Request) (s : State) : Out :=
  .next (mailbox 0xD003 dt rq (fun t s =>
    let m := num t.payload 0 1
    let s := noteReserved m 0x3 s
    complete t 0x00 (words (([0, 1].filter (bit m ·)).flatMap (posWords s))) s) s)

end Sys2Proof.Machine
end

