-- ==== Sys2Proof/Machine/Control.lean ====
section
/-!
DEFINITION. The control engine: ticks, sources, the control law, references and cascades, missed deadlines and faults, the
trace buffers' writing, and the control commands (R293 to R313).
-/
namespace Sys2Proof.Machine
open Sys2Proof

/-- The engine changed. -/
def withCtl (s : State) (f : Control → Control) : State := { s with ctl := f s.ctl }

/-- A Q15 value limited to its range (Table 00.5). -/
def q15 (x : Int) : Int := clampI (-32768) 32767 x

/-! ### Sources (R295, R296) -/

/-- A bus quantity with its full scale: its newest value that is not NA, no older than CTL.IN_AGE_MAX (R296, Table 10.2). -/
def busSource (s : State) (k src : Nat) (num_ den : Int) : Option Int :=
  match mfind s.met.lastVal src with
  | none => none
  | some v => if pn s pCtlInAgeMax k * 1000 < since s v.2 then none else some (q15 (divRound (v.1 * num_) den))

/-- Position and speed of a channel in Q15. -/
def posSource (s : State) (ch : Nat) : Option Int :=
  let c := chanAt s ch
  if c.valid then some (q15 (divRound (c.count * 32768) (pn s pPosLines ch * 4096 : Nat))) else none
def spdSource (s : State) (ch : Nat) : Option Int :=
  let c := chanAt s ch
  if c.spdValid then some (q15 (divRound (c.speed * 32768) 72000)) else none

/-- V_STR of a string: not NA, and no older than 2 ms. -/
def vstrSource (s : State) (j : Nat) : Option Int :=
  let x := strSample s j
  if 64 < (s.met.sidx + 2 ^ 32 - x.sidx) % 2 ^ 32 then none else (vStr s j).map fun v => q15 (divRound ((v : Int) * 16) 1000)

/-- The string a loop's source 0x10 names: CTL.VSTR_SEL, or the lead for a reserved loop (Table 10.4). -/
def loopString (s : State) (k : Nat) : Nat := if reserved s k then s.seq.lead else pn s pCtlVstrSel k

/-- A source at a tick in Q15, none where it is not valid (Table 10.2); `ai` gives the analogue inputs. -/
def sourceAt (s : State) (k : Nat) (ai : Nat → Int) (n : Nat) : Option Int :=
  match n with
  | 0 => some 0
  | 9 => busSource s k 9 16 1000
  | 10 => busSource s k 10 16 1000
  | 11 => busSource s k 11 ((p0 s pMetShuntR : Nat) * 32768) 320000000000
  | 12 => posSource s 0
  | 13 => spdSource s 0
  | 14 => posSource s 1
  | 15 => spdSource s 1
  | 16 => vstrSource s (loopString s k)
  | n => if n ≤ 8 then some (ai (n - 1)) else none

/-- The newest conversions of the analogue inputs. -/
def aiNewest (s : State) (n : Nat) : Int := q15 (s.ctl.ai.getD n 0)

/-- A loop's own measurement: with AI_AVG the mean since its previous evaluation. -/
def measure (s : State) (k : Nat) : Option Int :=
  let l := loopOf s k
  let w := loopCfg s k
  let m := cfgMeas w
  if bit w 2 && decide (1 ≤ m) && decide (m ≤ 8) && decide (0 < l.aiN) then some (q15 (divRound l.aiSum l.aiN))
  else sourceAt s k (aiNewest s) m

/-! ### References (R303, R304, Table 10.4) -/

/-- Q15 × 2^16 of a quantity at a full scale. -/
def scale32 (x full : Int) : Int := divRound (x * 32768 * 65536) full

/-- Output of another loop as a reference: 0 while it does not run. -/
def cascadeOut (s : State) (n : Nat) : Int :=
  match (loopOf s n).state with
  | .running | .held => (loopOf s n).u * 65536
  | _ => 0

/-- A reference source, Q15 × 2^16. -/
def refSource (s : State) (k n : Nat) : Option Int :=
  if n = 0x11 then some (pv s pCtlSetpoint k * 65536)
  else if 0x18 ≤ n then some (cascadeOut s (n - 0x18))
  else (sourceAt s k (aiNewest s) n).map (· * 65536)

/-- Target and rate (LSB/s × 2^16) of a loop's ramp: Table 10.4 of a reserved loop, else CTL.RAMP_TGT and CTL.RAMP_RATE. -/
def rampTarget (s : State) (k : Nat) : Option Int :=
  if reserved s k then
    if k = 0 then (sourceAt s k (aiNewest s) 9).map (· * 65536)
    else some (scale32 (kept s.seq.par pSeqDscPosClosed) 36000)
  else refSource s k (pn s pCtlRampTgt k)
def rampRate (s : State) (k : Nat) : Int :=
  if reserved s k then
    if k = 0 then scale32 (keptN s.seq.par pSeqPcDvdt : Nat) 2048 else scale32 (keptN s.seq.par pSeqDscSpeed : Nat) 360
  else (pn s pCtlRampRate k * 65536 : Nat)

/-- The ramp after an evaluation period of `div` ticks: toward its target; one that is not valid freezes it. -/
def rampNext (s : State) (k : Nat) (ramp : Int) : Int :=
  match rampTarget s k with
  | none => ramp
  | some t =>
    let d := divRound (rampRate s k * ((loopOf s k).div : Nat)) 100000
    if ramp < t then (if t ≤ ramp + d then t else ramp + d) else if ramp - d ≤ t then t else ramp - d

/-- The reference of an evaluation. During the probe of mode 1 the inner loop takes 10 % of SEQ.PC_I_MAX (R252). -/
def loopRef (s : State) (k : Nat) (ramp : Int) : Int :=
  let n := cfgRef (loopCfg s k)
  if reserved s k && k == 1 && s.seq.step == .pcProbe then
    scale32 (keptN s.seq.par pSeqPcIMax * 10 : Nat) (keptN s.seq.par pSeqPcAiScale : Nat)
  else if n = 0x12 then ramp
  else (refSource s k n).getD (loopOf s k).r32

/-! ### The control law (R298 to R302) -/

/-- A gain as a number of units of 2^-15 (Table 10.3), and a 40-bit accumulator. -/
def gainOf (w : Nat) : Int := (bits w 14 0 * 2 ^ bits w 19 16 : Nat)
def acc40 (x : Int) : Int := clampI (-(2 ^ 39)) (2 ^ 39 - 1) x
def accOver (x : Int) : Bool := decide (acc40 x ≠ x)

/-- Output limits of a loop, Q15. -/
def outLimits (s : State) (k : Nat) : Int × Int :=
  let lo := pv s pCtlOutMin k
  let hi := pv s pCtlOutMax k
  if !reserved s k then (lo, hi)
  else
    match k with
    | 0 => (0, q15 (divRound ((keptN s.seq.par pSeqPcIMax * 100 : Nat) * 32768) (keptN s.seq.par pSeqPcAiScale : Nat)))
    | 1 =>
      let d := pv s pCtlPwDutyMax 0
      (if lo < 0 then 0 else lo, if d < hi then d else hi)
    | 2 =>
      let m := q15 (divRound ((keptN s.seq.par pSeqDscSpeed : Nat) * 32768) 720)
      (-m, m)
    | 3 => (0, q15 (divRound ((keptN s.seq.par pSeqDscIMax * 100 : Nat) * 32768) (keptN s.seq.par pSeqDscAiScale : Nat)))
    | _ => (0, pv s pCtlPwDutyMax 2)

/-- The feed-forward term under a gain: its value, and whether the ratio's denominator fails (R301). -/
def feedForward (s : State) (k : Nat) (kf dr : Int) (last : Int) : Int × Bool :=
  let w := loopCfg s k
  match cfgFfType w with
  | 1 =>
    match sourceAt s k (aiNewest s) (cfgFf w) with
    | some x => (kf * x, false)
    | none => (last, false)
  | 2 =>
    if cfgDen w = 0 then (0, false)
    else
      match sourceAt s k (aiNewest s) (cfgFf w), sourceAt s k (aiNewest s) (cfgDen w) with
      | some n, some d =>
        if d < 512 then (last, true)
        else
          let q := if n < 0 then 0 else divRound (n * 32768) d
          (kf * (if 0x7FFF < q then 0x7FFF else q), false)
      | none, some d => (last, decide (d < 512))
      | _, none => (last, true)
  | 3 => (divRound (kf * dr) 65536, false)
  | _ => (0, false)

/-- The five gain words of a loop: KP, KI, KD, KAW and KF. -/
def gainWords (s : State) (k : Nat) : List Nat := [pCtlKp, pCtlKi, pCtlKd, pCtlKaw, pCtlFfGain].map (pn s · k)

/-- The terms p, i, d and f under a set of gain words, before they are summed. -/
def terms (s : State) (k : Nat) (g : List Nat) (l : Loop) (e x dr : Int) : Int × Int × Int × Int × Bool :=
  let a := pv s pCtlDFilt k
  let gain (n : Nat) : Int := gainOf (g.getD n 0)
  let f := feedForward s k (gain 4) dr l.f
  (gain 0 * e, l.i + gain 1 * e, divRound (a * l.d) 32768 + divRound (gain 2 * (32768 - a) * (x - l.xPrev)) 32768, f.1, f.2)

/-- One evaluation of the law on a valid measurement. -/
def evaluate (s : State) (k : Nat) (y : Int) : Loop :=
  let l := loopOf s k
  let w := loopCfg s k
  let l := if l.fresh then { l with i := 0, d := 0, ramp := y * 65536, r32 := y * 65536 } else l
  let ramp := rampNext s k l.ramp
  let r32 := loopRef s k ramp
  let dr := if l.fresh then 0 else r32 - l.r32
  let r := q15 (divRound r32 65536)
  let e := r - y
  let x := if bit w 5 then e else -y
  let l := if l.fresh || l.miss then { l with xPrev := x } else l
  let g := gainWords s k
  let t := terms s k g l e x dr
  let old := terms s k (if l.fresh || l.gains.isEmpty then g else l.gains) l e x dr
  let total (t : Int × Int × Int × Int × Bool) : Int := t.1 + t.2.1 + t.2.2.1 + t.2.2.2.1
  let i0 := t.2.1 + (total old - total t)
  let i := acc40 i0
  let sum := t.1 + i + t.2.2.1 + t.2.2.2.1
  let v := acc40 sum
  let lim := outLimits s k
  let lo := lim.1 * 32768
  let hi := lim.2 * 32768
  let u := clampI lo hi v
  let kaw := gainOf (g.getD 3 0)
  let i' := if 0 < kaw then i + divRound (kaw * (u - v)) 32768 else clampI lo hi i
  let sat := decide (hi < v) || decide (v < lo)
  { l with
    state := .running, fresh := false, miss := false, missRun := 0
    p := acc40 t.1, i := acc40 i', d := acc40 t.2.2.1, f := acc40 t.2.2.2.1, v, xPrev := x, u := divRound u 32768
    e := q15 e, y, r, r32, r32Prev := l.r32, ramp
    satHi := decide (hi < v), satLo := decide (v < lo), accSat := accOver i0 || accOver sum || accOver i'
    ffInv := t.2.2.2.2, ffAt := if t.2.2.2.2 then some (l.ffAt.getD s.phys) else none
    clip := decide (1 ≤ cfgMeas w) && decide (cfgMeas w ≤ 8) &&
      (decide (aiNewest s (cfgMeas w - 1) = 32767) || decide (aiNewest s (cfgMeas w - 1) = -32768))
    gains := g, satRun := if sat then l.satRun + 1 else 0, aiSum := 0, aiN := 0 }

/-! ### Traces (R311) -/

/-- Status flags of Table 10.7 word 0, [23:16]. -/
def loopFlags (l : Loop) : Nat :=
  fld 1 7 (b2n l.miss) + fld 1 6 (b2n l.satHi) + fld 1 5 (b2n l.satLo) + fld 1 4 (b2n l.accSat) + fld 1 3 (b2n l.ffInv)
  + fld 1 2 (b2n l.clip) + fld 2 0 l.slot

/-- A traced signal, Q15. -/
def traceSignal (l : Loop) (n : Nat) : Nat :=
  let acc (x : Int) : Nat := code 16 (q15 (divRound x 32768))
  match n with
  | 0 => code 16 l.r | 1 => code 16 l.y | 2 => code 16 l.e | 3 => acc l.p | 4 => acc l.i | 5 => acc l.d | 6 => acc l.f
  | 7 => acc l.v | 8 => code 16 l.u | 9 => loopFlags l
  | _ => 0

/-- The next freeze number (R483). -/
def nextFreeze (s : State) : Nat × State :=
  let n := if 0xFFFFFFFF ≤ s.xfer.freezes then 1 else s.xfer.freezes + 1
  (n, { s with xfer := { s.xfer with freezes := n } })

/-- A full post-trigger part freezes its buffer. -/
def settleTrace (b : Nat) (s : State) : State :=
  let t : Trace := mget {} s.ctl.traces b
  if t.state = .filling ∧ t.post = 0 then
    let r := nextFreeze s
    modTrace b (fun t => { t with state := .frozen, freeze := r.1, time := (t.data.getLast?.map (·.1)).getD s.tb.ns }) r.2
  else s

/-- A buffer sees an evaluation of its loop. -/
def traceEval (k : Nat) (s : State) (b : Nat) : State :=
  let t : Trace := mget {} s.ctl.traces b
  if t.loop ≠ k ∨ (t.state ≠ .armed ∧ t.state ≠ .filling) then s
  else if t.count + 1 < t.n then modTrace b (fun t => { t with count := t.count + 1 }) s
  else
    let l := loopOf s k
    let w := BitVec.ofNat 32 (traceSignal l (t.sigs / 16) * 65536 + traceSignal l (t.sigs % 16))
    settleTrace b (modTrace b (fun t => { t with
      count := 0, data := ((s.tb.ns, w) :: t.data).take 8192, post := if t.state = .filling then t.post - 1 else t.post }) s)

/-- A trigger of a loop reaches the buffers that trace it. -/
def loopTrigger (src k : Nat) (only : Nat → Bool) (s : State) : State :=
  let bs := (List.range 4).filter fun b => (mget {} s.ctl.traces b : Trace).loop == k && only b
  (List.range 4).foldl (fun s b => settleTrace b s) (traceTrigger src bs s)

/-! ### Outputs (R297) -/

/-- A loop's output is written to its sink. -/
def writeSink (k : Nat) (s : State) : State :=
  let l := loopOf s k
  let sink := cfgSink (loopCfg s k)
  let u := if l.u < 0 then 0 else l.u
  if 1 ≤ sink ∧ sink ≤ 6 then
    let n := sink - 1
    let lim := pv s pCtlPwDutyMax n
    let duty := if n ∈ s.ctl.gated ∨ n ∈ s.ctl.podGate then 0 else (divRound ((if lim < u then lim else u) * (pn s pCtlPwPeriod n : Nat)) 32768).toNat
    withCtl s fun c => { c with pwNext := mput c.pwNext n duty }
  else if sink = 7 ∨ sink = 8 then
    let n := sink - 7
    let c := if pn s pCtlDaMode n = 1 then clampI 0 4095 (2048 + divRound (l.u * 2048) 32768) else clampI 0 4095 (divRound (u * 4095) 32768)
    withCtl s fun k => { k with da := mput k.da n (if s.husk.pwmOff then 0 else c.toNat) }
  else s

/-- A PW output whose next period has begun takes its shadow duty. -/
def pwPeriods (s : State) : State :=
  (List.range 6).foldl (fun s n =>
    let p := s.phys * 4 / (25 * max 1 (pn s pCtlPwPeriod n))
    if mget 0 s.ctl.pwPer n = p then s
    else withCtl s fun c => { c with pwPer := mput c.pwPer n p, pw := mput c.pw n (mget 0 c.pwNext n) }) s

/-! ### Misses and faults (R305, R306) -/

/-- A loop enters FAULT. -/
def faultLoop (k : Nat) (s : State) : State :=
  let brake := bit (loopCfg s k) 4
  let s := post .loopFault 6 k [] (stopLoop .fault k s)
  let s := if brake then { s with seq := { s.seq with brakeOff := false } } else s
  seqLoopFault k (loopTrigger 1 k (fun _ => true) s)

/-- An evaluation fell due without a valid measurement: at the first of a host's loop its enabling ends with 0x11; else the loop
is held, and in FAULT after CTL.MISS_MAX (R305, Table 10.6). -/
def missLoop (k : Nat) (s : State) : State :=
  let l := loopOf s k
  if l.fresh && !reserved s k then endLoopItems k 0x11 (stopLoop .off k s)
  else
    let s := modLoop k (fun l => { l with state := .held, miss := true, missRun := l.missRun + 1, missN := inc16 l.missN }) s
    let s := loopTrigger 2 k (fun _ => true) ((List.range 4).foldl (traceEval k) s)
    if pn s pCtlMissMax k ≤ (loopOf s k).missRun then faultLoop k s else s

/-- A pending LOOP_SET enters CTL.SETPOINT. -/
def takeSetpoint (k : Nat) (s : State) : State :=
  match (loopOf s k).setp with
  | none => s
  | some x => endItems [0xC002] k 0x00 (modLoop k (fun l => { l with setp := none }) (setApplied s pCtlSetpoint k x))

/-- A loop due at the tick: its inputs are those of `s0`, its outputs are written at the tick's end. -/
def dueLoop (s0 : State) (s : State) (k : Nat) : State :=
  match measure s0 k with
  | none => missLoop k s
  | some y =>
    let first := (loopOf s k).fresh
    let l := evaluate s0 k y
    let s := modLoop k (fun _ => l) s
    let s := if first then endLoopItems k 0x00 s else s
    let s := (List.range 4).foldl (traceEval k) s
    let s := if l.satRun = 64 then loopTrigger 3 k (fun _ => true) s else s
    let s := loopTrigger 4 k (fun b => decide (pv s pCtlTraceErr b < (l.e.natAbs : Nat))) s
    writeSink k s

/-- The loop runs. -/
def loopRuns (s : State) (k : Nat) : Bool :=
  match (loopOf s k).state with
  | .running | .held => true
  | _ => false

/-- The loop is evaluated in this tick. -/
def loopDue (s : State) (k : Nat) : Bool :=
  let l := loopOf s k
  loopRuns s k && l.placed && s.ctl.tick % max 1 l.div == l.phase

/-- Class-H values of the engine that wait for a loop to be off. -/
def ctlIdleApply (s : State) : State :=
  let ks := (s.par.staged.map (·.1)).filter fun k => decide (k / 65536 / 4096 = 0xC) && decide (paramClass (k / 65536) = 2)
  if ks.isEmpty then s else applyIdle ks s

/-- The means of the tick enter the running loops' own. -/
def noteMeans (s : State) : State :=
  (List.range 8).foldl (fun s k =>
    let m := cfgMeas (loopCfg s k)
    if loopRuns s k && decide (1 ≤ m) && decide (m ≤ 8) then
      modLoop k (fun l => { l with aiSum := l.aiSum + s.ctl.aiMean.getD (m - 1) 0, aiN := l.aiN + 1 }) s
    else s) s

/-- CONTROL_TICK: inputs latched, due loops evaluated in ascending slot, outputs written. There is none without the domain's
clock (R209). -/
def execControlTick (dt : Nat) (ai aiMean : List Int) (s : State) : Out :=
  let s := advance dt s
  if !sequencing s || s.husk.pwmOff then .next s
  else
    let s := withCtl s fun c => { c with tick := c.tick + 1, ai := (ai.take 8).map q15, aiMean := (aiMean.take 8).map q15 }
    let s := noteMeans s
    let due := sortBy (fun k => (loopOf s k).slot) ((List.range 8).filter (loopDue s))
    let s := due.foldl (fun s k => takeSetpoint k s) s
    .next (ctlIdleApply (pwPeriods (due.foldl (dueLoop s) s)))

/-- FF_INVALID_TIMEOUT: 10 ms without a valid ratio. -/
def execFfInvalidTimeout (dt loop : Nat) (s : State) : Out :=
  let s := advance dt s
  if loopRuns s loop && passed s (loopOf s loop).ffAt (10 * msNs) then .next (faultLoop loop s) else .next s

/-! ### Commands (R310, R311) -/

/-- The loop's sink is a PW output gated by the Husk. -/
def sinkGated (s : State) (k : Nat) : Bool :=
  let n := cfgSink (loopCfg s k)
  decide (1 ≤ n) && decide (n ≤ 6) && (s.ctl.gated.contains (n - 1) || s.ctl.podGate.contains (n - 1))

/-- LOOP_ENABLE of one loop: its result where it has one at once. -/
def enableLoop (k : Nat) (s : State) : Option Nat × State :=
  let w := loopCfg s k
  if reserved s k then (some 0x10, s)
  else if cfgMeas w = 0 ∨ cfgSink w = 0 then (some 0x11, s)
  else if sinkGated s k then (some 0x12, s)
  else if loopRuns s k then (if (loopOf s k).fresh then none else some 0x01, s)
  else (none, startLoop k s)

/-- LOOP_ENABLE's disabling of one loop. An enabling that awaits its first evaluation ends with it: the loop has stopped. -/
def disableLoop (k : Nat) (s : State) : Option Nat × State :=
  if reserved s k then (some 0x10, s)
  else if (loopOf s k).state = .off then (some 0x01, s)
  else (some 0x00, takeSetpoint k (endLoopItems k 0x00 (stopLoop .off k s)))

/-- Items that have a result at once get it. -/
def endAtOnce (key : Nat × Nat) (rs : List (Nat × Option Nat)) (s : State) : State :=
  rs.foldl (fun s r => match r.2 with
    | some c => endItem key r.1 c s
    | none => s) s

/-- LOOP_ENABLE; a loop named both ways is disabled. -/
def execLoopEnable (dt : Nat) (rq : Request) (s : State) : Out :=
  .next (mailbox 0xC001 dt rq (fun t s =>
    let on := num t.payload 0 1
    let off := num t.payload 1 1
    let named := (List.range 8).filter fun k => bit on k || bit off k
    let s := openItems t 8 named s
    let r := named.foldl (fun (a : List (Nat × Option Nat) × State) k =>
      let x := if bit off k then disableLoop k a.2 else enableLoop k a.2
      (a.1 ++ [(k, x.1)], x.2)) ([], s)
    endAtOnce (txnKey t) r.1 r.2) s)

/-- LOOP_SET: the value waits for the next evaluation of a running loop; where none will come it enters at once. -/
def execLoopSet (dt : Nat) (rq : Request) (s : State) : Out :=
  .next (mailbox 0xC002 dt rq (fun t s =>
    let n := num t.payload 0 1
    let k := n % 8
    let s := openItems t 8 [k] (noteReserved n 0x7 s)
    if reserved s k then endItem (txnKey t) k 0x10 s
    else
      let s := modLoop k (fun l => { l with setp := some (signed 16 (num t.payload 1 2)) }) s
      if loopRuns s k then s else takeSetpoint k s) s)

/-- STATE and OWNER codes (Table 10.7). -/
def loopCode : LoopSt → Nat
  | .off => 0 | .running => 1 | .held => 2 | .fault => 3 | .forced => 4
def loopOwner (s : State) (k : Nat) : Nat := if !reserved s k then 0 else if k ≤ 1 then 1 else 2

/-- The four words of a loop (Table 10.7). -/
def loopWords (s : State) (k : Nat) : List Nat :=
  let l := loopOf s k
  [fld 4 28 (loopCode l.state) + fld 4 24 (loopOwner s k) + fld 8 16 (loopFlags l) + l.missN,
    fld 16 16 (code 16 l.r) + code 16 l.y, fld 16 16 (code 16 l.u) + code 16 l.e, fld 16 16 l.phase + fld 16 0 l.div]

/-- LOOP_STATUS. -/
def execLoopStatus (dt : Nat) (rq : Request) (s : State) : Out :=
  .next (readOp 0xC003 dt rq (fun t s => words ((setBits 8 (num t.payload 0 1)).flatMap (loopWords s))) s)

/-- A trace buffer is armed under the CTL.TRACE values applied now (R311). -/
def armTrace (b : Nat) (s : State) : State :=
  let w := pn s pCtlTraceCfg b
  modTrace b (fun t => {
    state := .armed, loop := bits w 18 16, sigs := bits w 15 12 * 16 + bits w 11 8, n := max 1 (bits w 7 0)
    trig := pn s pCtlTraceTrig b, preN := 8192 * pn s pCtlTracePre b / 100, freeze := t.freeze }) s

/-- TRACE_ARM: buffers armed, then those to trigger now. -/
def execTraceArm (dt : Nat) (rq : Request) (s : State) : Out :=
  .next (mailbox 0xC004 dt rq (fun t s =>
    let m := num t.payload 0 1
    let s := (setBits 4 m).foldl (fun s b => armTrace b s) s
    let s := traceTrigger 0 (setBits 4 (m / 16)) s
    complete t 0x00 [] ((List.range 4).foldl (fun s b => settleTrace b s) s)) s)

end Sys2Proof.Machine
end

