-- ==== Sys2Proof/Machine/ParamOps.lean ====
section
/-!
DEFINITION. Parameter items, descriptors and chunked transfers as operations (R445, R451 to R461).
-/
namespace Sys2Proof.Machine
open Sys2Proof

/-! ### Items -/

/-- Items a request of an item size names, and how many are served: the count is reduced to what the response holds, and a
payload that does not fit the count is counted (R426, R451). -/
def itemCount (t : Txn) (n sizeIn sizeOut : Nat) (s : State) : Nat × State :=
  let most := (largest t.port - 4) / sizeOut
  let s := if most < n then countClamps 1 s else s
  (min n most, if t.payload.length = 4 + sizeIn * n then s else countClamps 1 s)

/-- The instance is absent: unused on an enumerated string-sense node (R12, R445). -/
def absent (s : State) (kind inst : Nat) : Bool :=
  match kind with
  | 1 => (nodeOf s (nodeOfCell inst)).type == 2
  | 3 => (nodeOf s (nodeOfTemp inst)).type == 2
  | _ => false

/-- The selector addresses an instance of the ID. -/
def hasInst (s : State) (id : Nat) (r : PRow) (inst : Nat) : Bool :=
  decide (inst < kindCount r.kind id) && !absent s r.kind inst

/-- Instances a PARAM_SET selector addresses (R445). -/
def instsOf (s : State) (id : Nat) (r : PRow) (inst : Nat) : List Nat :=
  if inst = 0xFFFF then (List.range (kindCount r.kind id)).filter (hasInst s id r)
  else if hasInst s id r inst then [inst] else []

/-- Bytes of an item of the response: ID, instance, value, result, info (Table 16.5). -/
def itemReply (id inst value result info : Nat) : Bytes :=
  le 2 id ++ le 2 inst ++ le 4 value ++ [BitVec.ofNat 8 result, BitVec.ofNat 8 info] ++ le 2 0

/-- The info byte: class, RO and PENDING. -/
def itemInfo (s : State) (id inst : Nat) : Nat :=
  paramClass id * 64 + b2n (isInfo id) * 32 + b2n ((mfind s.par.staged (pk id inst)).isSome) * 16

/-- ID not served in Cress (R454). -/
def cressBars (s : State) (view id : Nat) : Bool :=
  level s == 1 && (view == 1 || !(decide (id / 4096 ≤ 2)))

/-- Descriptor of an ID, and its result in byte 11 (Table 16.7). -/
def descriptorBytes (id result : Nat) : Bytes :=
  if result ≠ 0 then le 2 id ++ List.replicate 9 0 ++ [BitVec.ofNat 8 result] ++ List.replicate 52 0
  else
    match paramRow id with
    | some r =>
      le 2 id ++ [BitVec.ofNat 8 (r.cls * 64 + b2n r.sgn * 16 + r.typ), BitVec.ofNat 8 r.kind] ++ le 2 (kindCount r.kind id)
      ++ List.replicate 6 0 ++ le 4 (pCode r.lo) ++ le 4 (pCode r.hi) ++ le 4 (pCode (paramDefault id 0))
      ++ sized 16 (ascii r.unit) ++ sized 24 (ascii r.name)
    | none =>
      let d := sized 62 (Config.infoDescriptor id)
      let att := (d.getD 0 0).toNat
      le 2 id ++ (d.set 0 (BitVec.ofNat 8 (32 + att % 32))).set 9 0

/-- Instances of an information ID, from its descriptor (Table 16.7). -/
def infoCountOf (id : Nat) : Nat := num (sized 62 (Config.infoDescriptor id)) 2 2

/-- Value and result of one item of an information ID: what its source returns at this moment, a free value (R444). -/
def infoItem (s : State) (id inst : Nat) : Nat × Nat :=
  if inst < infoCountOf id then ((Config.infoValue id inst s.free).toNat, 0x00) else (0xFFFFFFFF, 0x02)

/-- Value and result of one PARAM_GET item (views 0 to 2). -/
def getItem (s : State) (view id inst : Nat) : Nat × Nat :=
  if cressBars s view id then (0, 0x12)
  else
    match paramRow id with
    | none => if isInfo id then infoItem s id inst else (0, 0x10)
    | some r =>
      if !hasInst s id r inst then (0xFFFFFFFF, 0x02)
      else if view = 1 then (pCode (pStaged s id inst), 0x00)
      else if view = 2 then (pCode (paramDefault id inst), 0x00)
      else (pCode (pv s id inst), 0x00)

/-- Result of one PARAM_GET item of view 3. -/
def describeItem (s : State) (id : Nat) : Nat :=
  if cressBars s 3 id then 0x12
  else if (paramRow id).isSome || isInfo id then 0x00 else 0x10

/-- Status of a completion by its item results (Table 16.6). -/
def paramStatus (results : List Nat) : Nat := if results.any fun r => 0x10 ≤ r then 0x11 else 0x00

/-- One item of a write before the batch: its result where it writes nothing, else its values as clamped. -/
def writeItem (s : State) (id inst raw : Nat) : State × Option Nat × List (Nat × Int) :=
  match paramRow id with
  | none => (s, some (if isInfo id then 0x11 else 0x10), [])
  | some r =>
    let is := instsOf s id r inst
    if is.isEmpty then (s, some 0x02, [])
    else
      is.foldl (fun (acc : State × Option Nat × List (Nat × Int)) i =>
        let c := clampOwn acc.1 r id i raw
        (countClamps c.2 acc.1, none, acc.2.2 ++ [(pk id i, c.1)])) (s, none, [])

/-- One item of a write as it stands while the batch is gathered: ID, selector, result or none, first instance written. -/
abbrev WriteItem := Nat × Nat × Option Nat × Nat

/-- Items of a PARAM_SET gathered into one batch. -/
def gather (s : State) (items : List (Nat × Nat × Nat)) : State × List WriteItem × List (Nat × Int) :=
  items.foldl (fun (acc : State × List WriteItem × List (Nat × Int)) e =>
    let r := writeItem acc.1 e.1 e.2.1 e.2.2
    let first := (r.2.2.map (·.1 % 65536)).headD 0
    (r.1, acc.2.1 ++ [(e.1, e.2.1, r.2.1, first)], acc.2.2 ++ r.2.2)) (s, [], [])

/-- The staging generation after one change of the area (R452). -/
def nextGen (s : State) : State :=
  { s with par := { s.par with generation := if 0xFFFF ≤ s.par.generation then 1 else s.par.generation + 1 } }

/-- Result, and bytes, of one written item once the batch is in place. -/
def writtenItem (s : State) (w : WriteItem) : Nat × Bytes :=
  match w.2.2.1 with
  | some r => (r, itemReply w.1 w.2.1 (if r = 0x02 then 0xFFFFFFFF else 0) r (paramClass w.1 * 64 + b2n (isInfo w.1) * 32))
  | none =>
    let pending := (mfind s.par.staged (pk w.1 w.2.2.2)).isSome
    let r := b2n pending
    (r, itemReply w.1 w.2.1 (pCode (pStaged s w.1 w.2.2.2)) r (itemInfo s w.1 w.2.2.2))

/-- The batch of a PARAM_SET: written as one transaction, the generation counting every item that stages (R448, R452). -/
def setItems (items : List (Nat × Nat × Nat)) (s : State) : State × List (Nat × Bytes) :=
  let g := gather s items
  let s := writeBatch false g.2.2 g.1
  let out := g.2.1.map (writtenItem s)
  ((out.filter (·.1 = 1)).foldl (fun s _ => nextGen s) s, out)

/-! ### Transfers (R456 to R459) -/

/-- Data a chunk carries on a port (R456). -/
def chunkSize (p : Port) : Nat := largest p - 12

/-- Parts of a transfer request header (Table 16.8). -/
def xferOff (t : Txn) : Nat := num t.payload 0 4
def xferTotal (t : Txn) : Nat := num t.payload 4 4
def xferKind (t : Txn) : Nat := num t.payload 8 1

/-- A reserved byte of the transfer header is set, or the header is cut short. -/
def noteXfer (t : Txn) (s : State) : State :=
  noteReserved (num t.payload 9 3) 0 (if t.payload.length < 12 then countClamps 1 s else s)

/-- A read that fails: twelve zero bytes and the result (R456). -/
def failRead (t : Txn) (c : Nat) (s : State) : State := complete t 0x11 (List.replicate 12 0 ++ [BitVec.ofNat 8 c]) s

/-- A chunk of a held image: at most what was wanted, the port's chunk and what is left. -/
def readChunk (t : Txn) (m : Image) (s : State) : State :=
  let off := xferOff t
  let n := min (xferTotal t) (min (chunkSize t.port) (m.data.length - off))
  let s := if n < xferTotal t then countClamps 1 s else s
  complete t 0x00 (le 4 m.freeze ++ le 4 m.data.length ++ le 4 off ++ (m.data.drop off).take n) s

/-- What a write chunk does to its transfer (R458): result, the transfer after it, and whether it is complete. -/
def writeChunk (t : Txn) (now size : Nat) (x : Option Transfer) : Nat × Option Transfer × Bool :=
  let off := xferOff t
  let total := xferTotal t
  let data := t.payload.drop 12
  if xferKind t ≠ 0 then (0x84, x, false)
  else if x.any (fun x => x.port ≠ t.port || x.session ≠ t.session) then (0x83, x, false)
  else if off = 0 then
    if size < total ∨ total < data.length then (0x82, none, false)
    else (0x80, some { port := t.port, session := t.session, total, data, lastAt := now }, data.length == total)
  else
    match x with
    | none => (0x81, none, false)
    | some x =>
      if off ≠ x.data.length then (0x81, none, false)
      else if total ≠ x.total ∨ total < off + data.length then (0x82, none, false)
      else
        let d := x.data ++ data
        (0x80, some { x with data := d, lastAt := now }, d.length == total)

/-- Completion of a write chunk: result, bytes received so far, and what follows (R456). -/
def answerChunk (t : Txn) (c received : Nat) (more : Bytes) (s : State) : State :=
  complete t (if c = 0x80 ∨ c = 0x00 then 0x00 else 0x11)
    ([BitVec.ofNat 8 c, 0, 0, 0] ++ le 4 received ++ le 4 0 ++ more) s

/-- Buffer sizes (R459). -/
abbrev cfgBuffer : Nat := 262144
abbrev snapBuffer : Nat := 884764

/-! ### Configuration images (R460, R461) -/

/-- The configuration IDs in ascending order, but SYS.CLAMP_COUNT. -/
def configIds : List Nat :=
  ((List.range 16).flatMap fun g => (List.range (groupParams g).length).map (g * 4096 + ·)).filter (· != pSysClampCount)

/-- Every ID of the catalogue in ascending order. -/
def catalogueIds : List Nat :=
  (List.range 16).flatMap fun g =>
    (List.range (groupParams g).length).map (g * 4096 + ·) ++ (List.range (infoCount g)).map (g * 4096 + 0x800 + ·)

/-- An image: header, body and CRC-32 (Table 16.10). -/
def imageBytes (s : State) (format count : Nat) (body : Bytes) : Bytes :=
  let b := le 4 (format * 65536) ++ uid s ++ le 2 Config.fwRomVer.toNat ++ le 2 s.pow.epoch ++ le 4 count
    ++ le 4 (36 + body.length) ++ body
  b ++ le 4 (crc32 b)

/-- One record of a configuration image. -/
def imageRecord (s : State) (view : Nat) (id : Nat) : Bytes :=
  let n := ((paramRow id).map fun r => kindCount r.kind id).getD 0
  le 2 id ++ le 2 0 ++ le 2 n ++ le 2 0
  ++ (List.range n).flatMap fun i => le 4 (pCode (if view = 1 then pStaged s id i else pv s id i))

/-- The image of a kind of PARAM_BULK_GET. -/
def assemble (s : State) (kind : Nat) : Bytes :=
  if kind = 2 then imageBytes s 2 catalogueIds.length (catalogueIds.flatMap (descriptorBytes · 0))
  else imageBytes s 1 configIds.length (configIds.flatMap (imageRecord s kind))

/-- Records of an image body: ID, first instance and values; none where they do not fill it exactly. -/
def parseRecords : Nat → Bytes → Option (List (Nat × Nat × List Nat))
  | 0, b => if b.isEmpty then some [] else none
  | n + 1, b =>
    if b.length < 8 then none
    else
      let c := num b 4 2
      let rest := b.drop 8
      if rest.length < 4 * c then none
      else
        let vs := (List.range c).map fun i => num rest (4 * i) 4
        (parseRecords n (rest.drop (4 * c))).map fun rs => (num b 0 2, num b 2 2, vs) :: rs

/-- The records of an image that passes the checks of R461 step 1. -/
def judgeImage (b : Bytes) : Option (List (Nat × Nat × List Nat)) :=
  let n := b.length
  if n < 36 ∨ num b 0 4 ≠ 0x00010000 ∨ num b 28 4 ≠ n ∨ num b (n - 4) 4 ≠ crc32 (b.take (n - 4)) then none
  else parseRecords (num b 24 4) ((b.drop 32).take (n - 36))

/-- The values of an image written in one transaction with every staged class-S value of every group (R461): the counts
written and skipped, and the state. -/
def applyImage (rs : List (Nat × Nat × List Nat)) (s : State) : Nat × Nat × State :=
  let vals := rs.flatMap fun r => (r.2.2.zip (List.range r.2.2.length)).map fun v => (r.1, r.2.1 + v.2, v.1)
  let ok (e : Nat × Nat × Nat) : Bool := e.1 != pSysClampCount && match paramRow e.1 with
    | some r => hasInst s e.1 r e.2.1
    | none => false
  let used := vals.filter ok
  let g := gather s used
  let before := s.par.staged.filter fun e => paramClass (e.1 / 65536) == 1
  let s := writeBatch true (before ++ g.2.2) g.1
  let pend := (g.2.2.filter fun e => (mfind s.par.staged e.1).isSome).length
  let s := (List.range (pend + b2n (!before.isEmpty))).foldl (fun s _ => nextGen s) s
  (used.length, vals.length - used.length, s)

end Sys2Proof.Machine
end

