-- ==== Sys2Proof/Machine/Estimation.lean ====
section
/-!
DEFINITION. The commands and events of estimation and of the firmware's periodic passes (chapters 5 and 7), EST_READ, the
estimator snapshot and its restore (R171 to R175, R457, R458), IMP_REF_SET and STRING_CLEAR.
-/
namespace Sys2Proof.Machine
open Sys2Proof

/-! ### Periodic passes -/

/-- CELL_FILTER_PASS (R155, R170): the held scan. -/
def execCellFilterPass (dt : Nat) (s : State) : Out :=
  let s := advance dt s
  if arrayUp s then .next (filterPass s) else .next s

/-- LIMIT_CYCLE (R156). -/
def execLimitCycle (dt : Nat) (s : State) : Out := .next (limitWork (advance dt s))

/-- SCAN_EVALUATION (R92, R217). -/
def execScanEvaluation (dt : Nat) (s : State) : Out := .next (scanEval (closeIfHeld (advance dt s)))

/-- CHAIN_CYCLE_EVALUATION (R92, R154, R218, R219). -/
def execChainCycleEvaluation (dt : Nat) (s : State) : Out := .next (cycleEval (advance dt s))

/-! ### Capacity learning (R176 to R179) -/

/-- The median of a list that is not empty, 0 of an empty one: of an even number the mean of the two in the middle. -/
def middle (xs : List Rat) : Rat :=
  let l := xs.foldr medianOf.ins []
  let n := l.length
  if n % 2 = 1 then l.getD (n / 2) 0 else (l.getD (n / 2 - 1) 0 + l.getD (n / 2) 0) / 2

/-- Every cell of the string is known at σ ≤ EST.SIGMA_OK. -/
def allSure (s : State) (j : Nat) : Bool :=
  let k := (p0 s pEstSigmaOk : Rat) / 10000
  (stringCells s j).all fun c => (mfind s.est.cells c).any fun e => decide (e.p11 ≤ k * k)

/-- Lowest code of Table 05.9 that does not hold for the cycle that ends, 0 for none. -/
def cycleCode (s : State) (j : Nat) : Nat :=
  let l := learnOf s j
  let moved := (stringCells s j).filterMap fun c =>
    (mfind s.est.cells c).bind fun e => e.anchorSoc.map fun a => ratAbs (a - e.soc)
  if middle moved * 100 < 40 then 1
  else if l.badTemp then 2
  else if l.badSpread then 3
  else if p0 s pEstCNom * l.samples < 2 * l.absSum then 4
  else if l.longRest then 5
  else if l.outage then 6
  else if l.lostIn then 7
  else 0

/-- The cycle that ends is rejected with its code, or waits for its capacity update. An update of the same string still
uncomputed then makes its learning stale (R150, R179). -/
def endCycle (j idx start : Nat) (s : State) : State :=
  let k := cycleCode s j
  let late := s.est.backlog.any (·.str == j)
  let s := modLearn j (fun l => { l with stale := l.stale || late }) s
  if k ≠ 0 then post .learnRejected 4 j ([BitVec.ofNat 8 j, BitVec.ofNat 8 k] ++ le 4 start ++ le 4 idx) s
  else
    let cells := stringCells s j
    let used : SMap (Rat × Rat × Rat) := cells.filterMap fun c =>
      match mfind s.est.cells c with
      | some e => if e.startBad || e.restBad then none else e.anchorSoc.map fun a => (c, a, e.soc, e.qbLearn)
      | none => none
    let q : Cycle := { str := j, charge := ((learnOf s j).charge : Rat) / 1000000, cells := used, all := cells }
    withEst s fun e => { e with backlog := e.backlog ++ [q] }

/-- A new cycle begins with the anchor that ended at sample index `idx`. -/
def startCycle (j idx : Nat) (s : State) : State :=
  let s := (stringCells s j).foldl (fun s c =>
    modEst c (fun e => { e with anchorSoc := some e.soc, startBad := e.restBad, qbLearn := 0 }) s) s
  modLearn j (fun l => { l with
    restOver := none, startIdx := some idx, charge := 0, absSum := 0, samples := 0, badTemp := false, badSpread := false
    longRest := false, outage := false, lostIn := isLost s j }) s

/-- ANCHOR_END (R176, R177): a whole rest of the string has ended. With a cell less sure than EST.SIGMA_OK it is no anchor,
and counts as a long rest (log 26). -/
def execAnchorEnd (dt str : Nat) (s : State) : Out :=
  let s := advance dt s
  match (learnOf s str).restOver with
  | none => .next s
  | some idx =>
    if !podUp s then .next s
    else if !allSure s str then .next (modLearn str (fun l => { l with restOver := none, longRest := true }) s)
    else
      match (learnOf s str).startIdx with
      | some start => .next (startCycle str idx (endCycle str idx start s))
      | none => .next (startCycle str idx s)

/-- A cell's capacity after a qualified cycle (R178): C_m of a ΔSoC of zero, and how far the variance falls, are not stated:
free values (log 26). -/
def learnCap (s : State) (charge : Rat) (c : Nat) (x : Rat × Rat × Rat) (e : CellEst) : CellEst :=
  let m := if x.1 = x.2.1 then Config.freeRat (s.free + 2 * c) else (charge + x.2.2) / (x.1 - x.2.1)
  let most := ratAbs e.cap * (p0 s pEstCapStepMax : Nat) / 1000
  let d := ratMax (-most) (ratMin most ((p0 s pEstCapGain : Rat) / 100 * (m - e.cap)))
  { e with
    cap := Config.fp32 (e.cap + d), capVar := e.capVar * unit01 (Config.freeRat (s.free + 2 * c + 1)), learned := true, cAt := s.phys }

/-- CAPACITY_UPDATE (R178, R179): the string's oldest qualified cycle. -/
def execCapacityUpdate (dt str : Nat) (s : State) : Out :=
  let s := advance dt s
  match s.est.backlog.find? (·.str == str) with
  | none => .next s
  | some q =>
    if !arrayUp s then .next s
    else
      let t := q.cells.foldl (fun t x => modEst x.1 (learnCap s q.charge x.1 x.2) t) s
      let t := q.all.foldl (fun t c => modEst c (fun e => { e with cycles := satN 65535 (e.cycles + 1) }) t) t
      let left := eraseFirst (fun x : Cycle => x.str == str) s.est.backlog
      let t := { withEst t (fun e => { e with backlog := left }) with free := s.free + 2 * 9216 }
      let t := modLearn str (fun l => { l with stale := l.stale && left.any (·.str == str) }) t
      .next (post .capUpdate 4 str [BitVec.ofNat 8 str] t)

/-! ### EST_READ (R510) -/

/-- Three limits as codes, three not-available ones where there are none. -/
def limBytes (l : List Int) : Bytes := if l.isEmpty then words [0x80000000, 0x80000000, 0x80000000] else l.flatMap fun x => le 4 (currentCode (some x))

/-- A cell's item (Table 05.11). -/
def cellItem (o : CellOut) : Bytes :=
  [o.socRep, o.socInt, o.sigma, o.soh].flatMap (le 2) ++ words [o.cap, o.rser, o.rpa, o.rpb, o.cpa, o.cpb]
  ++ limBytes o.idis ++ limBytes o.ichg ++ [o.flags, 0, 0, 0]

/-- A string's item (Table 05.12). -/
def stringItem (o : StringOut) : Bytes :=
  [o.soc, o.soh].flatMap (le 2) ++ words [o.cap, o.res] ++ [o.lowSoc, o.lowIdx, o.highSoc, o.highIdx].flatMap (le 2)
  ++ limBytes o.idis ++ limBytes o.ichg ++ words o.pdis ++ words o.pchg ++ [o.flags, o.flags2, 0, 0]

/-- The block's item (Table 05.13). -/
def blockItem (o : BlockOut) : Bytes :=
  [o.soc, o.soh].flatMap (le 2) ++ words [o.cap, o.res] ++ limBytes o.idis ++ limBytes o.ichg ++ words o.pdis ++ words o.pchg
  ++ [o.flags, 0, 0, 0]

/-- Not-available powers, and a string and a block without estimate. -/
def powNa : List Nat := [0xFFFFFFFF, 0xFFFFFFFF, 0xFFFFFFFF]
def stringNa : StringOut := {
  soc := 0xFFFF, soh := 0xFFFF, cap := 0xFFFFFFFF, res := 0xFFFFFFFF, lowSoc := 0xFFFF, lowIdx := 0xFFFF, highSoc := 0xFFFF
  highIdx := 0xFFFF, idis := [], ichg := [], pdis := powNa, pchg := powNa, flags := 1, flags2 := 0
  socInt := 0xFFFF, sohInt := 0xFFFF, capInt := 0xFFFFFFFF, tempNa := true, e2 := 0, rDis2 := 0, rChg2 := 0 }
def blockNa : BlockOut := { idis := [], ichg := [], pdis := powNa, pchg := powNa }

/-- The item of an instance at a level. -/
def estItem (s : State) (lvl i : Nat) : Bytes :=
  match lvl with
  | 0 => cellItem ((mfind s.est.set.cells i).getD (cellOutNa 1))
  | 1 => stringItem ((mfind s.est.set.strings i).getD stringNa)
  | _ => blockItem (if s.est.any then s.est.set.block else blockNa)

/-- EST_READ (R510, R512): an undefined level reads cells. -/
def execEstRead (dt : Nat) (rq : Request) (s : State) : Out :=
  .next (mailbox 0x7002 dt rq (fun t s =>
    let raw := num t.payload 0 1
    let s := noteReserved (num t.payload 1 1) 0 (if 2 < raw then countClamps 1 s else s)
    let lvl := if 2 < raw then 0 else raw
    let total := [9216, 16, 1].getD lvl 1
    let g := rangeOf t (num t.payload 2 2) (num t.payload 4 2) total ([60, 72, 64].getD lvl 60) 4 s
    complete t 0x00 (le 4 g.2.2.est.set.sidx ++ (List.range g.2.1).flatMap fun i => estItem g.2.2 lvl (g.1 + i)) g.2.2) s)

/-! ### Numbers of the snapshot: IEEE 754 binary32 (R171) -/

/-- 2 to a power of either sign. -/
def pow2 (e : Int) : Rat := if e < 0 then 1 / (2 ^ (-e).toNat : Nat) else ((2 ^ e.toNat : Nat) : Rat)

/-- The exponent of a positive rational: 2^e ≤ x < 2^(e + 1). -/
def expOf (x : Rat) : Int :=
  let a := (Nat.log2 x.num.natAbs : Int) - (Nat.log2 x.den : Int)
  if pow2 a ≤ x then a else a - 1

/-- A positive rational rounded to an integer, halves to even. -/
def roundEven (x : Rat) : Nat :=
  let f := x.floor.toNat
  let r := x - (f : Rat)
  if r * 2 < 1 then f else if 1 < r * 2 then f + 1 else if f % 2 = 0 then f else f + 1

/-- The binary32 code of a number, rounded to nearest, halves to even; beyond the format infinity. -/
def fp32Bits (x : Rat) : Nat :=
  if x = 0 then 0
  else
    let sign := if x < 0 then 2 ^ 31 else 0
    let m := ratAbs x
    let e : Int := if expOf m < -126 then -126 else expOf m
    let q := roundEven (m / pow2 (e - 23))
    let code := if q < 2 ^ 23 then q else (e + 126).toNat * 2 ^ 23 + q
    sign + satN 0x7F800000 code

/-- The number a binary32 code stands for, none for an infinity and for no number. -/
def fp32Of (n : Nat) : Option Rat :=
  let e := bits n 30 23
  let f := bits n 22 0
  let m : Rat := if e = 0 then (f : Rat) * pow2 (-149) else ((2 ^ 23 + f : Nat) : Rat) * pow2 ((e : Int) - 150)
  if e = 255 then none else some (if bit n 31 then -m else m)

/-- A number in a snapshot field. -/
def fpBytes (x : Rat) : Bytes := le 4 (fp32Bits x)

/-! ### SNAP_READ (R171 to R173, R457) -/

/-- A cell's record of the newest set (Table 05.6); a DFLT cell's model values are the EST defaults (R170). -/
def snapRecord (s : State) (c : Nat) : Bytes :=
  match (mfind s.est.set.views c).filter fun _ => cellThere s c with
  | none => le 2 c ++ List.replicate 94 0
  | some e =>
    let t := { s with phys := s.est.set.at_ }
    let lost := (mfind s.est.set.cells c).any fun o => bit o.flags.toNat 6
    let m := model25 s e
    le 2 c ++ le 2 (1 + 2 * b2n (!e.dflt) + 4 * b2n e.learned + 8 * b2n lost)
    ++ [e.soc, e.vpa, e.vpb, e.p11, e.p12, e.p13, e.p22, e.p23, e.p33, e.cap, e.capVar, m.rser, m.rpa, m.cpa, m.rpb, m.cpb,
        e.rserRef].flatMap fpBytes
    ++ le 2 (confidence t e) ++ le 2 (satN 65535 e.fits) ++ le 2 (code 16 (tempSat (ratRound e.tMod))) ++ le 2 (satN 65535 e.cycles)
    ++ fpBytes e.efc ++ fpBytes e.bled ++ le 4 (ageOf t e.rAt) ++ le 4 (ageOf t e.cAt)

/-- The snapshot of the newest set. -/
def snapBytes (s : State) : Bytes :=
  let b := le 4 0x00010000 ++ uid s ++ le 4 9216 ++ (List.range 9216).flatMap (snapRecord s)
  b ++ le 4 (crc32 b)

/-- SNAP_READ (R457, R459): offset 0 freezes a snapshot. -/
def execSnapRead (dt : Nat) (rq : Request) (s : State) : Out :=
  .next (mailbox 0x7003 dt rq (fun t s =>
    let s := noteXfer t s
    if xferKind t ≠ 0 then failRead t 0x84 s
    else if xferOff t = 0 then
      if s.xfer.snapWrite.isSome then failRead t 0x83 s
      else
        let img : Image := { data := snapBytes s, freeze := if s.est.any then s.est.set.sidx else 0, lastAt := s.phys }
        readChunk t img { s with xfer := { s.xfer with snapImage := some img } }
    else
      match s.xfer.snapImage with
      | none => failRead t 0x85 s
      | some img => readChunk t img { s with xfer := { s.xfer with snapImage := some { img with lastAt := s.phys } } }) s)

/-! ### SNAP_WRITE (R174, R175, R458) -/

/-- Result of a restore whose last byte has come (Table 05.7). -/
def restoreCode (s : State) (d : Bytes) : Nat :=
  let n := d.length
  let cells := num d 20 4
  if n < 4 ∨ num d (n - 4) 4 ≠ crc32 (d.take (n - 4)) then 1
  else if num d 2 2 ≠ 1 then 2
  else if field d 4 16 ≠ uid s ∧ p0 s pEstRestoreForeign = 0 then 3
  else if cells = 0 ∨ 9216 < cells ∨ n ≠ 28 + 96 * cells then 4
  else if 600 * secNs < since s s.pow.epochAt then 5
  else if s.est.accepted then 6
  else 0

/-- A restored field limited to its range, and 1 where that changed it. What an infinity, or no number, stands for is not
stated: a free value (log 26). -/
def restoreField (free n : Nat) (lo : Rat) (hi : Option Rat) : Rat × Nat :=
  let x := (fp32Of n).getD (Config.freeRat free)
  let y := limitRat lo hi x
  (y, b2n (x != y))

/-- The bounds of a parameter as numbers of a unit. -/
def fieldBounds (id : Nat) (unit : Rat) : Rat × Option Rat :=
  match paramRow id with
  | some r => ((r.lo : Rat) * unit, some ((r.hi : Rat) * unit))
  | none => (0, none)

/-- A record's fields within their ranges, and how many were limited. -/
def restoreRecord (s : State) (c : Nat) (b : Bytes) : Restored × Nat :=
  let fl := num b 2 2
  let at_ (k off : Nat) (r : Rat × Option Rat) : Rat × Nat := restoreField (s.free + 16 * c + k) (num b off 4) r.1 r.2
  let pos : Rat × Option Rat := (0, none)
  let soc := at_ 0 4 (0, some 1)
  let p11 := at_ 1 16 pos
  let cap := at_ 2 40 (fieldBounds pEstCNom (36 / 10))
  let cv := at_ 3 44 pos
  let rs := at_ 4 48 (fieldBounds pEstRserDef (1 / 1000000))
  let ra := at_ 5 52 (fieldBounds pEstRpaDef (1 / 1000000))
  let ca := at_ 6 56 (fieldBounds pEstCpaDef 1)
  let rb := at_ 7 60 (fieldBounds pEstRpbDef (1 / 1000000))
  let cb := at_ 8 64 (fieldBounds pEstCpbDef 1)
  let ref := at_ 9 68 pos
  let efc := at_ 10 80 pos
  let bled := at_ 11 84 pos
  let n := ([soc, p11, cap, cv, ref, efc, bled] ++ (if bit fl 1 then [rs, ra, ca, rb, cb] else [])).map (·.2)
  ({ soc := soc.1, p11 := p11.1, cap := cap.1, capVar := cv.1, rValid := bit fl 1, learned := bit fl 2, rser := rs.1, rpa := ra.1
     cpa := ca.1, rpb := rb.1, cpb := cb.1, rserRef := ref.1, conf := num b 72 2, fits := num b 74 2, cycles := num b 78 2
     efc := efc.1, bled := bled.1, rAge := num b 88 4, cAge := num b 92 4 }, n.sum)

/-- An accepted restore: its records wait for the next limit cycle (R174, R175). -/
def acceptRestore (d : Bytes) (s : State) : State :=
  let recs := (List.range (num d 20 4)).map fun i => (i, (d.drop (24 + 96 * i)).take 96)
  let wrong := (recs.filter fun r => num r.2 0 2 ≠ r.1).length
  let used := (recs.filter fun r => decide (num r.2 0 2 = r.1) && bit (num r.2 2 2) 0 && cellThere s r.1).map fun r =>
    (r.1, restoreRecord s r.1 r.2)
  let n := wrong + (used.map (·.2.2)).sum
  let s := if n = 0 then s else countClamps n s
  { withEst s (fun e => { e with accepted := true, applyDue := true, restore := used.map fun r => (r.1, r.2.1) }) with
    free := s.free + 16 * 9216 }

/-- SNAP_WRITE (R458, R459): the final chunk is judged. -/
def execSnapWrite (dt : Nat) (rq : Request) (s : State) : Out :=
  .next (mailbox 0x7004 dt rq (fun t s =>
    let s := noteXfer t s
    let r := writeChunk t s.phys snapBuffer s.xfer.snapWrite
    let image := if xferKind t = 0 ∧ xferOff t = 0 ∧ r.1 ≠ 0x83 then none else s.xfer.snapImage
    let s := { s with xfer := { s.xfer with snapImage := image, snapWrite := if r.2.2 then none else r.2.1 } }
    let d := (r.2.1.map (·.data)).getD []
    if !r.2.2 then answerChunk t r.1 d.length [] s
    else
      let k := restoreCode s d
      answerChunk t k d.length [] (if k = 0 then acceptRestore d s else s)) s)

/-! ### IMP_REF_SET and STRING_CLEAR -/

/-- A cell's growth reference is set to its Rser where it is Valid, or cleared; the count of references changed. -/
def refCell (clear : Bool) (acc : Nat × State) (c : Nat) : Nat × State :=
  match mfind acc.2.est.cells c with
  | none => acc
  | some e =>
    if !clear && validity acc.2 e != .valid then acc
    else
      let x := if clear then 0 else e.rser
      if x = e.rserRef then acc else (acc.1 + 1, modEst c (fun e => { e with rserRef := x }) acc.2)

/-- IMP_REF_SET (R203). -/
def execImpRefSet (dt : Nat) (rq : Request) (s : State) : Out :=
  .next (mailbox 0x8001 dt rq (fun t s =>
    let m := num t.payload 4 1
    let s := if 1 < m then countClamps 1 s else s
    let g := rangeOf t (num t.payload 0 2) (num t.payload 2 2) 9216 0 0 s
    let r := ((List.range g.2.1).map (g.1 + ·)).foldl (refCell (m != 0)) (0, g.2.2)
    complete t 0x00 (le 2 r.1) r.2) s)

/-- A condition that called for the string's G3 is still entered. -/
def g3Called (s : State) (j : Nat) : Bool :=
  [CondId.cthi2, .impl2, .sum, .ocstrg3, .loss].any (condIn s · j)
  || (stringCells s j).any fun c => condIn s .cvhi2 c || condIn s .cvlo2 c || condIn s .nodata2 c

/-- The string is no longer lost: its filters resume with σ at EST.INIT_SIGMA (R181). -/
def clearLost (j : Nat) (s : State) : State :=
  let s := withPrt s fun g => { g with lost := g.lost &&& ~~~ BitVec.ofNat 16 (2 ^ j) }
  plainCond .loss j j false false ((stringCells s j).foldl (fun s c => modEst c (reacquire s) s) s)

/-- The string's G3 latch is cleared; FW_OPEN_STR names it no longer. -/
def clearG3 (j : Nat) (s : State) : State :=
  g2Leave (keyG3 j) (unnameString j (withPrt s fun g => { g with
    g3 := g.g3 &&& ~~~ BitVec.ofNat 16 (2 ^ j), g3wait := mdel g.g3wait j }))

/-- STRING_CLEAR on one string: LOST, then WELD_SUSPECT, then the G3 latch, which stays while its condition does. -/
def clearString (key : Nat × Nat) (sel : Nat) (s : State) (j : Nat) : State :=
  let lost := bit sel 17 && isLost s j
  let weld := bit sel 18 && (strOf s j).weld
  let s := if lost then clearLost j s else s
  let s := if weld then modStr j (fun x => { x with weld := false }) s else s
  if bit sel 16 && bit s.prt.g3.toNat j then
    if g3Called s j then endItem key j 0x11 s else endItem key j 0x00 (clearG3 j s)
  else endItem key j (if lost || weld then 0x00 else 0x01) s

/-- STRING_CLEAR (R236): LOST and WELD_SUSPECT are a Service session's to clear. -/
def execStringClear (dt : Nat) (rq : Request) (s : State) : Out :=
  .next (mailbox 0xA005 dt rq (fun t s =>
    let w := num t.payload 0 4
    let s := noteReserved w 0x7FFFF s
    if (bit w 17 || bit w 18) && decide (t.role < 2) then complete t 0x12 [] s
    else
      let named := setBits 16 w
      named.foldl (clearString (txnKey t) w) (openItems t 16 named s)) s)

end Sys2Proof.Machine
end

