-- ==== Sys2Proof/Machine/FitOps.lean ====
section
/-!
DEFINITION. The impedance engine as operations: the events it watches, the block trigger, the edge, response instants, the
closing of a step, and the fit of a cell (R184 to R199).
-/
namespace Sys2Proof.Machine
open Sys2Proof

/-! ### Watching (R184, R192) -/

/-- Samples of I in the quiet window, and in IMP.EDGE_MAX. -/
def quietN (par : SMap Int) : Nat := keptN par pImpQuietT * 320
def edgeN (par : SMap Int) : Nat := (keptN par pImpEdgeMax * 4 + 124) / 125

/-- The IMP values applied now. -/
def impPars (s : State) : SMap Int := s.par.applied.filter fun e => decide (e.1 / 65536 / 4096 = 8)

/-- A condition, noted where it holds. -/
def noteIf (b : Bool) (outcome n : Nat) (s : State) : State := if b then noteImp outcome n s else s

/-- The events of Table 06.3 present at a sampling instant. A CLIP sample is excluded too (Table 04.2); the tables name no outcome
for it, and it takes that of NA and TKOV (DESIGN CHOICE, log 152). -/
def watchEvents (s : State) : State :=
  let f := s.met.cur.flags.toNat
  let seen := switchMarks s
  let loops := [0, 1].any fun k => reserved s k && (loopOf s k).state != .off
  let moved := (!s.imp.elements.isEmpty && seen != s.imp.elements) || loops
  let s := noteIf (s.seq.joins.any (·.knAt.isSome)) 0x10 0 s
  let s := noteIf (bit f 2) 0x11 0 s
  let s := noteIf (bit f 5 || bit s.met.vb.flags.toNat 5) 0x13 0 s
  let s := (servedRings s).foldl (fun s r => noteIf (!(ringAt s r).wrapDone) 0x14 r s) s
  let s := noteIf moved 0x15 0 s
  let s := noteIf (bit f 0 || bit f 4 || bit f 6) 0x16 0 s
  let s := noteIf (anyLatched s || s.prt.g3 != 0 || s.prt.g4) 0x17 0 s
  if seen = s.imp.elements then s else withImp s fun i => { i with elements := seen }

/-- Mean of values, none of none. -/
def meanOf (l : List Int) : Option Rat := if l.isEmpty then none else some ((l.sum : Int) / ((l.length : Nat) : Rat))

/-- The step threshold of one string, mA. -/
def stepMin (par : SMap Int) (s : State) : Rat := (keptN par pImpStepMinC : Rat) * (p0 s pEstCNom : Nat) / 1000

/-- The IMP values of the instant enter the history of those in force (R206). -/
def notePars (s : State) : State :=
  let par := impPars s
  if s.imp.pars.head?.map (·.2) = some par then s
  else withImp s fun i => { i with pars := ((s.met.sidx, par) :: i.pars).take 64 }

/-- The IMP values in force at a sample index. -/
def parsAt (s : State) (idx : Nat) : SMap Int := ((s.imp.pars.find? fun e => idxGe idx e.1).map (·.2)).getD (impPars s)

/-- A step whose response is past its last instant waits to be closed, and another may be declared (R186). -/
def retireStep (s : State) : State :=
  match s.imp.open_, s.imp.closing with
  | some k, none => if k.confirmed && k.past s.met.sidx then withImp s fun i => { i with open_ := none, closing := some k } else s
  | _, _ => s

/-- I enters the history, and the block trigger is judged (R184): the quiet window of the trigger ends IMP.EDGE_MAX before
the instant, so that it holds no sample of the edge. A candidate begins at the instant at which the threshold is crossed. -/
def stepTrigger (s : State) : State :=
  let s := notePars (retireStep s)
  let par := impPars s
  let q := quietN par
  let e := edgeN par
  let before := s.imp.hist.head?.join
  let s := withImp s fun i => { i with hist := (iNow s :: i.hist).take (q + 2 * e + 128) }
  let n := (serviceList s).length
  if p0 s pImpEnable = 0 ∨ s.imp.open_.isSome ∨ n = 0 then s
  else
    let win := (s.imp.hist.drop (e + 1)).take q
    match iNow s, meanOf (win.filterMap id) with
    | some i, some iq =>
      let high (x : Int) : Bool := decide (stepMin par s * n ≤ ratAbs (x - iq))
      if win.length = q ∧ high i ∧ !before.any high then
        withImp s fun m => { m with open_ := some { trig := s.met.sidx, iq, par } }
      else s
    | _, _ => s

/-! ### Confirming (R184, R185, R187) -/

/-- The edge of a candidate: places, from the first sample of the segment, of its 10, 50 and 90 % points, and how far before
the 50 % sample the crossing lies, µs. -/
structure Edge where
  k10  : Nat
  k50  : Nat
  k90  : Nat
  back : Nat
  deriving DecidableEq, Repr

/-- First place at which I has passed a share of the block step `d` from `iq`. -/
def passesAt (seg : List (Option Int)) (iq d share : Rat) : Option Nat :=
  seg.findIdx? fun x => match x with
    | some i => if 0 < d then decide (d * share ≤ i - iq) else decide (i - iq ≤ d * share)
    | none => false

/-- The edge in a segment of samples, oldest first; none where it began before the segment. -/
def edgeOf (seg : List (Option Int)) (iq : Rat) : Option Edge :=
  match (seg.filterMap id).getLast? with
  | none => none
  | some fin =>
    let d : Rat := fin - iq
    match passesAt seg iq d (1 / 10), passesAt seg iq d (1 / 2), passesAt seg iq d (9 / 10) with
    | some 0, _, _ => none
    | some a, some b, some c =>
      let back : Rat := match (seg[b]?).join, if b = 0 then none else (seg[b - 1]?).join with
        | some x1, some x0 => if x1 = x0 then 0 else (x1 - (iq + d / 2)) / ((x1 - x0 : Int) : Rat) * 125 / 4
        | _, _ => 0
      some { k10 := a, k50 := b, k90 := c, back := min 31 (ratRound (ratMax 0 back)).toNat }
    | _, _, _ => none

/-- Samples of a string after the edge, and in the quiet window, from its history. -/
def afterEdge (h : List (Nat × Int)) (edge : Nat) : Option Int := (h.find? fun x => idxGe x.1 edge).map (·.2)
def quietPart (h : List (Nat × Int)) (idx10 q : Nat) : List Int :=
  (h.filter fun x => !idxGe x.1 idx10 && decide (idxDiff idx10 x.1 ≤ q)).map (·.2)

/-- A string's part in a candidate: I0 and ΔI where it steps and was quiet; false where it steps and was not. -/
def stringStep (s : State) (par : SMap Int) (j edge idx10 : Nat) : Option (Rat × Rat) × Bool :=
  let h := mget [] s.imp.histS j
  let win := quietPart h idx10 (quietN par)
  match afterEdge h edge, meanOf win with
  | some x, some i0 =>
    let d : Rat := x - i0
    if ratAbs d < stepMin par s then (none, true)
    else
      let pp : Int := win.foldl max (win.headD 0) - win.foldl min (win.headD 0)
      if (pp : Rat) * 100 ≤ (keptN par pImpQuietPp : Nat) * ratAbs d then (some (i0, d), true) else (none, false)
  | some _, none => (none, false)
  | none, _ => (none, true)

/-- Events of the quiet window that the engine has noted. -/
def hitsSince (s : State) (t : Nat) : List Nat := (s.imp.events.filter fun e => decide (t ≤ e.2)).map (·.1)

/-- Sample index of a place of a candidate's segment, which begins IMP.EDGE_MAX before the trigger. -/
def placeIdx (k : Step) (p : Nat) : Nat := (k.trig + 2 ^ 32 - edgeN k.par + p) % 2 ^ 32

/-- The samples of I of a confirmed step's strings that came before it was confirmed enter it (R185). -/
def heldCurrents (s : State) (k : Step) : Step :=
  k.strs.foldl (fun k e => (mget [] s.imp.histS e.1).reverse.foldl (fun k x => stepCurrent e.1 x.1 x.2 k) k) k

/-- The first response instant, planned before the edge was confirmed, lies in its window (R188). -/
def plannedFits (k : Step) : Bool :=
  match mfind k.insts 0 with
  | none => true
  | some i => idxGe i k.edge && decide (1000 ≤ stepUs k i) && decide (stepUs k i ≤ 3000)

/-- The candidate is judged once its edge and every string's sample after it are held: a step, or nothing. The IMP values are
those in force at the edge (R206). -/
def confirmStep (k : Step) (s : State) : State :=
  let d := idxDiff s.met.sidx k.trig
  let e := edgeN k.par
  let seg := ((s.imp.hist.drop (d - 32)).take (33 + e)).reverse
  let drop := withImp s fun i => { i with open_ := none }
  match edgeOf seg k.iq with
  | none => drop
  | some g =>
    let edge := placeIdx k g.k50
    let idx10 := placeIdx k g.k10
    let par := parsAt s edge
    let q := quietN par
    let strs := serviceList s
    let waits := strs.any fun j => (strSample s j).current.isSome && (afterEdge (mget [] s.imp.histS j) edge).isNone
    if waits then s
    else
      let parts := strs.map fun j => (j, stringStep s par j edge idx10)
      let inStep : SMap (Rat × Rat) := parts.filterMap fun p => p.2.1.map (p.1, ·)
      let slow := decide (keptN par pImpEdgeMax * 4 < (g.k90 - g.k10) * 125)
      if slow || inStep.isEmpty || parts.any (!·.2.2) then drop
      else
        let pre := if idxGe s.chn.scanSidx idx10 then s.chn.prevSidx else s.chn.scanSidx
        let ago (p : Nat) : Nat := (d + e - p) * 31250
        let quietAt := s.met.instAt - ago g.k10 - q * 31250
        let k := heldCurrents s { k with
          confirmed := true, time := s.met.instTime - ago g.k50 - g.back * 1000, edge, back := g.back, quietAt, strs := inStep
          preIdx := pre, pre := (s.imp.scans.find? (·.1 = pre)).map (·.2), states := (s.imp.passes.find? (·.1 = pre)).map (·.2)
          hits := hitsSince s quietAt, par }
        withImp s fun i => { i with open_ := some { k with failed := !plannedFits k } }

/-! ### Response instants (R188) -/

/-- Offsets in µs. -/
abbrev offsets : List Nat := [1000, 10000, 100000, 1000000]

/-- Instants of index `b` after index `a`, signed. -/
def idxSigned (b a : Nat) : Int := let d := idxDiff b a; if d < 2 ^ 31 then (d : Int) else (d : Int) - 2 ^ 32

/-- Cycles from the present one whose strobes lie inside a response window; times in quarters of a µs. -/
def windowCycles (s : State) (k : Step) (o : Nat) : List Int :=
  let t0 : Int := idxSigned (strobeIdx s) k.edge * 125 + 4 * (k.back : Nat)
  let first : Int := -((t0 - 4 * (o : Nat)) / 4000)
  let last : Int := (4 * (o + max 2000 (o / 10) : Nat) - t0) / 4000
  (List.range (last - first + 1).toNat).map fun i => first + (i : Nat)

/-- The cycle `m` cycles from now carries a regular cell strobe. -/
def regularAt (c : Chain) (m : Int) : Bool :=
  if 0 ≤ m then regularIn c m.toNat else ((c.phase : Int) + m) % (c.period : Int) == 0

/-- Of the cycles of a window, the first regular cell strobe, else an inserted one in the first cycle that has room for it. -/
def chooseAmong (c : Chain) (ms : List Int) : Option (Int × Bool) :=
  match ms.find? (regularAt c) with
  | some m => some (m, false)
  | none =>
    let busy (m : Int) : Bool := regularAt c m || (m == 0 && c.cellNow)
    (ms.find? fun m => decide (1 ≤ m) && !busy (m - 1) && !busy (m + 1)).map (·, true)

/-- The response instant of an offset. -/
def chooseInstant (s : State) (k : Step) (o : Nat) : Option (Int × Bool) := chooseAmong s.chn (windowCycles s k o)

/-- Sample index of the strobe `m` cycles from the present one's. -/
def strobeIn (s : State) (m : Int) : Nat := (((strobeIdx s : Int) + 32 * m) % 2 ^ 32).toNat

/-- An offset's instant is settled as chosen. -/
def settleAs (o : Nat) (s : State) : Option (Int × Bool) → State
  | none => modStep (fun k => { k with failed := true }) s
  | some (m, ins) =>
    let idx := strobeIn s m
    let s := if ins then withChn s fun c => { c with insertAt := some (((c.cycle : Int) + m) % 32768).toNat } else s
    let held := (s.imp.scans.find? (·.1 = idx)).map (·.2)
    modStep (fun k => { k with
      insts := mput k.insts o idx
      resp := match held with
        | some v => mput k.resp o v
        | none => k.resp }) s

/-- The step as an offset is planned on it: a confirmed one; for the first offset, as soon as its trigger is decided, a candidate
with the edge its samples show by then (R188, Table 06.2). -/
def planned (s : State) (o : Nat) (k : Step) : Option Step :=
  if k.confirmed then some k
  else if o = 0 then
    let seg := (s.imp.hist.take (idxDiff s.met.sidx k.trig + 1 + edgeN k.par)).reverse
    (edgeOf seg k.iq).map fun g => { k with edge := placeIdx k g.k50, back := g.back }
  else none

/-- An offset's instant is settled. -/
def settleInstant (o : Nat) (k : Step) (s : State) : State := settleAs o s (chooseInstant s k (offsets.getD o 0))

/-! ### Closing (R190 to R195) -/

/-- The step ended early, after its 10 ms response instant (R193). -/
def endedLate (k : Step) : Bool :=
  match k.ended, mfind k.insts 1 with
  | some e, some i => idxGe e i
  | _, _ => false

/-- Every value the outcome needs is held. -/
def closable (k : Step) : Bool :=
  k.confirmed && (k.failed || (mfind k.resp 3).isSome
    || (k.ended.isSome && (!endedLate k || ((mfind k.resp 0).isSome && (mfind k.resp 1).isSome))))

/-- Exclusions that concern the step: BLEED of its strings, wraps of rings that carry its cells. -/
def concerns (s : State) (k : Step) (key : Nat) : Bool :=
  let n := key % 65536
  match key / 65536 with
  | 0x12 => (mfind k.strs n).isSome
  | 0x14 => k.strs.any fun e => (cellNodes s e.1).any fun a => ringOf a == n
  | _ => true

/-- The outcome (Table 06.4): the lowest exclusion met, else how the response ended. -/
def outcomeOf (s : State) (k : Step) : Nat :=
  let hits := ((k.hits.filter (concerns s k)).map (· / 65536))
  match hits with
  | h :: hs => hs.foldl min h
  | [] => if k.failed then 0x1A else if k.ended.isNone then 0x00 else if endedLate k then 0x01 else 0x18

/-- Response offsets an outcome uses. -/
def usedOffsets (outcome : Nat) : List Nat := if outcome = 0 then [0, 1, 2, 3] else [0, 1]

/-- A cell of a kept step is fitted (R194). -/
def fittable (s : State) (k : Step) (outcome c : Nat) : Bool :=
  let clean (m : SMap CellValue) : Bool := (mget {} m c).qual &&& 0x3D == 0
  match mfind s.est.cells c, (k.states.getD []).find? (·.1 = c) with
  | some e, some x =>
    let lo := kept k.par pImpTMin
    let hi := kept k.par pImpTMax
    clean (k.pre.getD []) && (usedOffsets outcome).all (fun o => clean (mget [] k.resp o))
    && decide ((lo : Rat) ≤ x.2.tMod) && decide (x.2.tMod ≤ hi) && decide ((lo : Rat) ≤ e.tMod) && decide (e.tMod ≤ hi)
    && decide (ratAbs (e.tMod - x.2.tMod) ≤ 100)
  | _, _ => false

/-- ΔI of a string from its sums. -/
def finalDelta (k : Step) (j : Nat) (x : Rat × Rat) : Rat × Rat :=
  let a := mget (0, 0) k.sums j
  if a.2 = 0 then x else (x.1, (a.1 : Rat) / (a.2 : Nat) - x.1)

/-- A record older than IMP.FIT_DEFER_MAX waits. -/
def lateRecord (s : State) (k : Step) : Bool := decide (k.parN pImpFitDeferMax * secNs < since s k.queuedAt)

/-- RSTALE by R191 ends once no late record is left. -/
def clearStale (s : State) : State :=
  if s.imp.queue.any (lateRecord s) then s
  else withEst s fun e => { e with cells := mmap (fun _ c => { c with rstale := false }) e.cells }

/-- A record enters the queue; a full queue gives up its oldest one. -/
def queueStep (k : Step) (s : State) : State :=
  match s.imp.queue with
  | [] => withImp s fun i => { i with queue := [k] }
  | o :: os =>
    if 4 ≤ s.imp.queue.length then clearStale (postStep 0x19 0 0 o (withImp s fun i => { i with queue := os ++ [k] }))
    else withImp s fun i => { i with queue := i.queue ++ [k] }

/-- A response that has ended is closed: its outcome and its event, and a kept step's record queued. -/
def closeStep (k : Step) (s : State) : State :=
  let outcome := outcomeOf s k
  let k := { k with strs := k.strs.map fun e => (e.1, finalDelta k e.1 e.2), outcome, queuedAt := s.phys }
  if 2 ≤ outcome then postStep outcome 0 0 k s
  else
    let all := k.strs.flatMap fun e => stringCells s e.1
    let cells := all.filter (fittable s k outcome)
    queueStep { k with cells } (postStep outcome cells.length (all.length - cells.length) k s)

/-! ### The fit (R196 to R199) -/

/-- A parameter's mean and variance; variance 0 holds it. -/
structure Gauss where
  m : Rat
  v : Rat
  deriving DecidableEq, Repr

/-- Two pieces of knowledge joined. -/
def Gauss.join (a b : Gauss) : Gauss :=
  if a.v = 0 then a
  else if b.v = 0 then b
  else let w := 1 / a.v + 1 / b.v; { m := (a.m / a.v + b.m / b.v) / w, v := 1 / w }

/-- Running values of Rser, Rpa, τa and 1 ÷ Cpb at 25 °C with their variances; 100 % of each default while DFLT. -/
def runningParams (s : State) (e : CellEst) : List Gauss :=
  let m := model25 s e
  let tau := m.rpa * m.cpa
  let g := if m.cpb = 0 then 0 else 1 / m.cpb
  if e.dflt then [m.rser, m.rpa, tau, g].map fun x => { m := x, v := x * x }
  else
    let d := driftRsd s * e.rser * (((s.phys : Int) - e.rAt : Int) : Rat) / 86400000000000
    [{ m := m.rser, v := e.varRser + d * d }, { m := m.rpa, v := e.varRpa }, { m := tau, v := e.varTauA }, { m := g, v := e.varG }]

/-- The priors of a fit: the running values, and restored ones that wait for it, each taken once (R199). -/
def priorParams (s : State) (e : CellEst) : List Gauss :=
  let run := runningParams s e
  match e.prior with
  | none => run
  | some p =>
    let r (x : Rat) : Gauss := { m := x, v := p.rsd * x * (p.rsd * x) }
    let all := (run.zip [r p.rser, r p.rpa, r p.tauA, r p.g]).map fun x => x.1.join x.2
    if p.rOpen then all else run.take 1 ++ all.drop 1

/-- The priors scaled to a temperature factor: Rser, Rpa and τa follow it. -/
def scaled (f : Rat) (l : List Gauss) : List Gauss :=
  (l.zip [f, f, f, 1]).map fun x => { m := x.1.m * x.2, v := x.1.v * x.2 * x.2 }

/-- The modelled response resistance at `t` s and its derivatives. -/
def responseAt (p : List Rat) (t : Rat) : Rat :=
  p.getD 0 0 + p.getD 1 0 * (1 - decay t (p.getD 2 0)) + t * p.getD 3 0
def slopesAt (p : List Rat) (t : Rat) : List Rat :=
  let e := decay t (p.getD 2 0)
  [1, 1 - e, -(p.getD 1 0 * e * t / (p.getD 2 0 * p.getD 2 0)), t]

/-- One column of a Gauss-Jordan elimination. -/
def pivotCol (m : List (List Rat)) (i : Nat) : List (List Rat) :=
  let row := m.getD i []
  let d := row.getD i 0
  if d = 0 then m
  else
    let p := row.map (· / d)
    (m.zip (List.range m.length)).map fun x =>
      if x.2 = i then p else (x.1.zip p).map fun y => y.1 - x.1.getD i 0 * y.2

/-- Inverse of a 4 × 4 matrix. -/
def inverse4 (m : List (List Rat)) : List (List Rat) :=
  let wide := (m.zip (List.range 4)).map fun x => x.1 ++ (List.range 4).map fun k => if k = x.2 then 1 else 0
  ((List.range 4).foldl pivotCol wide).map (·.drop 4)

/-- Sum of products. -/
def dot (a b : List Rat) : Rat := ((a.zip b).map fun x => x.1 * x.2).sum

/-- The normal equations at `p`: matrix, and right side; a parameter without variance is held. -/
def normal (w : Rat) (ys : List (Rat × Rat)) (pri : List Gauss) (p : List Rat) : List (List Rat) × List Rat :=
  let js := ys.map fun y => (slopesAt p y.1, y.2 - responseAt p y.1)
  let held (i : Nat) : Bool := (pri.getD i { m := 0, v := 0 }).v == 0
  let cell (i k : Nat) : Rat :=
    if held i || held k then (if i = k then 1 else 0)
    else w * (js.map fun j => j.1.getD i 0 * j.1.getD k 0).sum + (if i = k then 1 / (pri.getD i { m := 0, v := 0 }).v else 0)
  let rhs (i : Nat) : Rat :=
    if held i then 0
    else
      let q := pri.getD i { m := 0, v := 0 }
      w * (js.map fun j => j.1.getD i 0 * j.2).sum + (q.m - p.getD i 0) / q.v
  ((List.range 4).map fun i => (List.range 4).map (cell i), (List.range 4).map rhs)

/-- Gauss-Newton iterations, three of them from the running values: the parameters and the last inverse. -/
def gaussNewton (w : Rat) (ys : List (Rat × Rat)) (pri : List Gauss) : Nat → List Rat → List Rat × List (List Rat)
  | 0, p => (p, [])
  | n + 1, p =>
    let e := normal w ys pri p
    let inv := inverse4 e.1
    let q := ((List.range 4).map fun i => p.getD i 0 + dot (inv.getD i []) e.2)
    match n with
    | 0 => (q, inv)
    | _ => gaussNewton w ys pri n q

/-- Response resistances y_k of a cell at the instants used: time in s, and Ω (R196). -/
def responses (s : State) (k : Step) (d : Rat × Rat) (c : Nat) (x : FilterState) (e : CellEst) : List (Rat × Rat) :=
  let e0 := { e with soc := x.soc, vpa := x.vpa, vpb := x.vpb, tMod := x.tMod }
  let i0 := d.1 / 1000
  let di := d.2 / 1000
  (usedOffsets k.outcome).filterMap fun o =>
    match mfind k.insts o with
    | none => none
    | some idx =>
      let t := stepUs k idx / 1000000
      let b := predictCell s ((idxDiff idx k.preIdx : Nat) / 32000) i0 0 e0
      let vb := ocvAt s b.soc b.tMod - i0 * (modelOf s b).rser - b.vpa - b.vpb
      let v : Rat := ((mget {} (mget [] k.resp o) c).volt : Rat) / 10000
      let slope := ocvSecant s x.soc (x.soc - di * t / e.cap) x.tMod
      some (t, -(v - vb) / di - slope * t / e.cap)

/-- A fit is accepted (R198). -/
def acceptable (k : Step) (w : Rat) (ys : List (Rat × Rat)) (p : List Rat) : Bool :=
  let tau := p.getD 2 0 * 1000
  let sq := (ys.map fun y => (y.2 - responseAt p y.1) * (y.2 - responseAt p y.1) * w).sum
  decide (0 < p.getD 0 0) && decide (0 ≤ p.getD 1 0) && decide (0 ≤ p.getD 3 0)
  && decide ((k.parN pImpTauaMin : Rat) ≤ tau) && decide (tau ≤ (k.parN pImpTauaMax : Nat))
  && decide (sq ≤ 9 * (ys.length : Nat))

/-- The cell's running values after an accepted fit. With Rpa or 1 ÷ Cpb at 0 the capacitance the rule divides by them has no
stated value: a free value (log 26). -/
def accepted (s : State) (f : Rat) (p : List Rat) (inv : List (List Rat)) (pri : List Gauss) (e : CellEst) : CellEst :=
  let m := model25 s e
  let r (x : Rat) : Rat := Config.fp32 x
  let var (i : Nat) (sc : Rat) : Rat :=
    let q := pri.getD i { m := 0, v := 0 }
    (if q.v = 0 then 0 else (inv.getD i []).getD i 0) / (sc * sc)
  let rpa := p.getD 1 0
  let g := p.getD 3 0
  let tauB := m.rpb * m.cpb
  { e with
    dflt := false, rser := r (p.getD 0 0 / f), rpa := r (rpa / f)
    cpa := r (if rpa = 0 then ratAbs (Config.freeRat s.free) else p.getD 2 0 / rpa)
    cpb := r (if g = 0 then ratAbs (Config.freeRat (s.free + 1)) else 1 / g), rpb := r (tauB * g)
    varRser := r (var 0 f), varRpa := r (var 1 f), varTauA := r (var 2 f), varG := r (var 3 1)
    prior := none, fits := inc16 e.fits, rAt := s.phys }

/-- One cell is fitted: accepted, or counted as rejected. A fit of Rser alone holds the other parameters at their running
values, and their variances stay. -/
def fitCell (k : Step) (d : Rat × Rat) (c : Nat) (s : State) : State :=
  match mfind s.est.cells c, mfind (k.states.getD []) c with
  | some e, some x =>
    let f := rtFactor s x.tMod
    let run := runningParams s e
    let whole := decide (k.outcome = 0)
    let pri := if whole then priorParams s e
      else ((priorParams s e).take 1) ++ (run.drop 1).map fun q => { q with v := 0 }
    let pri := scaled f pri
    let ys := responses s k d c x e
    let vn : Rat := (k.parN pImpVNoise : Rat) / 10000
    let w := (d.2 / 1000) * (d.2 / 1000) / (2 * vn * vn)
    let start := (scaled f run).map (·.m)
    let g := gaussNewton w ys pri 3 start
    if acceptable k w ys g.1 then
      let e1 := accepted s f g.1 g.2 pri e
      let e1 := if whole then e1
        else { e1 with
          rpa := (model25 s e).rpa, cpa := (model25 s e).cpa, rpb := (model25 s e).rpb, cpb := (model25 s e).cpb
          varRpa := (run.getD 1 { m := 0, v := 0 }).v, varTauA := (run.getD 2 { m := 0, v := 0 }).v
          varG := (run.getD 3 { m := 0, v := 0 }).v, prior := e.prior.map fun p => { p with rOpen := false } }
      drawn (drawn (modEst c (fun _ => e1) s))
    else modEst c (fun e => { e with impRej := inc16 e.impRej }) s
  | _, _ => s

/-- A queued record is fitted. -/
def fitRecord (k : Step) (s : State) : State :=
  k.cells.foldl (fun s c =>
    match (cellString s c).bind (mfind k.strs) with
    | some d => if d.2 = 0 then s else fitCell k d c s
    | none => s) s

end Sys2Proof.Machine
end

