-- ==== Sys2Proof/Machine/MetOps.lean ====
section
/-!
DEFINITION. Bus metrology as operations: samples and flags, the range selection, the rotating spare, insulation, the energy
and charge counters, and the capture (R109 to R146).
-/
namespace Sys2Proof.Machine
open Sys2Proof

/-- The metrology part changed. -/
def withMet (s : State) (f : Metrology → Metrology) : State := { s with met := f s.met }

/-! ### Samples (R109 to R113) -/

/-- Roles by number: 0 VB, 1 VL, 2 IH, 3 IL, 4 VI. Measuring range, saturation level and full scale in mV, nV or µV. The manual
does not say what the full scale of VB is against which MET.DRIFT_ALARM holds, its range of 1,600 V or its saturation level:
the model takes the range (DESIGN CHOICE, log 146). -/
def roleLow (r : Nat) : Int := [0, -50000, -10000000, -320000000, -64000000].getD r 0
def roleHigh (r : Nat) : Int := [1600000, 1600000, 10000000, 320000000, 64000000].getD r 0
def roleSat (r : Nat) : Int := if r = 0 then 1700000 else roleHigh r
def roleFull (r : Nat) : Int := roleHigh r

/-- The live conversion of a role. -/
def liveOf (cv : Conversions) : Nat → Option Int
  | 0 => cv.vb | 1 => cv.vl | 2 => cv.ih | 3 => cv.il | _ => cv.vi

/-- The modulator that serves a role; 6 where none does. -/
def servingOf (m : Metrology) (r : Nat) : Nat := m.serving.getD r 6

/-- Calibration age of a role, ns; none where it is unknown (R125, R127). -/
def calAge (s : State) (r : Nat) : Option Nat :=
  if r ∈ s.met.unknown then none else (mfind s.met.calAt (servingOf s.met r * 8 + r)).map (s.phys - ·)

/-- A role's samples carry STALE. -/
def roleStale (s : State) (r : Nat) : Bool :=
  match calAge s r with
  | none => true
  | some a => decide (p0 s pMetCalStaleT * secNs < a)

/-- A conversion is beyond its role's measuring range. -/
def clipped (r : Nat) (x : Int) : Bool := decide (x < roleLow r) || decide (roleHigh r < x)

/-- The handover correction still to be slewed out of a role. -/
def slewNow (m : Metrology) (r : Nat) : Int :=
  if m.slewRole = r ∧ 0 < m.slewN then divRound (m.slewD * (m.slewN : Nat)) 65536 else 0

/-- A role's sample at an instant. -/
def roleSample (s : State) (cv : Conversions) (r : Nat) : RoleSample :=
  let m := s.met
  let raw := if m.ready ∧ servingOf m r < 6 then (liveOf cv r).map (· - slewNow m r) else none
  let off := r == 4 && p0 s pMetInsMode == 0
  let state := 2 * b2n (r == 3) + 8 * b2n (m.slewRole == r && decide (0 < m.slewN))
    + 16 * b2n (decide (0 < mget 0 m.tkov r)) + 32 * b2n (roleStale s r)
  match raw with
  | none => { value := 0, flags := BitVec.ofNat 8 (1 + state) }
  | some x =>
    let v := clampI (roleLow r) (roleSat r) x
    { value := if r = 1 ∧ v < 0 then 0 else v
      flags := BitVec.ofNat 8 (b2n off + state + 64 * b2n (clipped r x) + 128 * b2n (r == 1 && decide (v < 0))) }

/-! ### The reported current (R111, R116 to R119) -/

/-- Current in mA of a shunt voltage in nV. -/
def shuntCurrent (s : State) (nv : Int) : Int :=
  divRound (nv * 1000000000) ((p0 s pMetShuntR : Nat) * (1000000 + pv s pMetShuntTrim 0))

/-- The selection after an instant: IL selected, samples inside the window. The rule's text is silent where IH is not available:
IL is then selected and the count starts again; and where there is no value before, the present one stands for it (DESIGN
CHOICE, log 147). -/
def selectRange (m : Metrology) (ih : RoleSample) : Bool × Nat :=
  if bit ih.flags.toNat 0 then (true, 0)
  else
    let x := ih.value
    let p := x + 2 * (x - m.ihPrev.getD x)
    if bit ih.flags.toNat 6 || decide (9000000 ≤ x.natAbs) || decide (9000000 ≤ p.natAbs) then (true, 0)
    else if !m.selIL then (false, 0)
    else if x.natAbs < 8000000 then if 33 ≤ m.inside + 1 then (false, 0) else (true, m.inside + 1)
    else (true, 0)

/-- The path an instant's current is taken from: IL where the range is IL only, or while a mismatch stands; the other
path where one is served no more. -/
def pathIL (s : State) (sel : Bool) : Bool :=
  if servingOf s.met 2 = 6 then true
  else if servingOf s.met 3 = 6 then false
  else sel || p0 s pMetRangeMode == 1 || s.met.ilOnly

/-- The current sample of an instant. Where IH stands for an IL that is served no more, it is CLIP wherever it reaches full
scale (R128). -/
def currentSample (s : State) (il : Bool) (trans : Bool) (ih ilS : RoleSample) : RoleSample :=
  let x := if il then ilS else ih
  let f := x.flags.toNat
  let full := !il && servingOf s.met 3 == 6 && !bit f 0 && decide (10000000 ≤ x.value.natAbs)
  { value := if bit f 0 then 0 else shuntCurrent s x.value
    flags := BitVec.ofNat 8 (((f ||| 2) - 2 * b2n (!il) + 4 * b2n trans) ||| 64 * b2n full) }

/-- Timestamp of the sampling instant under way: the tick's, less the tick line's delay (R15, R465). -/
def instantTime (s : State) : Nat := s.tb.ns - Config.tickDelay

/-- The samples of an instant enter the section: the five roles, the selection and the reported current. At the `first` instant
of an epoch no path was selected before. -/
def takeSamples (first : Bool) (cv : Conversions) (s : State) : State :=
  let sm (r : Nat) : RoleSample := roleSample s cv r
  let sel := selectRange s.met (sm 2)
  let il := pathIL s sel.1
  let was := bit s.met.cur.flags.toNat 1
  let changed := !first && was != il
  let tn := if changed then 3 else s.met.transN - 1
  let cur := currentSample s il (changed || decide (0 < s.met.transN)) (sm 2) (sm 3)
  withMet s fun m => { m with
    curPrev := if bit m.cur.flags.toNat 0 then none else some m.cur.value
    vb := sm 0, vl := sm 1, ih := sm 2, il := sm 3, vi := sm 4, cur
    selIL := sel.1, inside := sel.2, ihPrev := if bit (sm 2).flags.toNat 0 then none else some (sm 2).value, transN := tn
    tkov := (m.tkov.map fun e => (e.1, e.2 - 1)).filter fun e => e.2 != 0
    slewN := m.slewN - 1, instAt := s.phys, instTime := instantTime s
    lastI := if bit cur.flags.toNat 0 then m.lastI else some cur.value
    lastVal := [(9, sm 0), (10, sm 1), (11, cur)].foldl (fun v e => if bit e.2.flags.toNat 0 then v else mput v e.1 (e.2.value, s.phys))
      m.lastVal }

/-- Σ(IL − IH) over a second of 32,000 samples (R120). -/
def followDiff (m : Metrology) : Metrology :=
  let f := m.ih.flags.toNat ||| m.il.flags.toNat
  let use := !bit f 0 && !bit f 5 && !bit m.ih.flags.toNat 6 && decide (m.ih.value.natAbs < 8000000)
  let sum := if use then m.diffSum + (m.il.value - m.ih.value) else m.diffSum
  let n := if use then m.diffN + 1 else m.diffN
  if m.diffTick + 1 < 32000 then { m with diffSum := sum, diffN := n, diffTick := m.diffTick + 1 }
  else { m with diffSum := 0, diffN := 0, diffTick := 0, diffMean := if n = 0 then none else some (divRound sum n) }

/-! ### The overlap (R121 to R123) -/

/-- The capture holds the spare (Table 04.6). -/
def capHolds (s : State) : Bool := decide (s.met.cap.state ≠ .idle) && s.met.cap.spare != 0

/-- The spare's filter fills over 8 samples; then pairs with the live modulator are accumulated. -/
def followOverlap (cv : Conversions) (s : State) : State :=
  match s.met.calPhase with
  | .fill =>
    withMet s fun m => if m.calN + 1 < 8 then { m with calN := m.calN + 1 } else { m with calPhase := .overlap, calN := 0, pairs := 0, pairSum := 0 }
  | .overlap =>
    let r := s.met.calRole
    withMet s fun m =>
      let m := { m with calN := m.calN + 1 }
      match liveOf cv r, cv.spare with
      | some a, some b =>
        if clipped r a || clipped r b then m else { m with pairs := m.pairs + 1, pairSum := m.pairSum + (b - a) }
      | _, _ => m
  | _ => s

/-- A step under way is given up for a capture that holds the spare. -/
def yieldSpare (s : State) : State :=
  if capHolds s then
    match s.met.calPhase with
    | .fill | .overlap | .abandoned => withMet s fun m => { m with calPhase := .idle, calN := 0 }
    | .idle => s
  else s

/-! ### Counters (R141, R143) -/

/-- One sample of VB (mV) and I (mA) enters the counters: P × 31.25 µs is P × 2^21 ÷ 15,625 in 2^−32 mWs, I × 31.25 µs is
I × 2^24 ÷ 125 in 2^−32 mAs. What a product has below the fraction is dropped toward minus infinity (DESIGN CHOICE,
log 148). -/
def countPair (v i : Int) (m : Metrology) : Metrology :=
  let p := v * i
  let e := p.natAbs * 2 ^ 21 / 15625
  { m with eDis := if 0 < p then m.eDis + e else m.eDis, eChg := if p < 0 then m.eChg + e else m.eChg
           qNet := m.qNet + i * 2 ^ 24 / 125 }

/-- Linear interpolation at step `k` of `n + 1` between two values. -/
def between (a b : Int) (k n : Nat) : Int := a + divRound ((b - a) * k) (n + 1 : Nat)

/-- The samples of a short NA run are bridged between its valid neighbours. -/
def bridge (a b : Int × Int) (n : Nat) : Nat → List (Option Int × Option Int) → Metrology → Metrology
  | _, [], m => m
  | k, x :: xs, m =>
    let m := countPair (x.1.getD (between a.1 b.1 k n)) (x.2.getD (between a.2 b.2 k n)) { m with ctrGap := inc32 m.ctrGap }
    bridge a b n (k + 1) xs m

/-- An instant's sample enters the counters: NA runs of up to four are bridged, longer ones add nothing; a CLIP sample marks
them (Table 04.2). -/
def countInstant (m : Metrology) : Metrology :=
  let v := if roleValid m.vb then some m.vb.value else none
  let i := if roleValid m.cur then some m.cur.value else none
  let m := { m with ctrClip := m.ctrClip || bit m.vb.flags.toNat 6 || bit m.cur.flags.toNat 6 }
  match v, i with
  | some v, some i =>
    let m := match m.lastPair with
      | some a => if m.naRun ≤ 4 then bridge a (v, i) m.naRun 1 m.gap m else m
      | none => if m.naRun ≤ 4 then { m with ctrLost := satN 0xFFFFFFFF (m.ctrLost + m.naRun) } else m
    countPair v i { m with gap := [], naRun := 0, lastPair := some (v, i) }
  | _, _ =>
    let n := m.naRun + 1
    { m with
      naRun := n, gap := if n ≤ 4 then m.gap ++ [(v, i)] else []
      ctrLost := if n < 5 then m.ctrLost else satN 0xFFFFFFFF (m.ctrLost + if n = 5 then 5 else 1) }

/-- A written base is added once. -/
def addBase (m : Metrology) : Metrology :=
  match m.base with
  | none => m
  | some b => { m with
      eDis := m.eDis + b.1 * 2 ^ 32, eChg := m.eChg + b.2.1 * 2 ^ 32, qNet := m.qNet + b.2.2 * 2 ^ 32, base := none, baseMiss := false }

/-! ### The sample index (R25, R485) -/

/-- The index of an instant: the first one of the epoch is 0; a wrap counts the epoch byte and is recorded. -/
def nextIndex (s : State) : State :=
  if !s.met.begun then withMet s fun m => { m with begun := true }
  else if s.met.sidx < 0xFFFFFFFF then withMet s fun m => { m with sidx := m.sidx + 1 }
  else
    let e := (s.met.sidxEp + 1) % 256
    postKind 6 [BitVec.ofNat 8 e] (withMet s fun m => { m with sidx := 0, sidxEp := e })

/-! ### The capture (R144 to R146) -/

/-- A wideband value in the encoding of the role MET.CAP_SPARE_ROLE names: 1 VB, 2 VL, 3 IH, 4 IL (R144). -/
def wideWord (s : State) (x : Int) : Nat :=
  if s.met.cap.spare ≤ 2 then busCode (some x) else currentCode (some (shuntCurrent s x))

/-- The words of an instant: flags, the channels of the mask, and the spare's wideband values. -/
def captureInstant (s : State) (cv : Conversions) : List (BitVec 32) :=
  let m := s.met
  let ch := m.cap.channels
  let fl (n : Nat) (r : RoleSample) : Nat := if bit ch n then r.flags.toNat else 0
  let volts := fl 0 m.vb ||| fl 1 m.vl ||| fl 5 m.vi
  let amps := fl 2 m.cur ||| fl 3 m.ih ||| fl 4 m.il
  let v (r : RoleSample) : Option Int := if roleValid r then some r.value else none
  let word (n : Nat) : Nat :=
    match n with
    | 0 => busCode (v m.vb)
    | 1 => busCode (v m.vl)
    | 2 => currentCode (v m.cur)
    | 3 => currentCode ((v m.ih).map (shuntCurrent s))
    | 4 => currentCode ((v m.il).map (shuntCurrent s))
    | _ => currentCode (v m.vi)
  let wide := if bit ch 6 then (List.range 10).map fun i => if m.cap.lostWide then 0 else wideWord s (cv.wide.getD i 0) else []
  ((fld 16 16 m.sidx + fld 8 8 volts + fld 8 0 amps) :: ((setBits 6 ch).map word ++ wide)).map (BitVec.ofNat 32)

/-- The capture takes an instant while armed or filling. -/
def followCapture (cv : Conversions) (s : State) : State :=
  let c := s.met.cap
  let entry : CapInstant := { idx := s.met.sidx, ep := s.met.sidxEp, time := s.met.instTime, words := captureInstant s cv }
  match c.state with
  | .armed => withMet s fun m => { m with cap := { c with data := (entry :: c.data).take (min (c.pre + 1) (capDepth c.words)) } }
  | .filling => if c.post = 0 then s else withMet s fun m => { m with cap := { c with data := entry :: c.data, post := c.post - 1 } }
  | _ => s

/-- Level and slope triggers on the selected current (R146). -/
def currentTriggers (s : State) : State :=
  match iNow s, s.met.curPrev with
  | some i, prev =>
    let lim := p0 s pMetCapILevel * 1000
    let hi := decide (lim < i.natAbs) && !(prev.any fun x => decide (lim < x.natAbs))
    let s := if hi then capTrigger 5 s else s
    match prev with
    | some x => if p0 s pMetCapDidt * 1000 < (i - x).natAbs * 32 then capTrigger 6 s else s
    | none => s
  | none, _ => s

/-! ### Insulation (R130 to R134) -/

/-- A half-period begins now. -/
def beginHalf (length : Nat) (positive : Bool) (s : State) : State :=
  let on := switchMarks s
  withMet s fun m => { m with ins := { m.ins with
    length, positive, startAt := s.phys, vbStart := vbNow s, elements := on, tailSum := 0, tailN := 0, tailFirst := none, tailLast := 0 } }

/-- A VI sample of the last 20 % of the half-period enters its mean. -/
def addTail (i : Insulation) (x : Int) : Insulation :=
  { i with tailSum := i.tailSum + x, tailN := i.tailN + 1, tailFirst := some (i.tailFirst.getD x), tailLast := x }

/-- Injection follows MET.INS_MODE; a half-period is discarded by a change of VB, of a switching element or the disconnector, or
by a clip. The manual does not say which half-period comes first: the positive one (DESIGN CHOICE, log 149). -/
def followInsulation (s : State) : State :=
  let i := s.met.ins
  if p0 s pMetInsMode = 0 then
    if i.length = 0 then s else withMet s fun m => { m with ins := { peFault := m.ins.peFault, peAt := m.ins.peAt, warned := m.ins.warned } }
  else if i.length = 0 then beginHalf (p0 s pMetInsTmin) true s
  else
    let moved := match vbNow s, i.vbStart with
      | some v, some v0 => decide (v0.natAbs < (v - v0).natAbs * 50)
      | _, _ => false
    if moved || bit s.met.vi.flags.toNat 6 || switchMarks s != i.elements then beginHalf i.length i.positive s
    else
      let tail := roleValid s.met.vi && decide (i.length * 4 * secNs ≤ since s i.startAt * 5)
      withMet s fun m =>
        let i := if tail then addTail m.ins m.vi.value else m.ins
        { m with ins := { i with vbStart := if i.vbStart.isNone then vbNow s else i.vbStart } }

/-- Internal resistance R_i of the source, Ω, from OTP (R130, log 9). -/
def insRi : Rat := Config.trim 0

/-- R_F of a pair of means in µV, Ω (R131). -/
def insResistance (s : State) (d : Int) : Rat := (2 * p0 s pMetInsU0 * 50000 * 1000000 : Nat) / (d : Rat) - insRi

/-- The insulation result is not available: the injection is off, protective earth has failed, or there is none (R134, R136). -/
def insNa (s : State) : Bool := p0 s pMetInsMode == 0 || s.met.ins.peFault || s.met.ins.result == 0xFFFFFFFF

/-- The insulation status byte (R134). -/
def insStatus (s : State) : Nat :=
  let i := s.met.ins
  b2n (insNa s) + i.marks + 8 * b2n i.unsettled + 16 * b2n i.peFault + 32 * b2n (p0 s pMetInsMode == 0)

/-- R_F as reported. -/
def insReported (s : State) : Nat := if insNa s then 0xFFFFFFFF else s.met.ins.result

/-- A result is compared with MET.INS_WARN and MET.INS_ALARM (R134, Table 07.7). -/
def judgeInsulation (s : State) : State :=
  if insNa s then s
  else
    let r : Int := (s.met.ins.result : Nat)
    let low := decide (r < (p0 s pMetInsWarn * 1000 : Nat))
    let s := if low && !s.met.ins.warned then post .insWarn 0xFF 0 (le 4 s.met.ins.result) s else s
    let s := withMet s fun m => { m with ins := { m.ins with warned := low } }
    let lim : Int := (p0 s pMetInsAlarm * 1000 : Nat)
    if podUp s then levelCond .ins 0 0 0 (some (belowReading r lim (lim / 10))) s else s

/-- A pair of settled means gives a result. Where VI+ is not above VI−, R131's quotient names no resistance: the result is taken as
above 50 MΩ (DESIGN CHOICE, log 150). -/
def insResult (a b : Int) (s : State) : State :=
  let d := a - b
  let r := if d ≤ 0 then 50000001 else ratRound (insResistance s d)
  let mean := a + b
  let side := if mean.natAbs * 10 < d.natAbs then 0 else if 0 < mean then 2 else 1
  let above := decide (50000000 < r)
  let below := decide (r < 10000)
  let v := if above then 50000000 else if below then 10000 else r.toNat
  judgeInsulation (withMet s fun m => { m with ins := { m.ins with
    result := v, marks := 2 * b2n above + 4 * b2n below + 64 * side, unsettled := false, prevDiff := some d.natAbs, time := s.tb.ns } })

/-! ### Ripple (R137 to R139) -/

/-- A window's sample of one source; a window longer than any that R138 allows begins anew. -/
def addRipple (idx : Nat) (x : RoleSample) (r : Ripple) : Ripple :=
  let fresh := r.win.isEmpty || decide (6736 ≤ r.win.length)
  let v := if roleValid x then some x.value else none
  { r with win := if fresh then [v] else v :: r.win, winIdx := if fresh then idx else r.winIdx
           winStale := (!fresh && r.winStale) || bit x.flags.toNat 5 }

/-- VB and I of an instant enter the windows under way. -/
def followRipple (m : Metrology) : Metrology :=
  { m with ripple := mmod {} (mmod {} m.ripple 0 (addRipple m.sidx m.vb)) 1 (addRipple m.sidx m.cur) }

/-- A window's samples with what is not available interpolated between its neighbours, or held where it has but one (Table
04.2, log 144); `a` is the last value before. -/
def fillNa : Option Rat → List (Option Int) → List Rat
  | _, [] => []
  | _, some x :: l => (x : Rat) :: fillNa (some (x : Rat)) l
  | a, none :: l =>
    let n := (l.takeWhile (·.isNone)).length + 1
    let v : Rat := match a, (l.findSome? id).map fun (x : Int) => (x : Rat) with
      | some a, some b => a + (b - a) / ((n + 1 : Nat) : Rat)
      | some a, none => a
      | none, some b => b
      | none, none => 0
    v :: fillNa (some v) l

/-- One bin of 6,400 points: its cosine and sine parts, as rms values. -/
def rippleBin (x : List Rat) (k : Nat) : Rat × Rat :=
  let part (f : Rat → Rat) : Rat := ((x.zip (List.range 6400)).map fun p => p.1 * f (((k * p.2 : Nat) : Rat) / 6400)).sum
  let c := Config.sqrtR 2 / 6400
  (c * part Config.cosTurn, c * part Config.sinTurn)

/-- Square of a bin's magnitude. -/
def binSq (x : List Rat) (k : Nat) : Rat := let b := rippleBin x k; b.1 * b.1 + b.2 * b.2

/-- Centre bin of an order: MET.RIPPLE_F1 is 100 Hz or 120 Hz, a bin 5 Hz (R137). -/
def centreBin (s : State) (h : Nat) : Nat := (if p0 s pMetRippleF1 = 0 then 20 else 24) * h

/-- Squares of the subgroup and of the group of a centre bin: the bin with its two neighbours, and the bins from 10 below to 10
above with the outermost at half weight. -/
def subSq (x : List Rat) (c : Nat) : Rat := ((List.range 3).map fun i => binSq x (c + i - 1)).sum
def grpSq (x : List Rat) (c : Nat) : Rat :=
  ((List.range 21).map fun i => binSq x (c + i - 10) / (if i = 0 ∨ i = 20 then 2 else 1)).sum

/-- An amplitude of a source as its code: VB in 10 µV from mV, I in 1 mA, saturated (R6, R139). -/
def rippleCode (src : Nat) (sq : Rat) : Nat :=
  satN 0xFFFFFFFE (ratRound (Config.sqrtR sq * (if src = 0 then 100 else 1))).toNat

/-- Phase of a bin in turns; of the order `h` of a source against the VB fundamental, whose own shift over `h` periods is taken
out (log 144). -/
def binTurn (x : List Rat) (k : Nat) : Rat := let b := rippleBin x k; Config.atan2R (-b.2) b.1
def ripplePhase (s : State) (x vb : List Rat) (h : Nat) : Int :=
  signed 16 (code 16 (ratRound ((binTurn x (centreBin s h) - h * binTurn vb (centreBin s 1)) * 65536)))

/-- The points of a source's window, oldest first. -/
def ripplePoints (r : Ripple) : List Rat := Config.resample (fillNa none r.win.reverse)

/-- The analysis of a source's window: DC mean, AC rms up to 12 kHz, and its orders (R139). -/
def analyse (s : State) (src : Nat) (r : Ripple) (vb : List Rat) : RippleWindow :=
  let x := ripplePoints r
  let orders := (List.range 50).map (· + 1)
  { source := src, first := r.winIdx, mean := ratRound (x.sum / 6400)
    rms := rippleCode src ((List.range 2400).map fun k => binSq x (k + 1)).sum
    sub := orders.map fun h => rippleCode src (subSq x (centreBin s h))
    grp := orders.map fun h => rippleCode src (grpSq x (centreBin s h))
    phase := orders.map (ripplePhase s x vb) }

/-! ### Pre-charge energy (R253) -/

/-- The resistor's energy of an instant in mode 0, and its limit. -/
def followEnergy (s : State) : State :=
  if !(pcMode s = 0 && roleActive s 5 0) then s
  else
    match vbNow s, vlNow s with
    | some b, some l =>
      let d : Rat := ((b - l : Int) : Rat) / 1000
      let e := s.seq.energy + d * d / ((keptN s.seq.par pSeqPcR : Nat) / 10) * 3125 / 100000000
      let s := { s with seq := { s.seq with energy := e } }
      if closing s ∧ ((keptN s.seq.par pSeqPcEMax : Nat) : Rat) < e then pcFails 0x34 s else s
    | _, _ => s

/-- Since when |VB − VL| has stayed within SEQ.PC_DONE_V while MN is on and the block is not closed yet (R253, R254). -/
def followDone (s : State) : State :=
  if !(ramping s || s.seq.step == .pcMp) then s
  else
    { s with seq := { s.seq with doneAt := if !doneWindow s then none else if s.seq.doneAt.isSome then s.seq.doneAt else some s.phys } }

/-- All a sampling instant does but the impedance engine's trigger. -/
def instant (cv : Conversions) (s : State) : State :=
  let s := takeSamples (!s.met.begun) cv (nextIndex s)
  let s := if roleValid s.met.il then followSld (shuntCurrent s s.met.il.value) (noteLines s) else s
  let s := followOverlap cv (yieldSpare s)
  let s := withMet s fun m => followRipple (countInstant (addBase (followDiff m)))
  followEnergy (followDone (followInsulation (currentTriggers (followCapture cv s))))

end Sys2Proof.Machine
end

