-- ==== Sys2Proof/Machine/Thermal.lean ====
section
/-!
DEFINITION. The thermal manager: the module's sensors and levels, the orderly and the fast stop, the actuator entries, and
THM_STATUS (R334 to R351).
-/
namespace Sys2Proof.Machine
open Sys2Proof

/-- The thermal part changed. -/
def withThm (s : State) (f : Thermal → Thermal) : State := { s with thm := f s.thm }

/-! ### Sensors (R334, R335) -/

/-- The HV section is powered: VHV is in its window. -/
def hvPowered (s : State) : Bool := bit s.pow.rails.toNat 6

/-- A module sensor. -/
def sensorOf (s : State) (i : Nat) : Sensor := mget {} s.thm.sensors i


/-- A conversion is implausible: failed, outside −55 to +150 °C, or faster than 10 K/s since the read before. -/
def sensorBad (x : Sensor) (dt : Option Nat) (r : Option Int) : Bool :=
  match r with
  | none => true
  | some v =>
    decide (v < -5500) || decide (15000 < v) ||
    match x.prev, dt with
    | some w, some d => decide (1000 * d < (v - w).natAbs * secNs)
    | _, _ => false

/-- A sensor after a read: it returns to its measured value after 10 s of plausible readings. -/
def sensorStep (now : Nat) (x : Sensor) (dt : Option Nat) (r : Option Int) : Sensor :=
  let x' := { x with prev := if r.isSome then r else x.prev }
  if sensorBad x dt r then { x' with code := hottest, bad := true, goodAt := none }
  else
    let v := r.getD hottest
    if !x.bad then { x' with code := v }
    else
      let t := x.goodAt.getD now
      if 10 * secNs ≤ now - t then { x' with code := v, bad := false, goodAt := none }
      else { x' with code := hottest, goodAt := some t }

/-- The supervisor reads TS_AON once a second (Table 12.1). -/
def aonDue (s : State) : Bool := match (sensorOf s 2).at_ with
  | none => true
  | some t => decide (secNs ≤ s.phys - t)

/-- A sensor is read; SENSOR_FAULT is recorded as it begins to read hottest. -/
def readSensor (i : Nat) (r : Option Int) (s : State) : State :=
  let x := sensorOf s i
  let y := { sensorStep s.phys x (x.at_.map (s.phys - ·)) r with at_ := some s.phys }
  let s := withThm s fun t => { t with sensors := mput t.sensors i y }
  if y.bad && !x.bad then post .sensorFault 0xFF i [] s else s

/-- The hotter of two readings. -/
def hotter (a b : Int) : Int := if a < b then b else a

/-- Base-plate and die temperature (R335). -/
def baseTemp (s : State) : Int := hotter (sensorOf s 3).code (sensorOf s 4).code
def dieTemp (s : State) : Int :=
  if hvPowered s then hotter (sensorOf s 0).code (sensorOf s 1).code else (sensorOf s 0).code

/-! ### Levels and entries (R337, R344, R345) -/

/-- What an evaluation reads: the condition that enters the state, the one that leaves it, and that which leaves it under
HOVER. -/
structure ActReading where
  enters  : Bool
  leaves  : Bool
  leaves2 : Bool
  deriving DecidableEq, Repr

/-- A level or an entry after a change of state, and whether HOVER sets with it; `hot` is its hotter-side state. -/
def actChange (now hoverN : Nat) (hot : Bool) (e : Entry) : Entry :=
  let ts := now :: e.toggles.filter fun x => decide (now - x < 3600 * secNs)
  if hoverN < ts.length then { e with active := hot, since := none, toggles := ts, hover := true }
  else { e with active := !e.active, since := none, toggles := ts }

/-- One evaluation of a level or of an entry: the dwell, the change, and HOVER, which pins the hotter side until the wider
reading has lasted its dwell. -/
def actStep (now dwell hoverN : Nat) (hot : Bool) (e : Entry) (r : ActReading) : Entry :=
  let due := if e.hover then r.leaves2 else if e.active then r.leaves else r.enters
  if !due then { e with since := none }
  else
    let t := e.since.getD now
    if now - t < dwell then { e with since := some t }
    else if e.hover then { e with active := !e.active, hover := false, toggles := [], since := none }
    else actChange now hoverN hot e

/-- A module level and its thresholds: 0 base warning, 1 die warning, 2 base stop, 3 die stop. -/
def levelLimit (s : State) (i : Nat) : Int :=
  pv s ([pThmBpWarn, pThmDieWarn, pThmBpStop, pThmDieStop].getD i pThmBpWarn) 0
def levelTemp (s : State) (i : Nat) : Int := if i % 2 = 0 then baseTemp s else dieTemp s
def levelOf (s : State) (i : Nat) : Entry := mget {} s.thm.levels i

/-- A level is evaluated: a warning and a HOVER record their events. -/
def evalLevel (s : State) (i : Nat) : State :=
  let x := levelTemp s i
  let t := levelLimit s i
  let h := pv s pThmHyst 0
  let e := levelOf s i
  let r : ActReading := { enters := decide (t ≤ x), leaves := decide (x < t - h), leaves2 := decide (x < t - 2 * h) }
  let e' := { actStep s.phys (p0 s pThmDwell * 100 * msNs) (p0 s pThmHoverN) true e r with input := x }
  let s := withThm s fun m => { m with levels := mput m.levels i e' }
  let s := if e'.hover && !e.hover then post .thmHover 0xFF i [] s else s
  if i < 2 ∧ e'.active ≠ e.active then post .thmWarn 0xFF i [BitVec.ofNat 8 (b2n e'.active)] s else s

/-! ### The stop (R339, R340) -/

/-- A temperature with its history of the last 60 s of plausible readings. -/
def noteHist (i : Nat) (x : Int) (s : State) : State :=
  if x = hottest then s
  else withThm s fun t => { t with sensors := mmod {} t.sensors i fun y =>
    { y with hist := (s.phys, x) :: y.hist.filter fun e => decide (s.phys - e.1 ≤ 60 * secNs) } }

/-- Base plate as the prediction sees it: of the pair, the readings that are not 0x7FFF. -/
def baseSeen (s : State) : Int :=
  let a := (sensorOf s 3).code
  let b := (sensorOf s 4).code
  if a = hottest then b else if b = hottest then a else hotter a b

/-- Time left to a limit at the slope of the last 60 s, ms; none for a slope at or below zero or without a reading. -/
def timeLeft (limit x : Int) (h : List (Nat × Int)) : Option Nat :=
  match h.getLast? with
  | none => none
  | some o =>
    let d := x - o.2
    if x = hottest ∨ d ≤ 0 then none else some ((limit - x).toNat * 60000 / d.toNat)

/-- t_p, ms: the smaller of the base-plate and the die prediction. -/
def predictStop (s : State) : Option Nat :=
  let a := timeLeft 11800 (baseSeen s) (sensorOf s 5).hist
  let b := timeLeft 15000 (sensorOf s 2).code (sensorOf s 2).hist
  match a, b with
  | some x, some y => some (min x y)
  | some x, none => some x
  | none, y => y

/-- The stop level is entered: THM_STOP, and the orderly or the fast stop. -/
def beginStop (s : State) : State :=
  let fast := match s.thm.tPred with
    | none => false
    | some t => decide (t < p0 s pThmStopLead * 1000)
  let s := post .thmStop 0xFF 0 [BitVec.ofNat 8 (b2n fast)] (withThm s fun t => { t with stop := true, fast := fast })
  if fast then openBlock s else blockOpen (p0 s pThmStopScope) s

/-- The stop level follows its two readings. -/
def followStop (s : State) : State :=
  let on := (levelOf s 2).active || (levelOf s 3).active
  if on && !s.thm.stop then beginStop s else withThm s fun t => { t with stop := on }

/-! ### Actuator entries (R341 to R347) -/

/-- Fields of Table 12.4. -/
def actFunc (w : Nat) : Nat := bits w 30 28
def actSrc (w : Nat) : Nat := bits w 27 24
def actLoad (w : Nat) : Nat := bits w 5 0
/-- The string an entry's scope names, none for the block. -/
def actScope (w : Nat) : Option Nat := if bit w 20 && decide (actSrc w ≤ 5) then some (bits w 19 16) else none

/-- Temperature inputs of a role within a scope, of the cell nodes found and of the addresses SEQ.STRING_MAP names where none
is found (R343). -/
def roleTemps (s : State) (role : Nat) (scope : Option Nat) : List Nat :=
  ((match scope with
    | none => nodesOfType s 1 ++ allStrings.flatMap (absentNodes s)
    | some j => cellNodes s j ++ absentNodes s j).flatMap tempsOfNode).filter fun t => pn s pAcqTempCfg t == role

/-- ACQ.TEMP_CFG role that a source names. -/
def srcRole (src : Nat) : Nat := [1, 1, 3, 4, 5, 2].getD src 1

/-- Highest of readings; lowest, in which 0x7FFF counts as the hottest. None to take gives 0x7FFF. -/
def highest (l : List Int) : Int := if l.isEmpty then hottest else l.foldl hotter (-32768)
def lowest (l : List Int) : Int := l.foldl (fun m x => if x < m then x else m) hottest

/-- An entry's input (R343). -/
def actInput (s : State) (w : Nat) : Int :=
  match actSrc w with
  | 6 => baseTemp s
  | 7 => dieTemp s
  | 1 => lowest ((roleTemps s 1 (actScope w)).map (policyTemp s))
  | n => highest ((roleTemps s (srcRole n) (actScope w)).map (policyTemp s))

/-- An entry, and its change. -/
def entryOf (s : State) (e : Nat) : Entry := mget {} s.thm.entries e
def modEntry (e : Nat) (f : Entry → Entry) (s : State) : State :=
  withThm s fun t => { t with entries := mmod {} t.entries e f }

/-- A heating entry is held inactive: a hot or broken cell-surface input of the block, or an active cooling entry of its
scope (R346). -/
def heatHeld (s : State) (w : Nat) : Bool :=
  (roleTemps s 1 none).any (fun t => decide (pv s pThmHeatBlockT 0 < policyTemp s t))
  || s.thm.defs.any fun d => actFunc d.2.toNat == 0 && actScope d.2.toNat == actScope w && (entryOf s d.1).active

/-- One entry in force is evaluated. -/
def evalEntry (s : State) (d : Nat × BitVec 32) : State :=
  let w := d.2.toNat
  let e := entryOf s d.1
  let x := actInput s w
  let t := pv s pThmActT d.1
  let h := pv s pThmActHyst d.1
  let dwell := pn s pThmActDwell d.1 * 100 * msNs
  let n := p0 s pThmHoverN
  let cooling := actFunc w == 0
  let below2 := decide (x < t - 2 * h)
  let r : ActReading :=
    if cooling then { enters := decide (t < x), leaves := decide (x < t - h), leaves2 := below2 }
    else { enters := decide (x < t), leaves := decide (t + h < x), leaves2 := below2 }
  let held := !cooling && heatHeld s w
  let e' := if held then (if e.active then { actChange s.phys n false e with active := false } else { e with since := none })
    else actStep s.phys dwell n cooling e r
  let e' := { e' with input := x, blocked := held, failed := e.failed && e'.active }
  let s := modEntry d.1 (fun _ => e') s
  if e'.hover && !e.hover then post .actHover 17 d.1 [] s else s

/-- Loads some active entry names. -/
def wanted (s : State) : List Nat :=
  ((s.thm.defs.filter fun d => (entryOf s d.1).active).map fun d => actLoad d.2.toNat).eraseDups

/-- The definitions in force are those applied now; an entry no longer in force begins anew, and a load no longer named is
switched off (Table 16.4). -/
def takeActs (s : State) : State :=
  let ds : SMap (BitVec 32) := ((List.range 16).filter fun e => bit (pn s pThmActDef e) 31).map fun e =>
    (e, BitVec.ofNat 32 (pn s pThmActDef e))
  if ds = s.thm.defs then s
  else
    let old := wanted s
    let kept := s.thm.entries.filter fun x => mfind ds x.1 == mfind s.thm.defs x.1 && (mfind ds x.1).isSome
    let gone := old.filter fun n => !ds.any fun d => actLoad d.2.toNat == n
    gone.foldl (fun s n => ownLoadOff n s) (withThm s fun t => { t with defs := ds, entries := kept })

/-- The loads follow the entries: on while any active entry names them; retries cancelled by a restart are reissued. -/
def driveLoads (before : List Nat) (s : State) : State :=
  let now := wanted s
  let again := ((s.thm.defs.filter fun d => (entryOf s d.1).active && (entryOf s d.1).reissue).map fun d => actLoad d.2.toNat).eraseDups
  let s := withThm s fun t => { t with entries := mmap (fun _ e => { e with reissue := false }) t.entries }
  let s := (before.filter fun n => !(now.contains n)).foldl (fun s n => ownLoadOff n s) s
  (now.filter fun n => !(before.contains n) || again.contains n).foldl (fun s n => ownLoadOn n s) s

/-- Every entry is evaluated, cooling before heating. -/
def evalEntries (s : State) : State :=
  let before := wanted s
  let s := takeActs s
  let before := before.filter fun n => s.thm.defs.any fun d => actLoad d.2.toNat == n
  let cool := s.thm.defs.filter fun d => actFunc d.2.toNat == 0
  let heat := s.thm.defs.filter fun d => actFunc d.2.toNat != 0
  driveLoads before ((cool ++ heat).foldl evalEntry s)

/-- The levels, the stop and the actuator entries are evaluated (R337, R348). -/
def thmEvaluate (s : State) : State := evalEntries (followStop ((List.range 4).foldl evalLevel s))

/-! ### Commands -/

/-- MODULE_SENSOR_READ: sensors, levels, the stop, and the actuator entries. -/
def execModuleSensorRead (dt : Nat) (rd : ModSensors) (s : State) : Out :=
  let s := advance dt s
  if !podUp s then .next s
  else
    let s := readSensor 0 rd.die s
    let s := if hvPowered s then readSensor 1 rd.hv s else s
    let s := if aonDue s then noteHist 2 (sensorOf (readSensor 2 rd.aon s) 2).code (readSensor 2 rd.aon s) else s
    let s := readSensor 4 rd.baseB (readSensor 3 rd.baseA s)
    let s := noteHist 5 (baseSeen s) s
    let s := withThm s fun t => { t with lastRead := some s.phys, tPred := predictStop s }
    .next (thmEvaluate s)

/-- ACTUATOR_RETRY: THM.RETRY_T after the failure (R347). -/
def execActuatorRetry (dt entry : Nat) (s : State) : Out :=
  let s := advance dt s
  let e := entryOf s entry
  match mfind s.thm.defs entry with
  | none => .next s
  | some w => if podUp s && e.active && e.failed && passed s e.failedAt (p0 s pThmRetryT * secNs) then .next (ownLoadOn (actLoad w.toNat) s) else .next s

/-- STATE of an entry (Table 12.5). -/
def entryState (s : State) (i : Nat) : Nat :=
  let e := entryOf s i
  if (mfind s.thm.defs i).isNone then 0 else if e.blocked then 4 else if e.hover then 3 else if e.active then 2 else 1

/-- Changes of state in the last 60 min. -/
def entryToggles (s : State) (i : Nat) : Nat :=
  satN 255 ((entryOf s i).toggles.filter fun x => decide (s.phys - x < 3600 * secNs)).length

/-- The 22 words of THM_STATUS (Table 12.5). -/
def thmWords (s : State) : Bytes :=
  let c (x : Int) : Nat := code 16 x
  let t (i : Nat) : Int := (sensorOf s i).code
  let hv : Int := if hvPowered s then t 1 else -0x8000
  let lv (i : Nat) : Entry := levelOf s i
  let sens := [0, 2, 3, 4].any (fun i => decide (t i = hottest)) || (hvPowered s && decide (t 1 = hottest))
  let hov := 4 * b2n ((lv 2).hover || (lv 3).hover) + 2 * b2n (lv 1).hover + b2n (lv 0).hover
  let mask (p : Entry → Bool) : Nat := maskOf ((List.range 16).filter fun i => (mfind s.thm.defs i).isSome && p (entryOf s i))
  words ([fld 16 16 (c (baseTemp s)) + c (dieTemp s),
    fld 1 31 (b2n (lv 0).active) + fld 1 30 (b2n (lv 1).active) + fld 1 29 (b2n s.thm.stop) + fld 1 28 (b2n s.thm.fast)
      + fld 1 27 (b2n sens) + fld 3 24 hov + mask (·.active),
    fld 16 16 (mask fun e => e.failed && e.active) + mask (·.hover),
    fld 16 16 (c (t 0)) + c (t 2), fld 16 16 (c (t 3)) + c (t 4),
    fld 16 16 (c hv) + (match s.thm.tPred with
      | none => 0xFFFF
      | some x => satN 0xFFFE (natRound x 1000))]
    ++ (List.range 16).map fun i => fld 16 16 (c (entryOf s i).input) + fld 8 8 (entryToggles s i) + fld 4 4 (entryState s i))

/-- THM_STATUS. -/
def execThmStatus (dt : Nat) (rq : Request) (s : State) : Out := .next (readOp 0xE001 dt rq (fun _ s => thmWords s) s)

end Sys2Proof.Machine
end

