-- ==== Sys2Proof/Machine/Impedance.lean ====
section
/-!
DEFINITION. The sampling instant, and the commands and events of the impedance engine (chapters 4 and 6).
-/
namespace Sys2Proof.Machine
open Sys2Proof

/-- VB and I of a strobe instant are kept for the chain cycle, of a cell strobe for its scan, and of the last 64 strobes with their
stamps (R14, R25, R30; log 140). -/
def keepStrobe (s : State) : State :=
  if s.met.sidx % 32 != 4 then s
  else
    let b : BusSample := { idx := s.met.sidx, vb := vbNow s, cur := iNow s, stamp := { time := s.met.instTime, quality := quality s } }
    withMet s fun m => { m with
      strobe := some b, scan := if s.chn.cellNow then some b else m.scan, strobes := (b :: m.strobes).take 64 }

/-- SAMPLING_INSTANT (R25, R112 to R119, R141, R184): the metrology's part, the strobe's sample, the impedance engine's
watch and trigger, and traces that have filled. -/
def execSamplingInstant (dt : Nat) (cv : Conversions) (s : State) : Out :=
  let s := advance dt s
  if !sequencing s || !hvPowered s then .next s
  else .next ((List.range 4).foldl (fun s b => settleTrace b s) (stepTrigger (watchEvents (keepStrobe (instant cv s)))))

/-- STEP_CONFIRM (R185): 32 sampling instants after the trigger. -/
def execStepConfirm (dt : Nat) (s : State) : Out :=
  let s := advance dt s
  match s.imp.open_ with
  | none => .next s
  | some k => if k.confirmed || decide (idxDiff s.met.sidx k.trig < 32) then .next s else .next (confirmStep k s)

/-- RESPONSE_INSTANT (R188): the strobe of an offset is chosen or inserted, one insertion at a time. -/
def execResponseInstant (dt offset : Nat) (s : State) : Out :=
  let s := advance dt s
  match s.imp.open_.bind (planned s offset) with
  | none => .next s
  | some k =>
    if k.failed || k.ended.isSome || decide (4 ≤ offset) || (mfind k.insts offset).isSome || s.chn.insertAt.isSome then .next s
    else .next (settleInstant offset k s)

/-- STEP_CLOSE (R190, R195): of a step whose response has ended. -/
def execStepClose (dt : Nat) (s : State) : Out :=
  let s := advance dt s
  match s.imp.closing, s.imp.open_ with
  | some k, _ => if closable k then .next (closeStep k (withImp s fun i => { i with closing := none })) else .next s
  | none, some k => if closable k then .next (closeStep k (withImp s fun i => { i with open_ := none })) else .next s
  | none, none => .next s

/-- IMPEDANCE_FIT (R149, R191, R197): the oldest record, while the array is served. -/
def execImpedanceFit (dt : Nat) (s : State) : Out :=
  let s := advance dt s
  match s.imp.queue with
  | [] => .next s
  | k :: ks => if arrayUp s then .next (clearStale (fitRecord k (withImp s fun i => { i with queue := ks }))) else .next s

/-- FIT_DEFER_EXPIRY (R191): a record that has waited longer than IMP.FIT_DEFER_MAX makes the cells of its strings stale. -/
def execFitDeferExpiry (dt : Nat) (s : State) : Out :=
  let s := advance dt s
  let strs := (s.imp.queue.filter (lateRecord s)).flatMap fun k => k.strs.map (·.1)
  let cells := strs.flatMap (stringCells s)
  .next (cells.foldl (fun s c => modEst c (fun e => { e with rstale := true }) s) s)

end Sys2Proof.Machine
end

