-- ==== Sys2Proof/Machine/PortOps.lean ====
section
/-!
DEFINITION. The ports as operations: a received message and checks 1 and 2, sessions, CAN reassembly, the SPI status byte
and transmit order, and the site ring (R405 to R436).
-/
namespace Sys2Proof.Machine
open Sys2Proof

/-! ### Receiving a message: checks 1 and 2 (Table 15.6) -/

/-- Length of a message by its header: 16, LEN, and the trailer where TRL flags one (R410). -/
def messageSize (m : Bytes) : Nat := 16 + num m 6 2 + (if bit (num m 1 1) 2 then 8 else 0)

/-- OPCODE of a message. -/
def messageOp (m : Bytes) : Nat := num m 4 2

/-- The request a whole message spells (Table 15.5). -/
def requestOf (p : Port) (m : Bytes) : Request :=
  let len := num m 6 2
  { port := p, tag := bits (num m 2 2) 9 0, tc := bits (num m 1 1) 4 3, trl := bit (num m 1 1) 2, epoch := num m 8 2
    addr := num m 11 1, seq := num m 12 2, crc := num m 14 2, payload := field m 16 len
    trailer := if bit (num m 1 1) 2 then field m (16 + len) 8 else []
    res := num m 1 1 % 4 + num m 2 2 / 1024 * 4 }

/-- Check 1: the bytes are one whole message and its CRC fits (R419). -/
def crcFits (m : Bytes) : Bool :=
  decide (16 ≤ m.length) && decide (m.length = messageSize m) && num m 14 2 == crc16 (m.take 14 ++ m.drop 16)

/-- Check 2: version 0x1, kind request, LEN within the port's largest payload. -/
def versionFits (p : Port) (m : Bytes) : Bool := num m 0 1 == 0x10 && decide (num m 6 2 ≤ largest p)

/-- A message received whole on a port passes checks 1 and 2, or is discarded and counted; then checks 3 to 11 enter its
transaction (R421). The model serves the transaction by its opcode's own row (log 15). -/
def receiveMessage (p : Port) (peer : Nat) (m : Bytes) (s : State) : State :=
  if !portPowered s p then s
  else if !crcFits m then modPort p (fun q => { q with crcErr := inc16 q.crcErr }) s
  else if !versionFits p m then modPort p (fun q => { q with discard := inc16 q.discard }) s
  else
    let rq := requestOf p m
    let s := if p = .E ∧ !tagOpen s p rq.tag then withHub s fun h => { h with ethPeer := mput h.ethPeer rq.tag peer } else s
    (admitTxn s rq (messageOp m)).1

/-! ### CAN segments (R408 to R410) -/

/-- The identifier is one of the port's, from host to module (Table 15.2). -/
def canIdFits (s : State) (p : Port) (ext : Bool) (id : Nat) : Bool :=
  let i := canInst p
  let node := pn s pHostCanNode i
  if ext then
    pn s pHostCanIde i == 1 && bits id 26 26 == 0 && bits id 25 8 == pn s pHostCanPrefix i && bits id 7 0 == node
  else pn s pHostCanIde i == 0 && bits id 8 8 == 0 && bits id 7 0 == node

/-- What a segment makes of the reassembly on its identifier: the reassembly left, a message ended, messages discarded. -/
structure SegResult where
  reasm : Option Reassembly
  whole : Option Bytes
  lost  : Nat
  deriving DecidableEq, Repr

/-- A whole stream, or none: the last segment leaves 16 + LEN bytes, 8 more with a trailer, and padding to an FD length
alone (R409, R410). -/
def endStream (before part : Bytes) : Option Bytes :=
  let all := before ++ part
  let n := messageSize all
  if 16 ≤ all.length ∧ before.length < n ∧ n ≤ all.length ∧ part.length + 1 = fdLength (n - before.length + 1) then
    some (all.take n)
  else none

/-- One segment on an identifier (R410). -/
def takeSegment (old : Option Reassembly) (last : Bool) (index : Nat) (part : Bytes) : SegResult :=
  let lost0 := if index = 0 then b2n old.isSome else 0
  let old := if index = 0 then some { index := 0, stream := [] } else old
  match old with
  | none => { reasm := none, whole := none, lost := lost0 }
  | some r =>
    if index ≠ 0 ∧ index ≠ r.index + 1 then { reasm := none, whole := none, lost := lost0 + 1 }
    else if last then
      match endStream r.stream part with
      | some m => { reasm := none, whole := some m, lost := lost0 }
      | none => { reasm := none, whole := none, lost := lost0 + 1 }
    else { reasm := some { index, stream := r.stream ++ part }, whole := none, lost := lost0 }

/-! ### Sessions (R434 to R436) -/

/-- What a proof or the session key is computed over (R434). -/
def proofText (label : String) (s : State) (k : Session) (role : Bool) : Bytes :=
  ascii label ++ uid s ++ le 2 s.pow.epoch ++ [BitVec.ofNat 8 k.num] ++ (if role then [BitVec.ofNat 8 k.role] else [])
  ++ k.hostN ++ k.modN

/-- Ph, Pm and Ks (R434). -/
def proofHost (s : State) (k : Session) : Bytes := hmac (otpSecret s) (proofText "PRH1" s k true)
def proofModule (s : State) (k : Session) : Bytes := hmac (otpSecret s) (proofText "PRM1" s k true)
def sessionKey (s : State) (k : Session) : Bytes := hmac (otpSecret s) (proofText "PRK1" s k false)

/-- A session is closed, and an ARM pending in it cancelled (R436). -/
def closeSession (p : Port) (n : Nat) (s : State) : State :=
  let s := modPort p (fun q => { q with sessions := q.sessions.filter (·.num ≠ n) }) s
  match s.husk.arm with
  | some a => if a.port = p ∧ a.session = n then { s with husk := { s.husk with arm := none } } else s
  | none => s

/-- The port counts as up: powered and not declared failed (Table 15.14). -/
def portUp (s : State) (p : Port) : Bool := portPowered s p && !(portOf s p).failed

/-- The port is no longer up from now on: the idle count of its sessions stops (R436). -/
def stopIdle (s : State) (q : PortState) : PortState := { q with downAt := some (q.downAt.getD s.phys) }

/-- The port is up again: the time it was down does not count towards HOST.SESSION_IDLE_T. -/
def resumeIdle (s : State) (q : PortState) : PortState :=
  match q.downAt with
  | none => q
  | some t => { q with downAt := none, sessions := q.sessions.map fun k => { k with used := k.used + (s.phys - t) } }

/-! ### Port S (R413, R414) -/

/-- A message waits for READ. -/
def spiPending (s : State) : Bool := s.hub.spiCur.isSome || !s.hub.spiQueue.isEmpty

/-- READY: the receive buffer is free. -/
def spiReady (s : State) : Bool := decide (s.hub.spiFree ≤ s.phys)

/-- The status byte (Table 15.4). -/
def spiStatusByte (s : State) : Byte :=
  BitVec.ofNat 8 (fld 1 7 (b2n (spiReady s)) + fld 1 6 (b2n (spiPending s)) + fld 1 5 (b2n s.hub.spiOver)
    + fld 1 4 (b2n s.hub.spiCrc))

/-- A transfer's command byte clocks the status byte out, which clears OVERRUN and CRCERR (Table 15.4). -/
def spiCommand (s : State) : State := withHub s fun h => { h with spiMiso := [spiStatusByte s], spiOver := false, spiCrc := false }

/-- Class whose turn a place of the repeating pattern is: 8 TC1, 4 TC2, 1 TC3 (R427). -/
def turnClass (n : Nat) : Nat := if n % 13 < 8 then 1 else if n % 13 < 12 then 2 else 3

/-- The next place of the pattern, from `turn` on, whose class has a message waiting. -/
def nextTurn (q : List OutMsg) (turn : Nat) : Option Nat :=
  (List.range 13).find? fun i => q.any fun m => m.tc == turnClass (turn + i)

/-- The message Port S sends next, TC0 first, and the hub that has begun on it (R427, R429). -/
def spiPick (h : Hub) : Hub :=
  match h.spiCur with
  | some _ => h
  | none =>
    match h.spiQueue.find? (·.tc = 0) with
    | some m => { h with spiCur := some m, spiQueue := eraseFirst (fun x => x.tc == 0) h.spiQueue }
    | none =>
      match nextTurn h.spiQueue h.turn with
      | none => h
      | some i =>
        let c := turnClass (h.turn + i)
        { h with
          spiCur := h.spiQueue.find? (·.tc = c), spiQueue := eraseFirst (fun x => x.tc == c) h.spiQueue
          turn := (h.turn + i + 1) % 13 }

/-! ### Port E -/

/-- The module's own IPv4 address: HOST.IP_ADDR, or the leased one with HOST.IP_MODE 1 (R411, log 21). -/
def ownIp (s : State) : Nat := if p0 s pHostIpMode = 1 then Config.leasedIp.toNat else p0 s pHostIpAddr

/-! ### Site ring (R415 to R417) -/

/-- The other link. -/
def otherLink : SiteLink → SiteLink
  | .up => .dn
  | .dn => .up

/-- A position counted from PEER_UP's side is taken on the other side: a frame from it has come by since that side was
assigned, in the last 10 ms (R416). -/
def positionTaken (s : State) (side : Nat) (mine : Int) : Bool :=
  side == 1 && match mfind s.hub.heard mine.toNat with
    | some t => decide (since s t ≤ 10 * msNs)
    | none => false

/-- A frame leaves on a link. -/
def sendSite (f : SiteFrame) (s : State) : State := withHub s fun h => { h with site := h.site ++ [f] }

end Sys2Proof.Machine
end

