-- ==== Sys2Proof/Machine/Ledger.lean ====
section
/-!
DEFINITION. The ledger, the buffers' read-out and the timebase's discipline (chapter 17): the log commands, CAPTURE_READ,
TRACE_READ, BUFFER_RELEASE, the FIFO's drain, and the synchronisation messages of PTP and of the site ring.
-/
namespace Sys2Proof.Machine
open Sys2Proof

/-! ### The FIFO's drain (R474 to R477) -/

/-- The pending LOST record as an entry (Table 17.3). -/
def lostEntry (s : State) (at_ : Nat × Nat) : Event :=
  { newEvent s 0xF001 0 0xFF 0 ((s.log.drops.flatMap (le 4)) ++ le 8 at_.1 ++ le 8 at_.2) with time := at_.1, last := at_.1 }

/-- The pending LOST record may be committed now: at most once per 100 ms. -/
def lostDue (s : State) : Bool :=
  s.log.dropAt.isSome && s.log.lostAt.all fun t => decide (100 * msNs ≤ since s t)

/-- An entry of the FIFO is committed and leaves it. -/
def drainEntry (p : Event → Bool) (e : Event) (s : State) : State :=
  match commit e s with
  | none => s
  | some s => { s with log := { s.log with fifo := eraseFirst p s.log.fifo } }

/-- The pending LOST record is committed. -/
def drainLost (at_ : Nat × Nat) (s : State) : State :=
  match commit (lostEntry s at_) s with
  | none => s
  | some s => { s with log := { s.log with drops := [0, 0, 0, 0], dropAt := none, lostAt := some s.phys } }

/-- LEDGER_DRAIN. -/
def execLedgerDrain (dt : Nat) (s : State) : Out :=
  let s := advance dt s
  if !serving s then .next s
  else
    match s.log.fifo.find? (·.cls = 0) with
    | some e => .next (drainEntry (·.cls = 0) e s)
    | none =>
      match s.log.dropAt, lostDue s with
      | some t, true => .next (drainLost t s)
      | _, _ =>
        match s.log.fifo with
        | [] => .next s
        | e :: _ => .next (drainEntry (fun _ => true) e s)

/-! ### LOG_READ and LOG_ACK (R478, R479, R512) -/

/-- The type catalogue: the manual's record types and every event type, 20 bytes each. -/
def catalogueEntry (n cls : Nat) (name : String) : Bytes :=
  le 2 (shownType n) ++ [BitVec.ofNat 8 cls, 0] ++ sized 16 (ascii name)
def catalogue : List Bytes :=
  [(0xF001, "LOST"), (0xF002, "POWER_DOWN"), (0xF003, "TORN"), (0xF004, "MISSING_RECORD"), (0xF005, "TIME_STEP"),
    (0xF006, "SIDX_WRAP"), (0xF007, "CRESS_ENTRY")].map (fun e => catalogueEntry e.1 0 e.2)
  ++ evAll.map (fun e => catalogueEntry (evNum e) (evClass e) (evName e))

/-- Records from a requested SEQ on: the oldest held where the requested one is older. -/
def recordsFrom (l : Ledger) (start : Nat) : List Record :=
  l.records.dropWhile fun r => later 32 (start % 2 ^ 32) r.seq

/-- Response header of LOG_READ. -/
def logHead (s : State) (count : Nat) (torn : Bool) : Bytes :=
  le 4 ((s.log.records.map (·.seq)).headD 0) ++ le 4 s.log.seq ++ le 4 s.log.acked
  ++ [BitVec.ofNat 8 count, BitVec.ofNat 8 (ledgerFill s.log),
      BitVec.ofNat 8 (p0 s pLogPolicy + 2 * b2n s.log.holdFull + 4 * b2n torn), 0]

/-- LOG_READ's completion. -/
def logReadBody (t : Txn) (s : State) : State :=
  let mode := num t.payload 0 1
  let s := if t.payload.length = 8 then s else countClamps 1 s
  let s := noteReserved (num t.payload 1 1) 0 (if 2 < mode then countClamps 1 s else s)
  let asked := num t.payload 2 2
  let start := num t.payload 4 4
  if mode = 0 then
    let fit := (largest t.port - 16) / 128
    let s := if fit < asked then countClamps 1 s else s
    let rs := (recordsFrom s.log start).take (min fit asked)
    complete t 0x00 (logHead s rs.length (rs.any (·.torn)) ++ rs.flatMap recordBytes) s
  else if mode = 1 then
    let c := rangeOf t start asked catalogue.length 20 16 s
    let ts := (catalogue.drop c.1).take c.2.1
    let s := c.2.2
    complete t 0x00 (logHead s ts.length false ++ ts.flatten) s
  else complete t 0x00 (logHead s 0 false) s

/-- LOG_READ. -/
def execLogRead (dt : Nat) (rq : Request) (s : State) : Out := .next (mailbox 0xF001 dt rq logReadBody s)

/-- LOG_ACK's effect: the pointer, and the result. -/
def logAckBody (t : Txn) (s : State) : State :=
  let s := if t.payload.length = 4 then s else countClamps 1 s
  let q := num t.payload 0 4
  let beyond := later 32 q s.log.seq
  let s := if beyond then countClamps 1 s else s
  let q := if beyond then s.log.seq else q
  let moves := later 32 q s.log.acked
  let s := if moves then { s with log := { s.log with acked := q } } else s
  let s := if moves then noteFill s else s
  complete t 0x00 ([BitVec.ofNat 8 (if moves then 0 else 1), 0, 0, 0] ++ le 4 s.log.acked ++ le 4 (freeSlots s.log)) s

/-- LOG_ACK. -/
def execLogAck (dt : Nat) (rq : Request) (s : State) : Out := .next (mailbox 0xF002 dt rq logAckBody s)

/-! ### The buffers' read-out (R482 to R484) -/

/-- STATE code of a buffer. -/
def bufCode : BufState → Nat
  | .idle => 0 | .armed => 1 | .filling => 2 | .frozen => 3

/-- 32-bit words of bytes. -/
def wordsOf : Nat → Bytes → List Nat
  | 0, _ => []
  | n + 1, b => num b 0 4 :: wordsOf n (b.drop 4)

/-- The capture's header (Table 17.4). -/
def captureHeader (c : Capture) : List Nat :=
  wordsOf 32 (le 4 c.freeze ++ le 4 c.firstIdx
    ++ [BitVec.ofNat 8 c.firstEp, BitVec.ofNat 8 (b2n c.lostWide + 2 * b2n c.lostWord)] ++ le 2 c.channels
    ++ [BitVec.ofNat 8 c.source, BitVec.ofNat 8 c.later.length] ++ le 2 c.arrival
    ++ le 4 c.trigIdx ++ le 4 c.data.length ++ le 4 c.words ++ le 4 c.trigPre ++ le 8 c.time ++ List.replicate 24 0
    ++ sized 64 (c.later.flatMap fun e => [BitVec.ofNat 8 e.1, 0, 0, 0] ++ le 4 e.2))

/-- The capture as words: header, then the instants, oldest first. -/
def captureWords (c : Capture) : List Nat :=
  captureHeader c ++ c.data.reverse.flatMap fun i => i.words.map (·.toNat)

/-- A trace buffer as words (Table 17.5). -/
def traceWords (t : Trace) : List Nat :=
  wordsOf 8 ([BitVec.ofNat 8 t.loop, BitVec.ofNat 8 t.sigs, BitVec.ofNat 8 t.n, BitVec.ofNat 8 t.source]
    ++ le 4 t.trigAt ++ le 4 t.data.length ++ le 4 t.freeze ++ le 8 t.time
    ++ [BitVec.ofNat 8 (b2n t.lost + 2 * b2n t.later)] ++ List.replicate 7 0)
  ++ t.data.reverse.map fun e => e.2.toNat

/-- How far ranges, sorted by their start, cover from 0 on. -/
def coverage : List (Nat × Nat) → Nat → Nat
  | [], n => n
  | r :: rs, n => coverage rs (if r.1 ≤ n then max n r.2 else n)

/-- A read of a buffer: what it answers, and the words it returned. A buffer code above 4 is read as 4 (R426). -/
def readBuffer (t : Txn) (st : BufState) (freeze : Nat) (ws : List Nat) (s : State) : State × Nat :=
  let asked := num t.payload 2 2
  let off := num t.payload 4 4
  let want := num t.payload 8 4
  let s := noteReserved (num t.payload 1 1) 0 (if 4 < num t.payload 0 1 then countClamps 1 s else s)
  let head (c : Nat) : Bytes := [BitVec.ofNat 8 (bufCode st), BitVec.ofNat 8 c, 0, 0] ++ le 4 freeze
  if st ≠ .frozen then (complete t 0x11 (head 0x10) s, 0)
  else if want ≠ 0 ∧ want ≠ freeze then (complete t 0x11 (head 0x11) s, 0)
  else
    let c := rangeOf t off asked ws.length 4 8 s
    let out := (ws.drop c.1).take c.2.1
    (complete t 0x00 (head 0 ++ words out) c.2.2, out.length)

/-- CAPTURE_READ's completion, and the re-arm after a complete read-out. -/
def captureReadBody (t : Txn) (s : State) : State :=
  let c := s.met.cap
  let st := if num t.payload 0 1 = 0 then c.state else .idle
  let ws := captureWords c
  let r := readBuffer t st c.freeze ws s
  let s := r.1
  let off := num t.payload 4 4
  if r.2 = 0 then s
  else
    let off := min off (ws.length - 1)
    let ro := insertBy (·.1) (off, off + r.2) c.readOut
    let s := { s with met := { s.met with cap := { s.met.cap with readOut := ro } } }
    if p0 s pMetCapRearm = 1 ∧ ws.length ≤ coverage ro 0 then armCapture s else s

/-- CAPTURE_READ. -/
def execCaptureRead (dt : Nat) (rq : Request) (s : State) : Out := .next (mailbox 0xF003 dt rq captureReadBody s)

/-- TRACE_READ's completion. -/
def traceReadBody (t : Txn) (s : State) : State :=
  let b := min 4 (num t.payload 0 1)
  let tr : Trace := mget {} s.ctl.traces (b - 1)
  let st := if 1 ≤ b ∧ b ≤ 4 then tr.state else .idle
  (readBuffer t st tr.freeze (traceWords tr) s).1

/-- TRACE_READ. -/
def execTraceRead (dt : Nat) (rq : Request) (s : State) : Out := .next (mailbox 0xF004 dt rq traceReadBody s)

/-- One buffer is released: its result, and the state. -/
def releaseBuffer (rearm : Bool) (i : Nat) (s : State) : Nat × State :=
  if i = 0 then
    if s.met.cap.state ≠ .frozen then (1, s)
    else if rearm then (0, armCapture s)
    else (0, { s with met := { s.met with cap := { freeze := s.met.cap.freeze } } })
  else
    let tr : Trace := mget {} s.ctl.traces (i - 1)
    if tr.state ≠ .frozen then (1, s) else (0, modTrace (i - 1) (fun t => { t with state := .idle, data := [] }) s)

/-- BUFFER_RELEASE's effect. -/
def bufferReleaseBody (t : Txn) (s : State) : State :=
  let m := num t.payload 0 1
  let f := num t.payload 1 1
  let s := noteReserved f 0x01 (noteReserved m 0x1F s)
  let r := (List.range 5).foldl (fun (a : List Nat × State) i =>
    if bit m i then
      let x := releaseBuffer (bit f 0) i a.2
      (a.1 ++ [x.1], x.2)
    else (a.1 ++ [0xFF], a.2)) ([], s)
  complete t 0x00 (itemBytes r.1) r.2

/-- BUFFER_RELEASE. -/
def execBufferRelease (dt : Nat) (rq : Request) (s : State) : Out := .next (mailbox 0xF005 dt rq bufferReleaseBody s)

/-! ### Discipline of the timebase (R466 to R470) -/

/-- The timebase changed. -/
def withTb (s : State) (f : Timebase → Timebase) : State := { s with tb := f s.tb }

/-- The addend under a correction in ppb, limited to LOG.SLEW_MAX. -/
def setRate (ppb : Int) (s : State) : State :=
  let m : Int := (p0 s pLogSlewMax * 1000 : Nat)
  let r := clampI (-m) m ppb
  withTb s fun t => { t with rate := r, addend := (10737418240 * (1000000000 + r) / 1000000000).toNat }

/-- The counter is stepped by an offset: a TIME_STEP record carries the times before and after it. -/
def stepTime (src : Nat) (off : Int) (s : State) : State :=
  let before := s.tb.ns
  let after := ((before : Int) + off).toNat % 2 ^ 64
  let s := withTb s fun t => { t with ns := after, steps := inc16 t.steps, tai := true }
  postKind 5 (le 8 before ++ le 8 after ++ [BitVec.ofNat 8 src]) s

/-- Consecutive messages of a source whose offset has stayed in the band: about zero once the counter has been stepped to
TAI, about the run's first offset before (log 23). -/
def goodRun (s : State) (n : Nat) (ref off : Int) : Nat × Int :=
  let ref := if s.tb.tai then 0 else ref
  if 0 < n ∧ (off - ref).natAbs ≤ p0 s pLogLockThresh then (satN 16 (n + 1), ref)
  else if s.tb.tai then ((if off.natAbs ≤ p0 s pLogLockThresh then 1 else 0), 0)
  else (1, off)

/-- The source LOG.TIME_SRC lets discipline the timebase now (R467). -/
def sourceNow (s : State) : Nat :=
  match p0 s pLogTimeSrc with
  | 1 => 1
  | 2 => 2
  | 3 => 0
  | _ => if 16 ≤ s.tb.ptpGood then 1 else 2

/-- A source is lost: the addend stays as it is (holdover), or the other source of the automatic selection goes on. -/
def loseSource (src : Nat) (s : State) : State :=
  let s := withTb s fun t => if src = 1 then { t with ptpGood := 0 } else { t with ringGood := 0 }
  if s.tb.source ≠ src then s
  else
    withTb s fun t => { t with
      source := 0
      state := if t.tai then .holdover else .free
      holdAt := if t.tai then some (t.holdAt.getD s.phys) else none }

/-- The addend follows an offset that is not stepped: slewed at LOG.SLEW_MAX, or by the PI servo. -/
def followOffset (off : Int) (s : State) : State :=
  if off < -((p0 s pLogStepThresh * 1000 : Nat) : Int) then setRate (-((p0 s pLogSlewMax * 1000 : Nat) : Int)) s
  else
    let i := s.tb.integ
    setRate (Config.servoRate i off) (withTb s fun t => { t with integ := Config.servoInteg i off })

/-- A disciplining source is locked, or is being acquired. -/
def settleLock (src good : Nat) (s : State) : State :=
  withTb s fun t =>
    if 16 ≤ good then { t with source := src, state := .locked, holdAt := none }
    else { t with source := src, state := if t.state = .free then .acquiring else t.state }

/-- A measured offset of a source (R468). -/
def timeMessage (src : Nat) (off : Int) (s : State) : State :=
  let locked := s.tb.state == .locked && s.tb.source == src
  let big := decide (p0 s pLogStepThresh * 1000 < off.natAbs)
  let r := if src = 1 then goodRun s s.tb.ptpGood s.tb.ptpRef off else goodRun s s.tb.ringGood s.tb.ringRef off
  let s := withTb s fun t => if src = 1 then { t with ptpGood := r.1, ptpRef := r.2 } else { t with ringGood := r.1, ringRef := r.2 }
  if sourceNow s ≠ src then
    if p0 s pLogTimeSrc = 3 ∧ s.tb.source ≠ 0 then loseSource s.tb.source s else s
  else
    let s := withTb s fun t => { t with offset := off, degraded := if src = 1 then false else t.degraded }
    if !s.tb.tai then
      if r.1 < 16 then settleLock src r.1 s else settleLock src 16 (stepTime src off s)
    else if locked && big then loseSource src s
    else
      let s := settleLock src r.1 s
      if big && (decide (0 < off) || p0 s pLogBackstep == 1) then stepTime src off s else followOffset off s

/-- PTP_MESSAGE_RECEIVE: nothing is taken while the Pod does not serve (R469), nor of another domain (R412). -/
def execPtpMessageReceive (dt : Nat) (msg : PtpSync) (s : State) : Out :=
  let s := advance dt s
  if !podUp s || !portPowered s .E || p0 s pHostPtpEnable != 1 || msg.domain != p0 s pHostPtpDomain then .next s
  else
    let s := timeMessage 1 msg.offset s
    .next (if s.tb.source = 1 then withTb s fun t => { t with master := msg.clockId, path := msg.path } else s)

/-- The module is on the site ring: it has a position. -/
def onRing (s : State) : Bool := podUp s && portPowered s .P && decide (s.hub.position ≤ 31)

/-- Mean of the last upstream link delays, ns. -/
def linkDelay (s : State) : Nat := natRound s.tb.delays.sum s.tb.delays.length

/-- SYNC_SEND: every LOG.SYNC_PERIOD (R470). -/
def execSyncSend (dt : Nat) (s : State) : Out :=
  let s := advance dt s
  if onRing s && s.pod.peerHead && s.hub.position == 0 && s.tb.tai && dueAfter s (p0 s pLogSyncPeriod * msNs) s.tb.sendAt then
    let n := (s.tb.sendNum + 1) % 65536
    let m : SyncMsg := { kind := 0, quality := quality s, number := n, origin := s.tb.ns, correction := 0 }
    .next (sendSite (.sync .up m) (sendSite (.sync .dn m) (withTb s fun t => { t with sendNum := n, sendAt := some s.phys })))
  else .next s

/-- A SYNC kind 0: its first copy is corrected and forwarded, and disciplines a module with a position. -/
def takeSync (link : SiteLink) (m : SyncMsg) (residence : Nat) (s : State) : State :=
  if s.tb.syncNum = some m.number ∨ s.hub.position = 0 then s
  else
    let d := linkDelay s
    let s := withTb s fun t => { t with syncNum := some m.number, syncAt := some s.phys }
    let s := sendSite (.sync (otherLink link) { m with correction := m.correction + residence + d }) s
    if s.hub.position = 0xFF then s
    else
      let s := timeMessage 2 ((m.origin : Int) + m.correction + d - s.tb.ns) (withTb s fun t => { t with degraded := bit m.quality 1 })
      if s.tb.source = 2 then withTb s fun t => { t with master := 0, path := d } else withTb s fun t => { t with degraded := false }

/-- A delay response ends the exchange its number names. -/
def takeDelay (m : SyncMsg) (s : State) : State :=
  match s.tb.xchT1 with
  | none => s
  | some t1 =>
    if m.number ≠ s.tb.xchNum then s
    else
      let d := (divRound (((s.tb.ns : Int) - t1) - (m.correction - m.origin)) 2).toNat
      withTb s fun t => { t with xchT1 := none, delays := (d :: t.delays).take 16 }

/-- SYNC_RECEIVE. -/
def execSyncReceive (dt : Nat) (link : SiteLink) (msg : SyncMsg) (residence : Nat) (s : State) : Out :=
  let s := advance dt s
  if !podUp s || !portPowered s .P then .next s
  else
    match msg.kind with
    | 0 => .next (takeSync link msg residence s)
    | 1 =>
      if onRing s then
        .next (sendSite (.sync link { msg with kind := 2, origin := s.tb.ns, correction := (s.tb.ns + residence : Nat) }) s)
      else .next s
    | 2 => .next (takeDelay msg s)
    | _ => .next s

/-- RING_DELAY_EXCHANGE: every LOG.RING_DLY_PERIOD (R470). -/
def execRingDelayExchange (dt : Nat) (s : State) : Out :=
  let s := advance dt s
  if !onRing s || !dueAfter s (p0 s pLogRingDlyPeriod * secNs) s.tb.xchAt then .next s
  else
    let n := (s.tb.xchNum + 1) % 65536
    .next (sendSite (.sync .up { kind := 1, quality := quality s, number := n, origin := s.tb.ns, correction := 0 })
      (withTb s fun t => { t with xchNum := n, xchT1 := some s.tb.ns, xchAt := some s.phys }))

/-- TIME_SOURCE_LOSS: a warm restart's interruption alone is no loss (R469). Of the ring, LOG.SYNC_LOSS_N periods have gone
by without a SYNC (R468); the interval of PTP messages is its master's. -/
def execTimeSourceLoss (dt : Nat) (s : State) : Out :=
  let s := advance dt s
  let due := s.tb.source != 2 || dueAfter s (p0 s pLogSyncLossN * p0 s pLogSyncPeriod * msNs) s.tb.syncAt
  if !podUp s || s.tb.source == 0 || !due then .next s else .next (loseSource s.tb.source s)

/-- HOLDOVER_EXPIRY. -/
def execHoldoverExpiry (dt : Nat) (s : State) : Out :=
  let s := advance dt s
  if s.tb.state == .holdover && passed s s.tb.holdAt (p0 s pLogHoldoverT * secNs) then
    .next (withTb s fun t => { t with state := .beyond })
  else .next s

/-- STATE code of TIME_STATUS. -/
def timeCode : TimeSt → Nat
  | .free => 0 | .acquiring => 1 | .locked => 2 | .holdover => 3 | .beyond => 4

/-- The ten words of TIME_STATUS (Table 17.7). -/
def timeWords (s : State) : Bytes :=
  let t := s.tb
  let age := match t.holdAt with
    | some h => since s h / secNs
    | none => 0
  words [fld 2 30 t.source + fld 2 28 (quality s) + fld 4 24 (timeCode t.state) + fld 16 0 t.steps
    , code 32 (clampI (-0x80000000) 0x7FFFFFFF t.offset), code 32 t.rate, age]
  ++ le 8 t.ns ++ le 8 t.master
  ++ words [if t.source = 1 then t.path else linkDelay s, fld 8 24 s.met.sidxEp]

/-- TIME_STATUS. -/
def execTimeStatus (dt : Nat) (rq : Request) (s : State) : Out := .next (readOp 0xF006 dt rq (fun _ s => timeWords s) s)

end Sys2Proof.Machine
end

