-- ==== Sys2Proof/Machine/Loads.lean ====
section
/-!
DEFINITION. The commands and events of the load switch array (chapter 9).
-/
namespace Sys2Proof.Machine
open Sys2Proof

/-- A load's item of a host's command ends at once with a result, which is the load's LAST (Tables 09.7 and 09.8). -/
def endLoadItem (key : Nat × Nat) (n c : Nat) (s : State) : State :=
  endItem key n c (modLoad n (fun l => { l with last := c }) s)

/-- One LOAD_ON item of a host (Tables 09.6 and 09.7). -/
def loadOnItem (key : Nat × Nat) (test : Bool) (s : State) (n : Nat) : State :=
  if (loadDef s n).isNone then endLoadItem key n 0x10 s
  else if !hostOwned s n then endLoadItem key n 0x11 s
  else
    match onRefusal s n with
    | some c => endLoadItem key n c s
    | none => enqueueLoad n (modLoad n (fun l => { l with test, cmd := true, resume := false, recovAt := none }) s)

/-- LOAD_ON (R275 to R277, R289): TEST needs Service. -/
def execLoadOn (dt : Nat) (rq : Request) (s : State) : Out :=
  .next (mailbox 0xB001 dt rq (fun t s =>
    let m := num t.payload 0 8
    let test := bit (num t.payload 8 4) 0
    if test && t.role < 2 then complete t 0x12 [] s
    else
      let s := noteReserved (num t.payload 8 4) 1 (noteReserved m (2 ^ 48 - 1) s)
      (setBits 48 m).foldl (loadOnItem (txnKey t) test) (openItems t 48 (setBits 48 m) s)) s)

/-- One LOAD_OFF item of a host. -/
def loadOffItem (key : Nat × Nat) (s : State) (n : Nat) : State :=
  if (loadDef s n).isNone then endLoadItem key n 0x10 s
  else if !hostOwned s n then endLoadItem key n 0x11 s
  else
    let r := loadOff n s
    endItem key n r.1 r.2

/-- LOAD_OFF (R276, R289, R513). -/
def execLoadOff (dt : Nat) (rq : Request) (s : State) : Out :=
  .next (mailbox 0xB002 dt rq (fun t s =>
    let m := num t.payload 0 8
    (setBits 48 m).foldl (loadOffItem (txnKey t)) (openItems t 48 (setBits 48 m) (noteReserved m (2 ^ 48 - 1) s))) s)

/-- The latched loads none of whose latches is left are off. -/
def unlatch (s : State) : State :=
  allLoads.foldl (fun s n =>
    let l := loadOf s n
    if l.state == .latched && !l.thLatch && !(chansOf s n).any (fun c => (chanOf s c).ocLatch) then
      modLoad n (fun l => { l with state := .off }) s
    else s) s

/-- One LOAD_CLEAR item (R282, R285, R288): nothing is switched on. -/
def loadClearItem (key : Nat × Nat) (flags : Nat) (s : State) (n : Nat) : State :=
  if (loadDef s n).isNone then endLoadItem key n 0x10 s
  else
    let s := if bit flags 0 then (chansOf s n).foldl (fun s c => modChan c (fun k => { k with ocLatch := false }) s) s else s
    let s := if bit flags 1 && (loadOf s n).thLatch then
        modLoad n (fun l => { l with thLatch := false, clearAt := some s.phys }) s else s
    let s := if bit flags 2 then modLoad n (fun l => { l with fwMiss := false }) s else s
    endLoadItem key n 0x00 (unlatch s)

/-- LOAD_CLEAR (R289): FW_MISSING needs Service. -/
def execLoadClear (dt : Nat) (rq : Request) (s : State) : Out :=
  .next (mailbox 0xB003 dt rq (fun t s =>
    let m := num t.payload 0 8
    let f := num t.payload 8 4
    if bit f 2 && t.role < 2 then complete t 0x12 [] s
    else
      let s := noteReserved f 7 (noteReserved m (2 ^ 48 - 1) s)
      (setBits 48 m).foldl (loadClearItem (txnKey t) f) (openItems t 48 (setBits 48 m) s)) s)

/-- STATE code of a load (Table 09.8). -/
def loadStateCode (s : State) (n : Nat) : Nat :=
  if (loadDef s n).isNone then 9
  else
    match (loadOf s n).state with
    | .off | .disabled => 0 | .waiting => 1 | .inrush => 2 | .on => 3 | .hold => 4 | .thermal => 5
    | .latched => 6 | .gated => 7 | .husk => 8

/-- PHASE code of a load. -/
def phaseCode : LoadPhase → Nat
  | .normal => 0 | .start => 1 | .test => 2 | .recovery => 3

/-- The CURRENT word: LS current, or the HS current of an HS-only load alone on its HS. -/
def loadCurrent (s : State) (n : Nat) : Option Int :=
  match loadLs s n, loadHs s n with
  | some x, _ => (lsOf s x).amps
  | none, some h => if (loadsOn s (.hs h)).length = 1 then (hsOf s h).amps else none
  | none, none => none

/-- The three status words of a load (Table 09.8). -/
def loadStatusWords (s : State) (n : Nat) : Bytes :=
  let l := loadOf s n
  let cs := chansOf s n
  let w0 := fld 4 28 (loadStateCode s n) + fld 4 24 (phaseCode l.phase) + fld 8 16 l.last
    + fld 1 15 (b2n (cs.any fun c => (chanOf s c).ocLatch)) + fld 1 14 (b2n l.thLatch)
    + fld 1 13 (b2n (cs.any fun c => (chanOf s c).warm)) + fld 1 12 (b2n l.fwMiss) + fld 1 11 (b2n l.holdLow)
    + fld 1 10 (b2n s.lsw.locked) + fld 8 0 l.restarts
  let tj := (cs.map fun c => (chanOf s c).junct).foldl max (-32767)
  let w2 := fld 16 16 (if l.state = .hold then l.duty else 10000) + code 16 (tempSat tj)
  words [w0, currentCode (loadCurrent s n), w2]

/-- LOAD_STATUS (R289, Table 09.8). -/
def execLoadStatus (dt : Nat) (rq : Request) (s : State) : Out :=
  .next (mailbox 0xB004 dt rq (fun t s =>
    let m := num t.payload 0 8
    readItems t 12 [] ((setBits 48 m).map (loadStatusWords s)) (noteReserved m (2 ^ 48 - 1) s)) s)

/-- A 1 ms measurement of the array enters (R268, R285): VLOAD, currents, junctions, and the 10 s of the load current, a
load's current counted once. A channel below the warning level is warm no longer. -/
def takeMeas (m : LoadMeas) (s : State) : State :=
  let chan (base : Nat) (i : Nat) (k : Channel) : Channel :=
    let j := mget k.junct m.junct (base + i)
    { k with amps := some (mget 0 m.amps (base + i)), junct := j, warm := k.warm && decide (15000 ≤ j) }
  let hs : SMap Channel := (List.range 12).map fun i => (i, chan 40 i (hsOf s i))
  let ls : SMap Channel := (List.range 40).map fun i => (i, chan 0 i (lsOf s i))
  let total := ((List.range 12).map fun i => mget 0 m.amps (40 + i)).sum
    + ((List.range 40).filter fun i => (loadsOn s (.ls i)).any fun n => (loadHs s n).isNone).foldl (fun a i => a + mget 0 m.amps i) 0
  let hist := (s.phys, total) :: s.lsw.hist.filter fun e => decide (s.phys - e.1 < 10 * secNs)
  withLsw s fun a => { a with vload := m.vload, hs := hs, ls := ls, hist := hist }

/-- The 10 s mean of the load current, mA (R268). -/
def loadMean (s : State) : Rat :=
  if s.lsw.hist.isEmpty then 0 else ((s.lsw.hist.map (·.2)).sum : Int) / (s.lsw.hist.length : Nat)

/-- LOAD_ADMISSION_CHECK (R268, R276): the hold of R268 ends below 30 A, and the waiting requests are checked in their
order. -/
def execLoadAdmissionCheck (dt : Nat) (meas : LoadMeas) (s : State) : Out :=
  let s := takeMeas meas (advance dt s)
  let s := if s.lsw.overload && decide (loadMean s < 30000) then withLsw s fun a => { a with overload := false } else s
  .next (s.lsw.queue.foldl (fun s n => recheck n s) s)

/-- LOAD_STAGGER_TIMEOUT (R276): a request not admitted within LSW.STAGGER_MAX ends with 0x20; a restart held by CLAMP_LOCK
waits on (R287). -/
def execLoadStaggerTimeout (dt load : Nat) (s : State) : Out :=
  let s := advance dt s
  let l := loadOf s load
  if waits l && decide (p0 s pLswStaggerMax * msNs ≤ since s l.waitAt) && !(l.resume && s.lsw.locked) then
    .next (loadGoesOff .off (some 0x20) false load s)
  else .next s

/-- LOAD_CHANNEL_START (R274): the HS of a load switches on one LSW.START_GAP after its LS. -/
def execLoadChannelStart (dt load : Nat) (s : State) : Out :=
  let s := advance dt s
  match loadHs s load with
  | none => .next s
  | some h =>
    if s.lsw.clock && isActive s load && (loadOf s load).starting && gapFree s then
      .next (loadIsOn load (if (hsOf s h).on then s else chanOn (.hs h) s))
    else .next s

/-- LOAD_ENVELOPE_END (R277, R278). -/
def execLoadEnvelopeEnd (dt load : Nat) (s : State) : Out := .next (envelopeCheck load (advance dt s))

/-- HOLD_REGULATION (R278, R292): every held coil's duty is set again. -/
def execHoldRegulation (dt : Nat) (meas : LoadMeas) (s : State) : Out :=
  .next (allLoads.foldl (fun s n => holdStep n s) (takeMeas meas (advance dt s)))

/-- CHANNEL_OVERCURRENT (R282, R283): the channel latches off; an HS takes every load on it, an LS its own. -/
def execChannelOvercurrent (dt : Nat) (chan : Chan) (s : State) : Out :=
  let s := advance dt s
  if (chanOf s chan).on then .next (channelOff chan loadOc (modChan chan (fun k => { k with ocLatch := true }) s)) else .next s

/-- Source kind and number of a channel in an event: HS channels are Table 16.2 kind 10. -/
def chanKind : Chan → Nat × Nat
  | .hs h => (10, h)
  | .ls l => (0xFF, l)

/-- CHANNEL_THERMAL_WARN (R285): TH_WARN, one event per entry. -/
def execChannelThermalWarn (dt : Nat) (chan : Chan) (s : State) : Out :=
  let s := advance dt s
  if (chanOf s chan).warm then .next s
  else .next (post .loadThWarn (chanKind chan).1 (chanKind chan).2 [] (modChan chan (fun k => { k with warm := true }) s))

/-- CHANNEL_THERMAL_SHUTDOWN (R285): the channel switches off; each load on it latches or awaits its restart. -/
def execChannelThermalShutdown (dt : Nat) (chan : Chan) (s : State) : Out :=
  let s := advance dt s
  if (chanOf s chan).on then .next (modChan chan (fun k => { k with cooling := true }) (channelOff chan loadTh s)) else .next s

/-- CHANNEL_THERMAL_RESTART (R285): the loads that await it are requested on again in ascending number, under R274 to R276. -/
def execChannelThermalRestart (dt : Nat) (chan : Chan) (s : State) : Out :=
  let s := advance dt s
  if (chanOf s chan).cooling then
    .next (((loadsOn s chan).filter fun n => (loadOf s n).state == .thermal).foldl (fun s n => loadRestarts n s)
      (modChan chan (fun k => { k with cooling := false }) s))
  else .next s

/-- LOAD_PHASE_END (R284, R285). -/
def execLoadPhaseEnd (dt load : Nat) (s : State) : Out :=
  let s := advance dt s
  if isActive s load then .next (phaseEnds load s) else .next s

/-- LG_PIN_GATE (R279, R281, R509). -/
def execLgPinGate (dt pin : Nat) (s : State) : Out :=
  let s := advance dt s
  .next (meetHolds (withLsw s fun a => { a with lg := a.lg &&& ~~~ BitVec.ofNat 4 (2 ^ pin) }))

/-- LG_PIN_PERMIT (R279, R509). -/
def execLgPinPermit (dt pin : Nat) (s : State) : Out :=
  let s := advance dt s
  .next (meetHolds (withLsw s fun a => { a with lg := a.lg ||| BitVec.ofNat 4 (2 ^ pin) }))

/-- VLOAD_OVER (R268): a 10 s mean above 32 A is recorded and holds admissions. -/
def execVloadOver (dt : Nat) (s : State) : Out :=
  let s := advance dt s
  if decide (32000 < loadMean s) && !s.lsw.overload then
    .next (post .vloadOver 0xFF 0 [] (withLsw s fun a => { a with overload := true }))
  else .next s

/-- CLAMP_LOCK_CLEAR (R287): the accumulator has decayed below half of LSW.CLAMP_E_SUM; waiting requests proceed. -/
def execClampLockClear (dt : Nat) (s : State) : Out :=
  let s := advance dt s
  let a := s.lsw.clamp * expNeg ((since s s.lsw.clampAt : Rat) / (10 * secNs : Nat))
  if s.lsw.locked && decide (a < (p0 s pLswClampESum * 5 : Nat)) then
    let s := withLsw s fun x => { x with locked := false, clamp := a, clampAt := s.phys }
    .next (s.lsw.queue.foldl (fun s n => recheck n s) s)
  else .next s

/-- M2304_EXCURSION (R288): FW_MISSING is set and recorded. -/
def execM2304Excursion (dt load : Nat) (s : State) : Out :=
  let s := advance dt s
  if m2304 s load && !(loadOf s load).fwMiss then
    .next (post .fwMissing 5 load [] (modLoad load (fun l => { l with fwMiss := true }) s))
  else .next s

/-- LOAD_SWITCH_CLOCK_LOSS (R291): every channel turns off by passive gate discharge; an item open on a load that was on
ends with 0x20 (log 18). -/
def execLoadSwitchClockLoss (dt : Nat) (s : State) : Out :=
  let s := advance dt s
  let s := allLoads.foldl (fun s n =>
    if isActive s n then reportOff n true (loadGoesOff .off (some 0x20) true n s) else s) s
  .next (withLsw s fun a => { a with
    clock := false, hs := mmap (fun _ c => { c with on := false }) a.hs, ls := mmap (fun _ c => { c with on := false }) a.ls })

end Sys2Proof.Machine
end

