-- ==== Sys2Proof/Machine/PowerOps.lean ====
section
/-!
DEFINITION. Power as operations: the retention word and record, what a start clears, the steps of a start, failed starts,
Cress and Hold-open, and the power-down sequence (chapter 14, R370, R481).
-/
namespace Sys2Proof.Machine
open Sys2Proof

/-- Power changed. -/
def withPow (s : State) (f : Power → Power) : State := { s with pow := f s.pow }

/-- A phase is entered. -/
def toPhase (p : Phase) (s : State) : State := withPow s fun w => { w with phase := p, phaseAt := s.phys }

/-! ### Counters and the retention word (R141, R390) -/

/-- E_DIS, E_CHG and Q_NET as reported: the integer parts, 8 bytes each. -/
def ctrBytes (s : State) : Bytes :=
  le 8 (s.met.eDis / 2 ^ 32) ++ le 8 (s.met.eChg / 2 ^ 32) ++ le 8 (code 64 (s.met.qNet / 2 ^ 32))

/-- Entries of the history not older than 600 s; in Cress it is kept unchanged (R386). -/
def freshHistory (s : State) : List HistEntry :=
  if s.pow.phase = .cress then s.pow.history else s.pow.history.filter fun e => decide (s.pow.aonSeconds - e.seconds ≤ 600)

/-- The retention word as an end of run writes it (Table 14.5). -/
def retentionWord (s : State) (detail lastEnd step rail reason : Nat) : BitVec 64 :=
  BitVec.ofNat 64 (fld 32 32 detail + fld 4 28 lastEnd + fld 4 24 step + fld 4 20 rail
    + fld 2 18 (min 3 (freshHistory s).length) + b2n s.pow.cress * 2 ^ 17 + 2 ^ 16 + fld 8 8 reason)

/-- The word is written. -/
def writeRetention (detail lastEnd step rail reason : Nat) (s : State) : State :=
  withPow s fun w => { w with retWord := retentionWord s detail lastEnd step rail reason }

/-! ### History (R385, R386) -/

/-- Three counted failures within 600 s of each other. -/
def cressDue (s : State) : Bool :=
  let h := freshHistory s
  decide (3 ≤ h.length) && decide (((h.head?).map (·.seconds)).getD 0 - ((h[2]?).map (·.seconds)).getD 0 ≤ 600)

/-- A counted failure enters the history, newest first. -/
def countFailure (reason : Nat) (s : State) : State :=
  withPow s fun w => { w with history := ({ reason, seconds := w.aonSeconds } :: freshHistory s).take 3 }

/-- Cress is left: two entries of reason 0x17, stamped now. -/
def leaveCress (s : State) : State :=
  let e : HistEntry := { reason := 0x17, seconds := s.pow.aonSeconds }
  withPow s fun w => { w with history := [e, e] }

/-! ### What a start clears (R381, R370, R481) -/

/-- The Husk through a reset start: latched actions stay, each under its own entry; sources 16 to 22 are released and held
released, an unlatched action of theirs ends, and the matrix is the default one. The inhibit lines stand asserted (R38). -/
def huskThroughStart (now : Nat) (h : Husk) : Husk :=
  let ends (src : Nat) : Bool := decide (16 ≤ src) && decide (src ≤ 22)
  { armed := h.armed, tripCount := h.tripCount, first := h.first, firstTime := h.firstTime, firstIdx := h.firstIdx
    setStr := h.setStr, setBlk := h.setBlk, setDsc := h.setDsc, setDme := h.setDme, estop := h.estop, heldRel := true
    chgLine := some (h.chgLine.getD now), disLine := some (h.disLine.getD now), pwmOff := h.pwmOff
    trips := mmap (fun src t =>
      if ends src then
        { t with asserted := false, delaying := false, acting := if t.latched then t.acting else none
                 strings := if t.latched then t.strings else 0 }
      else t) h.trips }

/-- The units that a start resets: in a reset start all but the supervisor, the Husk, OTP with its sequencer, a retained patch
and the ledger memory not yet tested; in a cold start the Husk, the patch and the ledger memory too. -/
def clearUnits (reset : Bool) (s : State) : State :=
  let keep := reset && s.pod.retained
  { phys := s.phys, free := s.free, pending := s.pending, pow := { s.pow with startWd := false }
    pod := { otp := s.pod.otp, otpJobs := s.pod.otpJobs, retained := keep
             region := if keep then s.pod.region else [], digest := if keep then s.pod.digest else [], badBanks := s.pod.badBanks }
    husk := if reset then huskThroughStart s.phys s.husk else {}
    lsw := { clock := reset, lg := s.lsw.lg, vload := s.lsw.vload }
    log := if reset then { records := s.log.records, seq := s.log.seq } else {} }

/-- Rails left up by a reset start: codes 1 to 4. -/
abbrev keptRails : BitVec 16 := 0xF

/-! ### Beginning a start -/

/-- The kind of the start that begins: Cress where it is due. -/
def kindDue (base : StartKind) (s : State) : StartKind := if cressDue s then .cress else base

/-- A start made as a Cress start discards a retained patch (R373, R386). -/
def prepareKind (base : StartKind) (s : State) : State :=
  let k := kindDue base s
  let s := withPow s fun w => { w with kind := k, cress := k == .cress }
  if k = .cress ∧ s.pod.retained then
    { s with pod := { s.pod with retained := false, region := [], digest := [], patch := 5 } }
  else s

/-- Step 1: V5P is enabled. -/
def beginCold (s : State) : State :=
  let s := prepareKind .cold (clearUnits false s)
  toPhase .rails (withPow s fun w => { w with rails := 0, railWait := 1, railNext := 0, railAt := s.phys })

/-- A reset start is due 10 ms after the rails that are not kept are down. -/
def awaitReset (s : State) : State :=
  toPhase .resetWait (withPow (clearUnits true s) fun w => { w with rails := w.rails &&& keptRails, railWait := 0, railNext := 0 })

/-- The module stands without rails; a qualified AUX_IN starts it. -/
def railsOff (s : State) : State :=
  let s := toPhase .off (withPow (clearUnits false s) fun w => { w with rails := 0, railWait := 0, railNext := 0 })
  if s.pow.auxOk && s.pow.endReason != 0x22 then beginCold s else s

/-- Hold-open is entered: V5P and V3P3 stay up, the Husk keeps acting (R388). -/
def holdOpen (reason detail : Nat) (s : State) : State :=
  let s := writeRetention detail 0x9 0 0 reason s
  toPhase .holdOpen (withPow (clearUnits true s) fun w =>
    { w with rails := w.rails &&& 3, railWait := 0, railNext := 0, endReason := reason })

/-- A counted failure: history, retention word, the rails as the retry needs them, and 2 s of waiting (R385). -/
def failStart (reason detail rail lastEnd : Nat) (cold : Bool) (s : State) : State :=
  let s := countFailure reason s
  let s := writeRetention detail lastEnd 0 rail reason s
  let cold := cold && !cressDue s
  let s := withPow (clearUnits (!cold) s) fun w =>
    { w with rails := if cold then 0 else w.rails &&& keptRails, railWait := 0, railNext := 0, endReason := reason
             kind := if cold then .cold else .reset }
  toPhase .retry s

/-! ### Steps 6 to 10 -/

/-- DETAIL of a comparator test failure (Table 14.5). -/
def ctDetail (f : CtFail) : Nat := fld 2 30 f.part + fld 3 27 f.group + fld 7 20 f.lane

/-- Mode by Table 13.4: Shelled, and MODE_SRC. -/
def modeOf (cfg : Nat) (strap : Tri) : Bool × Nat :=
  if bit cfg 1 then (false, 2)
  else
    match strap with
    | .low => (false, 1)
    | .high => (true, 1)
    | _ => (bit cfg 0, 0)

/-- Steps 6 to 8: boot ROM, straps and mode, comparator test, firmware ROM digest. A Cress start runs the pair in lockstep
and does not need the firmware ROM. -/
def bootSteps (b : BootChecks) (s : State) : State :=
  let m := modeOf (otpCfg s) b.bootCfg
  let cress := s.pow.kind == .cress
  let s := { s with pod := { s.pod with
    bootPort := b.bootPort, peerHead := b.peerHead, shelled := m.1 && !cress, modeSrc := m.2 } }
  if !b.bootRomOk then holdOpen 0x01 0 s
  else
    match b.ctFail with
    | some f => holdOpen 0x02 (ctDetail f) s
    | none =>
      let s := { s with pod := { s.pod with ctPass := true } }
      if !b.digestOk && !cress then failStart 0x12 0 0 0x6 false s
      else toPhase .march (withPow s fun w => { w with startWd := true, podAt := s.phys })

/-- The next boot epoch, never 0 (R384). -/
def nextEpoch (n : Nat) : Nat := if 0xFFFF ≤ n then 1 else n + 1

/-- The epoch is incremented. -/
def countEpoch (s : State) : State := withPow s fun w => { w with epoch := nextEpoch w.epoch, epochAt := s.phys }

/-- The first record of the new epoch, from the retention record as found (R391): whole, torn, or missing. -/
def retentionEntry (s : State) : Event × Nat :=
  let b := s.pow.retRecord
  if b.all (· == 0) || num b 0 8 == 0 then
    ({ newEvent s 0xF004 0 0xFF 0 (le 8 s.pow.retWord.toNat) with sidx := 0 }, s.pow.epoch)
  else if num b 4 4 = crc32 (b.take 4 ++ b.drop 8) then
    ({ newEvent s 0xF002 0 0xFF 0 (field b 40 88) with
        time := num b 8 8, last := num b 8 8, sidx := num b 32 4, sidxEp := num b 31 1, quality := bits (num b 30 1) 1 0 }, num b 22 2)
  else
    ({ newEvent s 0xF003 0 0xFF 0 (field b 0 4 ++ field b 22 2 ++ le 2 0 ++ field b 8 8 ++ field b 40 72) with sidx := 0 },
      s.pow.epoch)

/-- The record is entered, and the retention record marked absent. -/
def enterRetention (s : State) : State :=
  let e := retentionEntry s
  let r := recordOf e.2 (nextSeq s.log.seq) e.1
  { s with
    log := { s.log with records := s.log.records ++ [r], seq := nextSeq s.log.seq }
    pow := { s.pow with retRecord := [] } }

/-- History as PWR_STATUS words 5 to 7 show it: reason and age. -/
def historyWords (s : State) : List Nat :=
  (List.range 3).map fun i =>
    match (freshHistory s)[i]? with
    | none => 0
    | some e => e.reason * 2 ^ 24 + satN 0xFFFFFF (s.pow.aonSeconds - e.seconds)

/-- Cress is entered: the epoch counted, and CRESS_ENTRY appended to the ledger it keeps (R386, R481). -/
def enterCress (s : State) : State :=
  let s := countEpoch s
  let s := { s with pod := { s.pod with running := true } }
  let s := toPhase .cress (withPow s fun w => { w with startWd := false })
  commitDirect (newEvent s 0xF007 0 0xFF 0 (words (historyWords s))) s

/-! ### Power-down (R395 to R397) -/

/-- Items of an open transaction as they end with a restart or a power-down: sequencing has its own code. -/
def endedItems (seqCode code : Nat) (t : Txn) : Bytes :=
  let c := if t.opcode / 4096 = 0xA then seqCode else code
  itemBytes ((t.items.zip (List.range t.items.length)).map fun e => if e.2 ∈ t.waiting then c else e.1)

/-- Payload of a transaction ended by a warm restart, and by a power-down. -/
def resetPayload (t : Txn) : Bytes :=
  if 0x2002 ≤ t.opcode ∧ t.opcode ≤ 0x2007 then [0x40] else endedItems 0x60 0x30 t
def downPayload (t : Txn) : Bytes :=
  if 0x2002 ≤ t.opcode ∧ t.opcode ≤ 0x2007 then [0x41] else endedItems 0x61 0x31 t

/-- The power-fail frame on one port (Table 14.8). -/
def powerFail (s : State) (p : Port) : State :=
  let opened := (s.hub.txns.filter fun t => decide (t.port = p)).length
  notice p 0x1010 0 0xFF
    (le 2 s.pow.epoch ++ [BitVec.ofNat 8 s.pow.pdCause, BitVec.ofNat 8 (satN 255 opened)] ++ ctrBytes s
      ++ le 8 s.pow.pdTime ++ le 2 s.pow.pdStrings.toNat ++ le 2 0) s

/-- Bleed is held on every ring from the next TC0 slot on (step 3). -/
def holdBleed (s : State) : State :=
  let rs := (List.range 8).foldl (fun m r => mmod {} m r fun k => { k with holdDue := some true }) s.chn.rings
  { s with chn := { s.chn with rings := rs } }

/-- Sequences stop where they are: nothing is switched. -/
def stopSequences (s : State) : State :=
  { s with seq := { s.seq with step := .none, dscStep := .none, joins := [], opens := [], openMask := 0, waitAt := none } }

/-- Steps 1 to 4a: BUSY from now on, the frame and the completions, bleed off, the zero-current request and the inhibits. -/
def beginPowerDown (cause reason : Nat) (skip : Bool) (s : State) : State :=
  let s := toPhase .powerDown (withPow s fun w => { w with
    pdCause := cause, endReason := reason, pdStep := 3, pdSkip4 := skip, pdKeep := false, pdTime := s.tb.ns, pdPhys := s.phys
    pdStrings := BitVec.ofNat 16 (serviceMask s), pdDue := s.phys })
  let s := allPorts.foldl powerFail s
  let s := holdBleed (stopSequences (abortAll 0x31 downPayload s))
  if skip then s
  else setInhibits true true (sendLimits 0x03 0 3 (withPow s fun w => { w with pdStep := 4 }))

/-- A module without firmware running goes down at once: only step 6 is left. Where AUX_IN is lost in Hold-open the retention
word keeps its reason and DETAIL (R388). -/
def bareDown (cause reason : Nat) (s : State) : State :=
  toPhase .bare (withPow s fun w => { w with
    pdCause := cause, endReason := reason, pdStep := 5, pdSkip4 := true, pdTime := s.tb.ns, pdPhys := s.phys, pdStrings := 0
    pdKeep := s.pow.phase == .holdOpen && reason == 0x21 })

/-- What the loss of AUX_IN, or a thermal hard limit, does by phase (R378, R385, R395). -/
def goDown (cause reason : Nat) (s : State) : State :=
  match s.pow.phase with
  | .normal => beginPowerDown cause reason false s
  | .cress =>
    let s := abortAll 0x31 downPayload (allPorts.foldl powerFail s)
    bareDown cause reason (leaveCress s)
  | .rails | .pll | .march | .late | .holdOpen => bareDown cause reason s
  | .retry | .resetWait =>
    if reason = 0x20 then bareDown cause reason s
    else toPhase .off (withPow (clearUnits false s) fun w => { w with rails := 0 })
  | _ => s

/-- MP, MN, PCK, PCE and every KP and KN are off. -/
def contactorsOff (s : State) : Bool :=
  ([3, 4, 5, 6].all fun r => !roleActive s r 0) && allStrings.all (stringOff s)

/-- Some sequence runs. -/
def sequenceRuns (s : State) : Bool :=
  s.seq.step != .none || s.seq.dscStep != .none || !s.seq.joins.isEmpty || s.seq.openMask != 0 || !s.seq.opens.isEmpty

/-- Step 4 is done: nothing of it is left to switch off, or it is 4a alone, or it is skipped. -/
def step4Done (s : State) : Bool :=
  s.pow.pdSkip4 || p0 s pPwrPdOpen == 0 || (contactorsOff s && !roleActive s 7 0 && !roleActive s 8 0)

/-- LAST_END of an end reason. -/
def lastEndOf (s : State) : Nat :=
  match s.pow.endReason with
  | 0x20 => 0x3
  | 0x22 => 0x4
  | 0x23 => s.pow.endCode
  | _ => 0x1

/-- The retention record of this run (R391): the body of a power-down record in ledger form, its header the writing marker
where the last write was not made. -/
def retentionRecord (whole : Bool) (s : State) : Bytes :=
  let e := { newEvent s 0xF002 0 0xFF 0 (ctrBytes s ++ le 8 s.pow.retWord.toNat ++ le 2 s.pow.pdStrings.toNat) with
    time := s.pow.pdTime, last := s.pow.pdTime }
  let b := recordBytes (recordOf s.pow.epoch (nextSeq s.log.seq) e)
  if whole then b else le 4 0xFFFFFFFF ++ le 4 0 ++ b.drop 8

/-- A commanded start (RESTART, PATCH_APPLY) in Normal: the sequence without step 4; in Cress a reset start at once (R373,
R401). -/
def commandStart (endCode : Nat) (s : State) : State :=
  let s := withPow s fun w => { w with endCode, endReason := 0x23 }
  if s.pow.phase == .cress then
    let s := abortAll 0x30 resetPayload s
    awaitReset (writeRetention 0 endCode 0 0 0x23 (leaveCress s))
  else beginPowerDown 0x04 0x23 true s

end Sys2Proof.Machine
end

