-- ==== Sys2Proof/Machine/Metrology.lean ====
section
/-!
DEFINITION. The commands and events of bus metrology (chapter 4).
-/
namespace Sys2Proof.Machine
open Sys2Proof

/-! ### Calibration (R120 to R128) -/

/-- HV_START_CAL_DONE (R126): the modulators that have not failed are calibrated in their starting configurations; rotation
begins with VB. A role that the spare took over before, in a configuration it is not calibrated in, keeps its unknown age
(R127). -/
def execHvStartCalDone (dt : Nat) (s : State) : Out :=
  let s := advance dt s
  if !sequencing s || !hvPowered s || s.met.ready then .next s
  else
    let starts := (List.range 6).filter fun n => !decide (n ∈ s.met.failed)
    .next (withMet s fun m => { m with
      ready := true, spareOk := m.spare.isSome, calRole := 0, calMod := none, calPhase := .idle
      unknown := (List.range 5).filter fun r => servingOf m r == 5 && r != 0
      calAt := starts.map fun n => (n * 8 + (if n = 5 then 0 else n), s.phys) })

/-- IRANGE_MISMATCH (R120): the second's mean difference exceeds 0.02 % of the IL full scale. -/
def execIrangeMismatch (dt : Nat) (s : State) : Out :=
  let s := advance dt s
  match s.met.diffMean with
  | none => .next s
  | some d =>
    if 64000 < d.natAbs ∧ !s.met.ilOnly then
      .next (withMet (post .irangeMismatch 0xFF 0 (le 4 (signedCode d)) s) fun m => { m with ilOnly := true, recalIH := true, recalIL := true, diffMean := none })
    else .next s

/-- CAL_STEP_START (R121): the spare, calibrated for the next role, is connected in parallel to it. -/
def execCalStepStart (dt : Nat) (s : State) : Out :=
  let s := advance dt s
  if s.met.ready && decide (s.met.calPhase = .idle) && s.met.spare.isSome && s.met.spareOk && !capHolds s then
    .next (withMet s fun m => { m with calPhase := .fill, calN := 0, pairs := 0, pairSum := 0 })
  else .next s

/-- The role's live modulator is replaced by the spare, and d slewed out; CAL_DRIFT where d exceeds MET.DRIFT_ALARM. R120 does not
say when a path has been recalibrated: it is when a freshly calibrated spare takes its role over here, not at a takeover
after a failure nor when a freed modulator's own calibration is done (DESIGN CHOICE, log 151). -/
def takeRole (n : Nat) (s : State) : State :=
  let m := s.met
  let r := m.calRole
  let freed := servingOf m r
  let d := divRound (m.pairSum * 256) (m.pairs : Nat)
  let drift := decide ((p0 s pMetDriftAlarm * (roleFull r).natAbs * 256 : Nat) < d.natAbs * 1000000)
  let s := if drift then
      post .calDrift 0xFF r ([BitVec.ofNat 8 r, BitVec.ofNat 8 freed, 0, 0] ++ le 4 (signedCode (divRound d 256))) s else s
  withMet s fun m =>
    let m := { m with
      serving := m.serving.set r n, spare := none, spareOk := false, calMod := if freed < 6 then some freed else none
      slewD := d, slewN := 256, slewRole := r, calRole := (r + 1) % 5, calPhase := .idle, unknown := m.unknown.filter (· != r)
      recalIH := m.recalIH && r != 2, recalIL := m.recalIL && r != 3 }
    { m with ilOnly := m.ilOnly && (m.recalIH || m.recalIL) }

/-- HANDOVER (R122, R123): after 64 samples with 48 valid pairs, extended to 256 samples at most; else the step is abandoned. -/
def execHandover (dt : Nat) (s : State) : Out :=
  let s := advance dt s
  match s.met.calPhase, s.met.spare with
  | .overlap, some n =>
    if 64 ≤ s.met.calN ∧ 48 ≤ s.met.pairs then .next (takeRole n s)
    else if 256 ≤ s.met.calN then .next (withMet s fun m => { m with calPhase := .abandoned, abandAt := s.phys })
    else .next s
  | _, _ => .next s

/-- CAL_STEP_RETRY (R123): an abandoned step starts again 200 ms later. -/
def execCalStepRetry (dt : Nat) (s : State) : Out :=
  let s := advance dt s
  if s.met.calPhase = .abandoned ∧ 200 * msNs ≤ since s s.met.abandAt ∧ !capHolds s then
    .next (withMet s fun m => { m with calPhase := .fill, calN := 0, pairs := 0, pairSum := 0 })
  else .next s

/-- A modulator is declared failed: reported, and a trigger of the capture. -/
def modulatorFails (n : Nat) (s : State) : State :=
  capTrigger 7 (post .modulatorFailed 0xFF n [BitVec.ofNat 8 n] (withMet s fun m => { m with failed := m.failed ++ [n] }))

/-- MODULATOR_CAL_DONE (R121, R124): the freed modulator becomes the spare for the next role, or is declared failed. -/
def execModulatorCalDone (dt : Nat) (inWindow : Bool) (s : State) : Out :=
  let s := advance dt s
  match s.met.calMod with
  | none => .next s
  | some n =>
    if capHolds s then .next s
    else if inWindow then
      .next (withMet s fun m => { m with spare := some n, spareOk := true, calMod := none, calAt := mput m.calAt (n * 8 + m.calRole) s.phys })
    else .next (modulatorFails n (withMet s fun m => { m with calMod := none }))

/-- The spare takes over a role whose modulator failed (R127, Table 04.6): with a filter already full no sample is marked;
samples already in it count towards its filling. -/
def takeOver (r n : Nat) (s : State) : State :=
  let full := s.met.calPhase == .overlap && s.met.calRole == r && s.met.spare == some n
  let filled := if s.met.calPhase == .fill && s.met.calRole == r then s.met.calN else 0
  let known := (mfind s.met.calAt (n * 8 + r)).isSome
  withMet s fun m => { m with
    serving := m.serving.set r n, spare := none, spareOk := false, calMod := none, calPhase := .idle
    tkov := if full || decide (4 ≤ filled) || !m.ready then mdel m.tkov r else mput m.tkov r (4 - filled)
    unknown := if known then m.unknown.filter (· != r) else (if r ∈ m.unknown then m.unknown else m.unknown ++ [r])
    slewN := if m.slewRole = r then 0 else m.slewN
    cap := if capHolds s then { m.cap with lostWide := true } else m.cap }

/-- A failed modulator served a role: the spare takes it over, or the role is served no more (R127, R128). -/
def replace (r : Nat) (s : State) : State :=
  match s.met.spare, s.met.calMod with
  | some n, _ => takeOver r n s
  | none, some n => takeOver r n s
  | none, none => withMet s fun m => { m with serving := m.serving.set r 6 }

/-- MODULATOR_FAILURE (R127, R128). -/
def execModulatorFailure (dt modulator : Nat) (s : State) : Out :=
  let s := advance dt s
  if 6 ≤ modulator ∨ modulator ∈ s.met.failed ∨ !sequencing s ∨ !hvPowered s then .next s
  else
    let s := modulatorFails modulator s
    let s := if s.met.spare = some modulator ∨ s.met.calMod = some modulator then
        withMet s fun m => { m with spare := none, spareOk := false, calMod := none, calPhase := .idle
                                    cap := if capHolds s then { m.cap with lostWide := true } else m.cap }
      else s
    .next (match (List.range 5).find? fun r => servingOf s.met r == modulator with
      | some r => replace r s
      | none => s)

/-! ### Insulation (R131 to R136) -/

/-- The difference a half-period's change is compared with: of the previous result, or while none exists of the two halves. -/
def settleRef (i : Insulation) (mean : Int) : Nat :=
  match i.prevDiff, (if i.positive then i.viNeg else i.viPos) with
  | some d, _ => d
  | none, some o => (mean - o).natAbs
  | none, none => 2 * mean.natAbs

/-- The mean of VI over the last 20 % of the half-period, and its change over it, µV (R131, R132). -/
def Insulation.tailMean (i : Insulation) : Int := divRound i.tailSum (i.tailN : Nat)
def Insulation.tailMove (i : Insulation) : Nat := (i.tailLast - i.tailFirst.getD i.tailLast).natAbs

/-- INS_HALF_PERIOD_END names the half-period that ends: its polarity, its length in s and the physical time at which it began; one
discarded meanwhile (R133) has no end. Settled, its mean is kept and with the other one gives a result; else its length doubles.
One whose last 20 % brought no valid VI sample is begun again at its length (DESIGN CHOICE, log 102). -/
def execInsHalfPeriodEnd (dt : Nat) (positive : Bool) (length begun : Nat) (s : State) : Out :=
  let s := advance dt s
  let i := s.met.ins
  let viMean := i.tailMean
  if p0 s pMetInsMode = 0 ∨ i.length = 0 ∨ since s i.startAt < i.length * secNs then .next s
  else if ¬ (i.positive = positive ∧ i.length = length ∧ i.startAt = begun) then .next s
  else if i.tailN = 0 then .next (beginHalf i.length i.positive s)
  else if i.tailMove * 100 < settleRef i viMean then
    let s := withMet s fun m => { m with ins := { m.ins with
      viPos := if i.positive then some viMean else i.viPos, viNeg := if i.positive then i.viNeg else some viMean } }
    let s := match s.met.ins.viPos, s.met.ins.viNeg with
      | some a, some b => insResult a b s
      | _, _ => s
    .next (beginHalf i.length (!i.positive) s)
  else if i.length < p0 s pMetInsTmax then .next (beginHalf (min (2 * i.length) (p0 s pMetInsTmax)) i.positive s)
  else .next (beginHalf i.length (!i.positive) (withMet s fun m => { m with ins := { m.ins with unsettled := true } }))

/-- PE_CHECK (R136): every 60 s; a loop above 100 Ω sets PE_FAULT, under which every result is not available; a passing check
clears it. -/
def execPeCheck (dt loopMilliohm : Nat) (s : State) : Out :=
  let s := advance dt s
  if p0 s pMetPeCheck = 0 ∨ !sequencing s ∨ !hvPowered s ∨ s.met.ins.peAt.any fun t => decide (since s t < 60 * secNs) then .next s
  else
    let bad := decide (100000 < loopMilliohm)
    let s := if bad && !s.met.ins.peFault then post .peFault 0xFF 0 (le 4 loopMilliohm) s else s
    .next (withMet s fun m => { m with ins := { m.ins with peFault := bad, peAt := some s.phys } })

/-! ### Ripple (R137 to R139) -/

/-- rms of values. -/
def rmsOf (l : List Nat) : Nat :=
  if l.isEmpty then 0 else (ratRound (Config.sqrtR (((l.map fun x => x * x).sum : Nat) / (l.length : Nat)))).toNat

/-- Values at one place of the windows' lists, for 50 orders. -/
def ordersOf (ws : List RippleWindow) (f : RippleWindow → List Nat) : List Nat :=
  (List.range 50).map fun h => rmsOf (ws.map fun w => (f w).getD h 0)

/-- The 3 s values of fifteen windows: the rms of each output. -/
def slowOf (ws : List RippleWindow) (last : RippleWindow) : RippleWindow :=
  { source := last.source, first := (ws.head?.map (·.first)).getD last.first, mean := (rmsOf (ws.map (·.mean.natAbs)) : Nat)
    rms := rmsOf (ws.map (·.rms)), sub := ordersOf ws (·.sub), grp := ordersOf ws (·.grp), phase := last.phase }

/-- A window's results are published, with its flags NA, STALE and UNSYNC; the fifteenth of a run gives the 3 s values, which a
window that is not available leaves without (log 144). -/
def publishWindow (win : RippleWindow) (unsync : Bool) (r : Ripple) : Ripple :=
  let na := decide (4 < (r.win.filter (·.isNone)).length)
  let n := r.count + 1
  let ws := if na then r.recent else r.recent ++ [win]
  { first := win.first, mean := win.mean, rms := win.rms, sub := win.sub, grp := win.grp, phase := win.phase
    flags := BitVec.ofNat 8 (b2n na + 2 * b2n r.winStale + 4 * b2n unsync)
    count := if n < 15 then n else 0
    recent := if n < 15 then ws else []
    slow := if n < 15 then r.slow else if ws.length = 15 then some (slowOf ws win) else none }

/-- Samples of a window that spans exactly 20 or 24 cycles of the fundamental: within 5 % of nominal, or exactly nominal while
tracking holds it (R138). -/
def windowFits (m : Metrology) : Bool :=
  let n := (mget {} m.ripple 0 : Ripple).win.length
  if m.ripHold then n == 6400 else decide (6095 ≤ n) && decide (n ≤ 6736)

/-- A window is named by the sample index of its first sample and the cycles it spans, 20 or 24 (R137; log 144). -/
def windowNamed (first cycles : Nat) (s : State) : Bool :=
  (mget {} s.met.ripple 0 : Ripple).winIdx == first && centreBin s 1 == cycles

/-- RIPPLE_WINDOW_END (R137 to R139): the windows of both sources end together; those of MET.RIPPLE_SRC are published. -/
def execRippleWindowEnd (dt first cycles : Nat) (s : State) : Out :=
  let s := advance dt s
  if !sequencing s || !hvPowered s || !windowFits s.met || !windowNamed first cycles s then .next s
  else
    let r (src : Nat) : Ripple := mget {} s.met.ripple src
    let vb := ripplePoints (r 0)
    let unsync := decide (rippleCode 0 (subSq vb (centreBin s 1)) < p0 s pMetRippleMin * 100)
    let done (src : Nat) : Ripple :=
      if bit (p0 s pMetRippleSrc) src then publishWindow (analyse s src (r src) vb) unsync (r src)
      else { r src with win := [], winStale := false }
    .next (withMet s fun m => { m with ripHold := unsync, ripple := mput (mput m.ripple 0 (done 0)) 1 (done 1) })

/-! ### The capture (R145, R482) -/

/-- CAPTURE_TRIGGER brings its arrival within the sampling instant as the metrology section counts it. -/
def execCaptureTrigger (dt source arrival : Nat) (s : State) : Out :=
  let s := advance dt s
  .next ((List.range 4).foldl (fun s b => settleTrace b s) (capTriggerAt source arrival s))

/-- CAPTURE_FREEZE: the post-trigger part is full. -/
def execCaptureFreeze (dt : Nat) (s : State) : Out :=
  let s := advance dt s
  let c := s.met.cap
  if c.state = .filling ∧ c.post = 0 then
    let r := nextFreeze s
    let first := c.data.getLast?
    let s := withMet r.2 fun m => { m with cap := { c with
      state := .frozen, freeze := r.1, readOut := []
      firstIdx := (first.map (·.idx)).getD 0, firstEp := (first.map (·.ep)).getD 0, time := (first.map (·.time)).getD s.tb.ns } }
    .next (post .capture 0xFF 0 (le 4 r.1) s)
  else .next s

/-! ### Mailbox commands (R439) -/

/-- Calibration age of a role in 0.1 s, rounded (R6); the saturated value where it is unknown. -/
def ageCode (s : State) (r : Nat) : Nat :=
  match calAge s r with
  | none => 0xFFFF
  | some a => satN 0xFFFF (natRound a 100000000)

/-- MET_READ. -/
def execMetRead (dt : Nat) (rq : Request) (s : State) : Out :=
  .next (readOp 0x6001 dt rq (fun _ s =>
    words [s.met.sidx, busCode (vbNow s), busCode (vlNow s), currentCode (iNow s)]
    ++ [s.met.vb.flags, s.met.vl.flags, s.met.cur.flags, 0] ++ (List.range 5).flatMap fun r => le 2 (ageCode s r)) s)

/-- CTR_BASE (R143): once per epoch, while BASE_MISSING is set. -/
def execCtrBase (dt : Nat) (rq : Request) (s : State) : Out :=
  .next (mailbox 0x6002 dt rq (fun t s =>
    if !s.met.baseMiss || s.met.base.isSome then complete t 0x11 [] s
    else
      let b := (num t.payload 0 8, num t.payload 8 8, signed 64 (num t.payload 16 8))
      complete t 0x00 [] (withMet s fun m => { m with base := some b })) s)

/-- CAP_TRIGGER. -/
def execCapTrigger (dt : Nat) (rq : Request) (s : State) : Out :=
  .next (mailbox 0x6003 dt rq (fun t s => complete t 0x00 [] ((List.range 4).foldl (fun s b => settleTrace b s) (capTrigger 0 s))) s)

/-- CTR_READ. -/
def execCtrRead (dt : Nat) (rq : Request) (s : State) : Out :=
  .next (readOp 0x6004 dt rq (fun _ s => ctrBytes s ++ words [s.met.ctrGap, s.met.ctrLost] ++ [BitVec.ofNat 8 (b2n s.met.baseMiss)]) s)

/-- INS_READ. -/
def execInsRead (dt : Nat) (rq : Request) (s : State) : Out :=
  .next (readOp 0x6005 dt rq (fun _ s =>
    le 4 (insReported s) ++ [BitVec.ofNat 8 (insStatus s), 0, 0, 0] ++ le 8 s.met.ins.time) s)

/-- A source's results as RIPPLE_READ returns them; what is not available carries the reserved codes. -/
def rippleBytes (src first : Nat) (mean : Option Int) (rms : Nat) (sub grp : List Nat) (phase : List Int) : Bytes :=
  words ([first, if src = 0 then busCode mean else currentCode mean, rms]
    ++ (List.range 50).map (fun h => sub.getD h 0xFFFFFFFF) ++ (List.range 50).map (fun h => grp.getD h 0xFFFFFFFF))
  ++ (List.range 50).flatMap fun h => le 2 (code 16 (phase.getD h 0))

/-- RIPPLE_READ: source and kind. -/
def execRippleRead (dt : Nat) (rq : Request) (s : State) : Out :=
  .next (mailbox 0x6006 dt rq (fun t s =>
    let src := num t.payload 0 1
    let kind := num t.payload 1 1
    let s := noteReserved kind 1 (noteReserved src 1 s)
    let r : Ripple := mget {} s.met.ripple (src % 2)
    let none_ := rippleBytes (src % 2) 0 none 0xFFFFFFFF [] [] []
    let out := if kind % 2 = 0 then
        if bit r.flags.toNat 0 then none_ else rippleBytes (src % 2) r.first (some r.mean) r.rms r.sub r.grp r.phase
      else match r.slow with
        | some w => rippleBytes (src % 2) w.first (some w.mean) w.rms w.sub w.grp w.phase
        | none => none_
    complete t 0x00 out s) s)

end Sys2Proof.Machine
end

