-- ==== Sys2Proof/Machine/ParamCmds.lean ====
section
/-!
DEFINITION. The commands of the parameter model (chapter 16).
-/
namespace Sys2Proof.Machine
open Sys2Proof

/-- PARAM_GET (R451, R454, R512): a view above 3 is view 0, counted. Free values are drawn for its information IDs. -/
def execParamGet (dt : Nat) (rq : Request) (s : State) : Out :=
  .next (mailbox 0x0002 dt rq (fun t s =>
    let v := num t.payload 0 1
    let s := noteReserved (num t.payload 1 1) 0 (if 3 < v then countClamps 1 s else s)
    let view := if 3 < v then 0 else v
    let c := itemCount t (num t.payload 2 2) 4 (if view = 3 then 68 else 12) s
    let s := c.2
    let items := (List.range c.1).map fun i => (num t.payload (4 + 4 * i) 2, num t.payload (6 + 4 * i) 2)
    let rs : List (Nat × Bytes) := items.map fun e =>
      if view = 3 then
        let r := describeItem s e.1
        (r, le 2 e.1 ++ le 2 e.2 ++ descriptorBytes e.1 r)
      else
        let g := getItem s view e.1 e.2
        (g.2, itemReply e.1 e.2 g.1 g.2 (if g.2 = 0x10 ∨ g.2 = 0x12 then 0 else itemInfo s e.1 e.2))
    complete t (paramStatus (rs.map (·.1))) (le 2 c.1 ++ le 2 0 ++ (rs.map (·.2)).flatten) (drawn s)) s)

/-- PARAM_SET (R446 to R451). -/
def execParamSet (dt : Nat) (rq : Request) (s : State) : Out :=
  .next (mailbox 0x0003 dt rq (fun t s =>
    let s := noteReserved (num t.payload 2 2) 0 s
    let c := itemCount t (num t.payload 0 2) 8 12 s
    let items := (List.range c.1).map fun i =>
      (num t.payload (4 + 8 * i) 2, num t.payload (6 + 8 * i) 2, num t.payload (8 + 8 * i) 4)
    let r := setItems items c.2
    complete t (paramStatus (r.2.map (·.1))) (le 2 c.1 ++ le 2 0 ++ (r.2.map (·.2)).flatten) r.1) s)

/-- Completion of PARAM_COMMIT (Table 16.5). -/
def answerCommit (t : Txn) (result n : Nat) (s : State) : State :=
  complete t (paramStatus [result])
    ([BitVec.ofNat 8 result, 0] ++ le 2 n ++ le 2 (awaitingH s) ++ le 2 s.par.generation) s

/-- The answer of a commit that handled `n` parameters: a new generation where the staging area is another than before. -/
def endCommit (t : Txn) (area : SMap Int) (n : Nat) (s : State) : State :=
  answerCommit t 0x00 n (if s.par.staged = area then s else nextGen s)

/-- PARAM_COMMIT (R452): commit, discard, or defaults, of the groups of the mask. -/
def execParamCommit (dt : Nat) (rq : Request) (s : State) : Out :=
  .next (mailbox 0x0004 dt rq (fun t s =>
    let mode := num t.payload 0 1
    let gen := num t.payload 2 2
    let m := num t.payload 4 2
    let mask := if m = 0 then 0xFFFF else m
    let s := noteReserved (num t.payload 1 1) 0 s
    let inMask (id : Nat) : Bool := bit mask (id / 4096)
    if 2 < mode then answerCommit t 0x14 0 s
    else if gen ≠ 0 ∧ gen ≠ s.par.generation then answerCommit t 0x13 0 s
    else
      let area := s.par.staged
      match mode with
      | 0 =>
        let batch := s.par.staged.filter fun e => inMask (e.1 / 65536) && paramClass (e.1 / 65536) == 1
        endCommit t area batch.length (writeBatch true batch s)
      | 1 =>
        let keys := staged s inMask
        endCommit t area keys.length { s with par := { s.par with
          staged := s.par.staged.filter fun e => !inMask (e.1 / 65536)
          held := s.par.held.filter fun k => !inMask (k / 65536) } }
      | _ =>
        let keys := ((s.par.applied.map (·.1)) ++ (s.par.staged.map (·.1))).eraseDups.filter fun k => inMask (k / 65536)
        endCommit t area keys.length (writeBatch true (keys.map fun k => (k, paramDefault (k / 65536) (k % 65536))) s)) s)

/-- A staged class-H value, or a value whose reservation has ended, is applied at the first moment its block is idle
(R446, R447). -/
def execParamHApply (dt : Nat) (id inst : Nat) (s : State) : Out :=
  let s := advance dt s
  let key := pk id inst
  .next (
    if inNormal s && (mfind s.par.staged key).isSome && paramClass id == 2 then applyIdle [key] s
    else if inNormal s then releaseHeld s else s)

/-- PARAM_BULK_GET (R457): offset 0 assembles an image under a new count; the kinds beyond 2 are refused. -/
def execParamBulkGet (dt : Nat) (rq : Request) (s : State) : Out :=
  .next (mailbox 0x0005 dt rq (fun t s =>
    let s := noteXfer t s
    if 2 < xferKind t then failRead t 0x84 s
    else if xferOff t = 0 then
      if s.xfer.cfgWrite.isSome then failRead t 0x83 s
      else
        let n := (s.xfer.assembly + 1) % 2 ^ 32
        let img : Image := { data := assemble s (xferKind t), freeze := n, lastAt := s.phys }
        readChunk t img { s with xfer := { s.xfer with assembly := n, cfgImage := some img } }
    else
      match s.xfer.cfgImage with
      | none => failRead t 0x85 s
      | some img => readChunk t img { s with xfer := { s.xfer with cfgImage := some { img with lastAt := s.phys } } }) s)

/-- PARAM_BULK_SET (R458, R461): the final chunk applies the image. -/
def execParamBulkSet (dt : Nat) (rq : Request) (s : State) : Out :=
  .next (mailbox 0x0006 dt rq (fun t s =>
    let s := noteXfer t s
    let r := writeChunk t s.phys cfgBuffer s.xfer.cfgWrite
    let image := if xferKind t = 0 ∧ xferOff t = 0 ∧ r.1 ≠ 0x83 then none else s.xfer.cfgImage
    let s := { s with xfer := { s.xfer with cfgImage := image, cfgWrite := if r.2.2 then none else r.2.1 } }
    let received := ((r.2.1.map (·.data)).getD []).length
    if !r.2.2 then answerChunk t r.1 received [] s
    else
      match judgeImage ((r.2.1.map (·.data)).getD []) with
      | none => answerChunk t 0x84 received [] s
      | some rs =>
        let a := applyImage rs s
        let counts := le 4 a.1 ++ le 4 a.2.1 ++ le 4 (a.2.2.par.clampCount - s.par.clampCount) ++ le 4 (awaitingH a.2.2)
        answerChunk t 0x00 received counts a.2.2) s)

/-- A write transfer without a chunk for 60 s is discarded (R458). -/
def execTransferTimeout (dt : Nat) (snapshot : Bool) (s : State) : Out :=
  let s := advance dt s
  let old (x : Option Transfer) : Bool := x.any fun x => decide (60 * secNs ≤ since s x.lastAt)
  .next (
    if snapshot then if old s.xfer.snapWrite then { s with xfer := { s.xfer with snapWrite := none } } else s
    else if old s.xfer.cfgWrite then { s with xfer := { s.xfer with cfgWrite := none } } else s)

/-- A held image is released 60 s after its last read (R457). -/
def execImageReleaseTimeout (dt : Nat) (snapshot : Bool) (s : State) : Out :=
  let s := advance dt s
  let old (x : Option Image) : Bool := x.any fun x => decide (60 * secNs ≤ since s x.lastAt)
  .next (
    if snapshot then if old s.xfer.snapImage then { s with xfer := { s.xfer with snapImage := none } } else s
    else if old s.xfer.cfgImage then { s with xfer := { s.xfer with cfgImage := none } } else s)

/-- A write to a parameter of its own: clamped, then applied or staged by its class (R446, R449). -/
def execRegisterWrite (dt : Nat) (id inst : Nat) (value : BitVec 32) (s : State) : Out :=
  let s := advance dt s
  .next (if podUp s then (setItems [(id, inst, value.toNat)] s).1 else s)

end Sys2Proof.Machine
end

