-- ==== Sys2Proof/Machine/PodOps.lean ====
section
/-!
DEFINITION. The Pod and its memory as operations: faults and warm restarts, patches, OTP, ECC accounts (chapter 13, R263,
R290, R307, R463).
-/
namespace Sys2Proof.Machine
open Sys2Proof

/-- The Pod changed. -/
def withPod (s : State) (f : Pod → Pod) : State := { s with pod := f s.pod }

/-! ### Patches (R372, R373) -/

/-- Size of the patch region, and its byte at an offset through the cells. -/
abbrev regionSize : Nat := 262144
def regionBytes (s : State) (o n : Nat) : Bytes := cellReads s.pod.region o n

/-- Body length of the image held, where it is one the region holds. -/
def patchBody (s : State) : Option Nat :=
  let n := leNat (regionBytes s 12 4)
  if 4 ≤ n ∧ n ≤ 261984 ∧ n % 4 = 0 then some n else none

/-- Digest of the whole image. -/
def imageDigest (s : State) : Bytes := sha256 (regionBytes s 0 (160 + (patchBody s).getD 0))

/-- What PATCH_VERIFY finds (R372): a result of Table 13.10, and whether key 1 signed. -/
def judgePatch (s : State) : Nat × Bool :=
  match patchBody s with
  | none => (0x20, false)
  | some n =>
    if leNat (regionBytes s 2 2) ≠ 1 ∨ leNat (regionBytes s 4 4) ≠ Config.fwRomVer.toNat then (0x20, false)
    else
      let key := regionBytes s 32 64
      let h := sha256 key
      let k0 := h == cellReads s.pod.otp 0x1000 32 && !bit (cellRead s.pod.otp 0x1040).toNat 0
      let k1 := h == cellReads s.pod.otp 0x1020 32
      if !k0 && !k1 then (0x21, false)
      else
        let digest := sha256 (regionBytes s 0 96 ++ regionBytes s 160 n)
        let sig := regionBytes s 96 64
        if ecdsaVerify (beNat (key.take 32)) (beNat (key.drop 32)) (beNat (sig.take 32)) (beNat (sig.drop 32)) digest then
          (0x00, k1)
        else (0x22, false)

/-- A retained patch at a start: active where its signature verifies again. -/
def startPatch (s : State) : State :=
  if s.pod.retained then withPod s fun p => { p with patch := if (judgePatch s).1 = 0 then 3 else 4 } else s

/-! ### OTP (R371, R375) -/

/-- OTP as OTP_READ shows it: the secret and its check word, and the reserved part, read zero. -/
def otpShown (s : State) (a : Nat) : Byte :=
  if (0x1100 ≤ a ∧ a < 0x1124) ∨ 0x1200 ≤ a then 0 else cellRead s.pod.otp a

/-- Bytes a field's programming sets, and where: the secret with its check word, a bit of INTEGRATOR_CFG, REVOKE_0. -/
def otpTarget (field : Nat) (data : Bytes) : Nat × Bytes :=
  match field with
  | 0 => (0x1100, sized 32 data ++ le 4 (crc32 (sized 32 data)))
  | 1 => (0x1140, le 4 (2 ^ ((data.headD 0).toNat % 32)))
  | _ => (0x1040, le 4 1)

/-- Antifuses programmed: bits are only ever set. -/
def otpSet (m : List Host.Cell) (a : Nat) : Bytes → List Host.Cell
  | [] => m
  | b :: bs => otpSet (cellWrite m a (cellRead m a ||| b)) (a + 1) bs

/-- What a programming that does not read back left: some of the bits, which ones the manual leaves open (log 4). -/
def otpPart (n : Nat) : Bytes → Bytes
  | [] => []
  | b :: bs => (b &&& (Config.freeWord n).truncate 8) :: otpPart (n + 1) bs

/-- What refuses or answers an OTP_PROGRAM at once. -/
def otpRefusal (s : State) (field : Nat) (data : Bytes) : Option Nat :=
  match field with
  | 0 =>
    if !(otpSecret s).any (· != 0) && leNat (cellReads s.pod.otp 0x1120 4) == 0 then none
    else if otpSecret s == sized 32 data && secretSet s then some 0x01 else some 0x13
  | 1 =>
    let b := (data.headD 0).toNat
    if b ∉ [0, 1, 4, 5, 6, 7] then some 0x12 else if bit (otpCfg s) b then some 0x01 else none
  | 2 =>
    if bit (cellRead s.pod.otp 0x1040).toNat 0 then some 0x01 else if !s.pod.key1Seen then some 0x13 else none
  | _ => some 0x12

/-- Every factory trim block's CRC-32, held in its last word, fits (log 9). -/
def trimOk (s : State) : Bool :=
  (List.range 60).all fun i =>
    let a := 0x100 + 64 * i
    leNat (cellReads s.pod.otp (a + 60) 4) == crc32 (cellReads s.pod.otp a 60)

/-! ### ECC (R368, R369, R377) -/

/-- A bank's account changed. -/
def modBank (b : Nat) (f : Bank → Bank) (s : State) : State := withPod s fun p => { p with banks := mmod {} p.banks b f }

/-- A corrected error: counted, HARD_CE at an address corrected within the scrub period, CE_RATE once an hour. -/
def noteCe (b addr : Nat) (s : State) : State :=
  let k := mget {} s.pod.banks b
  let again := (mfind k.corrected addr).any fun t => decide (since s t ≤ s.pod.scrubPer * secNs)
  let times := s.phys :: k.ceTimes.filter fun t => decide (since s t < 3600 * secNs)
  let rate := decide (p0 s pPodCeEventN < times.length) && !(k.ceNoted.any fun t => decide (since s t < 3600 * secNs))
  let s := modBank b (fun k => { k with
    ce := inc16 k.ce, ceTimes := times, corrected := mput k.corrected addr s.phys
    ceNoted := if rate then some s.phys else k.ceNoted }) s
  let s := if again then post .hardCe 0xFF b (BitVec.ofNat 8 b :: le 4 addr) s else s
  if rate then post .ceRate 0xFF b [BitVec.ofNat 8 b] s else s

/-- More than 16 uncorrectable errors of a bank within 1 s: the bank is declared failed and G4 raised (Table 13.6). -/
def noteUe (b : Nat) (s : State) : State :=
  let k := mget {} s.pod.banks b
  let times := s.phys :: k.ueTimes.filter fun t => decide (since s t < secNs)
  let fails := decide (16 < times.length) && !k.failed
  let s := modBank b (fun k => { k with ue := inc16 k.ue, ueTimes := times, failed := k.failed || fails }) s
  let s := if fails then withPod s fun p => { p with badBanks := b :: p.badBanks } else s
  if fails then openBlock (post .bankFailed 0xFF b [BitVec.ofNat 8 b] s) else s

/-! ### Pod faults (R358 to R362, Table 13.2) -/

/-- The Pod-fault indication: reserved loops CL0 to CL4 and host loops without PODF_RUN are FORCED, PW0 and PW2 gated off,
BRAKE applied; waiting loads are cancelled with 0x30 (R263, R290, R307). -/
def podIndication (s : State) : State :=
  let s := (List.range 8).foldl (fun s k =>
    let runs := !reserved s k && bit (loopCfg s k) 3
    if runs then s else stopLoop .forced k s) s
  let s := { s with
    ctl := { s.ctl with podGate := [0, 2], pw := mput (mput s.ctl.pw 0 0) 2 0, pwNext := mput (mput s.ctl.pwNext 0 0) 2 0 }
    seq := { s.seq with brakeOff := false } }
  allLoads.foldl (fun s n =>
    let l := loadOf s n
    if !waits l then s
    else
      let es := if l.ours then mmap (fun e x => if bits ((mget 0 s.thm.defs e : BitVec 32)).toNat 5 0 = n then { x with failed := true, failedAt := some s.phys, reissue := true } else x) s.thm.entries
        else s.thm.entries
      withLsw (modLoad n (fun l => { l with state := .off, last := 0x30, ours := false }) { s with thm := { s.thm with entries := es } })
        fun a => { a with queue := a.queue.filter (· != n) }) s

/-- The Pod can fault: its cores run firmware, or a warm restart of them is under way. -/
def podRuns (s : State) : Bool :=
  s.pod.running && !s.pod.heldReset && match s.pow.phase with
    | .late | .normal | .powerDown | .cress => true
    | _ => false

/-- Both cores halt and a warm restart begins, unless it would be the ninth within 60 s; a comparator test that fails leaves
the module in Hold-open (R361, R362). -/
def halt (ct : Option CtFail) (s : State) : State :=
  let recent := s.pod.restartAt.filter fun t => decide (since s t < 60 * secNs)
  let s := podIndication (withPod s fun p => { p with haltAt := if p.warm then p.haltAt else s.phys, wdOff := true })
  if 8 ≤ recent.length then withPod s fun p => { p with heldReset := true, warm := true }
  else
    let s := withPod s fun p => { p with warm := true, restarts := inc16 p.restarts, restartAt := s.phys :: recent }
    match ct with
    | some f => holdOpen 0x02 (ctDetail f) (withPod s fun p => { p with ctPass := false })
    | none => s

/-- A Pod fault of Table 13.2: recorded, its Husk sources asserted, the Pod halted. A fatal firmware error before START_DONE
is a failed start. -/
def podFault (code : Nat) (ct : Option CtFail) (s : State) : State :=
  if !podRuns s then s
  else if code = 5 ∧ s.pow.phase = .late then failStart 0x15 0 0 0x6 false s
  else
    let s := withPod s fun p => { p with lastFault := code }
    let s := post .podFault 0xFF code [BitVec.ofNat 8 code] s
    let s := if code = 1 then
        let second := s.pod.mismatchAt.any fun t => decide (since s t ≤ p0 s pPrtPodRepeatT * secNs)
        let s := assertSource 20 0 (withPod s fun p => { p with mismatchAt := some s.phys })
        if second then assertSource 21 0 s else s
      else if code = 2 then assertSource 21 0 (withPod s fun p => { p with wdFaults := inc16 p.wdFaults })
      else s
    halt ct s

/-! ### Resuming (Table 13.3 steps 6 to 10) -/

/-- A protective record of SB0 that was lost is reinitialised (R360): 0 grade states, 1 heat indices, 2 dwell timers, 3 toggle
counters, 4 G3 latches, 5 thermal stop state. -/
def loseRecord (s : State) (r : Nat) : State :=
  let s := post .recordLost 0xFF r [BitVec.ofNat 8 r] s
  match r with
  | 0 =>
    let s := { s with prt := { s.prt with
      conds := mmap (fun _ c => { c with entered := false }) s.prt.conds, g1 := [], g2chg := [], g2dis := []
      g3wait := [], chgAt := none, disAt := none, lossG2 := none } }
    setInhibits false false s
  | 1 => { s with prt := { s.prt with heat := [], heatBlk := 0 } }
  | 2 => { s with prt := { s.prt with conds := mmap (fun _ c => { c with since := none }) s.prt.conds } }
  | 3 => { s with prt := { s.prt with conds := mmap (fun _ c => { c with toggles := [], hover := false }) s.prt.conds } }
  | 4 => { s with prt := { s.prt with g3 := 0 } }
  | 5 => { s with thm := { s.thm with stop := false, fast := false, levels := [] } }
  | _ => s

/-- A group record that was lost returns to defaults (R463); the hardware copies keep what they hold. -/
def loseGroup (s : State) (g : Nat) : State :=
  let keep (m : SMap Int) : SMap Int := m.filter fun e => e.1 / 65536 / 4096 != g
  post .paramLost 0xFF g [BitVec.ofNat 8 g]
    { s with par := { s.par with applied := keep s.par.applied, staged := keep s.par.staged
                                 held := s.par.held.filter fun k => k / 65536 / 4096 != g } }

/-- Groups whose loss counts as a lost protective record. -/
def protectiveGroup (g : Nat) : Bool := g == 5 || g == 9 || g == 10 || g == 11

/-- Sequencing's clean-up (R263): a string whose KP was not confirmed and a block whose MP was not confirmed are switched off,
DME is off, a disconnector stopped in its travel is INTERMEDIATE, and every queued join has ended. -/
def cleanSequences (s : State) : State :=
  let s := (s.seq.joins.map (·.str)).foldl (fun s j =>
    let s := if (joinOf s j).any (·.knAt.isSome) then roleOff 2 j (roleOff 1 j s) else s
    endJoin j 0x60 s) s
  let s := if dscClosing s then
      roleOff 8 0 { driveOff s with seq := { (driveOff s).seq with dsc := .intermediate, dscStep := .none, closeCmd := false } }
    else roleOff 8 0 s
  match s.seq.step with
  | .pcProbe | .pcMn | .pcRamp | .pcMp => pcFails 0x60 s
  | .closeDsc | .closeJoin => endClose 0x60 s
  | _ => s

/-- Class-H values of PRT staged before a warm restart are applied at it (Table 16.3). -/
def applyPrt (s : State) : State :=
  (staged s fun id => id / 4096 == 9 && paramClass id == 2).foldl (fun s k =>
    match mfind s.par.staged k with
    | none => s
    | some x =>
      let s := setApplied s (k / 65536) (k % 65536) x
      { s with par := { s.par with staged := mdel s.par.staged k } }) s

/-- The digest of a held patch is recomputed: on a difference the patch is dropped (R372). -/
def recheckPatch (s : State) : State :=
  if (s.pod.patch = 2 ∨ s.pod.patch = 3) ∧ imageDigest s ≠ s.pod.digest then withPod s fun p => { p with patch := 4, retained := false }
  else s

/-- Mailbox service resumes: transactions end, transfers are dropped, the watchdog is armed, and the Husk sources of the fault
release (Table 13.3 steps 8 and 9). -/
def reattach (s : State) : State :=
  let s := abortAll 0x30 resetPayload s
  let s := { s with xfer := { assembly := s.xfer.assembly } }
  let s := withPod s fun p => { p with warm := false, wdOff := false, wdKey := [], wdLast := [(0, s.phys), (1, s.phys)] }
  let s := releaseSource 21 (releaseSource 20 s)
  { s with ctl := { s.ctl with podGate := [] } }

end Sys2Proof.Machine
end

