-- ==== Sys2Proof/Machine/Pod.lean ====
section
/-!
DEFINITION. The commands and events of the Pod and its memory (chapter 13).
-/
namespace Sys2Proof.Machine
open Sys2Proof

/-! ### Faults -/

/-- A comparator mismatch (R354, R358): never in Shelled mode. -/
def execComparatorMismatch (dt : Nat) (group lane pc : Nat) (ctFail : Option CtFail) (s : State) : Out :=
  let s := advance dt s
  .next (
    if s.pod.shelled || !podRuns s then s
    else podFault 1 ctFail (withPod s fun p => { p with mmGroup := group, mmLane := lane, mmPc := pc, mmTime := s.tb.ns }))

/-- Instance of the watchdog a core serves: its own in Shelled mode, else the one of the pair. -/
def wdInstance (s : State) (core : Nat) : Nat := if s.pod.shelled then core % 2 else 0

/-- PRT.POD_WD_T in ns. -/
def wdTime (s : State) : Nat := p0 s pPrtPodWdT * 100000

/-- Firmware writes a key (R359): early, late or wrong, it is a watchdog fault. -/
def execWatchdogService (dt : Nat) (core key : Nat) (ctFail : Option CtFail) (s : State) : Out :=
  let s := advance dt s
  let i := wdInstance s core
  let due := mget 0x5AC3 s.pod.wdKey i
  let age := since s (mget 0 s.pod.wdLast i)
  .next (
    if s.pod.wdOff || !podRuns s then s
    else if key = due ∧ wdTime s ≤ 4 * age ∧ age ≤ wdTime s then
      withPod s fun p => { p with
        wdKey := mput p.wdKey i (if due = 0x5AC3 then 0xA53C else 0x5AC3), wdLast := mput p.wdLast i s.phys }
    else podFault 2 ctFail s)

/-- The watchdog is not served within PRT.POD_WD_T (R359). -/
def execWatchdogFault (dt : Nat) (core : Nat) (ctFail : Option CtFail) (s : State) : Out :=
  let s := advance dt s
  .next (
    if !s.pod.wdOff && decide (wdTime s < since s (mget 0 s.pod.wdLast (wdInstance s core))) then podFault 2 ctFail s else s)

/-- A bus error (Table 13.2). -/
def execBusError (dt : Nat) (ctFail : Option CtFail) (s : State) : Out := .next (podFault 4 ctFail (advance dt s))

/-- A firmware exception: one the firmware recovers changes nothing (Table 13.2). -/
def execFirmwareException (dt : Nat) (recoverable : Bool) (ctFail : Option CtFail) (s : State) : Out :=
  let s := advance dt s
  .next (if recoverable then s else podFault 5 ctFail s)

/-- A core's self-test in Shelled mode (R365). -/
def execShelledSelfTest (dt : Nat) (core : Nat) (pass : Bool) (ctFail : Option CtFail) (s : State) : Out :=
  let s := advance dt s
  .next (if s.pod.shelled && decide (core < 2) && !pass then podFault 6 ctFail s else s)

/-- A core's heartbeat is missing for 2 ms in Shelled mode (R365). -/
def execHeartbeatMissing (dt : Nat) (core : Nat) (ctFail : Option CtFail) (s : State) : Out :=
  let s := advance dt s
  .next (if s.pod.shelled && decide (core < 2) then podFault 6 ctFail s else s)

/-- Mailbox service has not resumed within 5 ms of a Pod fault (R221). -/
def execPodDeadTimeout (dt : Nat) (s : State) : Out :=
  let s := advance dt s
  .next (if s.pod.warm && decide (5 * msNs ≤ since s s.pod.haltAt) then assertSource 21 0 s else s)

/-- Warm entry and the resumption of mailbox service (Table 13.3 steps 6 to 10): lost records and groups are reinitialised,
transactions end, and the grades, sequencing, protection and the thermal policy go on (R348). -/
def execMailboxResume (dt : Nat) (lostProt lostGroups : List Nat) (hwDiffer : List Nat) (s : State) : Out :=
  let s := advance dt s
  .next (
    if !s.pod.warm || s.pod.heldReset then s
    else
      let s := recheckPatch s
      let s := lostProt.foldl loseRecord s
      let s := lostGroups.foldl loseGroup s
      let s := hwDiffer.foldl (fun s i => post .hwCopyMismatch 0xFF i (le 2 i) s) s
      let s := reattach (applyPrt s)
      let s := if g2Flags s = 0 then s else sendLimits 0x03 0 (g2Flags s) s
      let s := resumeWork (cleanSequences s)
      let s := if podUp s then thmEvaluate s else s
      if !lostProt.isEmpty || lostGroups.any protectiveGroup then openBlock s else s)

/-- The March test over the banks is done (R370, Table 14.3): a failure is a failed start, or Hold-open in a Cress start; else
Cress, or the firmware with the retention record and the retained patch. A bank declared failed in the run before fails it
(Table 13.6). -/
def execMarchTestDone (dt : Nat) (sb0Ok othersOk : Bool) (s : State) : Out :=
  let s := advance dt s
  .next (
    match s.pow.phase with
    | .march =>
      let bad := s.pod.badBanks
      let s := withPod s fun p => { p with badBanks := [] }
      let sb0 := sb0Ok && !bad.contains 0
      if s.pow.kind = .cress then if sb0 then enterCress s else holdOpen 0x03 0 s
      else if !sb0 || !othersOk || !bad.isEmpty then failStart 0x13 0 0 0x6 false s
      else
        let s := startPatch (countEpoch { s with log := {} })
        let s := enterRetention (withPod s fun p => { p with running := true, scrubStart := s.phys, scrubDone := s.phys })
        toPhase .late (withPow s fun w => { w with railNext := 5, railAt := s.phys })
    | _ => s)

/-! ### Memory -/

/-- A correctable word of SB0 to SB3 is written back (R369). -/
def execEccCorrected (dt : Nat) (bank addr : Nat) (s : State) : Out :=
  let s := advance dt s
  .next (if podRuns s && decide (bank < 4) then noteCe bank addr s else s)

/-- What an uncorrectable word of SB1 held is not the manual's: a node's cells, the metrology sample, a limit record or the
oldest step record, by a free value (log 4). -/
def loseSb1 (s : State) : State :=
  let w := (Config.freeWord s.free).toNat
  let s := drawn s
  match w % 4 with
  | 0 =>
    let node := w / 4 % 512
    let cells := (cellsOfNode node).foldl (fun m c => mmod {} m c fun x => { x with volt := 0xFFFF, qual := x.qual ||| 1 }) s.chn.cells
    { s with chn := { s.chn with cells } }
  | 1 =>
    let na (r : RoleSample) : RoleSample := { r with flags := r.flags ||| 1 }
    { s with met := { s.met with vb := na s.met.vb, vl := na s.met.vl, cur := na s.met.cur } }
  | 2 => { s with chn := { s.chn with records := mdel s.chn.records (w / 4 % 8) } }
  | _ =>
    match s.imp.queue with
    | [] => s
    | k :: ks =>
      postStep 0x19 0 0 k { s with imp := { s.imp with queue := ks } }

/-- A word of the instants held reads 0 from now on (Table 13.6). -/
def loseWord (n : Nat) (is : List CapInstant) : List CapInstant :=
  is.mapIdx fun i x => if i = n % is.length then { x with words := x.words.set (n / is.length % x.words.length) 0 } else x

/-- What an uncorrectable word of SB3 held: a capture word, a trace word, or a mailbox payload (log 4). -/
def loseSb3 (s : State) : State :=
  let w := (Config.freeWord s.free).toNat
  let s := drawn s
  match w % 3 with
  | 0 => { s with met := { s.met with cap := { s.met.cap with data := loseWord (w / 3) s.met.cap.data, lostWord := true } } }
  | 1 => modTrace (w / 3 % 4) (fun t =>
      { t with lost := true, data := t.data.mapIdx fun i e => if i = w / 12 % t.data.length then (e.1, 0) else e }) s
  | _ =>
    match s.hub.txns[w / 3 % s.hub.txns.length]? with
    | none => s
    | some t => complete t 0x22 [] s

/-- An uncorrectable or address error (Table 13.6). -/
def execEccUncorrectable (dt : Nat) (site : EccSite) (addr : Nat) (podAccess : Bool) (ctFail : Option CtFail) (s : State) : Out :=
  let s := advance dt s
  .next (
    if !podRuns s then s
    else
      match site with
      | .sb0 => podFault 3 ctFail (noteUe 0 s)
      | .sb1 => noteUe 1 (loseSb1 s)
      | .sb2 =>
        noteUe 2 { s with log := { s.log with
          records := s.log.records.map fun r => if (r.seq - 1) % 16384 = addr / 128 then { r with torn := true } else r } }
      | .sb3 => noteUe 3 (loseSb3 s)
      | .bootRom | .fwRom => if podAccess then podFault 3 ctFail s else s
      | .estMem =>
        let c := (Config.freeWord s.free).toNat % 9216
        post .estReinit 1 c [] { drawn s with est := { s.est with cells := mdel s.est.cells c } })

/-- Words of SB0 to SB3. -/
abbrev scrubWords : Nat := 1048576

/-- The scrubber has read on to a word; past the last one a pass is complete (R369, R377). -/
def execScrubPass (dt : Nat) (addr : Nat) (s : State) : Out :=
  let s := advance dt s
  .next (
    if !podRuns s || decide (scrubWords ≤ addr) || decide (addr < s.pod.scrubAddr) then s
    else if addr + 1 = scrubWords then
      withPod s fun p => { p with scrubAddr := 0, scrubDone := s.phys, scrubStart := s.phys, scrubPer := p0 s pPodScrubPeriod }
    else withPod s fun p => { p with scrubAddr := addr + 1 })

/-- The OTP sequencer has finished a field and read it back (R375). -/
def execOtpProgramDone (dt : Nat) (readBackOk : Bool) (s : State) : Out :=
  let s := advance dt s
  .next (
    match s.pod.otpJobs with
    | [] => s
    | j :: js =>
      let g := otpTarget j.field j.data
      let bytes := if readBackOk then g.2 else otpPart s.free g.2
      let s := { s with free := if readBackOk then s.free else s.free + g.2.length }
      let s := withPod s fun p => { p with otpJobs := js, otp := otpSet p.otp g.1 bytes }
      match findTxn s (portCode j.port, j.tag) with
      | some t => if t.opcode = 0x2007 then complete t (if readBackOk then 0x00 else 0x22) [if readBackOk then 0x00 else 0x30] s else s
      | none => s)

/-! ### Commands (Table 13.9) -/

/-- POD_STATUS (Table 13.11). -/
def podWords (s : State) : List Nat :=
  let p := s.pod
  let held := p.patch = 2 ∨ p.patch = 3
  [ b2n p.shelled * 2 ^ 30 + fld 2 28 p.modeSrc + fld 4 24 p.lastFault + fld 16 0 p.restarts,
    fld 3 29 p.patch + b2n p.ctPass * 2 ^ 28 + fld 16 0 p.wdFaults,
    (if held then leNat (regionBytes s 8 4) else 0),
    Config.fwRomVer.toNat * 65536 + Config.bootRomVer.toNat,
    fld 3 29 p.mmGroup + fld 8 21 p.mmLane, fld 32 0 p.mmPc, bits p.mmTime 31 0, bits p.mmTime 63 32 ]
  ++ ((List.range 4).map fun b => let k := mget {} p.banks b; fld 16 16 k.ce + fld 16 0 k.ue)
  ++ [ fld 16 16 (satN 0xFFFF (natRound (since s p.scrubDone) secNs)) + b2n (secretSet s) * 2 ^ 15 + b2n (secretDamaged s) * 2 ^ 14
      + b2n (bit (otpCfg s) 1) * 2 ^ 13 + b2n (bit (otpCfg s) 0) * 2 ^ 12
      + b2n (bit (cellRead p.otp 0x1040).toNat 0) * 2 ^ 11 + b2n (trimOk s) * 2 ^ 10 ]

/-- POD_STATUS (R374). -/
def execPodStatus (dt : Nat) (rq : Request) (s : State) : Out :=
  .next (readOp 0x2001 dt rq (fun _ s => words (podWords s)) s)

/-- PATCH_WRITE (R374): data placed in the region, any verified state cleared. -/
def execPatchWrite (dt : Nat) (rq : Request) (s : State) : Out :=
  .next (mailbox 0x2002 dt rq (fun t s =>
    let o := num t.payload 0 4
    let d := t.payload.drop 4
    let s := if t.payload.length < 4 then countClamps 1 s else s
    if regionSize < o + d.length then complete t 0x11 [0x12] s
    else
      complete t 0x00 [0x00] (withPod s fun p => { p with
        region := cellWrites p.region o d, patch := 1, digest := [], retained := false })) s)

/-- PATCH_VERIFY (R372). -/
def execPatchVerify (dt : Nat) (rq : Request) (s : State) : Out :=
  .next (mailbox 0x2003 dt rq (fun t s =>
    let r := judgePatch s
    if r.1 = 0 then
      complete t 0x00 [0x00] (withPod s fun p => { p with
        patch := 2, digest := imageDigest s, key1Seen := p.key1Seen || r.2, retained := false })
    else complete t 0x11 [BitVec.ofNat 8 r.1] (withPod s fun p => { p with
        patch := if p.patch = 0 then 0 else 1, digest := [], retained := false })) s)

/-- PATCH_APPLY (R373): the verified patch is retained and a start commanded after the completion. -/
def execPatchApply (dt : Nat) (rq : Request) (s : State) : Out :=
  .next (mailbox 0x2004 dt rq (fun t s =>
    if !noService s || roleActive s 3 0 || roleActive s 4 0 then complete t 0x11 [0x10] s
    else if s.pod.patch ≠ 2 then complete t 0x11 [0x11] s
    else commandStart 0x8 (complete t 0x00 [0x00] (withPod s fun p => { p with retained := true }))) s)

/-- PATCH_DISCARD (R374): the region is cleared. -/
def execPatchDiscard (dt : Nat) (rq : Request) (s : State) : Out :=
  .next (mailbox 0x2005 dt rq (fun t s =>
    complete t 0x00 [0x00] (withPod s fun p => { p with region := [], patch := 0, digest := [], retained := false })) s)

/-- OTP_READ (R371, R374): at most 256 bytes and what the port holds. -/
def execOtpRead (dt : Nat) (rq : Request) (s : State) : Out :=
  .next (mailbox 0x2006 dt rq (fun t s =>
    let o := num t.payload 0 4
    let asked := num t.payload 4 4
    let most := min 256 (largest t.port - 1)
    let s := if most < asked then countClamps 1 s else s
    let n := min asked most
    if 8192 < o + n then complete t 0x11 [0x12] s
    else complete t 0x00 (0x00 :: (List.range n).map fun i => otpShown s (o + i)) s) s)

/-- OTP_PROGRAM (R375): the sequencer takes the field; a field that stands, or may not be set, is answered at once. -/
def execOtpProgram (dt : Nat) (rq : Request) (s : State) : Out :=
  .next (mailbox 0x2007 dt rq (fun t s =>
    let field := num t.payload 0 1
    let data := t.payload.drop 1
    match otpRefusal s field data with
    | some c => complete t (if c = 0x01 then 0x00 else 0x11) [BitVec.ofNat 8 c] s
    | none => withPod s fun p => { p with otpJobs := p.otpJobs ++ [{ field, data, port := t.port, tag := t.tag }] }) s)

end Sys2Proof.Machine
end

