-- ==== Sys2Proof/Machine/Ports.lean ====
section
/-!
DEFINITION. The commands and events of the host ports (chapter 15).
-/
namespace Sys2Proof.Machine
open Sys2Proof

/-- SYS_INFO (R440, Table 15.13). -/
def execSysInfo (dt : Nat) (rq : Request) (s : State) : Out :=
  .next (readOp 0x0001 dt rq (fun t s =>
    uid s ++ le 2 s.pow.epoch
    ++ [BitVec.ofNat 8 (level s), BitVec.ofNat 8 (portCode t.port), BitVec.ofNat 8 t.role, BitVec.ofNat 8 s.hub.position]
    ++ le 2 Config.fwRomVer.toNat ++ le 2 (largest t.port) ++ le 2 0 ++ le 4 (p0 s pSysInstallId)) s)

/-- STATE of a port (Table 15.14). -/
def portStateCode (s : State) (p : Port) : Nat :=
  if s.pow.phase = .cress ∧ p ≠ cressPort s then 3
  else if !portPowered s p then 0
  else if (portOf s p).failed then 2 else 1

/-- The four words of one port (Table 15.14). Session 0 is open while the port is up. -/
def portWords (s : State) (p : Port) : List Nat :=
  let q := portOf s p
  let opened := (s.hub.txns.filter fun t => decide (t.port = p)).length + q.held.length
  let sessions := b2n (portStateCode s p == 1) + maskOf ((q.sessions.filter (·.opened)).map (·.num))
  [fld 4 28 (portStateCode s p) + fld 2 26 (portRole s p) + fld 10 16 (min 1023 opened) + fld 16 0 q.busy,
    fld 16 16 q.crcErr + fld 16 0 q.discard, fld 16 16 q.dup + fld 16 0 q.authFail,
    fld 8 24 sessions + fld 8 16 (min 255 q.held.length) + fld 16 0 q.replayed]

/-- PORT_STATUS (R440). -/
def execPortStatus (dt : Nat) (rq : Request) (s : State) : Out :=
  .next (readOp 0x3004 dt rq (fun _ s => words (allPorts.flatMap (portWords s))) s)

/-- LIMITS_GET (R430). -/
def execLimitsGet (dt : Nat) (rq : Request) (s : State) : Out :=
  .next (readOp 0x7001 dt rq (fun _ s => limitsPayload s 0x00 (g2Flags s)) s)

/-- AUTH_BEGIN is refused for 60 s after three failed proofs (R436). -/
def lockedOut (s : State) (p : Port) : Bool :=
  match (portOf s p).lockAt with
  | none => false
  | some t => decide (since s t < 60 * secNs)

/-- AUTH_BEGIN (R434): the lowest free session number, the role within the port's limit, and a nonce of two free words. -/
def execAuthBegin (dt : Nat) (rq : Request) (s : State) : Out :=
  .next (mailbox 0x3001 dt rq (fun t s =>
    let q := portOf s t.port
    if !secretSet s || lockedOut s t.port then complete t 0x11 [] s
    else if 4 ≤ q.sessions.length then complete t 0x40 [] (modPort t.port (fun q => { q with busy := inc16 q.busy }) s)
    else
      let want := num t.payload 0 1
      let s := noteReserved (num t.payload 1 3) 0 (if 2 < want then countClamps 1 s else s)
      let n := ((List.range 7).map (· + 1)).find? fun n => q.sessions.all (·.num ≠ n)
      let nonce := le 8 (Config.freeWord s.free).toNat ++ le 8 (Config.freeWord (s.free + 1)).toNat
      let k : Session := { num := n.getD 1, role := min (min 2 want) (portRole s t.port), opened := false
                           hostN := field t.payload 4 16, modN := nonce, key := [], lastSeq := none, used := s.phys }
      let s := modPort t.port (fun q => { q with sessions := q.sessions ++ [k] }) (drawn (drawn s))
      complete t 0x00 ([BitVec.ofNat 8 k.num, BitVec.ofNat 8 k.role, 0, 0] ++ nonce) s) s)

/-- A proof failed on a port: the session is closed, and three within 60 s refuse AUTH_BEGIN for 60 s (R434, R436). -/
def proofFails (p : Port) (n : Nat) (s : State) : State :=
  let s := closeSession p n s
  let times := s.phys :: ((portOf s p).badProof.filter fun t => since s t < 60 * secNs)
  modPort p (fun q => { q with
    authFail := inc16 q.authFail, badProof := times, lockAt := if 3 ≤ times.length then some s.phys else q.lockAt }) s

/-- AUTH_PROVE (R434): Ph opens the pending session that ADDR names; a wrong one closes it. -/
def execAuthProve (dt : Nat) (rq : Request) (s : State) : Out :=
  .next (mailbox 0x3002 dt rq (fun t s =>
    match (sessionOf s t.port t.session).filter (!·.opened) with
    | none => complete t 0x11 [] s
    | some k =>
      if field t.payload 0 32 = proofHost s k then
        let s := complete t 0x00 (proofModule s k) s
        let opened : Session := { k with opened := true, key := sessionKey s k, used := s.phys }
        modPort t.port (fun q => { q with sessions := q.sessions.map fun x => if x.num = k.num then opened else x }) s
      else complete t 0x12 [] (proofFails t.port k.num s)) s)

/-- AUTH_END (R436): its completion still carries the session's trailer. -/
def execAuthEnd (dt : Nat) (rq : Request) (s : State) : Out :=
  .next (mailbox 0x3003 dt rq (fun t s => closeSession t.port t.session (complete t 0x00 [] s)) s)

/-- SESSION_IDLE_TIMEOUT (R436): counted only while the port is up. -/
def execSessionIdleTimeout (dt : Nat) (port : Port) (session : Nat) (s : State) : Out :=
  let s := advance dt s
  match sessionOf s port session with
  | none => .next s
  | some k =>
    if (portOf s port).downAt.isNone && decide (p0 s pHostSessionIdleT * secNs ≤ since s k.used) then
      .next (closeSession port session s)
    else .next s

/-- AUTH_LOCKOUT_END (R436). -/
def execAuthLockoutEnd (dt : Nat) (port : Port) (s : State) : Out :=
  let s := advance dt s
  if lockedOut s port then .next s else .next (modPort port (fun q => { q with lockAt := none }) s)

/-- CAN_SEGMENT_RECEIVE (R407 to R410): remote frames and other identifiers are ignored. -/
def execCanSegmentReceive (dt : Nat) (port : Port) (ext remote : Bool) (id : Nat) (data : Bytes) (s : State) : Out :=
  let s := advance dt s
  match port, data with
  | .E, _ | .S, _ | .P, _ => .next s
  | _, [] => .next s
  | p, seg :: part =>
    if !portPowered s p || remote || !canIdFits s p ext id then .next s
    else
      let r := takeSegment (mfind (portOf s p).reasm id) (bit seg.toNat 7) (bits seg.toNat 6 0) part
      let s := modPort p (fun q => { q with
        busOff := false, discard := satN 0xFFFF (q.discard + r.lost)
        reasm := match r.reasm with
          | some x => mput q.reasm id x
          | none => mdel q.reasm id }) s
      match r.whole with
      | some m => .next (receiveMessage p 0 m s)
      | none => .next s

/-- SPI_WRITE (R413, R414): discarded with OVERRUN while READY is clear; else the receive buffer is taken, free again at a
time the manual only bounds, and the message passes the checks. -/
def execSpiWrite (dt : Nat) (len : Nat) (data : Bytes) (s : State) : Out :=
  let s := advance dt s
  if !portPowered s .S then .next s
  else
    let ready := spiReady s
    let s := spiCommand s
    let s := withHub s fun h => { h with spiMiso := h.spiMiso ++ List.replicate (2 + data.length) 0 }
    if !ready then .next (withHub s fun h => { h with spiOver := true })
    else
      let s := withHub s fun h => { h with
        spiFree := s.phys + (Config.freeWord s.free).toNat % 20001, spiCrc := !(decide (len = data.length) && crcFits data) }
      let s := drawn s
      if len = data.length then .next (receiveMessage .S 0 data s)
      else .next (modPort .S (fun q => { q with crcErr := inc16 q.crcErr }) s)

/-- SPI_READ (R413, R414): `clocked` bytes follow the status byte; a message not clocked out to its last byte is kept. -/
def execSpiRead (dt : Nat) (clocked : Nat) (s : State) : Out :=
  let s := advance dt s
  if !portPowered s .S then .next s
  else
    let s := spiCommand s
    let s := withHub s spiPick
    let m := match s.hub.spiCur with
      | some m => messageBytes m
      | none => []
    .next (withHub s fun h => { h with
      spiMiso := h.spiMiso ++ field (le 2 m.length ++ m) 0 clocked
      spiCur := if m.length + 2 ≤ clocked then none else h.spiCur })

/-- SPI_STATUS (R413). -/
def execSpiStatus (dt : Nat) (s : State) : Out :=
  let s := advance dt s
  if portPowered s .S then .next (spiCommand s) else .next s

/-- UDP_DATAGRAM_RECEIVE (R411): every other port, IPv6, VLAN-tagged frames and fragments are discarded without counting;
ports 319 and 320 carry PTP, which has rows of its own. -/
def execUdpDatagramReceive (dt : Nat) (srcIp srcPort dstPort : Nat) (plainIpv4 : Bool) (msg : Bytes) (s : State) : Out :=
  let s := advance dt s
  if plainIpv4 && dstPort == p0 s pHostUdpPort then .next (receiveMessage .E (srcIp * 65536 + srcPort) msg s) else .next s

/-- ICMP_ECHO_REQUEST (R411). -/
def execIcmpEchoRequest (dt : Nat) (srcIp : Nat) (data : Bytes) (s : State) : Out :=
  let s := advance dt s
  if portPowered s .E then .next (withHub s fun h => { h with eth := h.eth ++ [.echoReply srcIp data] }) else .next s

/-- ARP_REQUEST (R411): a request for the module's own address is answered. -/
def execArpRequest (dt : Nat) (targetIp srcIp srcMac : Nat) (s : State) : Out :=
  let s := advance dt s
  if portPowered s .E && targetIp == ownIp s then
    .next (withHub s fun h => { h with eth := h.eth ++ [.arpReply (ownIp s) srcIp srcMac] })
  else .next s

/-- DHCP_LEASE_TIMER (R411). -/
def execDhcpLeaseTimer (dt : Nat) (rebinding : Bool) (s : State) : Out :=
  let s := advance dt s
  if portPowered s .E && p0 s pHostIpMode == 1 then
    .next (withHub s fun h => { h with eth := h.eth ++ [.dhcpRequest rebinding] })
  else .next s

/-- PTP_DELAY_REQUEST (R412). -/
def execPtpDelayRequest (dt : Nat) (s : State) : Out :=
  let s := advance dt s
  if portPowered s .E && p0 s pHostPtpEnable == 1 then
    .next (withHub s fun h => { h with eth := h.eth ++ [.delayReq s.tb.ns] })
  else .next s

/-- ETHERNET_LINK_CHANGE (R405, R436): it starts or stops the failure time and the idle count of the sessions. -/
def execEthernetLinkChange (dt : Nat) (up : Bool) (s : State) : Out :=
  let s := advance dt s
  let s := withHub s fun h => { h with linkUp := up }
  if up then
    if (portOf s .E).failed then .next s else .next (modPort .E (resumeIdle s) s)
  else .next (modPort .E (stopIdle s) s)

/-- CAN_BUS_OFF (R407). -/
def execCanBusOff (dt : Nat) (port : Port) (s : State) : Out :=
  let s := advance dt s
  match port with
  | .A | .B => if portPowered s port then .next (modPort port (fun q => { q with busOff := true }) s) else .next s
  | _ => .next s

/-- PORT_FAILURE (R405, R438). -/
def execPortFailure (dt : Nat) (port : Port) (s : State) : Out :=
  let s := advance dt s
  if portPowered s port then .next (modPort port (fun q => { stopIdle s q with failed := true }) s) else .next s

/-- PORT_RECOVERY (R438): the held completions are sent first, TC0 first, then in order of tag. -/
def execPortRecovery (dt : Nat) (port : Port) (s : State) : Out :=
  let s := advance dt s
  let q := portOf s port
  if !q.failed then .next s
  else
    let held := sortBy (·.tag) (q.held.filter (·.tc = 0)) ++ sortBy (·.tag) (q.held.filter (·.tc ≠ 0))
    let s := modPort port (fun q => { resumeIdle s q with failed := false, busOff := false, held := [] }) s
    .next (held.foldl (fun s m => sendMsg m s) s)

/-- SITE_RING_FRAME (R415, R417): a frame from this module's own position is removed, one addressed to it alone is taken,
and every other one passed on. RING_ASSIGN and SYNC act through rows of their own. -/
def execSiteRingFrame (dt : Nat) (link : SiteLink) (msg : Bytes) (s : State) : Out :=
  let s := advance dt s
  let own (x : Nat) : Bool := s.hub.position != 0xFF && x == s.hub.position
  let s := if portPowered s .P then withHub s fun h => { h with heard := mput h.heard (num msg 12 1) s.phys } else s
  if !portPowered s .P then .next s
  else if bits (num msg 0 1) 3 0 = 2 ∧ (messageOp msg = 0x3020 ∨ messageOp msg = 0xF010) then .next s
  else if own (num msg 12 1) then .next s
  else if own (num msg 11 1) then .next (receiveMessage .P 0 msg s)
  else .next (sendSite (.msg (otherLink link) msg) s)

/-- RING_ASSIGN reaches the head: its own run has come round, or another head is on the ring (R416). -/
def headMeets (run : Nat) (s : State) : State :=
  if run = s.hub.run then endItems [0x4001] 8 0x00 (withHub s fun h => { h with assigning := false })
  else
    let s := withHub s fun h => { h with assigning := false, conflict := true, position := 0xFF }
    endItems [0x4001] 8 0x21 (post .headConflict 0xFF 0 [] s)

/-- RING_ASSIGN_RECEIVE (R416): the module takes the value + 1 on PEER_DN's side and the value − 1 on PEER_UP's, and passes
the notice on with it; outside 1 to 31, or where another module has the position, it stays unassigned. A run that already gave it a position is passed on as it is. -/
def execRingAssignReceive (dt : Nat) (link : SiteLink) (position side run : Nat) (_source : Nat) (s : State) : Out :=
  let s := advance dt s
  if !portPowered s .P then .next s
  else if s.pod.peerHead then .next (headMeets run s)
  else
    let out := otherLink link
    if s.hub.assigned && s.hub.run == run && s.hub.position != 0xFF then .next (sendSite (.assign out position side run) s)
    else
      let mine : Int := if side = 0 then position + 1 else (position : Int) - 1
      if 1 ≤ mine ∧ mine ≤ 31 ∧ !positionTaken s side mine then
        let s := withHub s fun h => { h with assigned := true, run, position := mine.toNat }
        .next (sendSite (.assign out mine.toNat side run) s)
      else
        let s := withHub s fun h => { h with assigned := true, run, position := 0xFF }
        .next (sendSite (.assign out position side run) (post .ringOver 0xFF 0 [] s))

/-- RING_ASSIGN_TIMEOUT (R416): the notice has not come round within 10 ms, so one carrying 32 leaves on PEER_UP. -/
def execRingAssignTimeout (dt : Nat) (s : State) : Out :=
  let s := advance dt s
  if s.pod.peerHead && s.hub.assigning && decide (10 * msNs ≤ since s s.hub.assignAt) then
    let s := sendSite (.assign .up 32 1 s.hub.run) (withHub s fun h => { h with assigning := false })
    .next (endItems [0x4001] 8 0x00 s)
  else .next s

/-- RING_NO_HEAD (R417): the links have their carrier at the earliest as the port is powered, at START_DONE. -/
def execRingNoHead (dt : Nat) (s : State) : Out :=
  let s := advance dt s
  if portPowered s .P && inNormal s && !s.hub.assigned && decide (2 * secNs ≤ since s s.pow.phaseAt) then .next (post .ringNoHead 0xFF 0 [] s) else .next s

/-- Zero flags of the notices that repeat: both from step 4 of the power-down on, else those of the standing G2 (R430). -/
def zeroFlags (s : State) : Nat := if s.pow.phase = .powerDown ∧ 4 ≤ s.pow.pdStep then 3 else g2Flags s

/-- LIMITS_PERIODIC (R430): every HOST.LIMIT_PERIOD from START_DONE on. -/
def execLimitsPeriodic (dt : Nat) (s : State) : Out :=
  let s := advance dt s
  if podUp s && dueAfter s (p0 s pHostLimitPeriod * 10 * msNs) s.hub.limAt then
    .next (sendLimits 0x00 1 (zeroFlags s) (withHub s fun h => { h with limAt := some s.phys }))
  else .next s

/-- LIMITS_ZERO_REPEAT (R430): every 100 ms while a G2 stands, or from step 4 of the power-down on. -/
def execLimitsZeroRepeat (dt : Nat) (s : State) : Out :=
  let s := advance dt s
  if (podUp s ∨ s.pow.phase = .powerDown) ∧ zeroFlags s ≠ 0 ∧ dueAfter s (100 * msNs) s.hub.zeroAt then .next (sendLimits 0x03 0 (zeroFlags s) s) else .next s

end Sys2Proof.Machine
end

