-- ==== Sys2Proof/Machine/Power.lean ====
section
/-!
DEFINITION. The commands and events of power, start, Bulb and power-down (chapter 14). An event whose trigger does not hold
lets time pass and does nothing else.
-/
namespace Sys2Proof.Machine
open Sys2Proof

/-! ### Start -/

/-- The always-on domain is supplied after both its supplies were lost: a random epoch other than 0, VALID clear, the record
absent, no history (R379, R384). -/
def execAlwaysOnColdPowerUp (dt : Nat) (s : State) : Out :=
  let s := advance dt s
  .next (
    match s.pow.phase with
    | .off | .bulb | .bulbWake | .thermal =>
      let e := (Config.freeWord s.free).toNat % 65535 + 1
      let s := drawn (clearUnits false s)
      { s with pow := { aonOn := true, aonClock := true, epoch := e, auxIn := s.pow.auxIn, battAux := s.pow.battAux } }
    | _ => s)

/-- AUX_IN has stayed at 15.0 V for 10 ms (R378): a cold start begins where the supervisor waits for it. -/
def execAuxInQualified (dt : Nat) (s : State) : Out :=
  let s := advance dt s
  .next (
    if !s.pow.aonOn then s
    else
      let s' := withPow s fun w => { w with auxOk := true }
      match s.pow.phase with
      | .off => if s.pow.endReason = 0x22 then s' else beginCold s'
      | .bulbWake => if 60 * secNs ≤ since s s.pow.phaseAt then s' else beginCold s'
      | .bulb => s
      | _ => s')

/-- 2 ms after a rail entered its window the next one is enabled (R380). -/
def execRailEnableDelayExpiry (dt : Nat) (s : State) : Out :=
  let s := advance dt s
  .next (
    if s.pow.railNext = 0 ∨ since s s.pow.railAt < 2 * msNs then s
    else withPow s fun w => { w with railWait := w.railNext, railNext := 0, railAt := s.phys })

/-- A rail enters its window (R380, Table 14.3): V3P3 arms the Husk, V0P8 enables the PLLs. -/
def execRailInWindow (dt : Nat) (rail : Nat) (s : State) : Out :=
  let s := advance dt s
  .next (
    if s.pow.railWait = 0 ∨ s.pow.railWait ≠ rail then s
    else
      let s := withPow s fun w => { w with
        rails := w.rails ||| BitVec.ofNat 16 (2 ^ (rail - 1)), railWait := 0, railAt := s.phys
        railNext := if rail = 4 ∨ rail = 7 then 0 else rail + 1 }
      match rail with
      | 2 => { s with husk := { armed := true, chgLine := some s.phys, disLine := some s.phys }, lsw := { s.lsw with clock := true } }
      | 4 => toPhase .pll s
      | _ => s)

/-- A rail has not entered its window within 5 ms: a rail fault, counted, with a cold retry (R380, R385). -/
def execRailWindowTimeout (dt : Nat) (rail : Nat) (s : State) : Out :=
  let s := advance dt s
  .next (if s.pow.railWait = 0 ∨ s.pow.railWait ≠ rail ∨ since s s.pow.railAt < 5 * msNs then s else failStart 0x10 rail rail 0x6 true s)

/-- The PLLs lock: the timebase starts from 0 and steps 6 to 8 follow; a frequency out of tolerance fails the start
(Table 14.3, R464). -/
def execPllLock (dt : Nat) (inTolerance : Bool) (boot : BootChecks) (s : State) : Out :=
  let s := advance dt s
  .next (
    match s.pow.phase with
    | .pll => if inTolerance then bootSteps boot { s with tb := { run := true } } else failStart 0x11 0 0 0x6 false s
    | _ => s)

/-- A reset start begins at step 6, 10 ms after its rails are down (R381). -/
def execResetStartBegin (dt : Nat) (boot : BootChecks) (s : State) : Out :=
  let s := advance dt s
  .next (
    match s.pow.phase with
    | .resetWait =>
      if 10 * msNs ≤ since s s.pow.phaseAt then bootSteps boot { prepareKind .reset s with tb := { run := true } } else s
    | _ => s)

/-- 2 s after a counted failure the next start is made (R385): V5P, or step 6 of a reset start, whose rails have been down since
the failure. -/
def execStartRetry (dt : Nat) (s : State) : Out :=
  let s := advance dt s
  .next (
    match s.pow.phase with
    | .retry =>
      if since s s.pow.phaseAt < 2 * secNs then s
      else if s.pow.rails = 0 then (if s.pow.auxOk then beginCold s else railsOff s)
      else withPow s fun w => { w with kind := .reset, phase := .resetWait }
    | _ => s)

/-- START_DONE (R383): every subsystem is up and every port serves; the history is cleared, sources 16 to 22 are released to
the firmware, and the watchdog runs. -/
def execStartDone (dt : Nat) (s : State) : Out :=
  let s := advance dt s
  .next (
    match s.pow.phase with
    | .late =>
      if s.pow.rails &&& 0x7F = 0x7F then
        let s := toPhase .normal (withPow s fun w => { w with history := [], startWd := false })
        let s := noteLines s
        let s := { s with husk := { s.husk with heldRel := false } }
        let s := { s with pod := { s.pod with wdOff := false, wdKey := [], wdLast := [(0, s.phys), (1, s.phys)] } }
        let s := { s with est := { s.est with startAt := s.phys, setAt := s.phys } }
        assignRing (judgeConfig s)
      else s
    | _ => s)

/-- The start watchdog: no START_DONE within 3 s of the Pod leaving reset (R383). -/
def execStartWatchdogExpiry (dt : Nat) (s : State) : Out :=
  let s := advance dt s
  .next (
    match s.pow.phase with
    | .march | .late => if s.pow.startWd && decide (3 * secNs ≤ since s s.pow.podAt) then failStart 0x14 0 0 0x6 false s else s
    | _ => s)

/-! ### Power-down -/

/-- AUX_IN is below 14.0 V for 20 µs (R378, R395). -/
def execAuxInLow (dt : Nat) (s : State) : Out :=
  let s := advance dt s
  .next (goDown 0x01 0x21 (withPow s fun w => { w with auxOk := false }))

/-- The wait of step 4b is over: |I| has reached SEQ.OPEN_I, or PWR.PD_ZERO_WAIT has passed. -/
def pdWaitOver (s : State) : Bool :=
  currentWithin s (p0 s pSeqOpenI) || decide (p0 s pPwrPdZeroWait * 100000 ≤ since s s.pow.pdPhys)

/-- PWR.PD_STAGGER in ns. -/
def pdStagger (s : State) : Nat := p0 s pPwrPdStagger * 100000

/-- Step 4 runs: the power-down opens contactors. -/
def step4Runs (s : State) : Bool :=
  s.pow.phase == .powerDown && s.pow.pdStep == 4 && !s.pow.pdSkip4 && p0 s pPwrPdOpen != 0

/-- Step 4b: MP with the pre-charge path, then MN after the stagger; a part already off takes no slot (R396). -/
def execPdMainOpen (dt : Nat) (s : State) : Out :=
  let s := advance dt s
  let mp := roleActive s 3 0 || roleActive s 5 0 || roleActive s 6 0
  .next (
    if !step4Runs s || !pdWaitOver s || decide (s.phys < s.pow.pdDue) then s
    else if mp then
      let s := loopsOff [0, 1] (roleOff 6 0 (roleOff 5 0 (roleOff 3 0 s)))
      withPow s fun w => { w with pdDue := s.phys + pdStagger s }
    else if roleActive s 4 0 then
      let s := roleOff 4 0 s
      withPow s fun w => { w with pdDue := s.phys + pdStagger s }
    else s)

/-- Step 4c: the next contactor of the lowest string that is not yet open, KP before KN, half a stagger apart. -/
def execPdStringOpen (dt : Nat) (s : State) : Out :=
  let s := advance dt s
  let mains := [3, 4, 5, 6].any fun r => roleActive s r 0
  .next (
    if !step4Runs s || mains || decide (s.phys < s.pow.pdDue) then s
    else
      match closedStrings s with
      | [] => s
      | j :: _ =>
        let role := if roleActive s 1 j then 1 else 2
        let s := modStr j (fun k => { k with inService := false }) (roleOff role j s)
        withPow s fun w => { w with pdDue := s.phys + pdStagger s / 2 })

/-- Step 4d: DTR and DME off, BRAKE applied. -/
def execPdDisconnectorOff (dt : Nat) (s : State) : Out :=
  let s := advance dt s
  .next (if step4Runs s && contactorsOff s then roleOff 8 0 (roleOff 7 0 (driveOff s)) else s)

/-- Step 5 (R391): the record in three writes, the retention word after it; a record whose last write is not made is left
with the writing marker. -/
def execRetentionRecordCommit (dt : Nat) (wholeRecord : Bool) (s : State) : Out :=
  let s := advance dt s
  .next (
    if s.pow.phase == .powerDown && decide (s.pow.pdStep < 5) && step4Done s then
      let s := withPow s fun w => { w with pdStep := 5, retRecord := retentionRecord wholeRecord s }
      if wholeRecord then writeRetention 0 (lastEndOf s) 5 0 s.pow.endReason s else s
    else s)

/-- Step 6: the rails go down (R395); what follows is the end's own: a reset start, the thermal hold, Bulb, or the wait for
AUX_IN. -/
def execPdRailsDown (dt : Nat) (s : State) : Out :=
  let s := advance dt s
  .next (
    if (s.pow.phase == .powerDown || s.pow.phase == .bare) && s.pow.pdStep == 5 then
      let s := if s.pow.pdKeep then s else writeRetention 0 (lastEndOf s) 6 0 s.pow.endReason s
      let s := withPow s fun w => { w with pdStep := 6 }
      match s.pow.endReason with
      | 0x23 => awaitReset s
      | 0x20 =>
        toPhase .thermal (withPow (clearUnits false s) fun w =>
          { w with rails := 0, railWait := 0, railNext := 0, restartOk := none })
      | 0x22 =>
        let src := p0 s pPwrWakeSrc
        let pol := p0 s pPwrWakeInPol
        railsOff (withPow s fun w => { w with wakeSrc := src, wakePol := pol })
      | _ => railsOff s
    else s)

/-- The rail is up: codes 1 to 7, and 8 for any VCHN rail. -/
def railUp (s : State) (rail : Nat) : Bool :=
  if rail = 8 then s.pow.rails &&& 0x7F80 != 0
  else decide (1 ≤ rail) && decide (rail ≤ 7) && bit s.pow.rails.toNat (rail - 1)

/-- A rail falls below its threshold before its step (R398, R399): every rail off at once; before START_DONE it is a counted
failure. -/
def execAbortOff (dt : Nat) (rail : Nat) (s : State) : Out :=
  let s := advance dt s
  .next (
    if !railUp s rail then s
    else
      match s.pow.phase with
      | .rails | .pll | .march | .late | .retry | .resetWait => failStart 0x10 rail rail 0x6 true s
      | .powerDown | .bare =>
        railsOff (writeRetention (satN 0xFFFFFFFF (natRound (since s s.pow.pdPhys) 1000)) 0x2 s.pow.pdStep rail s.pow.endReason
          (withPow s fun w => { w with endReason := 0x21 }))
      | .normal | .holdOpen => railsOff (withPow (writeRetention 0 0x2 0 rail 0x10 s) fun w => { w with endReason := 0x10 })
      | .cress =>
        let s := withPow (leaveCress s) fun w => { w with phase := .bare, endReason := 0x10 }
        railsOff (writeRetention 0 0x2 0 rail 0x10 s)
      | _ => s)

/-! ### Bulb -/

/-- The always-on domain enters Bulb after the last rail is down (R392, R393). -/
def execBulbEntry (dt : Nat) (s : State) : Out :=
  let s := advance dt s
  .next (
    if s.pow.phase == .off && s.pow.endReason == 0x22 then toPhase .bulb (withPow s fun w => { w with aonClock := false })
    else s)

/-- A wake whose source is enabled in the copied PWR.WAKE_SRC (R394): the crystal restarts and AUX_IN is awaited. -/
def execWake (dt : Nat) (wakeIn : Bool) (s : State) : Out :=
  let s := advance dt s
  .next (
    if s.pow.phase == .bulb && bit s.pow.wakeSrc (b2n wakeIn) then
      toPhase .bulbWake (withPow s fun w => { w with aonClock := true, auxOk := false })
    else s)

/-- AUX_IN has not qualified within 60 s of a wake: back to Bulb, the wake counted (R394). -/
def execWakeTimeout (dt : Nat) (s : State) : Out :=
  let s := advance dt s
  .next (
    if s.pow.phase == .bulbWake && decide (60 * secNs ≤ since s s.pow.phaseAt) then
      toPhase .bulb (withPow s fun w => { w with aonClock := false, wakes := satN 255 (w.wakes + 1) })
    else s)

/-! ### Thermal hold and supervisor -/

/-- A reading of the always-on supervisor is at its hard limit: 118 °C, 150 °C, or broken (R337, R338). -/
def hardLimit (tsBaseA tsAon : Int) : Bool :=
  decide (11800 ≤ tsBaseA) || decide (15000 ≤ tsAon)

/-- The hard limit has held for 1 s: the power-down sequence with reason THERMAL (R338). -/
def execThermalHardLimit (dt : Nat) (tsBaseA tsAon : Int) (s : State) : Out :=
  let s := advance dt s
  .next (if hardLimit tsBaseA tsAon then goDown 0x02 0x20 s else s)

/-- The supervisor reads its two sensors while it holds the rails off: once both restart conditions have held for 60 s a cold
start begins (R338). -/
def execThermalRestart (dt : Nat) (tsBaseA tsAon : Int) (s : State) : Out :=
  let s := advance dt s
  .next (
    if s.pow.phase == .thermal then
      if tsBaseA ≤ 9500 ∧ tsAon ≤ 12000 then
        let t := s.pow.restartOk.getD s.phys
        if 60 * secNs ≤ since s t ∧ s.pow.auxOk then beginCold s
        else withPow s fun w => { w with restartOk := some t }
      else withPow s fun w => { w with restartOk := none }
    else s)

/-- POD_DEAD for 100 ms without mailbox service, or cores held in reset (R362): a counted reset start, from Cress into Cress
again (R385, R389). -/
def execSupervisorRestart (dt : Nat) (s : State) : Out :=
  let s := advance dt s
  let dead := (tripOf s 21).asserted && s.pod.warm && decide (100 * msNs ≤ since s (tripOf s 21).since)
  .next (
    if (s.pow.phase == .normal && dead) || ((s.pow.phase == .normal || s.pow.phase == .cress) && s.pod.heldReset) then
      failStart 0x16 0 0 0x5 false (withPow s fun w => { w with retRecord := [] })
    else s)

/-! ### Supply warnings (R404) -/

/-- AUX_IN crosses PWR.AUX_WARN, under 0.5 V of hysteresis and its dwell. -/
def execAuxWarnCrossing (dt : Nat) (auxIn10mV : Nat) (s : State) : Out :=
  let s := advance dt s
  let s := withPow s fun w => { w with auxIn := auxIn10mV }
  let limit := p0 s pPwrAuxWarn
  .next (
    if level s != 2 then s
    else if !s.pow.auxWarn && decide (auxIn10mV < limit) then
      post .auxWarn 0xFF 0 ([1, 0] ++ le 2 auxIn10mV) (withPow s fun w => { w with auxWarn := true })
    else if s.pow.auxWarn && decide (limit + 50 ≤ auxIn10mV) then
      post .auxWarn 0xFF 0 ([0, 0] ++ le 2 auxIn10mV) (withPow s fun w => { w with auxWarn := false })
    else s)

/-- BATT_AUX crosses PWR.BATT_WARN. -/
def execBattWarnCrossing (dt : Nat) (batt10mV : Nat) (s : State) : Out :=
  let s := advance dt s
  let s := withPow s fun w => { w with battAux := batt10mV }
  let limit := p0 s pPwrBattWarn
  .next (
    if level s != 2 then s
    else if !s.pow.battWarn && decide (batt10mV < limit) then
      post .battWarn 0xFF 0 ([1, 0] ++ le 2 batt10mV) (withPow s fun w => { w with battWarn := true })
    else if s.pow.battWarn && decide (limit + 50 ≤ batt10mV) then
      post .battWarn 0xFF 0 ([0, 0] ++ le 2 batt10mV) (withPow s fun w => { w with battWarn := false })
    else s)

/-! ### Commands (Table 14.9) -/

/-- PWR_STATUS (Table 14.11). -/
def powerWords (s : State) : List Nat :=
  let w := s.pow
  [ level s * 2 ^ 30 + b2n (decide (900 ≤ w.battAux) && decide (w.battAux ≤ 6000)) * 2 ^ 29
      + b2n (decide (w.auxIn < p0 s pPwrAuxWarn)) * 2 ^ 28 + fld 8 16 w.wakes + fld 16 0 w.epoch,
    fld 16 16 w.auxIn + fld 16 0 w.battAux, w.rails.toNat, bits w.retWord.toNat 31 0, bits w.retWord.toNat 63 32 ]
  ++ historyWords s ++ [w.aonSeconds]

/-- PWR_STATUS (R402). -/
def execPwrStatus (dt : Nat) (rq : Request) (s : State) : Out :=
  .next (readOp 0x1001 dt rq (fun _ s => words (powerWords s)) s)

/-- BULB_ENTER (R392): accepted, the power-down sequence follows with step 4 skipped. -/
def execBulbEnter (dt : Nat) (rq : Request) (s : State) : Out :=
  .next (mailbox 0x1002 dt rq (fun t s =>
    if !contactorsOff s || sequenceRuns s then complete t 0x11 [0x10] s
    else if s.pow.battAux < 900 then complete t 0x11 [0x11] s
    else beginPowerDown 0x03 0x22 true (complete t 0x00 [0x00] s)) s)

/-- RESTART (R401). -/
def execRestart (dt : Nat) (rq : Request) (s : State) : Out :=
  .next (mailbox 0x1003 dt rq (fun t s =>
    if s.pow.phase == .normal && !contactorsOff s then complete t 0x11 [0x10] s
    else commandStart 0x7 (complete t 0x00 [0x00] s)) s)

end Sys2Proof.Machine
end

