-- ==== Sys2Proof/Machine/Prt.lean ====
section
/-!
DEFINITION. The commands and events of the Husk and of the fault reset (chapter 7).
-/
namespace Sys2Proof.Machine
open Sys2Proof

/-- HUSK_SOURCE_ASSERT (R208, R214): a qualified source asserts, naming strings where it can; CLK_AUX names the domains whose
clocks are lost, and the PWM domain's loss forces its outputs off (R209, log 53). The comparators' SLD_VIOL needs an inhibit
line that has stood for PRT.SLD_T (R224). -/
def execHuskSourceAssert (dt source : Nat) (names : BitVec 16) (s : State) : Out :=
  let s := advance dt s
  if source = 13 ∧ !lineStands s s.husk.chgLine ∧ !lineStands s s.husk.disLine then .next s
  else
    let s := if source = 24 ∧ bit names.toNat 3 ∧ s.husk.armed then setPwmOff true s else s
    .next (assertSource source (if namesStrings source then names else 0) s)

/-- HUSK_DELAY_EXPIRY (R214). -/
def execHuskDelayExpiry (dt source : Nat) (s : State) : Out := .next (delayEnds source (advance dt s))

/-- HUSK_SOURCE_RELEASE (R210, R214). -/
def execHuskSourceRelease (dt source : Nat) (s : State) : Out := .next (releaseSource source (advance dt s))

/-- COMPARATOR_CHANNEL_TEST (R226): in Pod mode, a channel the Husk does not receive has failed and asserts COMP_FAIL. -/
def execComparatorChannelTest (dt comparator : Nat) (chanB received : Bool) (s : State) : Out :=
  let s := advance dt s
  let k := comparator * 2 + b2n chanB
  if !podUp s || s.pod.shelled then .next s
  else if received then .next { s with husk := { s.husk with badChan := s.husk.badChan.filter (· != k) } }
  else .next (assertSource 26 0 { s with husk := { s.husk with badChan := addKey k s.husk.badChan } })

/-- Highest action code in force. -/
def actionMax (s : State) : Nat := s.husk.trips.foldl (fun m e => max m (e.2.acting.getD 0)) 0

/-- LATCH and ACTIVE words. -/
def latchWord (s : State) : Nat := tripMask s (·.latched)
def activeWord (s : State) : Nat := tripMask s (·.asserted)

/-- Strings a contactor of which the Husk holds off. -/
def strOpenWord (s : State) : Nat :=
  let held := huskHeld s
  maskOf (allStrings.filter fun j => held.any fun n => (roleOf s n == 1 || roleOf s n == 2) && roleStr s n == j)

/-- The seven status words (Table 07.5). -/
def prtWords (s : State) : Bytes :=
  let h := s.husk
  words [fld 1 31 (b2n h.armed) + fld 1 30 (b2n (anyLatched s)) + fld 1 29 (b2n h.estop) + fld 1 28 (b2n h.arm.isSome)
      + fld 4 24 (actionMax s) + fld 8 16 h.first + fld 16 0 h.tripCount,
    activeWord s, latchWord s, fld 16 16 (strOpenWord s) + h.fwStr.toNat]
  ++ le 8 h.firstTime ++ le 4 h.firstIdx

/-- PRT_STATUS (R215). -/
def execPrtStatus (dt : Nat) (rq : Request) (s : State) : Out := .next (readOp 0x9001 dt rq (fun _ s => prtWords s) s)

/-- The ARM belongs to the session of the transaction (R227, R432). -/
def armMine (t : Txn) (a : Arm) : Bool := decide (a.port = t.port) && a.session == t.session

/-- FLT_ARM (R227): it opens or restarts the 2 s window; another session's pending ARM stays. -/
def execFltArm (dt : Nat) (rq : Request) (s : State) : Out :=
  .next (mailbox 0x9002 dt rq (fun t s =>
    let arm : Arm := { port := t.port, session := t.session, latch := latchWord s, time := s.phys }
    match s.husk.arm with
    | some a =>
      if armMine t a then complete t 0x00 [] { s with husk := { s.husk with arm := some arm } } else complete t 0x11 [] s
    | none => complete t 0x00 [] { s with husk := { s.husk with arm := some arm } }) s)

/-- Window of an ARM, ns. -/
abbrev armWindow : Nat := 2 * secNs

/-- FLT_CONFIRM (R227): from the ARM's session, within 2 s, with no source latched since and E_STOP closed, the reset is
made; else the pending ARM of the session is cancelled and another session's stays. -/
def execFltConfirm (dt : Nat) (rq : Request) (s : State) : Out :=
  .next (mailbox 0x9003 dt rq (fun t s =>
    match s.husk.arm with
    | none => complete t 0x11 (le 8 0) s
    | some a =>
      if !armMine t a then complete t 0x11 (le 8 0) s
      else
        let s := { s with husk := { s.husk with arm := none } }
        let newer := latchWord s &&& (a.latch ^^^ 0xFFFFFFFF)
        if armWindow < since s a.time ∨ newer ≠ 0 ∨ s.husk.estop then complete t 0x11 (le 8 0) s
        else
          let before := latchWord s
          let s := faultReset s
          complete t 0x00 (le 4 (before &&& (latchWord s ^^^ 0xFFFFFFFF)) ++ le 4 (latchWord s)) s) s)

/-- FLT_ARM_EXPIRY (R227): an ARM not confirmed within 2 s lapses. -/
def execFltArmExpiry (dt : Nat) (s : State) : Out :=
  let s := advance dt s
  match s.husk.arm with
  | none => .next s
  | some a => if armWindow ≤ since s a.time then .next { s with husk := { s.husk with arm := none } } else .next s

/-- FLT_RST_EDGE (R227): high for 1 ms after at least 50 ms low makes a reset unless E_STOP is open; an edge after a
shorter low is counted in PRT_RST_REJ. -/
def execFltRstEdge (dt lowNs highNs : Nat) (s : State) : Out :=
  let s := advance dt s
  if !s.husk.armed || decide (highNs < msNs) then .next s
  else if lowNs < 50 * msNs then .next { s with husk := { s.husk with rstRej := inc16 s.husk.rstRej } }
  else if s.husk.estop then .next s
  else .next (faultReset s)

/-- PRT_OPEN_REQ: G4 is raised and FW_OPEN_BLK asserts (Table 07.6). -/
def execPrtOpenReq (dt : Nat) (rq : Request) (s : State) : Out :=
  .next (mailbox 0x9004 dt rq (fun t s => complete t 0x00 [] (openBlock s)) s)

/-- G3_OPEN_WAIT_EXPIRY (R216). -/
def execG3OpenWaitExpiry (dt str : Nat) (s : State) : Out := .next (g3Check str (advance dt s))

end Sys2Proof.Machine
end

