-- ==== Sys2Proof/Machine/Dispatch.lean ====
section
/-!
DEFINITION. What each command does: one arm per row of the table, in the table's families.
-/
namespace Sys2Proof.Machine

def exec (i : Instr) (s : State) : Host.Outcome State Fault Refusal :=
  match i with
  -- power, start, Bulb and power-down (chapter 14)
  | .auxInQualified dt => Sys2Proof.Machine.execAuxInQualified dt s
  | .railEnableDelayExpiry dt => Sys2Proof.Machine.execRailEnableDelayExpiry dt s
  | .railInWindow dt rail => Sys2Proof.Machine.execRailInWindow dt rail s
  | .railWindowTimeout dt rail => Sys2Proof.Machine.execRailWindowTimeout dt rail s
  | .marchTestDone dt sb0Ok othersOk => Sys2Proof.Machine.execMarchTestDone dt sb0Ok othersOk s
  | .ringPowerUp dt ring run => Sys2Proof.Machine.execRingPowerUp dt ring run s
  | .startDone dt => Sys2Proof.Machine.execStartDone dt s
  | .hvStartCalDone dt => Sys2Proof.Machine.execHvStartCalDone dt s
  | .startWatchdogExpiry dt => Sys2Proof.Machine.execStartWatchdogExpiry dt s
  | .startRetry dt => Sys2Proof.Machine.execStartRetry dt s
  | .auxInLow dt => Sys2Proof.Machine.execAuxInLow dt s
  | .pdMainOpen dt => Sys2Proof.Machine.execPdMainOpen dt s
  | .pdStringOpen dt => Sys2Proof.Machine.execPdStringOpen dt s
  | .pdDisconnectorOff dt => Sys2Proof.Machine.execPdDisconnectorOff dt s
  | .retentionRecordCommit dt wholeRecord => Sys2Proof.Machine.execRetentionRecordCommit dt wholeRecord s
  | .pdRailsDown dt => Sys2Proof.Machine.execPdRailsDown dt s
  | .abortOff dt rail => Sys2Proof.Machine.execAbortOff dt rail s
  | .bulbEntry dt => Sys2Proof.Machine.execBulbEntry dt s
  | .wake dt wakeIn => Sys2Proof.Machine.execWake dt wakeIn s
  | .wakeTimeout dt => Sys2Proof.Machine.execWakeTimeout dt s
  | .thermalHardLimit dt tsBaseA tsAon => Sys2Proof.Machine.execThermalHardLimit dt tsBaseA tsAon s
  | .thermalRestart dt tsBaseA tsAon => Sys2Proof.Machine.execThermalRestart dt tsBaseA tsAon s
  | .supervisorRestart dt => Sys2Proof.Machine.execSupervisorRestart dt s
  | .auxWarnCrossing dt auxIn10mV => Sys2Proof.Machine.execAuxWarnCrossing dt auxIn10mV s
  | .battWarnCrossing dt batt10mV => Sys2Proof.Machine.execBattWarnCrossing dt batt10mV s
  -- Pod and memory (chapter 13)
  | .comparatorMismatch dt group lane pc ctFail => Sys2Proof.Machine.execComparatorMismatch dt group lane pc ctFail s
  | .watchdogService dt core key ctFail => Sys2Proof.Machine.execWatchdogService dt core key ctFail s
  | .watchdogFault dt core ctFail => Sys2Proof.Machine.execWatchdogFault dt core ctFail s
  | .busError dt ctFail => Sys2Proof.Machine.execBusError dt ctFail s
  | .firmwareException dt recoverable ctFail => Sys2Proof.Machine.execFirmwareException dt recoverable ctFail s
  | .shelledSelfTest dt core pass ctFail => Sys2Proof.Machine.execShelledSelfTest dt core pass ctFail s
  | .heartbeatMissing dt core ctFail => Sys2Proof.Machine.execHeartbeatMissing dt core ctFail s
  | .mailboxResume dt lostProt lostGroups hwDiffer => Sys2Proof.Machine.execMailboxResume dt lostProt lostGroups hwDiffer s
  | .podDeadTimeout dt => Sys2Proof.Machine.execPodDeadTimeout dt s
  | .eccCorrected dt bank addr => Sys2Proof.Machine.execEccCorrected dt bank addr s
  | .eccUncorrectable dt site addr podAccess ctFail => Sys2Proof.Machine.execEccUncorrectable dt site addr podAccess ctFail s
  | .scrubPass dt addr => Sys2Proof.Machine.execScrubPass dt addr s
  | .otpProgramDone dt readBackOk => Sys2Proof.Machine.execOtpProgramDone dt readBackOk s
  -- mailbox commands
  | .sysInfo dt rq => Sys2Proof.Machine.execSysInfo dt rq s
  | .paramGet dt rq => Sys2Proof.Machine.execParamGet dt rq s
  | .paramSet dt rq => Sys2Proof.Machine.execParamSet dt rq s
  | .paramCommit dt rq => Sys2Proof.Machine.execParamCommit dt rq s
  | .paramHApply dt id inst => Sys2Proof.Machine.execParamHApply dt id inst s
  | .paramBulkGet dt rq => Sys2Proof.Machine.execParamBulkGet dt rq s
  | .paramBulkSet dt rq => Sys2Proof.Machine.execParamBulkSet dt rq s
  | .snapRead dt rq => Sys2Proof.Machine.execSnapRead dt rq s
  | .snapWrite dt rq => Sys2Proof.Machine.execSnapWrite dt rq s
  | .transferTimeout dt snapshot => Sys2Proof.Machine.execTransferTimeout dt snapshot s
  | .imageReleaseTimeout dt snapshot => Sys2Proof.Machine.execImageReleaseTimeout dt snapshot s
  | .pwrStatus dt rq => Sys2Proof.Machine.execPwrStatus dt rq s
  | .bulbEnter dt rq => Sys2Proof.Machine.execBulbEnter dt rq s
  | .restart dt rq => Sys2Proof.Machine.execRestart dt rq s
  | .podStatus dt rq => Sys2Proof.Machine.execPodStatus dt rq s
  | .patchWrite dt rq => Sys2Proof.Machine.execPatchWrite dt rq s
  | .patchVerify dt rq => Sys2Proof.Machine.execPatchVerify dt rq s
  | .patchApply dt rq => Sys2Proof.Machine.execPatchApply dt rq s
  | .patchDiscard dt rq => Sys2Proof.Machine.execPatchDiscard dt rq s
  | .otpRead dt rq => Sys2Proof.Machine.execOtpRead dt rq s
  | .otpProgram dt rq => Sys2Proof.Machine.execOtpProgram dt rq s
  | .authBegin dt rq => Sys2Proof.Machine.execAuthBegin dt rq s
  | .authProve dt rq => Sys2Proof.Machine.execAuthProve dt rq s
  | .authEnd dt rq => Sys2Proof.Machine.execAuthEnd dt rq s
  | .portStatus dt rq => Sys2Proof.Machine.execPortStatus dt rq s
  | .ringEnumerate dt rq runs => Sys2Proof.Machine.execRingEnumerate dt rq runs s
  | .ringRestore dt rq => Sys2Proof.Machine.execRingRestore dt rq s
  | .chnStatus dt rq => Sys2Proof.Machine.execChnStatus dt rq s
  | .bleedHold dt rq => Sys2Proof.Machine.execBleedHold dt rq s
  | .cellRead dt rq => Sys2Proof.Machine.execCellRead dt rq s
  | .tempRead dt rq => Sys2Proof.Machine.execTempRead dt rq s
  | .stringRead dt rq => Sys2Proof.Machine.execStringRead dt rq s
  | .metRead dt rq => Sys2Proof.Machine.execMetRead dt rq s
  | .ctrBase dt rq => Sys2Proof.Machine.execCtrBase dt rq s
  | .capTrigger dt rq => Sys2Proof.Machine.execCapTrigger dt rq s
  | .ctrRead dt rq => Sys2Proof.Machine.execCtrRead dt rq s
  | .insRead dt rq => Sys2Proof.Machine.execInsRead dt rq s
  | .rippleRead dt rq => Sys2Proof.Machine.execRippleRead dt rq s
  | .limitsGet dt rq => Sys2Proof.Machine.execLimitsGet dt rq s
  | .estRead dt rq => Sys2Proof.Machine.execEstRead dt rq s
  | .impRefSet dt rq => Sys2Proof.Machine.execImpRefSet dt rq s
  | .prtStatus dt rq => Sys2Proof.Machine.execPrtStatus dt rq s
  | .fltArm dt rq => Sys2Proof.Machine.execFltArm dt rq s
  | .fltConfirm dt rq => Sys2Proof.Machine.execFltConfirm dt rq s
  | .fltArmExpiry dt => Sys2Proof.Machine.execFltArmExpiry dt s
  | .fltRstEdge dt lowNs highNs => Sys2Proof.Machine.execFltRstEdge dt lowNs highNs s
  | .prtOpenReq dt rq => Sys2Proof.Machine.execPrtOpenReq dt rq s
  | .blockClose dt rq => Sys2Proof.Machine.execBlockClose dt rq s
  | .blockOpen dt rq => Sys2Proof.Machine.execBlockOpen dt rq s
  | .stringJoin dt rq => Sys2Proof.Machine.execStringJoin dt rq s
  | .stringOpen dt rq => Sys2Proof.Machine.execStringOpen dt rq s
  | .stringClear dt rq => Sys2Proof.Machine.execStringClear dt rq s
  | .dscClose dt rq => Sys2Proof.Machine.execDscClose dt rq s
  | .dscOpen dt rq => Sys2Proof.Machine.execDscOpen dt rq s
  | .seqStatus dt rq => Sys2Proof.Machine.execSeqStatus dt rq s
  | .loadOn dt rq => Sys2Proof.Machine.execLoadOn dt rq s
  | .loadOff dt rq => Sys2Proof.Machine.execLoadOff dt rq s
  | .loadClear dt rq => Sys2Proof.Machine.execLoadClear dt rq s
  | .loadStatus dt rq => Sys2Proof.Machine.execLoadStatus dt rq s
  | .loopEnable dt rq => Sys2Proof.Machine.execLoopEnable dt rq s
  | .loopSet dt rq => Sys2Proof.Machine.execLoopSet dt rq s
  | .loopStatus dt rq => Sys2Proof.Machine.execLoopStatus dt rq s
  | .traceArm dt rq => Sys2Proof.Machine.execTraceArm dt rq s
  | .posArm dt rq => Sys2Proof.Machine.execPosArm dt rq s
  | .posPreset dt rq => Sys2Proof.Machine.execPosPreset dt rq s
  | .posStatus dt rq => Sys2Proof.Machine.execPosStatus dt rq s
  | .thmStatus dt rq => Sys2Proof.Machine.execThmStatus dt rq s
  | .logRead dt rq => Sys2Proof.Machine.execLogRead dt rq s
  | .logAck dt rq => Sys2Proof.Machine.execLogAck dt rq s
  | .captureRead dt rq => Sys2Proof.Machine.execCaptureRead dt rq s
  | .traceRead dt rq => Sys2Proof.Machine.execTraceRead dt rq s
  | .bufferRelease dt rq => Sys2Proof.Machine.execBufferRelease dt rq s
  | .timeStatus dt rq => Sys2Proof.Machine.execTimeStatus dt rq s
  -- port traffic (chapter 15)
  | .canSegmentReceive dt port ext remote id data => Sys2Proof.Machine.execCanSegmentReceive dt port ext remote id data s
  | .spiWrite dt len data => Sys2Proof.Machine.execSpiWrite dt len data s
  | .spiRead dt clocked => Sys2Proof.Machine.execSpiRead dt clocked s
  | .spiStatus dt => Sys2Proof.Machine.execSpiStatus dt s
  | .icmpEchoRequest dt srcIp data => Sys2Proof.Machine.execIcmpEchoRequest dt srcIp data s
  | .arpRequest dt targetIp srcIp srcMac => Sys2Proof.Machine.execArpRequest dt targetIp srcIp srcMac s
  | .siteRingFrame dt link msg => Sys2Proof.Machine.execSiteRingFrame dt link msg s
  | .ringAssignReceive dt link position side run source => Sys2Proof.Machine.execRingAssignReceive dt link position side run source s
  | .ringAssignTimeout dt => Sys2Proof.Machine.execRingAssignTimeout dt s
  | .ringNoHead dt => Sys2Proof.Machine.execRingNoHead dt s
  | .portFailure dt port => Sys2Proof.Machine.execPortFailure dt port s
  | .portRecovery dt port => Sys2Proof.Machine.execPortRecovery dt port s
  | .sessionIdleTimeout dt port session => Sys2Proof.Machine.execSessionIdleTimeout dt port session s
  | .authLockoutEnd dt port => Sys2Proof.Machine.execAuthLockoutEnd dt port s
  | .limitsPeriodic dt => Sys2Proof.Machine.execLimitsPeriodic dt s
  | .limitsZeroRepeat dt => Sys2Proof.Machine.execLimitsZeroRepeat dt s
  | .ptpMessageReceive dt msg => Sys2Proof.Machine.execPtpMessageReceive dt msg s
  | .syncSend dt => Sys2Proof.Machine.execSyncSend dt s
  | .syncReceive dt link msg residence => Sys2Proof.Machine.execSyncReceive dt link msg residence s
  | .ringDelayExchange dt => Sys2Proof.Machine.execRingDelayExchange dt s
  | .timeSourceLoss dt => Sys2Proof.Machine.execTimeSourceLoss dt s
  | .holdoverExpiry dt => Sys2Proof.Machine.execHoldoverExpiry dt s
  | .ledgerDrain dt => Sys2Proof.Machine.execLedgerDrain dt s
  -- chain rings (chapters 2 and 3)
  | .chainCycleStart dt => Sys2Proof.Machine.execChainCycleStart dt s
  | .strobeLaunch dt => Sys2Proof.Machine.execStrobeLaunch dt s
  | .bleedOffBroadcast dt => Sys2Proof.Machine.execBleedOffBroadcast dt s
  | .bleedOffRepeat dt ring => Sys2Proof.Machine.execBleedOffRepeat dt ring s
  | .bleedOnBroadcast dt => Sys2Proof.Machine.execBleedOnBroadcast dt s
  | .readStringLaunch dt => Sys2Proof.Machine.execReadStringLaunch dt s
  | .cellFragmentLaunch dt fragment => Sys2Proof.Machine.execCellFragmentLaunch dt fragment s
  | .readTempsLaunch dt => Sys2Proof.Machine.execReadTempsLaunch dt s
  | .readCoarseLaunch dt => Sys2Proof.Machine.execReadCoarseLaunch dt s
  | .readSsAuxLaunch dt => Sys2Proof.Machine.execReadSsAuxLaunch dt s
  | .readStatusLaunch dt => Sys2Proof.Machine.execReadStatusLaunch dt s
  | .responseTrainReceive dt train => Sys2Proof.Machine.execResponseTrainReceive dt train s
  | .alarmToneDetect dt ring rxEnd => Sys2Proof.Machine.execAlarmToneDetect dt ring rxEnd s
  | .carrierLoss dt ring rxEnd => Sys2Proof.Machine.execCarrierLoss dt ring rxEnd s
  | .breakNoticeReceive dt ring rxEnd hop lostB => Sys2Proof.Machine.execBreakNoticeReceive dt ring rxEnd hop lostB s
  | .wrapRestore dt ring => Sys2Proof.Machine.execWrapRestore dt ring s
  | .ringServiceLoss dt ring run => Sys2Proof.Machine.execRingServiceLoss dt ring run s
  | .scanRateAnchor dt => Sys2Proof.Machine.execScanRateAnchor dt s
  | .calRunIssue dt ring => Sys2Proof.Machine.execCalRunIssue dt ring s
  | .scanEvaluation dt => Sys2Proof.Machine.execScanEvaluation dt s
  | .chainCycleEvaluation dt => Sys2Proof.Machine.execChainCycleEvaluation dt s
  | .g3OpenWaitExpiry dt str => Sys2Proof.Machine.execG3OpenWaitExpiry dt str s
  | .balancePlan dt => Sys2Proof.Machine.execBalancePlan dt s
  | .balHoldExpiry dt str => Sys2Proof.Machine.execBalHoldExpiry dt str s
  -- metrology (chapter 4)
  | .samplingInstant dt cv => Sys2Proof.Machine.execSamplingInstant dt cv s
  | .irangeMismatch dt => Sys2Proof.Machine.execIrangeMismatch dt s
  | .calStepStart dt => Sys2Proof.Machine.execCalStepStart dt s
  | .handover dt => Sys2Proof.Machine.execHandover dt s
  | .calStepRetry dt => Sys2Proof.Machine.execCalStepRetry dt s
  | .modulatorCalDone dt inWindow => Sys2Proof.Machine.execModulatorCalDone dt inWindow s
  | .modulatorFailure dt modulator => Sys2Proof.Machine.execModulatorFailure dt modulator s
  | .insHalfPeriodEnd dt positive length begun => Sys2Proof.Machine.execInsHalfPeriodEnd dt positive length begun s
  | .peCheck dt loopMilliohm => Sys2Proof.Machine.execPeCheck dt loopMilliohm s
  | .rippleWindowEnd dt first cycles => Sys2Proof.Machine.execRippleWindowEnd dt first cycles s
  | .captureTrigger dt source arrival => Sys2Proof.Machine.execCaptureTrigger dt source arrival s
  | .captureFreeze dt => Sys2Proof.Machine.execCaptureFreeze dt s
  -- estimation (chapter 5) and impedance (chapter 6)
  | .cellFilterPass dt => Sys2Proof.Machine.execCellFilterPass dt s
  | .limitCycle dt => Sys2Proof.Machine.execLimitCycle dt s
  | .anchorEnd dt str => Sys2Proof.Machine.execAnchorEnd dt str s
  | .capacityUpdate dt str => Sys2Proof.Machine.execCapacityUpdate dt str s
  | .stepConfirm dt => Sys2Proof.Machine.execStepConfirm dt s
  | .responseInstant dt offset => Sys2Proof.Machine.execResponseInstant dt offset s
  | .stepClose dt => Sys2Proof.Machine.execStepClose dt s
  | .impedanceFit dt => Sys2Proof.Machine.execImpedanceFit dt s
  | .fitDeferExpiry dt => Sys2Proof.Machine.execFitDeferExpiry dt s
  -- Husk (chapter 7)
  | .huskSourceAssert dt source strings => Sys2Proof.Machine.execHuskSourceAssert dt source strings s
  | .huskDelayExpiry dt source => Sys2Proof.Machine.execHuskDelayExpiry dt source s
  | .huskSourceRelease dt source => Sys2Proof.Machine.execHuskSourceRelease dt source s
  | .comparatorChannelTest dt comparator chanB received => Sys2Proof.Machine.execComparatorChannelTest dt comparator chanB received s
  -- sequencing (chapter 8)
  | .joinDwellComplete dt str => Sys2Proof.Machine.execJoinDwellComplete dt str s
  | .kpOn dt => Sys2Proof.Machine.execKpOn dt s
  | .joinConfirmTimeout dt => Sys2Proof.Machine.execJoinConfirmTimeout dt s
  | .confPendingCheck dt str => Sys2Proof.Machine.execConfPendingCheck dt str s
  | .joinWaitExpiry dt str => Sys2Proof.Machine.execJoinWaitExpiry dt str s
  | .joinSettleExpiry dt => Sys2Proof.Machine.execJoinSettleExpiry dt s
  | .weldCurrentTest dt pair => Sys2Proof.Machine.execWeldCurrentTest dt pair s
  | .prechargeProbeEnd dt => Sys2Proof.Machine.execPrechargeProbeEnd dt s
  | .mnConfirm dt => Sys2Proof.Machine.execMnConfirm dt s
  | .prechargeDone dt => Sys2Proof.Machine.execPrechargeDone dt s
  | .prechargeShortCheck dt => Sys2Proof.Machine.execPrechargeShortCheck dt s
  | .prechargeTimeout dt => Sys2Proof.Machine.execPrechargeTimeout dt s
  | .prechargeOvercurrent dt => Sys2Proof.Machine.execPrechargeOvercurrent dt s
  | .mpConfirm dt => Sys2Proof.Machine.execMpConfirm dt s
  | .dscBrakeRelease dt => Sys2Proof.Machine.execDscBrakeRelease dt s
  | .dscCloseReached dt => Sys2Proof.Machine.execDscCloseReached dt s
  | .dscDmeOff dt => Sys2Proof.Machine.execDscDmeOff dt s
  | .dscCloseTimeout dt => Sys2Proof.Machine.execDscCloseTimeout dt s
  | .dscOpenTimeout dt => Sys2Proof.Machine.execDscOpenTimeout dt s
  | .endOpenActive dt => Sys2Proof.Machine.execEndOpenActive dt s
  | .endClosedActive dt => Sys2Proof.Machine.execEndClosedActive dt s
  | .openCurrentWaitEnd dt => Sys2Proof.Machine.execOpenCurrentWaitEnd dt s
  | .openStagger dt => Sys2Proof.Machine.execOpenStagger dt s
  -- load switch array (chapter 9)
  | .loadAdmissionCheck dt meas => Sys2Proof.Machine.execLoadAdmissionCheck dt meas s
  | .loadStaggerTimeout dt load => Sys2Proof.Machine.execLoadStaggerTimeout dt load s
  | .loadChannelStart dt load => Sys2Proof.Machine.execLoadChannelStart dt load s
  | .loadEnvelopeEnd dt load => Sys2Proof.Machine.execLoadEnvelopeEnd dt load s
  | .holdRegulation dt meas => Sys2Proof.Machine.execHoldRegulation dt meas s
  | .channelOvercurrent dt chan => Sys2Proof.Machine.execChannelOvercurrent dt chan s
  | .channelThermalWarn dt chan => Sys2Proof.Machine.execChannelThermalWarn dt chan s
  | .channelThermalShutdown dt chan => Sys2Proof.Machine.execChannelThermalShutdown dt chan s
  | .channelThermalRestart dt chan => Sys2Proof.Machine.execChannelThermalRestart dt chan s
  | .loadPhaseEnd dt load => Sys2Proof.Machine.execLoadPhaseEnd dt load s
  | .lgPinGate dt pin => Sys2Proof.Machine.execLgPinGate dt pin s
  | .lgPinPermit dt pin => Sys2Proof.Machine.execLgPinPermit dt pin s
  | .vloadOver dt => Sys2Proof.Machine.execVloadOver dt s
  | .clampLockClear dt => Sys2Proof.Machine.execClampLockClear dt s
  | .m2304Excursion dt load => Sys2Proof.Machine.execM2304Excursion dt load s
  -- control engine (chapter 10)
  | .controlTick dt ai aiMean => Sys2Proof.Machine.execControlTick dt ai aiMean s
  | .ffInvalidTimeout dt loop => Sys2Proof.Machine.execFfInvalidTimeout dt loop s
  -- position (chapter 11)
  | .observerSample dt pf0 pf1 endOpen endClosed => Sys2Proof.Machine.execObserverSample dt pf0 pf1 endOpen endClosed s
  | .spdValidExpiry dt chan => Sys2Proof.Machine.execSpdValidExpiry dt chan s
  | .cmpPulseEnd dt pin => Sys2Proof.Machine.execCmpPulseEnd dt pin s
  | .indexEdge dt chan => Sys2Proof.Machine.execIndexEdge dt chan s
  | .timedSpeedCrossing dt chan up interval625 => Sys2Proof.Machine.execTimedSpeedCrossing dt chan up interval625 s
  -- thermal (chapter 12)
  | .moduleSensorRead dt rd => Sys2Proof.Machine.execModuleSensorRead dt rd s
  | .actuatorRetry dt entry => Sys2Proof.Machine.execActuatorRetry dt entry s
  -- the rest of the table
  | .registerWrite dt id inst value => Sys2Proof.Machine.execRegisterWrite dt id inst value s
  | .udpDatagramReceive dt srcIp srcPort dstPort plainIpv4 msg => Sys2Proof.Machine.execUdpDatagramReceive dt srcIp srcPort dstPort plainIpv4 msg s
  | .carrierReturn dt ring => Sys2Proof.Machine.execCarrierReturn dt ring s
  | .alwaysOnColdPowerUp dt => Sys2Proof.Machine.execAlwaysOnColdPowerUp dt s
  | .pllLock dt inTolerance boot => Sys2Proof.Machine.execPllLock dt inTolerance boot s
  | .resetStartBegin dt boot => Sys2Proof.Machine.execResetStartBegin dt boot s
  | .enumerationReplyTimeout dt ring closing => Sys2Proof.Machine.execEnumerationReplyTimeout dt ring closing s
  | .ptpDelayRequest dt => Sys2Proof.Machine.execPtpDelayRequest dt s
  | .dhcpLeaseTimer dt rebinding => Sys2Proof.Machine.execDhcpLeaseTimer dt rebinding s
  | .ethernetLinkChange dt up => Sys2Proof.Machine.execEthernetLinkChange dt up s
  | .canBusOff dt port => Sys2Proof.Machine.execCanBusOff dt port s
  | .loadSwitchClockLoss dt => Sys2Proof.Machine.execLoadSwitchClockLoss dt s

end Sys2Proof.Machine
end

