-- ==== Sys2Proof/Safety.lean ====
section
/-!
DEFINITION. What a claim says a command leaves alone: the parts of the state, and the relation "differs at most in these
parts". OTP, the boot epoch and the supply of the always-on domain count as parts of their own beside the unit they stand in.
-/
namespace Sys2Proof.Machine

/-- A part of the state. -/
inductive Part where
  | phys | free | pow | pod | par | hub | chn | met | est | imp | husk | prt | seq | lsw | ctl | pos | thm | log | tb | xfer | pending | otp | epoch | aonOn
  deriving DecidableEq, Repr

/-- The part is the same in two states. -/
def Part.same (s t : State) : Part → Prop
  | .phys => t.phys = s.phys
  | .free => t.free = s.free
  | .pow => t.pow = s.pow
  | .pod => t.pod = s.pod
  | .par => t.par = s.par
  | .hub => t.hub = s.hub
  | .chn => t.chn = s.chn
  | .met => t.met = s.met
  | .est => t.est = s.est
  | .imp => t.imp = s.imp
  | .husk => t.husk = s.husk
  | .prt => t.prt = s.prt
  | .seq => t.seq = s.seq
  | .lsw => t.lsw = s.lsw
  | .ctl => t.ctl = s.ctl
  | .pos => t.pos = s.pos
  | .thm => t.thm = s.thm
  | .log => t.log = s.log
  | .tb => t.tb = s.tb
  | .xfer => t.xfer = s.xfer
  | .pending => t.pending = s.pending
  | .otp => t.pod.otp = s.pod.otp
  | .epoch => t.pow.epoch = s.pow.epoch
  | .aonOn => t.pow.aonOn = s.pow.aonOn

/-- `t` differs from `s` at most in the listed parts. -/
def Only (ps : List Part) (s t : State) : Prop := ∀ p, p ∉ ps → p.same s t

/-- The outcome is a next state, and `p` holds of it. -/
def Answers (o : Out) (p : State → Prop) : Prop := ∃ t, o = .next t ∧ p t

/-- The time that passes before a command has its effect: its first operand, ns (log 3). -/
def instrDt : Instr → Nat
  | .auxInQualified dt | .railEnableDelayExpiry dt | .railInWindow dt .. | .railWindowTimeout dt ..
  | .marchTestDone dt .. | .ringPowerUp dt .. | .startDone dt | .hvStartCalDone dt | .startWatchdogExpiry dt
  | .startRetry dt | .auxInLow dt | .pdMainOpen dt | .pdStringOpen dt | .pdDisconnectorOff dt
  | .retentionRecordCommit dt .. | .pdRailsDown dt | .abortOff dt .. | .bulbEntry dt | .wake dt .. | .wakeTimeout dt
  | .thermalHardLimit dt .. | .thermalRestart dt .. | .supervisorRestart dt | .auxWarnCrossing dt ..
  | .battWarnCrossing dt .. | .comparatorMismatch dt .. | .watchdogService dt .. | .watchdogFault dt ..
  | .busError dt .. | .firmwareException dt .. | .shelledSelfTest dt .. | .heartbeatMissing dt ..
  | .mailboxResume dt .. | .podDeadTimeout dt | .eccCorrected dt .. | .eccUncorrectable dt .. | .scrubPass dt ..
  | .otpProgramDone dt .. | .sysInfo dt .. | .paramGet dt .. | .paramSet dt .. | .paramCommit dt ..
  | .paramHApply dt .. | .paramBulkGet dt .. | .paramBulkSet dt .. | .snapRead dt .. | .snapWrite dt ..
  | .transferTimeout dt .. | .imageReleaseTimeout dt .. | .pwrStatus dt .. | .bulbEnter dt .. | .restart dt ..
  | .podStatus dt .. | .patchWrite dt .. | .patchVerify dt .. | .patchApply dt .. | .patchDiscard dt ..
  | .otpRead dt .. | .otpProgram dt .. | .authBegin dt .. | .authProve dt .. | .authEnd dt .. | .portStatus dt ..
  | .ringEnumerate dt .. | .ringRestore dt .. | .chnStatus dt .. | .bleedHold dt .. | .cellRead dt ..
  | .tempRead dt .. | .stringRead dt .. | .metRead dt .. | .ctrBase dt .. | .capTrigger dt .. | .ctrRead dt ..
  | .insRead dt .. | .rippleRead dt .. | .limitsGet dt .. | .estRead dt .. | .impRefSet dt .. | .prtStatus dt ..
  | .fltArm dt .. | .fltConfirm dt .. | .fltArmExpiry dt | .fltRstEdge dt .. | .prtOpenReq dt .. | .blockClose dt ..
  | .blockOpen dt .. | .stringJoin dt .. | .stringOpen dt .. | .stringClear dt .. | .dscClose dt .. | .dscOpen dt ..
  | .seqStatus dt .. | .loadOn dt .. | .loadOff dt .. | .loadClear dt .. | .loadStatus dt .. | .loopEnable dt ..
  | .loopSet dt .. | .loopStatus dt .. | .traceArm dt .. | .posArm dt .. | .posPreset dt .. | .posStatus dt ..
  | .thmStatus dt .. | .logRead dt .. | .logAck dt .. | .captureRead dt .. | .traceRead dt .. | .bufferRelease dt ..
  | .timeStatus dt .. | .canSegmentReceive dt .. | .spiWrite dt .. | .spiRead dt .. | .spiStatus dt
  | .icmpEchoRequest dt .. | .arpRequest dt .. | .siteRingFrame dt .. | .ringAssignReceive dt ..
  | .ringAssignTimeout dt | .ringNoHead dt | .portFailure dt .. | .portRecovery dt .. | .sessionIdleTimeout dt ..
  | .authLockoutEnd dt .. | .limitsPeriodic dt | .limitsZeroRepeat dt | .ptpMessageReceive dt .. | .syncSend dt
  | .syncReceive dt .. | .ringDelayExchange dt | .timeSourceLoss dt | .holdoverExpiry dt | .ledgerDrain dt
  | .chainCycleStart dt | .strobeLaunch dt | .bleedOffBroadcast dt | .bleedOffRepeat dt .. | .bleedOnBroadcast dt
  | .readStringLaunch dt | .cellFragmentLaunch dt .. | .readTempsLaunch dt | .readCoarseLaunch dt
  | .readSsAuxLaunch dt | .readStatusLaunch dt | .responseTrainReceive dt .. | .alarmToneDetect dt ..
  | .carrierLoss dt .. | .breakNoticeReceive dt .. | .wrapRestore dt .. | .ringServiceLoss dt .. | .scanRateAnchor dt
  | .calRunIssue dt .. | .scanEvaluation dt | .chainCycleEvaluation dt | .g3OpenWaitExpiry dt .. | .balancePlan dt
  | .balHoldExpiry dt .. | .samplingInstant dt .. | .irangeMismatch dt | .calStepStart dt | .handover dt
  | .calStepRetry dt | .modulatorCalDone dt .. | .modulatorFailure dt .. | .insHalfPeriodEnd dt .. | .peCheck dt ..
  | .rippleWindowEnd dt .. | .captureTrigger dt .. | .captureFreeze dt | .cellFilterPass dt | .limitCycle dt
  | .anchorEnd dt .. | .capacityUpdate dt .. | .stepConfirm dt | .responseInstant dt .. | .stepClose dt
  | .impedanceFit dt | .fitDeferExpiry dt | .huskSourceAssert dt .. | .huskDelayExpiry dt ..
  | .huskSourceRelease dt .. | .comparatorChannelTest dt .. | .joinDwellComplete dt .. | .kpOn dt
  | .joinConfirmTimeout dt | .confPendingCheck dt .. | .joinWaitExpiry dt .. | .joinSettleExpiry dt
  | .weldCurrentTest dt .. | .prechargeProbeEnd dt | .mnConfirm dt | .prechargeDone dt | .prechargeShortCheck dt
  | .prechargeTimeout dt | .prechargeOvercurrent dt | .mpConfirm dt | .dscBrakeRelease dt | .dscCloseReached dt
  | .dscDmeOff dt | .dscCloseTimeout dt | .dscOpenTimeout dt | .endOpenActive dt | .endClosedActive dt
  | .openCurrentWaitEnd dt | .openStagger dt | .loadAdmissionCheck dt .. | .loadStaggerTimeout dt ..
  | .loadChannelStart dt .. | .loadEnvelopeEnd dt .. | .holdRegulation dt .. | .channelOvercurrent dt ..
  | .channelThermalWarn dt .. | .channelThermalShutdown dt .. | .channelThermalRestart dt .. | .loadPhaseEnd dt ..
  | .lgPinGate dt .. | .lgPinPermit dt .. | .vloadOver dt | .clampLockClear dt | .m2304Excursion dt ..
  | .controlTick dt .. | .ffInvalidTimeout dt .. | .observerSample dt .. | .spdValidExpiry dt .. | .cmpPulseEnd dt ..
  | .indexEdge dt .. | .timedSpeedCrossing dt .. | .moduleSensorRead dt .. | .actuatorRetry dt ..
  | .registerWrite dt .. | .udpDatagramReceive dt .. | .carrierReturn dt .. | .alwaysOnColdPowerUp dt
  | .pllLock dt .. | .resetStartBegin dt .. | .enumerationReplyTimeout dt .. | .ptpDelayRequest dt
  | .dhcpLeaseTimer dt .. | .ethernetLinkChange dt .. | .canBusOff dt .. | .loadSwitchClockLoss dt => dt

/-- The parts a command may change beside the passing of time, which moves the physical time, the timebase and the always-on
seconds. A unit that a command only reads does not stand in its row. -/
def instrTouches : Instr → List Part
  | .bleedOffRepeat .. | .readCoarseLaunch .. | .readSsAuxLaunch .. | .readStatusLaunch .. | .scanRateAnchor ..
  | .calRunIssue .. | .balancePlan .. | .carrierReturn .. =>
    [.chn]
  | .fitDeferExpiry .. =>
    [.est]
  | .spiRead .. | .spiStatus .. | .icmpEchoRequest .. | .arpRequest .. | .ringAssignTimeout .. | .portFailure ..
  | .portRecovery .. | .authLockoutEnd .. | .limitsPeriodic .. | .limitsZeroRepeat .. | .ptpDelayRequest ..
  | .dhcpLeaseTimer .. | .ethernetLinkChange .. | .canBusOff .. =>
    [.hub]
  | .fltArmExpiry .. =>
    [.husk]
  | .stepConfirm .. =>
    [.imp]
  | .ringNoHead .. | .ledgerDrain .. =>
    [.log]
  | .loadPhaseEnd .. =>
    [.lsw]
  | .hvStartCalDone .. | .calStepStart .. | .calStepRetry .. | .rippleWindowEnd .. =>
    [.met]
  | .scrubPass .. =>
    [.pod]
  | .spdValidExpiry .. | .cmpPulseEnd .. | .timedSpeedCrossing .. =>
    [.pos]
  | .railEnableDelayExpiry .. | .retentionRecordCommit .. | .bulbEntry .. | .wake .. | .wakeTimeout .. =>
    [.pow]
  | .timeSourceLoss .. | .holdoverExpiry .. =>
    [.tb]
  | .transferTimeout .. | .imageReleaseTimeout .. =>
    [.xfer]
  | .bleedOffBroadcast .. | .bleedOnBroadcast .. =>
    [.chn, .est]
  | .wrapRestore .. =>
    [.hub, .chn]
  | .responseInstant .. =>
    [.chn, .imp]
  | .balHoldExpiry .. =>
    [.chn, .log]
  | .anchorEnd .. =>
    [.est, .log]
  | .sessionIdleTimeout .. =>
    [.hub, .husk]
  | .ringAssignReceive .. =>
    [.hub, .log]
  | .dscOpenTimeout .. =>
    [.hub, .seq]
  | .syncSend .. | .ringDelayExchange .. =>
    [.hub, .tb]
  | .ptpMessageReceive .. =>
    [.log, .tb]
  | .holdRegulation .. | .channelThermalWarn .. | .vloadOver .. | .m2304Excursion .. =>
    [.lsw, .log]
  | .irangeMismatch .. | .handover .. | .peCheck .. =>
    [.met, .log]
  | .sysInfo .. | .pwrStatus .. | .podStatus .. | .otpRead .. | .portStatus .. | .chnStatus .. | .cellRead ..
  | .tempRead .. | .stringRead .. | .metRead .. | .ctrRead .. | .insRead .. | .rippleRead .. | .limitsGet ..
  | .estRead .. | .prtStatus .. | .seqStatus .. | .loadStatus .. | .loopStatus .. | .posStatus .. | .thmStatus ..
  | .logRead .. | .traceRead .. | .timeStatus .. | .canSegmentReceive .. | .siteRingFrame .. | .udpDatagramReceive .. =>
    [.par, .hub]
  | .eccCorrected .. =>
    [.pod, .log]
  | .indexEdge .. =>
    [.pos, .log]
  | .auxWarnCrossing .. | .battWarnCrossing .. =>
    [.pow, .log]
  | .dscBrakeRelease .. | .dscCloseReached .. =>
    [.seq, .ctl]
  | .confPendingCheck .. =>
    [.seq, .log]
  | .paramGet .. | .authBegin .. | .spiWrite .. =>
    [.free, .par, .hub]
  | .stepClose .. =>
    [.est, .imp, .log]
  | .impedanceFit .. =>
    [.free, .est, .imp]
  | .capacityUpdate .. =>
    [.free, .est, .log]
  | .syncReceive .. =>
    [.hub, .log, .tb]
  | .modulatorCalDone .. | .modulatorFailure .. =>
    [.met, .ctl, .log]
  | .captureTrigger .. =>
    [.met, .ctl, .xfer]
  | .captureFreeze .. =>
    [.met, .log, .xfer]
  | .ringRestore .. | .bleedHold .. =>
    [.par, .hub, .chn]
  | .loopEnable .. | .loopSet .. =>
    [.par, .hub, .ctl]
  | .impRefSet .. =>
    [.par, .hub, .est]
  | .authProve .. | .authEnd .. | .fltArm .. =>
    [.par, .hub, .husk]
  | .logAck .. =>
    [.par, .hub, .log]
  | .loadClear .. =>
    [.par, .hub, .lsw]
  | .ctrBase .. | .captureRead .. =>
    [.par, .hub, .met]
  | .posArm .. | .posPreset .. =>
    [.par, .hub, .pos]
  | .paramBulkGet .. | .snapRead .. =>
    [.par, .hub, .xfer]
  | .patchWrite .. | .patchVerify .. | .patchDiscard .. | .otpProgram .. =>
    [.pod, .par, .hub]
  | .railInWindow .. =>
    [.pow, .husk, .lsw]
  | .cellFilterPass .. =>
    [.free, .chn, .est, .imp]
  | .otpProgramDone .. =>
    [.free, .pod, .hub, .otp]
  | .loadChannelStart .. | .loadEnvelopeEnd .. | .actuatorRetry .. =>
    [.hub, .lsw, .thm, .log]
  | .traceArm .. =>
    [.par, .hub, .ctl, .xfer]
  | .bufferRelease .. =>
    [.par, .hub, .met, .ctl]
  | .snapWrite .. =>
    [.free, .par, .hub, .est, .xfer]
  | .enumerationReplyTimeout .. =>
    [.hub, .chn, .husk, .seq, .log]
  | .joinDwellComplete .. | .kpOn .. | .joinSettleExpiry .. =>
    [.hub, .seq, .lsw, .thm, .log]
  | .loadOn .. =>
    [.par, .hub, .lsw, .thm, .log]
  | .capTrigger .. =>
    [.par, .hub, .met, .ctl, .xfer]
  | .loadAdmissionCheck .. | .clampLockClear .. | .loadOff .. | .loadStaggerTimeout .. =>
    [.free, .par, .hub, .lsw, .thm, .log]
  | .joinWaitExpiry .. =>
    [.hub, .seq, .lsw, .ctl, .thm, .log]
  | .stringJoin .. =>
    [.par, .hub, .chn, .husk, .seq, .log]
  | .joinConfirmTimeout .. | .prechargeDone .. | .openStagger .. =>
    [.free, .par, .hub, .seq, .lsw, .thm, .log]
  | .pdDisconnectorOff .. | .blockOpen .. | .stringOpen .. | .prechargeProbeEnd .. | .mnConfirm ..
  | .prechargeShortCheck .. | .prechargeTimeout .. | .prechargeOvercurrent .. | .mpConfirm .. | .dscDmeOff ..
  | .dscCloseTimeout .. | .channelOvercurrent .. | .channelThermalShutdown .. | .channelThermalRestart ..
  | .lgPinGate .. | .lgPinPermit .. | .loadSwitchClockLoss .. =>
    [.free, .par, .hub, .seq, .lsw, .ctl, .thm, .log]
  | .pdMainOpen .. =>
    [.free, .pow, .par, .hub, .lsw, .ctl, .thm, .log]
  | .pdStringOpen .. =>
    [.free, .pow, .par, .hub, .seq, .lsw, .thm, .log]
  | .dscClose .. =>
    [.par, .hub, .chn, .husk, .seq, .lsw, .thm, .log]
  | .startDone .. =>
    [.pow, .pod, .hub, .chn, .est, .husk, .seq, .log]
  | .dscOpen .. | .openCurrentWaitEnd .. =>
    [.free, .par, .hub, .met, .seq, .lsw, .ctl, .thm, .log]
  | .ffInvalidTimeout .. =>
    [.free, .par, .hub, .seq, .lsw, .ctl, .thm, .log, .xfer]
  | .blockClose .. =>
    [.par, .hub, .chn, .husk, .seq, .lsw, .ctl, .thm, .log]
  | .huskSourceRelease .. =>
    [.free, .par, .hub, .husk, .seq, .lsw, .ctl, .pos, .thm, .log]
  | .fltConfirm .. | .fltRstEdge .. =>
    [.free, .par, .hub, .husk, .prt, .seq, .lsw, .ctl, .thm, .log]
  | .podDeadTimeout .. | .huskDelayExpiry .. | .comparatorChannelTest .. =>
    [.free, .par, .hub, .met, .husk, .seq, .lsw, .ctl, .thm, .log]
  | .huskSourceAssert .. | .endOpenActive .. | .endClosedActive .. =>
    [.free, .par, .hub, .met, .husk, .seq, .lsw, .ctl, .pos, .thm, .log]
  | .alarmToneDetect .. =>
    [.free, .par, .hub, .chn, .met, .husk, .seq, .lsw, .ctl, .thm, .log]
  | .prtOpenReq .. | .moduleSensorRead .. =>
    [.free, .par, .hub, .met, .husk, .prt, .seq, .lsw, .ctl, .thm, .log]
  | .readTempsLaunch .. =>
    [.free, .par, .hub, .chn, .met, .husk, .seq, .lsw, .ctl, .pos, .thm, .log]
  | .g3OpenWaitExpiry .. | .insHalfPeriodEnd .. | .weldCurrentTest .. =>
    [.free, .par, .hub, .met, .husk, .prt, .seq, .lsw, .ctl, .pos, .thm, .log]
  | .samplingInstant .. =>
    [.free, .par, .hub, .met, .imp, .husk, .seq, .lsw, .ctl, .pos, .thm, .log, .xfer]
  | .stringClear .. =>
    [.free, .par, .hub, .met, .est, .husk, .prt, .seq, .lsw, .ctl, .pos, .thm, .log]
  | .bulbEnter .. | .ringPowerUp .. | .paramSet .. | .paramCommit .. | .paramHApply .. | .ringEnumerate ..
  | .ringServiceLoss .. | .observerSample .. | .registerWrite .. =>
    [.free, .pow, .par, .hub, .chn, .met, .husk, .seq, .lsw, .ctl, .pos, .thm, .log]
  | .carrierLoss .. | .breakNoticeReceive .. | .strobeLaunch .. | .cellFragmentLaunch .. =>
    [.free, .par, .hub, .chn, .met, .est, .imp, .husk, .seq, .lsw, .ctl, .pos, .thm, .log]
  | .chainCycleEvaluation .. | .limitCycle .. =>
    [.free, .par, .hub, .chn, .met, .est, .husk, .prt, .seq, .lsw, .ctl, .pos, .thm, .log]
  | .paramBulkSet .. | .controlTick .. =>
    [.free, .pow, .par, .hub, .chn, .met, .husk, .seq, .lsw, .ctl, .pos, .thm, .log, .xfer]
  | .chainCycleStart .. | .readStringLaunch .. | .responseTrainReceive .. | .scanEvaluation .. =>
    [.free, .par, .hub, .chn, .met, .est, .imp, .husk, .prt, .seq, .lsw, .ctl, .pos, .thm, .log]
  | .mailboxResume .. =>
    [.free, .pod, .par, .hub, .chn, .met, .est, .imp, .husk, .prt, .seq, .lsw, .ctl, .pos, .thm, .log, .xfer]
  | .auxInQualified .. | .railWindowTimeout .. | .startWatchdogExpiry .. | .startRetry .. | .pdRailsDown ..
  | .abortOff .. | .thermalRestart .. | .supervisorRestart .. | .pllLock .. | .resetStartBegin .. =>
    [.pow, .pod, .par, .hub, .chn, .met, .est, .imp, .husk, .prt, .seq, .lsw, .ctl, .pos, .thm, .log, .tb, .xfer]
  | .auxInLow .. | .thermalHardLimit .. | .comparatorMismatch .. | .watchdogService .. | .watchdogFault ..
  | .busError .. | .firmwareException .. | .shelledSelfTest .. | .heartbeatMissing .. | .eccUncorrectable ..
  | .restart .. | .patchApply .. =>
    [.free, .pow, .pod, .par, .hub, .chn, .met, .est, .imp, .husk, .prt, .seq, .lsw, .ctl, .pos, .thm, .log, .tb, .xfer]
  | .marchTestDone .. =>
    [.pow, .pod, .par, .hub, .chn, .met, .est, .imp, .husk, .prt, .seq, .lsw, .ctl, .pos, .thm, .log, .tb, .xfer, .epoch]
  | .alwaysOnColdPowerUp .. =>
    [.free, .pow, .pod, .par, .hub, .chn, .met, .est, .imp, .husk, .prt, .seq, .lsw, .ctl, .pos, .thm, .log, .tb, .xfer, .epoch, .aonOn]

/-! ### What a claim says of a command -/

/-- The start has failed and is counted: the module waits for its retry, with the reason in the history and in the retention
word beside the rail. -/
def StartFailed (reason rail : Nat) (t : State) : Prop :=
  t.pow.phase = .retry ∧ t.pow.endReason = reason ∧ (t.pow.history.head?).map (·.reason) = some reason ∧
    bits t.pow.retWord.toNat 15 8 = reason % 256 ∧ bits t.pow.retWord.toNat 23 20 = rail % 16

/-- A Pod fault of a code has started a warm restart; the boot epoch and the phase are as they were. -/
def WarmStarted (code : Nat) (s t : State) : Prop :=
  t.pod.lastFault = code ∧ t.pod.warm = true ∧ t.pod.wdOff = true ∧ t.pod.restarts = inc16 s.pod.restarts ∧
    t.pow.epoch = s.pow.epoch ∧ t.pow.phase = s.pow.phase

/-- Fewer than eight warm restarts have been made in the 60 s before the command (R358). -/
def RestartsLeft (dt : Nat) (s : State) : Prop := (s.pod.restartAt.filter fun t => decide (s.phys + dt - t < 60 * secNs)).length < 8

/-- The transaction of a mailbox command stands entered, its port up, powered, no SPI port and, where it is Port P, with a
position (a module without one originates no frame, R417), and its request of the opcode's size. -/
def Stands (s : State) (rq : Request) (op : Nat) (t : Txn) : Prop :=
  entered s rq op = some t ∧ serving s = true ∧ portPowered s t.port = true ∧ (portOf s t.port).failed = false ∧ t.port ≠ .S ∧
    noOrigin s t.port = false ∧ (∀ n, reqSize op = some n → t.payload.length = n)

/-- The state a mailbox command works on: time has passed, and its transaction is being served. -/
def atWork (dt : Nat) (t : Txn) (s : State) : State := modTxn (txnKey t) (fun t => { t with served := true }) (advance dt s)

/-- The transaction's completion is the first message the command sends. -/
def Answered (t : Txn) (status : Nat) (payload : Bytes) (s u : State) : Prop :=
  ∃ m l, u.hub.sent = s.hub.sent ++ m :: l ∧ m.kind = 1 ∧ m.port = t.port ∧ m.tag = t.tag ∧ m.opcode = t.opcode ∧ m.tc = t.cls ∧
    m.status = status ∧ m.payload = payload ∧ m.epoch = s.pow.epoch

/-- The transaction has been completed with a status and a payload, and its tag is free. -/
def Replied (t : Txn) (status : Nat) (payload : Bytes) (s u : State) : Prop :=
  (∃ m l, u.hub.sent = s.hub.sent ++ m :: l ∧ m.kind = 1 ∧ m.port = t.port ∧ m.tag = t.tag ∧ m.opcode = t.opcode ∧ m.tc = t.cls ∧
    m.status = status ∧ m.payload = payload ∧ m.epoch = s.pow.epoch) ∧ findTxn u (txnKey t) = none

/-- A command that reads: it completes with DONE and a payload read from the state at work. -/
def Reads (c : Nat → Request → Instr) (op : Nat) (payload : Txn → State → Bytes) : Prop :=
  ∀ dt rq t s, Stands s rq op t → Answers (exec (c dt rq) s) (Replied t 0x00 (payload t (atWork dt t s)) s)

/-- Start of a range read, limited to the last instance; and the count, reduced to what is left and to what the port holds. -/
def readStart (first total : Nat) : Nat := min first (total - 1)
def readCount (t : Txn) (first count total size head : Nat) : Nat :=
  min count (min (total - readStart first total) ((largest t.port - head) / size))

/-- A frame apart from the instant at which its lane is free for it. -/
def Frame.timeless (f : Frame) : Frame := { f with at_ := 0 }

/-- Beside the frames of `s`, `t` has launched frames that are `fs` apart from the instants at which their lanes are free. -/
def Sends (s t : State) (fs : List Frame) : Prop := ∃ l, t.chn.frames = s.chn.frames ++ l ∧ l.map Frame.timeless = fs

/-- Frames a ring sends to its whole length, one from each of `ends`: each takes the next tag and the next sequence word, and
carries the header and the CRC of Table 02.2 (R50 to R52, R55). -/
def framesOf (g : Ring) (r opc : Nat) (data : List (BitVec 16)) : List (Bool × Nat) → List Frame
  | [] => []
  | e :: es =>
    let tag := (g.tag + 1) % 1024
    let words := BitVec.ofNat 16 (g.seq + 1) :: data
    let hdr := headerOf e.1 true e.2 opc tag words.length
    { ring := r, dir := e.1, bc := true, hop := e.2, opc, tag, data := words, hdr, crc := frameCrc hdr words, times := 1, at_ := 0 }
      :: framesOf { g with tag := (g.tag + 1) % 1024, seq := (g.seq + 1) % 65536 } r opc data es

/-- What every served ring sends of a command, and of a read. -/
def commandFrames (s : State) (opc : Nat) (data : List (BitVec 16)) : List Frame :=
  (servedRings s).flatMap fun r => framesOf (ringAt s r) r opc data (commandEnds (ringAt s r))
def readFrames (s : State) (opc : Nat) (data : List (BitVec 16)) : List Frame :=
  (servedRings s).flatMap fun r => framesOf (ringAt s r) r opc data (readEnds (ringAt s r))

end Sys2Proof.Machine
end

