-- ==== Sys2Proof/Certificates/Slice0/Obligations.lean ====
section
/-!
DEFINITION. The statements for the provers, each one a proposition about the block: what its commands do, what every step keeps, and what the
model's own step is. The names shared by several stand in Safety.lean.
-/
open Sys2Proof Sys2Proof.Machine

/-- log 2, the block's step: whatever the command and the state, a step takes the command at the front of the queue and runs it on the state with
the queue's rest; on an empty queue the block idles. Both are the model's own choice (the cut models the hardware as a block). -/
def Obligations.StepTakesTheFrontCommand : Prop :=
  (∀ (c : Instr) (q : List Instr) (s : State), step { s with pending := c :: q } = exec c { s with pending := q }) ∧
  (∀ s : State, s.pending = [] → step s = .next s)

/-- The frame of all 242 commands: every command answers a next state, which differs from the state after its time has passed in no unit but those its row of
`instrTouches` lists; the physical time moves on by exactly the command's time, and the queue is the queue. -/
def Obligations.EveryCommandAnswersWithinItsFrame : Prop :=
  (∀ c s, Answers (exec c s) fun t =>
    Only (instrTouches c) (advance (instrDt c) s) t ∧ t.phys = s.phys + instrDt c ∧ t.pending = s.pending)

/-- R371: an antifuse cannot be cleared, so programming only sets bits. In every state whose OTP memory has its canonical form, every step that answers a
next state keeps that form and every bit that was set, whatever command stands at the front of the queue. -/
def Obligations.StepsOnlySetOtpBits : Prop :=
  (∀ s t : State, Memory.wf s.pod.otp = true → step s = .next t →
    Memory.wf t.pod.otp = true ∧ ∀ a, cellRead s.pod.otp a &&& cellRead t.pod.otp a = cellRead s.pod.otp a) ∧
  (∀ (s t : State) c q, s.pending = c :: q → step s = .next t → (∀ dt ok, c ≠ .otpProgramDone dt ok) → t.pod.otp = s.pod.otp)

/-- R384: the boot epoch is a 16-bit counter that is never 0. It is incremented at step 10 of a start, before any port serves, and passes from 0xFFFF to
0x0001; a cold power-up of the always-on domain loads a random value other than 0 and clears VALID; no other command, a Pod fault or its warm restart among
them, changes it. Every step from a state where the epoch is in 1 to 0xFFFF answers a state where it is. -/
def Obligations.StepsKeepTheEpochNonzero : Prop :=
  (∀ s t : State, (s.pow.aonOn = true → 1 ≤ s.pow.epoch ∧ s.pow.epoch ≤ 0xFFFF) → step s = .next t →
    t.pow.aonOn = true → 1 ≤ t.pow.epoch ∧ t.pow.epoch ≤ 0xFFFF) ∧
  (∀ (s t : State) c q, s.pending = c :: q → step s = .next t → (∀ dt a b, c ≠ .marchTestDone dt a b) → (∀ dt, c ≠ .alwaysOnColdPowerUp dt) →
    t.pow.epoch = s.pow.epoch ∧ t.pow.aonOn = s.pow.aonOn) ∧
  (∀ n, 1 ≤ n → n ≤ 0xFFFF → nextEpoch n = if n = 0xFFFF then 1 else n + 1) ∧
  (∀ dt s, s.pow.phase = .march → s.pod.badBanks = [] → Answers (exec (.marchTestDone dt true true) s) fun t => t.pow.epoch = nextEpoch s.pow.epoch) ∧
  (∀ s p, s.pow.phase = .march → portPowered s p = false ∧ serving s = false) ∧
  (∀ dt s, s.pow.phase = .off ∨ s.pow.phase = .bulb ∨ s.pow.phase = .bulbWake ∨ s.pow.phase = .thermal →
    Answers (exec (.alwaysOnColdPowerUp dt) s) fun t => 1 ≤ t.pow.epoch ∧ t.pow.epoch ≤ 0xFFFF ∧ bit t.pow.retWord.toNat 16 = false)

/-- R479: LOG_ACK moves the acknowledged pointer to its SEQ. A SEQ later than the last committed one is clamped to it and counted; a SEQ not later than
the pointer changes nothing and its result is 0x01. No record is touched, and the response carries the result, the pointer after the command and the free
slots. -/
def Obligations.LogAckMovesThePointer : Prop :=
  ∀ dt rq t s, Stands s rq 0xF002 t → t.payload.length = 4 →
    Answers (exec (.logAck dt rq) s) fun u =>
      let beyond := later 32 (num t.payload 0 4) s.log.seq
      let q := if beyond then s.log.seq else num t.payload 0 4
      let moves := later 32 q s.log.acked
      u.log.acked = (if moves then q else s.log.acked) ∧ u.log.records = s.log.records ∧
        u.par.clampCount = (if beyond then satN 0xFFFFFFFF (s.par.clampCount + 1) else s.par.clampCount) ∧
        Replied t 0x00 ([if moves then 0 else 1, 0, 0, 0] ++ le 4 u.log.acked ++ le 4 (freeSlots u.log)) s u

/-- R215, Table 07.5: PRT_STATUS answers seven words. Word 0 holds ARMED, LATCHED_ANY, ESTOP, RESET_WINDOW, ACTION_MAX, FIRST and TRIP_COUNT, words 1 and
2 the asserted and the latched sources, word 3 the strings held open and those of the FW_OPEN_STR mask, words 4 to 6 the time stamp and the sample
index of FIRST. -/
def Obligations.HuskStatusWords : Prop :=
  ∀ dt rq t s, Stands s rq 0x9001 t →
    Answers (exec (.prtStatus dt rq) s) fun u => ∃ p : Bytes, Replied t 0x00 p s u ∧ p.length = 28 ∧
      bit (num p 0 4) 31 = s.husk.armed ∧ bit (num p 0 4) 30 = anyLatched s ∧ bit (num p 0 4) 29 = s.husk.estop ∧
      bit (num p 0 4) 28 = s.husk.arm.isSome ∧ bits (num p 0 4) 27 24 = actionMax s % 16 ∧ bits (num p 0 4) 23 16 = s.husk.first % 256 ∧
      bits (num p 0 4) 15 0 = s.husk.tripCount % 65536 ∧
      (∀ src < 32, (bit (num p 4 4) src = s.husk.trips.any fun e => e.1 == src && e.2.asserted) ∧
        (bit (num p 8 4) src = s.husk.trips.any fun e => e.1 == src && e.2.latched)) ∧
      bits (num p 12 4) 31 16 = strOpenWord s % 65536 ∧ bits (num p 12 4) 15 0 = s.husk.fwStr.toNat ∧
      num p 16 8 = s.husk.firstTime % 2 ^ 64 ∧ num p 24 4 = s.husk.firstIdx % 2 ^ 32

/-- R419, R55's check value: the CRC of a message stands little-endian in bytes 14 and 15, over header bytes 0 to 13, then the payload, then the trailer;
the engine gives 0x29B1 over the ASCII bytes "123456789"; and a message as the module builds it passes the reception check of its CRC. -/
def Obligations.MessagesCarryTheirCrc : Prop :=
  (∀ m : OutMsg, (messageBytes m).take 14 = headerBytes m ∧ (headerBytes m).length = 14 ∧ (messageBytes m).drop 16 = m.payload ++ m.trailer ∧
    field (messageBytes m) 14 2 = le 2 (crc16 (headerBytes m ++ (m.payload ++ m.trailer))) ∧
    num (messageBytes m) 14 2 = crc16 (headerBytes m ++ (m.payload ++ m.trailer))) ∧
  crc16 (ascii "123456789") = 0x29B1 ∧
  (∀ m : OutMsg, m.payload.length < 65536 → (m.trailer = [] ∨ m.trailer.length = 8) → crcFits (messageBytes m) = true)

/-- Chapter 14, the events that bring the module up. The always-on domain powered up anew holds a random epoch other than 0
and no retention word. A qualified AUX_IN begins a cold start at the first rail, from the wait for it or within 60 s of a wake.
Each rail after the first is awaited 2 ms after the one before entered its window, and a rail that enters its window is noted, V3P3 arming the Husk and
V0P8 enabling the PLLs. -/
def Obligations.RailsComeUpInOrder : Prop :=
  (∀ dt s, s.pow.phase = .off ∨ s.pow.phase = .bulb ∨ s.pow.phase = .bulbWake ∨ s.pow.phase = .thermal →
    Answers (exec (.alwaysOnColdPowerUp dt) s) fun t =>
      t.pow.aonOn = true ∧ t.pow.aonClock = true ∧ 1 ≤ t.pow.epoch ∧ t.pow.epoch ≤ 0xFFFF ∧ t.pow.retWord = 0 ∧
        t.pow.history = []) ∧
  (∀ dt s, s.pow.aonOn = true →
    (s.pow.phase = .off ∧ s.pow.endReason ≠ 0x22) ∨ (s.pow.phase = .bulbWake ∧ s.phys + dt - s.pow.phaseAt < 60 * secNs) →
    Answers (exec (.auxInQualified dt) s) fun t =>
      t.pow.phase = .rails ∧ t.pow.rails = 0 ∧ t.pow.railWait = 1 ∧ t.pow.railNext = 0 ∧ t.pow.phaseAt = s.phys + dt) ∧
  (∀ dt s, s.pow.railNext ≠ 0 → 2 * msNs ≤ s.phys + dt - s.pow.railAt →
    Answers (exec (.railEnableDelayExpiry dt) s) fun t =>
      t = { advance dt s with pow := { (advance dt s).pow with
        railWait := s.pow.railNext, railNext := 0, railAt := s.phys + dt } }) ∧
  (∀ dt rail s, 1 ≤ rail → rail ≤ 7 → s.pow.railWait = rail →
    Answers (exec (.railInWindow dt rail) s) fun t =>
      t.pow.rails = s.pow.rails ||| BitVec.ofNat 16 (2 ^ (rail - 1)) ∧ t.pow.railWait = 0 ∧
        t.pow.railNext = (if rail = 4 ∨ rail = 7 then 0 else rail + 1) ∧ t.pow.railAt = s.phys + dt ∧
        (rail = 2 → t.husk = { armed := true, chgLine := some (s.phys + dt), disLine := some (s.phys + dt) } ∧
          t.lsw = { s.lsw with clock := true }) ∧
        (rail ≠ 2 → t.husk = s.husk ∧ t.lsw = s.lsw) ∧ t.pow.phase = (if rail = 4 then .pll else s.pow.phase))

/-- Steps 4 to 13 of a start (Table 14.3): the PLLs lock in tolerance and every boot check passes; a reset start begins 10 ms
after its rails are down; the March test enters the firmware, or Cress where the start is a Cress start, and counts the boot
epoch; START_DONE with the rails up brings the module to Normal with an empty failure history; a retry follows 2 s after a
counted failure. -/
def Obligations.StartReachesNormal : Prop :=
  (∀ dt b s, s.pow.phase = .pll → b.bootRomOk = true → b.ctFail = none → (b.digestOk = true ∨ s.pow.kind = .cress) →
    Answers (exec (.pllLock dt true b) s) fun t =>
      t.pow.phase = .march ∧ t.pow.startWd = true ∧ t.tb = { run := true } ∧ t.pod.ctPass = true ∧
        t.pod.shelled = ((modeOf (otpCfg s) b.bootCfg).1 && s.pow.kind != .cress) ∧
        t.pod.modeSrc = (modeOf (otpCfg s) b.bootCfg).2 ∧ t.pod.bootPort = b.bootPort ∧ t.pod.peerHead = b.peerHead) ∧
  (∀ dt b s, s.pow.phase = .resetWait → 10 * msNs ≤ s.phys + dt - s.pow.phaseAt → b.bootRomOk = true → b.ctFail = none →
    b.digestOk = true →
    Answers (exec (.resetStartBegin dt b) s) fun t =>
      t.pow.phase = .march ∧ t.pow.startWd = true ∧ t.tb = { run := true } ∧ t.pow.cress = cressDue (advance dt s)) ∧
  (∀ dt s, s.pow.phase = .march → s.pow.kind ≠ .cress → s.pod.badBanks = [] →
    Answers (exec (.marchTestDone dt true true) s) fun t =>
      t.pow.phase = .late ∧ t.pow.epoch = nextEpoch s.pow.epoch ∧ t.pow.railNext = 5 ∧ t.pow.retRecord = [] ∧
        t.pod.running = true ∧ t.log.records.length = 1) ∧
  (∀ dt ok s, s.pow.phase = .march → s.pow.kind = .cress → 0 ∉ s.pod.badBanks →
    Answers (exec (.marchTestDone dt true ok) s) fun t =>
      t.pow.phase = .cress ∧ t.pow.epoch = nextEpoch s.pow.epoch ∧ t.pow.startWd = false ∧ t.pod.running = true) ∧
  (∀ dt s, s.pow.phase = .late → s.pow.rails &&& 0x7F = 0x7F →
    Answers (exec (.startDone dt) s) fun t =>
      t.pow.phase = .normal ∧ t.pow.history = [] ∧ t.pow.startWd = false ∧ t.pod.wdOff = false ∧
        t.pod.wdKey = []) ∧
  (∀ dt s, s.pow.phase = .retry → 2 * secNs ≤ s.phys + dt - s.pow.phaseAt →
    Answers (exec (.startRetry dt) s) fun t =>
      (s.pow.rails = 0 → s.pow.auxOk = true → t.pow.phase = .rails ∧ t.pow.railWait = 1) ∧
        (s.pow.rails ≠ 0 → t.pow.phase = .resetWait ∧ t.pow.kind = .reset))

/-- R380, R383, R464, R399, R370: the counted failures of a start. A rail not in its window within 5 ms, a rail that fails before START_DONE,
a PLL out of tolerance, a March test that fails or finds a bank declared failed before, and the start watchdog 3 s after the Pod left reset each leave the module waiting for its retry with the
reason in the history and in the retention word; a rail that fails in Normal takes every rail down, and the failure is not
counted. -/
def Obligations.FailedStartsAreCounted : Prop :=
  (∀ dt rail s, s.pow.railWait ≠ 0 → s.pow.railWait = rail → 5 * msNs ≤ s.phys + dt - s.pow.railAt →
    Answers (exec (.railWindowTimeout dt rail) s) (StartFailed 0x10 rail)) ∧
  (∀ dt rail s, s.pow.phase = .rails ∨ s.pow.phase = .pll ∨ s.pow.phase = .march ∨ s.pow.phase = .late → railUp s rail = true →
    Answers (exec (.abortOff dt rail) s) (StartFailed 0x10 rail)) ∧
  (∀ dt b s, s.pow.phase = .pll → Answers (exec (.pllLock dt false b) s) (StartFailed 0x11 0)) ∧
  (∀ dt ok s, s.pow.phase = .march → s.pow.kind ≠ .cress →
    Answers (exec (.marchTestDone dt false ok) s) (StartFailed 0x13 0)) ∧
  (∀ dt sb0 ok s, s.pow.phase = .march → s.pow.kind ≠ .cress → s.pod.badBanks ≠ [] →
    Answers (exec (.marchTestDone dt sb0 ok) s) (StartFailed 0x13 0)) ∧
  (∀ dt s, s.pow.phase = .march ∨ s.pow.phase = .late → s.pow.startWd = true → 3 * secNs ≤ s.phys + dt - s.pow.podAt →
    Answers (exec (.startWatchdogExpiry dt) s) (StartFailed 0x14 0)) ∧
  (∀ dt rail s, s.pow.phase = .normal → railUp s rail = true → s.pow.auxOk = false →
    Answers (exec (.abortOff dt rail) s) fun t =>
      t.pow.phase = .off ∧ t.pow.rails = 0 ∧ t.pow.endReason = 0x10 ∧ t.pow.history = s.pow.history ∧
        bits t.pow.retWord.toNat 15 8 = 0x10 ∧ bits t.pow.retWord.toNat 23 20 = rail % 16)

/-- Table 14.7, R395, R396: a low AUX_IN in Normal begins the power-down sequence with cause 0x01, at step 4 with its trigger's
time and strings kept. Step 4 then opens in turn MP with PCK and PCE, and MN after the stagger; the strings one contactor
after another, KP before KN; and the disconnector's drive. Step 5 writes the retention record, and step 6 takes the rails
down. -/
def Obligations.PowerDownRunsItsSteps : Prop :=
  (∀ dt s, s.pow.phase = .normal →
    Answers (exec (.auxInLow dt) s) fun t =>
      t.pow.phase = .powerDown ∧ t.pow.pdStep = 4 ∧ t.pow.pdSkip4 = false ∧ t.pow.pdCause = 0x01 ∧ t.pow.endReason = 0x21 ∧
        t.pow.auxOk = false ∧ t.pow.pdPhys = s.phys + dt ∧ t.pow.pdTime = (advance dt s).tb.ns ∧
        t.pow.pdStrings = BitVec.ofNat 16 (serviceMask s)) ∧
  (∀ dt s, step4Runs s = true → pdWaitOver (advance dt s) = true → s.pow.pdDue ≤ s.phys + dt →
    Answers (exec (.pdMainOpen dt) s) fun t =>
      (roleActive s 3 0 = true ∨ roleActive s 5 0 = true ∨ roleActive s 6 0 = true → t.pow.pdDue = s.phys + dt + pdStagger t ∧
        t.lsw = (loopsOff [0, 1] (roleOff 6 0 (roleOff 5 0 (roleOff 3 0 (advance dt s))))).lsw) ∧
      (roleActive s 3 0 = false → roleActive s 5 0 = false → roleActive s 6 0 = false → roleActive s 4 0 = true →
        t.pow.pdDue = s.phys + dt + pdStagger t ∧ t.lsw = (roleOff 4 0 (advance dt s)).lsw)) ∧
  (∀ dt j js s, step4Runs s = true → (∀ r ∈ [3, 4, 5, 6], roleActive s r 0 = false) → s.pow.pdDue ≤ s.phys + dt →
    closedStrings s = j :: js →
    Answers (exec (.pdStringOpen dt) s) fun t =>
      t.pow.pdDue = s.phys + dt + pdStagger t / 2 ∧ inService t j = false ∧
        t.lsw = (roleOff (if roleActive s 1 j then 1 else 2) j (advance dt s)).lsw) ∧
  (∀ dt s, step4Runs s = true → contactorsOff s = true →
    Answers (exec (.pdDisconnectorOff dt) s) fun t => t = roleOff 8 0 (roleOff 7 0 (driveOff (advance dt s)))) ∧
  (∀ dt s, s.pow.phase = .powerDown → s.pow.pdStep < 5 → step4Done s = true →
    Answers (exec (.retentionRecordCommit dt true) s) fun t =>
      t.pow.pdStep = 5 ∧ t.pow.retRecord = recordBytes (recordOf s.pow.epoch (nextSeq s.log.seq)
        { newEvent (advance dt s) 0xF002 0 0xFF 0 (ctrBytes s ++ le 8 s.pow.retWord.toNat ++ le 2 s.pow.pdStrings.toNat) with
          time := s.pow.pdTime, last := s.pow.pdTime })) ∧
  (∀ dt s, s.pow.phase = .powerDown ∨ s.pow.phase = .bare → s.pow.pdStep = 5 → s.pow.endReason = 0x21 → s.pow.auxOk = false →
    Answers (exec (.pdRailsDown dt) s) fun t => t.pow.phase = .off ∧ t.pow.rails = 0 ∧ t.pow.pdStep = 6)

/-- R392 to R394, R337, R338, R389, R404: Bulb is entered once the rails are down, a wake whose source is enabled waits 60 s for
AUX_IN, a missing AUX_IN goes back to Bulb and counts; a thermal hard limit begins the power-down with reason 0x20 and the
rails come back after 60 s of both restart conditions; POD_DEAD that has stood 100 ms in a warm restart, or cores held in reset, is a counted restart from Normal with reason 0x16; and a
supply warning follows its threshold with 0.5 V of hysteresis. -/
def Obligations.BulbThermalAndSupervisor : Prop :=
  (∀ dt s, s.pow.phase = .off → s.pow.endReason = 0x22 →
    Answers (exec (.bulbEntry dt) s) fun t => t.pow.phase = .bulb ∧ t.pow.aonClock = false) ∧
  (∀ dt wakeIn s, s.pow.phase = .bulb → bit s.pow.wakeSrc (b2n wakeIn) = true →
    Answers (exec (.wake dt wakeIn) s) fun t =>
      t.pow.phase = .bulbWake ∧ t.pow.aonClock = true ∧ t.pow.phaseAt = s.phys + dt) ∧
  (∀ dt s, s.pow.phase = .bulbWake → 60 * secNs ≤ s.phys + dt - s.pow.phaseAt →
    Answers (exec (.wakeTimeout dt) s) fun t =>
      t.pow.phase = .bulb ∧ t.pow.aonClock = false ∧ t.pow.wakes = satN 255 (s.pow.wakes + 1)) ∧
  (∀ dt a b s, s.pow.phase = .normal → 11800 ≤ a ∨ 15000 ≤ b →
    Answers (exec (.thermalHardLimit dt a b) s) fun t =>
      t.pow.phase = .powerDown ∧ t.pow.pdCause = 0x02 ∧ t.pow.endReason = 0x20 ∧ t.pow.pdStep = 4) ∧
  (∀ dt a b n s, s.pow.phase = .thermal → a ≤ 9500 → b ≤ 12000 → s.pow.restartOk = some n → 60 * secNs ≤ s.phys + dt - n →
    s.pow.auxOk = true →
    Answers (exec (.thermalRestart dt a b) s) fun t => t.pow.phase = .rails ∧ t.pow.railWait = 1) ∧
  (∀ dt s, s.pow.phase = .normal → s.pod.heldReset = true →
    Answers (exec (.supervisorRestart dt) s) fun t =>
      t.pow.phase = .retry ∧ t.pow.endReason = 0x16 ∧ t.pow.retRecord = [] ∧
        (t.pow.history.head?).map (·.reason) = some 0x16) ∧
  (∀ dt s, s.pow.phase = .normal → (tripOf s 21).asserted = true → s.pod.warm = true → 100 * msNs ≤ s.phys + dt - (tripOf s 21).since →
    Answers (exec (.supervisorRestart dt) s) fun t =>
      t.pow.phase = .retry ∧ t.pow.endReason = 0x16 ∧ t.pow.retRecord = [] ∧
        (t.pow.history.head?).map (·.reason) = some 0x16) ∧
  (∀ dt x s, level s = 2 →
    Answers (exec (.auxWarnCrossing dt x) s) fun t =>
      t.pow.auxIn = x ∧ (x < p0 s pPwrAuxWarn → t.pow.auxWarn = true) ∧ (p0 s pPwrAuxWarn + 50 ≤ x → t.pow.auxWarn = false) ∧
        (p0 s pPwrAuxWarn ≤ x → x < p0 s pPwrAuxWarn + 50 → t.pow.auxWarn = s.pow.auxWarn)) ∧
  (∀ dt x s, level s = 2 →
    Answers (exec (.battWarnCrossing dt x) s) fun t =>
      t.pow.battAux = x ∧ (x < p0 s pPwrBattWarn → t.pow.battWarn = true) ∧ (p0 s pPwrBattWarn + 50 ≤ x → t.pow.battWarn = false) ∧
        (p0 s pPwrBattWarn ≤ x → x < p0 s pPwrBattWarn + 50 → t.pow.battWarn = s.pow.battWarn))

/-- R354, R358, R359, R365, Table 13.2: each Pod fault halts both cores and starts a warm restart, which leaves the boot epoch and
the service level as they are, as long as eight have not been made within 60 s. A key in its time and turn serves the watchdog; a
recoverable exception and a passed self-test change nothing. -/
def Obligations.PodFaultsWarmRestart : Prop :=
  (∀ dt g l pc s, podRuns s = true → s.pod.shelled = false → RestartsLeft dt s →
    Answers (exec (.comparatorMismatch dt g l pc none) s) fun t =>
      WarmStarted 1 s t ∧ t.pod.mmGroup = g ∧ t.pod.mmLane = l ∧ t.pod.mmPc = pc ∧ t.pod.mmTime = (advance dt s).tb.ns) ∧
  (∀ dt core key s, podRuns s = true → s.pod.wdOff = false →
    Answers (exec (.watchdogService dt core key none) s) fun t =>
      let i := wdInstance s core
      let age := s.phys + dt - mget 0 s.pod.wdLast i
      let due := mget 0x5AC3 s.pod.wdKey i
      (key = due → wdTime s ≤ 4 * age → age ≤ wdTime s →
        mget 0x5AC3 t.pod.wdKey i = (if due = 0x5AC3 then 0xA53C else 0x5AC3) ∧ mget 0 t.pod.wdLast i = s.phys + dt ∧
          t.pod.warm = s.pod.warm) ∧
      (RestartsLeft dt s → key ≠ due ∨ 4 * age < wdTime s ∨ wdTime s < age →
        WarmStarted 2 s t ∧ t.pod.wdFaults = inc16 s.pod.wdFaults)) ∧
  (∀ dt core s, podRuns s = true → s.pod.wdOff = false → RestartsLeft dt s →
    wdTime s < s.phys + dt - mget 0 s.pod.wdLast (wdInstance s core) →
    Answers (exec (.watchdogFault dt core none) s) fun t => WarmStarted 2 s t ∧ t.pod.wdFaults = inc16 s.pod.wdFaults) ∧
  (∀ dt s, podRuns s = true → RestartsLeft dt s → Answers (exec (.busError dt none) s) (WarmStarted 4 s)) ∧
  (∀ dt s, podRuns s = true → RestartsLeft dt s → s.pow.phase ≠ .late →
    Answers (exec (.firmwareException dt false none) s) (WarmStarted 5 s)) ∧
  (∀ dt s ct, exec (.firmwareException dt true ct) s = .next (advance dt s)) ∧
  (∀ dt core s, podRuns s = true → s.pod.shelled = true → core < 2 → RestartsLeft dt s →
    Answers (exec (.shelledSelfTest dt core false none) s) (WarmStarted 6 s) ∧
    exec (.shelledSelfTest dt core true none) s = .next (advance dt s) ∧
    Answers (exec (.heartbeatMissing dt core none) s) (WarmStarted 6 s))

/-- R221, R358 step 6 on, R368, R369, R371, Table 13.6: POD_DEAD asserts 5 ms after a halt; mailbox service resuming ends the warm
restart and arms the watchdog again, the epoch as it was; a corrected word is counted in its bank; an uncorrectable one is
counted, faults the Pod in SB0, tears the record in SB2 and drops the cell in the estimation memory; the scrubber goes on by one
word and starts again past the last; OTP takes the field's bits without clearing any. -/
def Obligations.PodRecoversAndKeepsMemory : Prop :=
  (∀ dt s, s.pod.warm = true → 5 * msNs ≤ s.phys + dt - s.pod.haltAt → canAssert s 21 = true →
    Answers (exec (.podDeadTimeout dt) s) fun t => (tripOf t 21).asserted = true) ∧
  (∀ dt lostProt lostGroups hwDiffer s, s.pod.warm = true → s.pod.heldReset = false →
    Answers (exec (.mailboxResume dt lostProt lostGroups hwDiffer) s) fun t =>
      t.pod.warm = false ∧ t.pod.wdOff = false ∧ t.pod.wdKey = [] ∧ t.pow.epoch = s.pow.epoch ∧ t.pow.phase = s.pow.phase) ∧
  (∀ dt bank addr s, podRuns s = true → bank < 4 →
    Answers (exec (.eccCorrected dt bank addr) s) fun t =>
      (mget {} t.pod.banks bank).ce = inc16 (mget {} s.pod.banks bank).ce ∧
        mfind (mget {} t.pod.banks bank).corrected addr = some (s.phys + dt)) ∧
  (∀ dt addr acc s, podRuns s = true → RestartsLeft dt s →
    Answers (exec (.eccUncorrectable dt .sb0 addr acc none) s) fun t =>
      (mget {} t.pod.banks 0).ue = inc16 (mget {} s.pod.banks 0).ue ∧ t.pod.lastFault = 3 ∧ t.pod.warm = true) ∧
  (∀ dt addr acc ct s, podRuns s = true →
    Answers (exec (.eccUncorrectable dt .sb1 addr acc ct) s) fun t =>
      (mget {} t.pod.banks 1).ue = inc16 (mget {} s.pod.banks 1).ue ∧ t.pod.warm = s.pod.warm) ∧
  (∀ dt addr acc ct s, podRuns s = true → (mget {} s.pod.banks 2).ueTimes.length < 16 →
    Answers (exec (.eccUncorrectable dt .sb2 addr acc ct) s) fun t =>
      (mget {} t.pod.banks 2).ue = inc16 (mget {} s.pod.banks 2).ue ∧
        t.log.records = s.log.records.map fun r => if (r.seq - 1) % 16384 = addr / 128 then { r with torn := true } else r) ∧
  (∀ dt addr s, podRuns s = true → addr < scrubWords → s.pod.scrubAddr ≤ addr →
    Answers (exec (.scrubPass dt addr) s) fun t =>
      (addr + 1 < scrubWords → t.pod.scrubAddr = addr + 1 ∧ t.pod.scrubDone = s.pod.scrubDone) ∧
        (addr + 1 = scrubWords → t.pod.scrubAddr = 0 ∧ t.pod.scrubDone = s.phys + dt ∧ t.pod.scrubPer = p0 s pPodScrubPeriod)) ∧
  (∀ dt j js s, s.pod.otpJobs = j :: js →
    Answers (exec (.otpProgramDone dt true) s) fun t =>
      t.pod.otpJobs = js ∧ t.pod.otp = otpSet s.pod.otp (otpTarget j.field j.data).1 (otpTarget j.field j.data).2)

/-- R439, R440 and the response tables of the chapters: a status command whose transaction stands entered completes with DONE and the
words of its table, read as they stand when it is served. -/
def Obligations.StatusCommandsReadTheirWords : Prop :=
  Reads .sysInfo 0x0001 (fun t s =>
    uid s ++ le 2 s.pow.epoch
      ++ [BitVec.ofNat 8 (level s), BitVec.ofNat 8 (portCode t.port), BitVec.ofNat 8 t.role, BitVec.ofNat 8 s.hub.position]
      ++ le 2 Config.fwRomVer.toNat ++ le 2 (largest t.port) ++ le 2 0 ++ le 4 (p0 s pSysInstallId)) ∧
  Reads .pwrStatus 0x1001 (fun _ s => words (powerWords s)) ∧
  Reads .podStatus 0x2001 (fun _ s => words (podWords s)) ∧
  Reads .portStatus 0x3004 (fun _ s => words (allPorts.flatMap (portWords s))) ∧
  Reads .chnStatus 0x4003 (fun _ s => words (allRings.map (ringWord s))) ∧
  Reads .metRead 0x6001 (fun _ s =>
    words [s.met.sidx, busCode (vbNow s), busCode (vlNow s), currentCode (iNow s)]
      ++ [s.met.vb.flags, s.met.vl.flags, s.met.cur.flags, 0] ++ (List.range 5).flatMap fun r => le 2 (ageCode s r)) ∧
  Reads .ctrRead 0x6004 (fun _ s =>
    ctrBytes s ++ words [s.met.ctrGap, s.met.ctrLost] ++ [BitVec.ofNat 8 (b2n s.met.baseMiss)]) ∧
  Reads .insRead 0x6005 (fun _ s => le 4 (insReported s) ++ [BitVec.ofNat 8 (insStatus s), 0, 0, 0] ++ le 8 s.met.ins.time) ∧
  Reads .limitsGet 0x7001 (fun _ s => limitsPayload s 0x00 (g2Flags s)) ∧
  Reads .prtStatus 0x9001 (fun _ s => prtWords s) ∧
  Reads .seqStatus 0xA008 (fun _ s => seqWords s) ∧
  Reads .loopStatus 0xC003 (fun t s => words ((setBits 8 (num t.payload 0 1)).flatMap (loopWords s))) ∧
  Reads .thmStatus 0xE001 (fun _ s => thmWords s) ∧
  Reads .timeStatus 0xF006 (fun _ s => timeWords s)

/-- Tables 03.4, 05.6, 09.8, 11.6, 04.9 and R426, R512: the reads that name instances. A start past the last instance is limited to it and the
count reduced to the instances left and to what the port holds; a temperature of a string-sense node, and an input that is
not configured, read 0x8000 (R12, R96); each item carries what is held when it is served. OTP_READ answers the
bytes asked for, the secret reading zero, and refuses a range past the end. -/
def Obligations.RangeReadsAnswerTheirItems : Prop :=
  Reads .cellRead 0x5001 (fun t s =>
    let f := num t.payload 0 2
    let c (i : Nat) := cellOf s (readStart f 9216 + i)
    le 4 (c 0).sidx ++ (List.range (readCount t f (num t.payload 2 2) 9216 4 4)).flatMap fun i => le 2 (c i).volt ++ [(c i).qual, 0]) ∧
  Reads .tempRead 0x5002 (fun t s =>
    let f := num t.payload 0 2
    le 4 (tempOf s (readStart f 4096)).sidx ++ (List.range (readCount t f (num t.payload 2 2) 4096 4 4)).flatMap fun i =>
      let a := readStart f 4096 + i
      if (nodeOf s (nodeOfTemp a)).type = 2 then le 2 0x8000 ++ [1, 0]
      else if pn s pAcqTempCfg a = 0 then le 2 0x8000 ++ [(tempOf s a).qual, 0]
      else le 2 (code 16 (tempOf s a).code) ++ [(tempOf s a).qual, BitVec.ofNat 8 (pn s pAcqTempCfg a)]) ∧
  Reads .stringRead 0x5003 (fun t s =>
    let strs := setBits 16 (num t.payload 0 2)
    le 4 ((strs.head?.map fun j => (strSample s j).sidx).getD 0)
      ++ ((strs.map (stringBytes s)).take ((largest t.port - 4) / 24)).flatten) ∧
  Reads .estRead 0x7002 (fun t s =>
    let lvl := if 2 < num t.payload 0 1 then 0 else num t.payload 0 1
    let total := [9216, 16, 1].getD lvl 1
    let f := num t.payload 2 2
    le 4 s.est.set.sidx ++ (List.range (readCount t f (num t.payload 4 2) total ([60, 72, 64].getD lvl 60) 4)).flatMap fun i =>
      estItem s lvl (readStart f total + i)) ∧
  Reads .loadStatus 0xB004 (fun t s =>
    (((setBits 48 (num t.payload 0 8)).map (loadStatusWords s)).take (largest t.port / 12)).flatten) ∧
  Reads .posStatus 0xD003 (fun t s => words (([0, 1].filter (bit (num t.payload 0 1) ·)).flatMap (posWords s))) ∧
  (∀ dt rq t s, Stands s rq 0x2006 t →
    Answers (exec (.otpRead dt rq) s) fun u =>
      let o := num t.payload 0 4
      let n := min (num t.payload 4 4) (min 256 (largest t.port - 1))
      (o + n ≤ 8192 → Replied t 0x00 (0x00 :: (List.range n).map fun i => otpShown s (o + i)) s u) ∧
        (8192 < o + n → Replied t 0x11 [0x12] s u))

/-- R372 to R375, R392, R401, Tables 13.9, 13.10 and 14.9: BULB_ENTER and RESTART are answered and then begin the power-down without
step 4, or are refused while a contactor is on; in Cress a RESTART makes a reset start. PATCH_WRITE, PATCH_VERIFY, PATCH_APPLY and PATCH_DISCARD keep
the region and its state as the manual says, and OTP_PROGRAM is queued at the sequencer or answered at once. -/
def Obligations.PowerAndPatchCommands : Prop :=
  (∀ dt rq t s, Stands s rq 0x1002 t → s.pow.phase = .normal →
    Answers (exec (.bulbEnter dt rq) s) fun u =>
      let w := atWork dt t s
      (contactorsOff w = true → sequenceRuns s = false → 900 ≤ s.pow.battAux →
        Answered t 0x00 [0x00] s u ∧ u.pow.phase = .powerDown ∧ u.pow.endReason = 0x22 ∧ u.pow.pdSkip4 = true ∧ u.pow.pdStep = 3) ∧
      (contactorsOff w = false → Replied t 0x11 [0x10] s u) ∧
      (contactorsOff w = true → sequenceRuns s = false → s.pow.battAux < 900 → Replied t 0x11 [0x11] s u)) ∧
  (∀ dt rq t s, Stands s rq 0x1003 t →
    Answers (exec (.restart dt rq) s) fun u =>
      (s.pow.phase = .normal → contactorsOff (atWork dt t s) = true →
        Answered t 0x00 [0x00] s u ∧ u.pow.phase = .powerDown ∧ u.pow.endReason = 0x23 ∧ u.pow.pdSkip4 = true) ∧
      (s.pow.phase = .normal → contactorsOff (atWork dt t s) = false → Replied t 0x11 [0x10] s u) ∧
      (s.pow.phase = .cress → u.pow.phase = .resetWait ∧ bits u.pow.retWord.toNat 15 8 = 0x23)) ∧
  (∀ dt rq t s, Stands s rq 0x2002 t → 4 ≤ t.payload.length →
    Answers (exec (.patchWrite dt rq) s) fun u =>
      let o := num t.payload 0 4
      let d := t.payload.drop 4
      (o + d.length ≤ regionSize → Replied t 0x00 [0x00] s u ∧ u.pod.region = cellWrites s.pod.region o d ∧ u.pod.patch = 1 ∧
        u.pod.retained = false) ∧
      (regionSize < o + d.length → Replied t 0x11 [0x12] s u ∧ u.pod = s.pod)) ∧
  (∀ dt rq t s, Stands s rq 0x2003 t →
    Answers (exec (.patchVerify dt rq) s) fun u =>
      ((judgePatch s).1 = 0 → Replied t 0x00 [0x00] s u ∧ u.pod.patch = 2 ∧ u.pod.digest = imageDigest s) ∧
      ((judgePatch s).1 ≠ 0 → Replied t 0x11 [BitVec.ofNat 8 (judgePatch s).1] s u ∧ u.pod.patch ≠ 2)) ∧
  (∀ dt rq t s, Stands s rq 0x2004 t → s.pow.phase = .normal → noService s = true → roleActive s 3 0 = false → roleActive s 4 0 = false →
    Answers (exec (.patchApply dt rq) s) fun u =>
      (s.pod.patch = 2 → Answered t 0x00 [0x00] s u ∧ u.pod.retained = true ∧ u.pow.phase = .powerDown ∧ u.pow.endReason = 0x23) ∧
      (s.pod.patch ≠ 2 → Replied t 0x11 [0x11] s u)) ∧
  (∀ dt rq t s, Stands s rq 0x2005 t →
    Answers (exec (.patchDiscard dt rq) s) fun u =>
      Replied t 0x00 [0x00] s u ∧ u.pod.region = [] ∧ u.pod.patch = 0 ∧ u.pod.retained = false) ∧
  (∀ dt rq t s, Stands s rq 0x2007 t →
    Answers (exec (.otpProgram dt rq) s) fun u =>
      (otpRefusal s (num t.payload 0 1) (t.payload.drop 1) = none →
        u.pod.otpJobs = s.pod.otpJobs ++ [{ field := num t.payload 0 1, data := t.payload.drop 1, port := t.port, tag := t.tag }] ∧
          u.hub.sent = s.hub.sent) ∧
      (∀ c, otpRefusal s (num t.payload 0 1) (t.payload.drop 1) = some c →
        Replied t (if c = 0x01 then 0x00 else 0x11) [BitVec.ofNat 8 c] s u ∧ u.pod.otp = s.pod.otp))

/-- R434, R436: AUTH_BEGIN enters a pending session under the lowest free number with the host's nonce, or refuses it where the secret is
not intact, the port is locked out, or four sessions stand. AUTH_PROVE opens the session under its key where the host's proof fits, and closes
it where it does not. AUTH_END, and an idle time of HOST.SESSION_IDLE_T while the port is up, close the session; the lockout ends after
60 s. -/
def Obligations.SessionsOpenAndClose : Prop :=
  (∀ dt rq t s, Stands s rq 0x3001 t →
    Answers (exec (.authBegin dt rq) s) fun u =>
      (secretSet s = true → lockedOut (atWork dt t s) t.port = false → (portOf s t.port).sessions.length < 4 →
        ∃ k : Session, (portOf u t.port).sessions = (portOf s t.port).sessions ++ [k] ∧ k.opened = false ∧
          k.role = min (min 2 (num t.payload 0 1)) (portRole s t.port) ∧ k.hostN = field t.payload 4 16 ∧ k.lastSeq = none ∧
          k.num = (((List.range 7).map (· + 1)).find? fun n => (portOf s t.port).sessions.all (·.num ≠ n)).getD 1 ∧
          Replied t 0x00 ([BitVec.ofNat 8 k.num, BitVec.ofNat 8 k.role, 0, 0] ++ k.modN) s u) ∧
      (secretSet s = false ∨ lockedOut (atWork dt t s) t.port = true → Replied t 0x11 [] s u) ∧
      (secretSet s = true → lockedOut (atWork dt t s) t.port = false → 4 ≤ (portOf s t.port).sessions.length →
        Replied t 0x40 [] s u ∧ (portOf u t.port).busy = inc16 (portOf s t.port).busy)) ∧
  (∀ dt rq t s k, Stands s rq 0x3002 t → sessionOf s t.port t.session = some k → k.opened = false →
    Answers (exec (.authProve dt rq) s) fun u =>
      (field t.payload 0 32 = proofHost s k →
        Replied t 0x00 (proofModule s k) s u ∧ (portOf u t.port).sessions = (portOf s t.port).sessions.map fun x =>
          if x.num = k.num then { k with opened := true, key := sessionKey s k, used := s.phys + dt } else x) ∧
      (field t.payload 0 32 ≠ proofHost s k →
        Replied t 0x12 [] s u ∧ (portOf u t.port).sessions = (portOf s t.port).sessions.filter (·.num ≠ k.num) ∧
          (portOf u t.port).authFail = inc16 (portOf s t.port).authFail)) ∧
  (∀ dt rq t s, Stands s rq 0x3003 t →
    Answers (exec (.authEnd dt rq) s) fun u =>
      Replied t 0x00 [] s u ∧ (portOf u t.port).sessions = (portOf s t.port).sessions.filter (·.num ≠ t.session)) ∧
  (∀ dt p n k s, sessionOf s p n = some k → (portOf s p).downAt = none → p0 s pHostSessionIdleT * secNs ≤ s.phys + dt - k.used →
    Answers (exec (.sessionIdleTimeout dt p n) s) fun t => (portOf t p).sessions = (portOf s p).sessions.filter (·.num ≠ n)) ∧
  (∀ dt p s, lockedOut (advance dt s) p = false →
    Answers (exec (.authLockoutEnd dt p) s) fun t => (portOf t p).lockAt = none)

/-- R407 to R411, R413, R414: what a port receives. A CAN segment on an identifier of the port updates that identifier's reassembly and counts
what it discards; a message ended is received. A UDP datagram on HOST.UDP_PORT is received, any other datagram is not. An SPI transfer
begins with the status byte, whose OVERRUN and CRCERR it clears; WRITE is received while READY is set and else only sets OVERRUN; READ clocks
out the length and the message that Port S sends next. -/
def Obligations.PortsReceiveAndClockOut : Prop :=
  (∀ dt p ext id seg part s, p = .A ∨ p = .B → portPowered s p = true → canIdFits s p ext id = true →
    Answers (exec (.canSegmentReceive dt p ext false id (seg :: part)) s) fun t =>
      let r := takeSegment (mfind (portOf s p).reasm id) (bit seg.toNat 7) (bits seg.toNat 6 0) part
      let u := modPort p (fun q => { q with
        busOff := false, discard := satN 0xFFFF (q.discard + r.lost)
        reasm := match r.reasm with
          | some x => mput q.reasm id x
          | none => mdel q.reasm id }) (advance dt s)
      (r.whole = none → t = u) ∧ ∀ m, r.whole = some m → t = receiveMessage p 0 m u) ∧
  (∀ dt p ext id data s, exec (.canSegmentReceive dt p ext true id data) s = .next (advance dt s)) ∧
  (∀ dt ip sp dp plain msg s,
    (plain = true ∧ dp = p0 s pHostUdpPort →
      exec (.udpDatagramReceive dt ip sp dp plain msg) s = .next (receiveMessage .E (ip * 65536 + sp) msg (advance dt s))) ∧
    (plain = false ∨ dp ≠ p0 s pHostUdpPort → exec (.udpDatagramReceive dt ip sp dp plain msg) s = .next (advance dt s))) ∧
  (∀ dt s, portPowered s .S = true →
    Answers (exec (.spiStatus dt) s) fun t =>
      t.hub.spiMiso = [spiStatusByte (advance dt s)] ∧ t.hub.spiOver = false ∧ t.hub.spiCrc = false) ∧
  (∀ dt len data s, portPowered s .S = true →
    Answers (exec (.spiWrite dt len data) s) fun t =>
      (s.phys + dt < s.hub.spiFree → t.hub.spiOver = true ∧ t.hub.txns = s.hub.txns ∧ t.hub.spiFree = s.hub.spiFree) ∧
      (s.hub.spiFree ≤ s.phys + dt → len = data.length → ∃ v, t = receiveMessage .S 0 data v ∧ v.hub.txns = s.hub.txns ∧
        v.hub.spiMiso.length = 3 + data.length ∧ v.hub.spiOver = false ∧ v.hub.spiCrc = !crcFits data ∧
        s.phys + dt ≤ v.hub.spiFree ∧ v.hub.spiFree ≤ s.phys + dt + 20000) ∧
      (s.hub.spiFree ≤ s.phys + dt → len ≠ data.length →
        (portOf t .S).crcErr = inc16 (portOf s .S).crcErr ∧ t.hub.spiCrc = true ∧ t.hub.txns = s.hub.txns)) ∧
  (∀ dt n s, portPowered s .S = true →
    Answers (exec (.spiRead dt n) s) fun t =>
      let m := match (spiPick s.hub).spiCur with
        | some m => messageBytes m
        | none => []
      t.hub.spiMiso = spiStatusByte (advance dt s) :: field (le 2 m.length ++ m) 0 n ∧
        (m.length + 2 ≤ n → t.hub.spiCur = none) ∧ (n < m.length + 2 → t.hub.spiCur = (spiPick s.hub).spiCur))

/-- R405, R407, R411, R412, R436, R438: what the links and their loss do. An echo request and an ARP request for the module's own address are
answered, a lease timer and a PTP delay request send their frames on a powered Port E; a link change moves the idle count of the sessions; bus-off is
marked; a failed port is marked and its idle count stops; a port that recovers (Port P with a position) sends the completions held for it, TC0 first, then in order of tag. -/
def Obligations.LinksAnswerFailAndRecover : Prop :=
  (∀ dt ip data s, portPowered s .E = true →
    Answers (exec (.icmpEchoRequest dt ip data) s) fun t => t.hub = { s.hub with eth := s.hub.eth ++ [.echoReply ip data] }) ∧
  (∀ dt target ip mac s, portPowered s .E = true →
    Answers (exec (.arpRequest dt target ip mac) s) fun t =>
      t.hub = if target = ownIp s then { s.hub with eth := s.hub.eth ++ [.arpReply (ownIp s) ip mac] } else s.hub) ∧
  (∀ dt rebinding s, portPowered s .E = true → p0 s pHostIpMode = 1 →
    Answers (exec (.dhcpLeaseTimer dt rebinding) s) fun t => t.hub = { s.hub with eth := s.hub.eth ++ [.dhcpRequest rebinding] }) ∧
  (∀ dt s, portPowered s .E = true → p0 s pHostPtpEnable = 1 →
    Answers (exec (.ptpDelayRequest dt) s) fun t => t.hub = { s.hub with eth := s.hub.eth ++ [.delayReq (advance dt s).tb.ns] }) ∧
  (∀ dt s, Answers (exec (.ethernetLinkChange dt false) s) fun t =>
      t.hub.linkUp = false ∧ (portOf t .E).downAt = some ((portOf s .E).downAt.getD (s.phys + dt))) ∧
  (∀ dt s, Answers (exec (.ethernetLinkChange dt true) s) fun t =>
      t.hub.linkUp = true ∧ ((portOf s .E).failed = false → (portOf t .E).downAt = none) ∧
        ((portOf s .E).failed = true → portOf t .E = portOf s .E)) ∧
  (∀ dt p s, p = .A ∨ p = .B → portPowered s p = true →
    Answers (exec (.canBusOff dt p) s) fun t => portOf t p = { portOf s p with busOff := true }) ∧
  (∀ dt p s, portPowered s p = true →
    Answers (exec (.portFailure dt p) s) fun t =>
      (portOf t p).failed = true ∧ (portOf t p).downAt = some ((portOf s p).downAt.getD (s.phys + dt))) ∧
  (∀ dt p s, (portOf s p).failed = true → p ≠ .S → portPowered s p = true → noOrigin s p = false → (∀ m ∈ (portOf s p).held, m.port = p) →
    Answers (exec (.portRecovery dt p) s) fun t =>
      (portOf t p).failed = false ∧ (portOf t p).held = [] ∧ (portOf t p).downAt = none ∧
        t.hub.sent = s.hub.sent ++ (sortBy (·.tag) ((portOf s p).held.filter (·.tc = 0))
          ++ sortBy (·.tag) ((portOf s p).held.filter (·.tc ≠ 0))))

/-- R415 to R417, R430: the site ring and the LIMITS notices. A frame from this module's own position is removed, one addressed to it is
received, every other one passed on. RING_ASSIGN gives a member the value + 1 on PEER_DN's side and the value − 1 on PEER_UP's, within 1 to 31 and
not taken, and goes on with it; the head ends its own run with it; a notice that has not come round within 10 ms leaves on PEER_UP with 32; a module
still unassigned 2 s after START_DONE reports RING_NO_HEAD. LIMITS leaves on every enabled port with the counter of the port, every HOST.LIMIT_PERIOD,
and every 100 ms while it holds zeros. -/
def Obligations.SiteRingAndLimits : Prop :=
  (∀ dt link msg s, portPowered s .P = true →
    Answers (exec (.siteRingFrame dt link msg) s) fun t =>
      let assign := bits (num msg 0 1) 3 0 = 2 ∧ (messageOp msg = 0x3020 ∨ messageOp msg = 0xF010)
      let u := withHub (advance dt s) fun h => { h with heard := mput h.heard (num msg 12 1) (s.phys + dt) }
      (¬ assign → s.hub.position ≠ 0xFF → num msg 12 1 = s.hub.position → t = u) ∧
      (¬ assign → s.hub.position ≠ 0xFF → num msg 12 1 ≠ s.hub.position → num msg 11 1 = s.hub.position →
        t = receiveMessage .P 0 msg u) ∧
      (¬ assign → s.hub.position ≠ 0xFF → num msg 12 1 ≠ s.hub.position → num msg 11 1 ≠ s.hub.position →
        t.hub.site = s.hub.site ++ [.msg (otherLink link) msg]) ∧
      (¬ assign → s.hub.position = 0xFF → t.hub.site = s.hub.site ++ [.msg (otherLink link) msg])) ∧
  (∀ dt link v side run src s, portPowered s .P = true → s.pod.peerHead = false → ¬ (s.hub.assigned = true ∧ s.hub.run = run) →
    Answers (exec (.ringAssignReceive dt link v side run src) s) fun t =>
      (side = 0 → v ≤ 30 → t.hub.position = v + 1 ∧ t.hub.run = run ∧ t.hub.assigned = true ∧
        t.hub.site = s.hub.site ++ [.assign (otherLink link) (v + 1) side run]) ∧
      (side ≠ 0 → 2 ≤ v → v ≤ 32 → positionTaken (advance dt s) side (v - 1) = false → t.hub.position = v - 1 ∧ t.hub.run = run ∧ t.hub.assigned = true ∧
        t.hub.site = s.hub.site ++ [.assign (otherLink link) (v - 1) side run]) ∧
      (side = 0 ∧ 31 ≤ v ∨ side ≠ 0 ∧ v < 2 ∨ side ≠ 0 ∧ 32 < v ∨ side ≠ 0 ∧ positionTaken (advance dt s) side (v - 1) = true →
        t.hub.position = 0xFF ∧ t.hub.assigned = true ∧
        t.hub.site = s.hub.site ++ [.assign (otherLink link) v side run])) ∧
  (∀ dt link v side run src s, portPowered s .P = true →
    (s.pod.peerHead = false → s.hub.assigned = true → s.hub.run = run → s.hub.position ≠ 0xFF →
      exec (.ringAssignReceive dt link v side run src) s = .next (sendSite (.assign (otherLink link) v side run) (advance dt s))) ∧
    (s.pod.peerHead = true → exec (.ringAssignReceive dt link v side run src) s = .next (headMeets run (advance dt s)))) ∧
  (∀ dt s, s.pod.peerHead = true → s.hub.assigning = true → 10 * msNs ≤ s.phys + dt - s.hub.assignAt → s.hub.txns = [] →
    Answers (exec (.ringAssignTimeout dt) s) fun t =>
      t.hub.assigning = false ∧ t.hub.site = s.hub.site ++ [.assign .up 32 1 s.hub.run]) ∧
  (∀ dt s, portPowered s .P = true → s.pow.phase = .normal → s.hub.assigned = false → 2 * secNs ≤ s.phys + dt - s.pow.phaseAt →
    exec (.ringNoHead dt) s = .next (post .ringNoHead 0xFF 0 [] (advance dt s))) ∧
  (∀ dt s, podUp s = true → dueAfter (advance dt s) (p0 s pHostLimitPeriod * 10 * msNs) s.hub.limAt = true →
    exec (.limitsPeriodic dt) s = .next (sendLimits 0x00 1 (zeroFlags s) (withHub (advance dt s) fun h => { h with limAt := some (s.phys + dt) }))) ∧
  (∀ dt s, podUp s = true ∨ s.pow.phase = .powerDown → zeroFlags s ≠ 0 → dueAfter (advance dt s) (100 * msNs) s.hub.zeroAt = true →
    exec (.limitsZeroRepeat dt) s = .next (sendLimits 0x03 0 (zeroFlags s) (advance dt s))) ∧
  (∀ reason tc flags s p, noticeGoes s p = true → p ≠ .S → ∃ m,
    (limitsOn reason tc flags s p).hub.sent = s.hub.sent ++ [m] ∧ m.kind = 2 ∧ m.port = p ∧ m.tc = tc ∧ m.opcode = 0x7010 ∧
      m.status = 0 ∧ m.epoch = s.pow.epoch ∧ m.payload = limitsPayload s reason flags ∧
      m.tag = ((portOf s p).notices + 1) % 1024 ∧ (portOf (limitsOn reason tc flags s p) p).notices = m.tag ∧
      (portOf (limitsOn reason tc flags s p) p).lastLim = some (blockLimits s))

/-- R466 to R470: the discipline of the timebase. A first PTP offset that completes the run of sixteen steps the counter by it, counts the
step and locks; in lock a small offset only sets the addend through the servo, within LOG.SLEW_MAX. The head of the ring sends SYNC on both links under the
next number every LOG.SYNC_PERIOD; a delay request is answered with both stamps, and its answer ends the exchange it names. Losing the source, the ring's after LOG.SYNC_LOSS_N periods without SYNC, leaves holdover,
and a holdover longer than LOG.HOLDOVER_T is marked. -/
def Obligations.TimebaseIsDisciplined : Prop :=
  (∀ dt msg s, podUp s = true → portPowered s .E = true → p0 s pHostPtpEnable = 1 → msg.domain = p0 s pHostPtpDomain →
    p0 s pLogTimeSrc = 1 → s.tb.tai = false →
    s.tb.ptpGood = 15 → (msg.offset - s.tb.ptpRef).natAbs ≤ p0 s pLogLockThresh →
    Answers (exec (.ptpMessageReceive dt msg) s) fun t =>
      t.tb.ns = (((advance dt s).tb.ns : Int) + msg.offset).toNat % 2 ^ 64 ∧ t.tb.tai = true ∧ t.tb.state = .locked ∧ t.tb.source = 1 ∧
        t.tb.steps = inc16 s.tb.steps ∧ t.tb.offset = msg.offset ∧ t.tb.master = msg.clockId ∧ t.tb.path = msg.path) ∧
  (∀ dt msg s, podUp s = true → portPowered s .E = true → p0 s pHostPtpEnable = 1 → msg.domain = p0 s pHostPtpDomain →
    p0 s pLogTimeSrc = 1 → s.tb.tai = true →
    s.tb.ptpGood = 16 → msg.offset.natAbs ≤ p0 s pLogLockThresh → msg.offset.natAbs ≤ p0 s pLogStepThresh * 1000 →
    Answers (exec (.ptpMessageReceive dt msg) s) fun t =>
      t.tb.ns = (advance dt s).tb.ns ∧ t.tb.state = .locked ∧ t.tb.source = 1 ∧ t.tb.steps = s.tb.steps ∧ t.tb.offset = msg.offset ∧
        t.tb.rate = clampI (-((p0 s pLogSlewMax * 1000 : Nat) : Int)) (p0 s pLogSlewMax * 1000 : Nat) (Config.servoRate s.tb.integ msg.offset)) ∧
  (∀ dt s, onRing s = true → s.pod.peerHead = true → s.hub.position = 0 → s.tb.tai = true →
    dueAfter (advance dt s) (p0 s pLogSyncPeriod * msNs) s.tb.sendAt = true →
    Answers (exec (.syncSend dt) s) fun t =>
      let m : SyncMsg := { kind := 0, quality := quality (advance dt s), number := (s.tb.sendNum + 1) % 65536, origin := (advance dt s).tb.ns
                           correction := 0 }
      t.hub.site = s.hub.site ++ [.sync .dn m, .sync .up m] ∧ t.tb.sendNum = (s.tb.sendNum + 1) % 65536 ∧
        t.tb.sendAt = some (s.phys + dt)) ∧
  (∀ dt link m r s, podUp s = true → portPowered s .P = true → m.kind = 0 → s.tb.syncNum ≠ some m.number → s.hub.position = 0xFF →
    Answers (exec (.syncReceive dt link m r) s) fun t =>
      t.hub.site = s.hub.site ++ [.sync (otherLink link) { m with correction := m.correction + r + linkDelay s }] ∧
        t.tb.syncNum = some m.number) ∧
  (∀ dt link m r s, onRing s = true → m.kind = 1 →
    Answers (exec (.syncReceive dt link m r) s) fun t =>
      t.hub.site = s.hub.site ++ [.sync link { m with kind := 2, origin := (advance dt s).tb.ns, correction := ((advance dt s).tb.ns + r : Nat) }]) ∧
  (∀ dt link m r t1 s, podUp s = true → portPowered s .P = true → m.kind = 2 → s.tb.xchT1 = some t1 → m.number = s.tb.xchNum →
    Answers (exec (.syncReceive dt link m r) s) fun t =>
      t.tb.xchT1 = none ∧
        t.tb.delays = ((divRound (((advance dt s).tb.ns : Int) - t1 - (m.correction - m.origin)) 2).toNat :: s.tb.delays).take 16) ∧
  (∀ dt s, onRing s = true → dueAfter (advance dt s) (p0 s pLogRingDlyPeriod * secNs) s.tb.xchAt = true →
    Answers (exec (.ringDelayExchange dt) s) fun t =>
      t.tb.xchNum = (s.tb.xchNum + 1) % 65536 ∧ t.tb.xchT1 = some (advance dt s).tb.ns ∧ t.hub.site.length = s.hub.site.length + 1) ∧
  (∀ dt s, podUp s = true → s.tb.source ≠ 0 →
    s.tb.source ≠ 2 ∨ dueAfter (advance dt s) (p0 s pLogSyncLossN * p0 s pLogSyncPeriod * msNs) s.tb.syncAt = true →
    Answers (exec (.timeSourceLoss dt) s) fun t =>
      t.tb.source = 0 ∧ t.tb.state = (if s.tb.tai then .holdover else .free) ∧ t.tb.rate = s.tb.rate ∧
        t.tb.holdAt = (if s.tb.tai then some (s.tb.holdAt.getD (s.phys + dt)) else none)) ∧
  (∀ dt h s, s.tb.state = .holdover → s.tb.holdAt = some h → p0 s pLogHoldoverT * secNs ≤ s.phys + dt - h →
    Answers (exec (.holdoverExpiry dt) s) fun t => t.tb.state = .beyond)

/-- R145, R311, R475 to R484: the ledger and the buffers. The drain commits the oldest class-0 entry first, under the next SEQ, where a slot takes it.
LOG_READ answers the records from the requested SEQ on, or the catalogue; LOG_ACK moves the pointer forward, never past the newest record. A
frozen buffer is read out word by word from an offset within it and released; an armed one that a trigger of an enabled source reaches keeps its pre-trigger part and
fills. -/
def Obligations.LedgerAndBuffers : Prop :=
  (∀ dt s e l, serving s = true → s.log.fifo.find? (·.cls = 0) = some e →
    makeRoom (p0 s pLogPolicy == 1) (p0 s pLogHoldReserve) 0 (e.type == 0xF001) s.log = some l →
    Answers (exec (.ledgerDrain dt) s) fun t =>
      t.log.records = l.records ++ [recordOf s.pow.epoch (nextSeq l.seq) e] ∧ t.log.seq = nextSeq l.seq) ∧
  (∀ dt s e r l, serving s = true → s.log.fifo = e :: r → s.log.fifo.find? (·.cls = 0) = none → s.log.dropAt = none →
    makeRoom (p0 s pLogPolicy == 1) (p0 s pLogHoldReserve) e.cls (e.type == 0xF001) s.log = some l →
    Answers (exec (.ledgerDrain dt) s) fun t =>
      t.log.records = l.records ++ [recordOf s.pow.epoch (nextSeq l.seq) e] ∧ t.log.seq = nextSeq l.seq) ∧
  (∀ dt rq t s, Stands s rq 0xF001 t →
    Answers (exec (.logRead dt rq) s) fun u =>
      (num t.payload 0 1 = 0 →
        let rs := (recordsFrom s.log (num t.payload 4 4)).take (min ((largest t.port - 16) / 128) (num t.payload 2 2))
        Replied t 0x00 (logHead s rs.length (rs.any (·.torn)) ++ rs.flatMap recordBytes) s u) ∧
      (num t.payload 0 1 = 1 →
        let n := catalogue.length
        let ts := (catalogue.drop (readStart (num t.payload 4 4) n)).take (readCount t (num t.payload 4 4) (num t.payload 2 2) n 20 16)
        Replied t 0x00 (logHead s ts.length false ++ ts.flatten) s u) ∧
      (2 ≤ num t.payload 0 1 → Replied t 0x00 (logHead s 0 false) s u)) ∧
  (∀ dt rq t s, Stands s rq 0xF002 t → later 32 (num t.payload 0 4) s.log.seq = false →
    Answers (exec (.logAck dt rq) s) fun u =>
      (later 32 (num t.payload 0 4) s.log.acked = true → u.log.acked = num t.payload 0 4 ∧
        Replied t 0x00 ([0, 0, 0, 0] ++ le 4 (num t.payload 0 4) ++ le 4 (freeSlots u.log)) s u) ∧
      (later 32 (num t.payload 0 4) s.log.acked = false → u.log = s.log ∧
        Replied t 0x00 ([1, 0, 0, 0] ++ le 4 s.log.acked ++ le 4 (freeSlots s.log)) s u)) ∧
  (∀ dt rq t s, Stands s rq 0xF003 t → num t.payload 0 1 = 0 →
    Answers (exec (.captureRead dt rq) s) fun u =>
      (s.met.cap.state = .frozen → (num t.payload 8 4 = 0 ∨ num t.payload 8 4 = s.met.cap.freeze) →
        let ws := captureWords s.met.cap
        let out := (ws.drop (readStart (num t.payload 4 4) ws.length)).take
          (readCount t (num t.payload 4 4) (num t.payload 2 2) ws.length 4 8)
        Replied t 0x00 ([3, 0, 0, 0] ++ le 4 s.met.cap.freeze ++ words out) s u) ∧
      (s.met.cap.state ≠ .frozen →
        Replied t 0x11 ([BitVec.ofNat 8 (bufCode s.met.cap.state), 0x10, 0, 0] ++ le 4 s.met.cap.freeze) s u ∧ u.met = s.met)) ∧
  (∀ dt rq t s, Stands s rq 0xF004 t → 1 ≤ num t.payload 0 1 →
    Answers (exec (.traceRead dt rq) s) fun u =>
      let b : Trace := mget {} s.ctl.traces (min 4 (num t.payload 0 1) - 1)
      (b.state = .frozen → (num t.payload 8 4 = 0 ∨ num t.payload 8 4 = b.freeze) →
        let ws := traceWords b
        let out := (ws.drop (readStart (num t.payload 4 4) ws.length)).take
          (readCount t (num t.payload 4 4) (num t.payload 2 2) ws.length 4 8)
        Replied t 0x00 ([3, 0, 0, 0] ++ le 4 b.freeze ++ words out) s u) ∧
      (b.state ≠ .frozen → Replied t 0x11 ([BitVec.ofNat 8 (bufCode b.state), 0x10, 0, 0] ++ le 4 b.freeze) s u)) ∧
  (∀ dt rq t s, Stands s rq 0xF005 t → num t.payload 0 1 = 1 → num t.payload 1 1 = 0 →
    Answers (exec (.bufferRelease dt rq) s) fun u =>
      (s.met.cap.state = .frozen → Replied t 0x00 [0x00, 0xFF, 0xFF, 0xFF, 0xFF] s u ∧ u.met.cap.state = .idle ∧ u.met.cap.data = []) ∧
      (s.met.cap.state ≠ .frozen → Replied t 0x00 [0x01, 0xFF, 0xFF, 0xFF, 0xFF] s u ∧ u.met = s.met)) ∧
  (∀ dt rq t s, Stands s rq 0xC004 t → num t.payload 0 1 = 1 →
    Answers (exec (.traceArm dt rq) s) fun u =>
      Replied t 0x00 [] s u ∧
        let b : Trace := mget {} u.ctl.traces 0
        b.state = .armed ∧ b.data = [] ∧ b.loop = bits (pn s pCtlTraceCfg 0) 18 16 ∧ b.trig = pn s pCtlTraceTrig 0 ∧
          b.preN = 8192 * pn s pCtlTracePre 0 / 100) ∧
  (∀ dt rq t s, Stands s rq 0x6003 t → bit (p0 s pMetCapTrig) 0 = true → s.met.cap.state = .armed →
    Answers (exec (.capTrigger dt rq) s) fun u =>
      Replied t 0x00 [] s u ∧ u.met.cap.state = .filling ∧ u.met.cap.source = 0 ∧ u.met.cap.trigIdx = s.met.sidx) ∧
  (∀ dt src arrival s, bit (p0 s pMetCapTrig) src = true → s.met.cap.state = .armed →
    Answers (exec (.captureTrigger dt src arrival) s) fun u =>
      u.met.cap.state = .filling ∧ u.met.cap.source = src ∧ u.met.cap.arrival = arrival ∧ u.met.cap.trigIdx = s.met.sidx ∧
        u.met.cap.data = s.met.cap.data.take (s.met.cap.pre + 1)) ∧
  (∀ dt s, s.met.cap.state = .filling → s.met.cap.post = 0 →
    Answers (exec (.captureFreeze dt) s) fun u =>
      u.met.cap.state = .frozen ∧ u.met.cap.freeze = u.xfer.freezes ∧ u.met.cap.readOut = [] ∧ u.met.cap.data = s.met.cap.data)

/-- R109 to R146: bus metrology. The start calibration makes the five roles served and the sixth modulator the spare; a step's handover puts the
spare into the role and slews d out, or is abandoned at 256 samples and starts again 200 ms later; a freed modulator in its window becomes the next
spare, one outside it or failed leaves the rotation and the spare takes over its role. The insulation half-periods, the check of protective earth, the ripple
windows and the counters' base follow their rules. -/
def Obligations.MetrologyKeepsItsRoles : Prop :=
  (∀ dt s, sequencing s = true → hvPowered s = true → s.met.ready = false →
    Answers (exec (.hvStartCalDone dt) s) fun t =>
      t.met.ready = true ∧ t.met.serving = s.met.serving ∧ t.met.spare = s.met.spare ∧ t.met.calRole = 0 ∧ t.met.calPhase = .idle ∧
        (∀ n < 6, n ∉ s.met.failed → (n * 8 + (if n = 5 then 0 else n), s.phys + dt) ∈ t.met.calAt) ∧
        ∀ r, r ∈ t.met.unknown ↔ r < 5 ∧ servingOf s.met r = 5 ∧ r ≠ 0) ∧
  (∀ dt s d, s.met.diffMean = some d → 64000 < d.natAbs → s.met.ilOnly = false →
    Answers (exec (.irangeMismatch dt) s) fun t =>
      t.met.ilOnly = true ∧ t.met.recalIH = true ∧ t.met.recalIL = true ∧
        t.log = (post .irangeMismatch 0xFF 0 (le 4 (signedCode d)) (advance dt s)).log) ∧
  (∀ dt s, s.met.ready = true → s.met.calPhase = .idle → s.met.spare.isSome = true → s.met.spareOk = true → capHolds s = false →
    Answers (exec (.calStepStart dt) s) fun t => t.met.calPhase = .fill ∧ t.met.calN = 0 ∧ t.met.serving = s.met.serving) ∧
  (∀ dt s n, s.met.calPhase = .overlap → s.met.spare = some n →
    Answers (exec (.handover dt) s) fun t =>
      (64 ≤ s.met.calN → 48 ≤ s.met.pairs →
        t.met.serving = s.met.serving.set s.met.calRole n ∧ t.met.calRole = (s.met.calRole + 1) % 5 ∧ t.met.calPhase = .idle ∧
          t.met.slewD = divRound (s.met.pairSum * 256) (s.met.pairs : Nat) ∧ t.met.slewN = 256 ∧ t.met.slewRole = s.met.calRole ∧
          (servingOf s.met s.met.calRole < 6 → t.met.calMod = some (servingOf s.met s.met.calRole))) ∧
      (256 ≤ s.met.calN → s.met.pairs < 48 →
        t.met.serving = s.met.serving ∧ t.met.calPhase = .abandoned ∧ t.met.abandAt = s.phys + dt)) ∧
  (∀ dt s, s.met.calPhase = .abandoned → 200 * msNs ≤ s.phys + dt - s.met.abandAt → capHolds s = false →
    Answers (exec (.calStepRetry dt) s) fun t => t.met.calPhase = .fill ∧ t.met.calN = 0 ∧ t.met.pairs = 0) ∧
  (∀ dt ok s n, s.met.calMod = some n → capHolds s = false →
    Answers (exec (.modulatorCalDone dt ok) s) fun t =>
      t.met.calMod = none ∧
        (ok = true → t.met.spare = some n ∧ t.met.spareOk = true ∧
          t.met.calAt = mput s.met.calAt (n * 8 + s.met.calRole) (s.phys + dt) ∧ t.met.failed = s.met.failed) ∧
        (ok = false → t.met.failed = s.met.failed ++ [n] ∧ t.met.spare = s.met.spare)) ∧
  (∀ dt m s r n, m < 6 → m ∉ s.met.failed → sequencing s = true → hvPowered s = true → s.met.spare = some n → n ≠ m → s.met.calMod ≠ some m →
    (List.range 5).find? (fun r => servingOf s.met r == m) = some r →
    Answers (exec (.modulatorFailure dt m) s) fun t =>
      t.met.failed = s.met.failed ++ [m] ∧ t.met.serving = s.met.serving.set r n ∧ t.met.spare = none) ∧
  (∀ dt s, p0 s pMetInsMode ≠ 0 → s.met.ins.length ≠ 0 → s.met.ins.length * secNs ≤ s.phys + dt - s.met.ins.startAt → s.met.ins.tailN ≠ 0 →
    Answers (exec (.insHalfPeriodEnd dt s.met.ins.positive s.met.ins.length s.met.ins.startAt) s) fun t =>
      let mean := divRound s.met.ins.tailSum (s.met.ins.tailN : Nat)
      let moved := (s.met.ins.tailLast - s.met.ins.tailFirst.getD s.met.ins.tailLast).natAbs
      let settled := moved * 100 < settleRef s.met.ins mean
      t.met.ins.startAt = s.phys + dt ∧ t.met.ins.tailN = 0 ∧
      (¬ settled → s.met.ins.length < p0 s pMetInsTmax →
        t.met.ins.length = min (2 * s.met.ins.length) (p0 s pMetInsTmax) ∧ t.met.ins.positive = s.met.ins.positive) ∧
      (¬ settled → p0 s pMetInsTmax ≤ s.met.ins.length →
        t.met.ins.unsettled = true ∧ t.met.ins.length = s.met.ins.length ∧ t.met.ins.positive = !s.met.ins.positive) ∧
      (settled → t.met.ins.length = s.met.ins.length ∧ t.met.ins.positive = !s.met.ins.positive) ∧
      (settled → s.met.ins.positive = true → s.met.ins.viNeg = none → t.met.ins.viPos = some mean ∧ t.met.ins.result = s.met.ins.result)) ∧
  (∀ dt mo s, p0 s pMetPeCheck ≠ 0 → sequencing s = true → hvPowered s = true → (∀ c, s.met.ins.peAt = some c → 60 * secNs ≤ s.phys + dt - c) →
    Answers (exec (.peCheck dt mo) s) fun t =>
      t.met.ins.result = s.met.ins.result ∧
      (100000 < mo → t.met.ins.peFault = true ∧ insReported t = 0xFFFFFFFF) ∧
      (mo ≤ 100000 → t.met.ins.peFault = false ∧ t.log = s.log)) ∧
  (∀ dt src s, sequencing s = true → hvPowered s = true → windowFits s.met = true → src < 2 → bit (p0 s pMetRippleSrc) src = true →
    Answers (exec (.rippleWindowEnd dt (mget {} s.met.ripple 0 : Ripple).winIdx (centreBin s 1)) s) fun t =>
      let o : Ripple := mget {} s.met.ripple src
      let r : Ripple := mget {} t.met.ripple src
      let x := ripplePoints o
      let vb := ripplePoints (mget {} s.met.ripple 0)
      let orders := (List.range 50).map (· + 1)
      let unsync := decide (rippleCode 0 (subSq vb (centreBin s 1)) < p0 s pMetRippleMin * 100)
      r.first = o.winIdx ∧ r.mean = ratRound (x.sum / 6400) ∧ r.rms = rippleCode src ((List.range 2400).map fun k => binSq x (k + 1)).sum ∧
      r.sub = orders.map (fun h => rippleCode src (subSq x (centreBin s h))) ∧
      r.grp = orders.map (fun h => rippleCode src (grpSq x (centreBin s h))) ∧ r.phase = orders.map (ripplePhase s x vb) ∧
      r.flags = BitVec.ofNat 8 (b2n (decide (4 < (o.win.filter (·.isNone)).length)) + 2 * b2n o.winStale + 4 * b2n unsync) ∧
      t.met.ripHold = unsync) ∧
  (∀ dt positive length begun s, ¬ (s.met.ins.positive = positive ∧ s.met.ins.length = length ∧ s.met.ins.startAt = begun) →
    exec (.insHalfPeriodEnd dt positive length begun) s = .next (advance dt s)) ∧
  (∀ dt first cycles s, windowNamed first cycles s = false → exec (.rippleWindowEnd dt first cycles) s = .next (advance dt s)) ∧
  (∀ dt rq t s, Stands s rq 0x6006 t → num t.payload 0 1 < 2 → num t.payload 1 1 = 0 →
    Answers (exec (.rippleRead dt rq) s) fun u =>
      let r : Ripple := mget {} s.met.ripple (num t.payload 0 1)
      (bit r.flags.toNat 0 = false →
        Replied t 0x00 (rippleBytes (num t.payload 0 1) r.first (some r.mean) r.rms r.sub r.grp r.phase) s u) ∧
      (bit r.flags.toNat 0 = true → Replied t 0x00 (rippleBytes (num t.payload 0 1) 0 none 0xFFFFFFFF [] [] []) s u)) ∧
  (∀ dt rq t s, Stands s rq 0x6002 t →
    Answers (exec (.ctrBase dt rq) s) fun u =>
      (s.met.baseMiss = true → s.met.base = none → Replied t 0x00 [] s u ∧
        u.met.base = some (num t.payload 0 8, num t.payload 8 8, signed 64 (num t.payload 16 8))) ∧
      (s.met.baseMiss = false ∨ s.met.base ≠ none → Replied t 0x11 [] s u ∧ u.met = s.met)) ∧
  (∀ dt cv s, sequencing s = true → hvPowered s = true →
    Answers (exec (.samplingInstant dt cv) s) fun t =>
      (s.met.begun = true → s.met.sidx < 0xFFFFFFFF → t.met.sidx = s.met.sidx + 1) ∧
      (s.met.begun = true → s.met.sidx = 0xFFFFFFFF → t.met.sidx = 0 ∧ t.met.sidxEp = (s.met.sidxEp + 1) % 256) ∧
      (s.met.begun = false → t.met.sidx = s.met.sidx ∧ t.met.begun = true) ∧
      t.met.vb = roleSample (advance dt s) cv 0 ∧ t.met.vl = roleSample (advance dt s) cv 1 ∧ t.met.vi = roleSample (advance dt s) cv 4 ∧
      t.met.instAt = s.phys + dt ∧ t.met.instTime = (advance dt s).tb.ns - Config.tickDelay ∧ t.met.selIL = (selectRange s.met (roleSample (advance dt s) cv 2)).1)

/-- R443 to R461: the parameters and their transfers. A written value is first limited by its own entry; a class L value is applied at once, a class S
value stays staged until a COMMIT and counts one staging generation. PARAM_GET answers the value of its view, PARAM_SET the value kept with its
result; COMMIT discards or refuses by mode and generation. An image is assembled at offset 0 and read out by chunks; a written image is received in
order, and a transfer or an image left alone for 60 s is let go. -/
def Obligations.ParametersAreWrittenByClass : Prop :=
  (∀ dt id v r s, podUp s = true → paramRow id = some r → id / 4096 = 15 → r.clamp = .nearest → s.par.held = [] →
    Answers (exec (.registerWrite dt id 0 v) s) fun t =>
      let x := clampI r.lo r.hi (pDecode r v.toNat)
      t.par.applied = putApplied s.par.applied id 0 x ∧ t.par.staged = mdel s.par.staged (pk id 0) ∧
        t.par.clampCount = satN 0xFFFFFFFF (s.par.clampCount + (if r.lo ≤ pDecode r v.toNat ∧ pDecode r v.toNat ≤ r.hi then 0 else 1))) ∧
  (∀ dt id inst v r s, podUp s = true → paramRow id = some r → r.cls = 1 → r.kind ≠ 1 → r.kind ≠ 3 → inst < kindCount r.kind id →
    r.clamp = .nearest → heldNow s id inst = false → s.par.held = [] →
    Answers (exec (.registerWrite dt id inst v) s) fun t =>
      t.par.applied = s.par.applied ∧ t.par.staged = mput s.par.staged (pk id inst) (clampI r.lo r.hi (pDecode r v.toNat)) ∧
        t.par.generation = (if 0xFFFF ≤ s.par.generation then 1 else s.par.generation + 1)) ∧
  (∀ dt rq t s, Stands s rq 0x0002 t → num t.payload 0 1 ≤ 2 → num t.payload 1 1 = 0 →
    t.payload.length = 4 + 4 * num t.payload 2 2 → num t.payload 2 2 ≤ (largest t.port - 4) / 12 →
    Answers (exec (.paramGet dt rq) s) fun u =>
      let item (i : Nat) : Nat × Bytes :=
        let id := num t.payload (4 + 4 * i) 2
        let inst := num t.payload (6 + 4 * i) 2
        let g := getItem s (num t.payload 0 1) id inst
        (g.2, itemReply id inst g.1 g.2 (if g.2 = 0x10 ∨ g.2 = 0x12 then 0 else itemInfo s id inst))
      let rs := (List.range (num t.payload 2 2)).map item
      Replied t (paramStatus (rs.map (·.1))) (le 2 (num t.payload 2 2) ++ le 2 0 ++ (rs.map (·.2)).flatten) s u) ∧
  (∀ dt rq t s, Stands s rq 0x0003 t → t.payload.length = 12 → num t.payload 0 2 = 1 → num t.payload 2 2 = 0 →
    Answers (exec (.paramSet dt rq) s) fun u =>
      let id := num t.payload 4 2
      let inst := num t.payload 6 2
      (∀ r, paramRow id = some r → r.cls = 1 → r.kind ≠ 1 → r.kind ≠ 3 → inst < kindCount r.kind id → r.clamp = .nearest →
        heldNow s id inst = false → s.par.held = [] →
        let x := clampI r.lo r.hi (pDecode r (num t.payload 8 4))
        u.par.staged = mput s.par.staged (pk id inst) x ∧ u.par.applied = s.par.applied ∧
          Replied t 0x00 (le 2 1 ++ le 2 0 ++ itemReply id inst (pCode x) 1 (64 + b2n (isInfo id) * 32 + 16)) s u) ∧
      (paramRow id = none → s.par.held = [] → isInfo id = false →
        u.par = s.par ∧ Replied t 0x11 (le 2 1 ++ le 2 0 ++ itemReply id inst 0 0x10 0) s u)) ∧
  (∀ dt rq t s, Stands s rq 0x0004 t → num t.payload 1 1 = 0 →
    Answers (exec (.paramCommit dt rq) s) fun u =>
      let gen := num t.payload 2 2
      let answer (r n g : Nat) : Bytes := [BitVec.ofNat 8 r, 0] ++ le 2 n ++ le 2 (awaitingH u) ++ le 2 g
      (2 < num t.payload 0 1 → u.par = s.par ∧ Replied t 0x11 (answer 0x14 0 s.par.generation) s u) ∧
      (num t.payload 0 1 ≤ 2 → gen ≠ 0 → gen ≠ s.par.generation → u.par = s.par ∧ Replied t 0x11 (answer 0x13 0 s.par.generation) s u) ∧
      (num t.payload 0 1 = 1 → gen = 0 ∨ gen = s.par.generation → num t.payload 4 2 = 0 →
        let left := s.par.staged.filter (fun e => !bit 0xFFFF (e.1 / 65536 / 4096))
        u.par.applied = s.par.applied ∧ u.par.staged = left ∧
          u.par.generation = (if left = s.par.staged then s.par.generation
            else if 0xFFFF ≤ s.par.generation then 1 else s.par.generation + 1) ∧
          Replied t 0x00 (answer 0 (staged s fun id => bit 0xFFFF (id / 4096)).length u.par.generation) s u)) ∧
  (∀ dt id inst s, inNormal s = true → (mfind s.par.staged (pk id inst)).isSome = true → paramClass id = 2 →
    exec (.paramHApply dt id inst) s = .next (applyIdle [pk id inst] (advance dt s))) ∧
  (∀ dt rq t s, Stands s rq 0x0005 t → 12 ≤ t.payload.length → num t.payload 9 3 = 0 → num t.payload 8 1 ≤ 2 →
    Answers (exec (.paramBulkGet dt rq) s) fun u =>
      (num t.payload 0 4 = 0 → s.xfer.cfgWrite = none → ∃ img, u.xfer.cfgImage = some img ∧
        img.data = assemble (atWork dt t s) (num t.payload 8 1) ∧ img.freeze = (s.xfer.assembly + 1) % 2 ^ 32 ∧
        (num t.payload 4 4 ≤ chunkSize t.port → num t.payload 4 4 ≤ img.data.length →
          Replied t 0x00 (le 4 img.freeze ++ le 4 img.data.length ++ le 4 0 ++ img.data.take (num t.payload 4 4)) s u)) ∧
      (num t.payload 0 4 = 0 → s.xfer.cfgWrite ≠ none → Replied t 0x11 (List.replicate 12 0 ++ [0x83]) s u) ∧
      (num t.payload 0 4 ≠ 0 → s.xfer.cfgImage = none → Replied t 0x11 (List.replicate 12 0 ++ [0x85]) s u)) ∧
  (∀ dt rq t s, Stands s rq 0x0006 t → 12 ≤ t.payload.length → num t.payload 9 3 = 0 → num t.payload 8 1 = 0 →
    Answers (exec (.paramBulkSet dt rq) s) fun u =>
      let d := t.payload.drop 12
      (num t.payload 0 4 = 0 → s.xfer.cfgWrite = none → num t.payload 4 4 ≤ cfgBuffer → d.length < num t.payload 4 4 →
        u.par = s.par ∧ u.xfer.cfgImage = none ∧
        u.xfer.cfgWrite = some { port := t.port, session := t.session, total := num t.payload 4 4, data := d, lastAt := s.phys + dt } ∧
        Replied t 0x00 ([0x80, 0, 0, 0] ++ le 4 d.length ++ le 4 0) s u) ∧
      (∀ x, s.xfer.cfgWrite = some x → x.port ≠ t.port → u.xfer = s.xfer ∧ u.par = s.par ∧
        Replied t 0x11 ([0x83, 0, 0, 0] ++ le 4 x.data.length ++ le 4 0) s u) ∧
      (num t.payload 0 4 ≠ 0 → s.xfer.cfgWrite = none →
        u.xfer = s.xfer ∧ u.par = s.par ∧ Replied t 0x11 ([0x81, 0, 0, 0] ++ le 4 0 ++ le 4 0) s u)) ∧
  (∀ dt rq t s, Stands s rq 0x7003 t → 12 ≤ t.payload.length → num t.payload 9 3 = 0 → num t.payload 8 1 = 0 →
    Answers (exec (.snapRead dt rq) s) fun u =>
      (num t.payload 0 4 = 0 → s.xfer.snapWrite = none → ∃ img, u.xfer.snapImage = some img ∧ img.data = snapBytes (atWork dt t s)) ∧
      (num t.payload 0 4 = 0 → s.xfer.snapWrite ≠ none → Replied t 0x11 (List.replicate 12 0 ++ [0x83]) s u) ∧
      (num t.payload 0 4 ≠ 0 → s.xfer.snapImage = none → Replied t 0x11 (List.replicate 12 0 ++ [0x85]) s u)) ∧
  (∀ dt rq t s, Stands s rq 0x7004 t → 12 ≤ t.payload.length → num t.payload 9 3 = 0 → num t.payload 8 1 = 0 →
    Answers (exec (.snapWrite dt rq) s) fun u =>
      let d := t.payload.drop 12
      num t.payload 0 4 = 0 → s.xfer.snapWrite = none → num t.payload 4 4 ≤ snapBuffer → d.length < num t.payload 4 4 →
        u.est = s.est ∧
        u.xfer.snapWrite = some { port := t.port, session := t.session, total := num t.payload 4 4, data := d, lastAt := s.phys + dt } ∧
        Replied t 0x00 ([0x80, 0, 0, 0] ++ le 4 d.length ++ le 4 0) s u) ∧
  (∀ dt x s, s.xfer.cfgWrite = some x → 60 * secNs ≤ s.phys + dt - x.lastAt →
    Answers (exec (.transferTimeout dt false) s) fun t => t.xfer.cfgWrite = none ∧ t.xfer.snapWrite = s.xfer.snapWrite) ∧
  (∀ dt x s, s.xfer.snapWrite = some x → 60 * secNs ≤ s.phys + dt - x.lastAt →
    Answers (exec (.transferTimeout dt true) s) fun t => t.xfer.snapWrite = none ∧ t.xfer.cfgWrite = s.xfer.cfgWrite) ∧
  (∀ dt x s, s.xfer.cfgImage = some x → 60 * secNs ≤ s.phys + dt - x.lastAt →
    Answers (exec (.imageReleaseTimeout dt false) s) fun t => t.xfer.cfgImage = none ∧ t.xfer.snapImage = s.xfer.snapImage) ∧
  (∀ dt x s, s.xfer.snapImage = some x → 60 * secNs ≤ s.phys + dt - x.lastAt →
    Answers (exec (.imageReleaseTimeout dt true) s) fun t => t.xfer.snapImage = none ∧ t.xfer.cfgImage = s.xfer.cfgImage)

/-- R47, R59 to R61, R74 to R79, R102, R382: the chain rings. A ring is powered and enumerated in its turn; its nodes get the delays they answered with; it is
served once the search ends with the ring closed, and not served when overpopulated or open. Lost carrier or a break notice leaves its two segments, and ten
seconds of clean carrier, or RING_RESTORE, make it one again. RING_ENUMERATE, RING_RESTORE and BLEED_HOLD answer by ring. -/
def Obligations.RingsAreEnumeratedAndWrapped : Prop :=
  (∀ r run s, s.par.staged = [] →
    let t := enumerate r run s
    let tries := p0 s pChnRetryMax
    let nodes := (List.range 64).zip run.nodes
    (ringAt t r).found = run.nodes.length ∧
    ((∃ e ∈ nodes, tries < e.2.asgMiss) → (ringAt t r).service = .notServed) ∧
    ((∀ e ∈ nodes, e.2.asgMiss ≤ tries) →
      (run.more = true ∨ 64 < run.nodes.length → (ringAt t r).service = .notServed ∧ (ringAt t r).overpop = true) ∧
      (run.more = false → run.nodes.length ≤ 64 → run.closed = false → (ringAt t r).service = .enumerating) ∧
      (run.more = false → run.nodes.length ≤ 64 → run.closed = true → (∃ e ∈ nodes, tries < e.2.dlyMiss) →
        (ringAt t r).service = .notServed ∧ (ringAt t r).overpop = false) ∧
      (run.more = false → run.nodes.length ≤ 64 → run.closed = true → (∀ e ∈ nodes, e.2.dlyMiss ≤ tries) →
        (ringAt t r).service = .served ∧
        (ringAt t r).misPop = (pn s pChnExpectNodes r != 0 && pn s pChnExpectNodes r != run.nodes.length) ∧
        (ringAt t r).noApt = ((ringNodes t r).any fun a => shortWait (nodeOf t a).dA (nodeOf t a).dB) ∧
        ∀ i f, run.nodes[i]? = some f → nodeOf t (r * 64 + i) = newNode (p0 s pChnDlyCheckTol) tries run.tAB f))) ∧
  (∀ dt r run s, s.pow.phase = .late ∨ s.pow.phase = .normal → (unpoweredRings s).head? = some r → ringPowerDue (advance dt s) = true →
    exec (.ringPowerUp dt r run) s =
      .next (enumerate r run { advance dt s with pow := { (advance dt s).pow with
        rails := s.pow.rails ||| BitVec.ofNat 16 (2 ^ (7 + r)), railAt := s.phys + dt } })) ∧
  (∀ dt r run s, sequencing s = true → (ringAt s r).service = .notServed → passed (advance dt s) (ringAt s r).lostAt (500 * msNs) = true →
    exec (.ringServiceLoss dt r run) s = .next (enumerate r run (advance dt s))) ∧
  (∀ dt r s, (ringAt s r).service = .enumerating →
    Answers (exec (.enumerationReplyTimeout dt r true) s) fun t =>
      (ringAt t r).service = .notServed ∧ (ringAt t r).openRing = true ∧ (ringAt t r).lostAt = some (s.phys + dt)) ∧
  (∀ dt r s, (ringAt s r).service = .enumerating → exec (.enumerationReplyTimeout dt r false) s = .next (advance dt s)) ∧
  (∀ dt r e s, r < 8 → bit (p0 s pChnRingEnable) r = true →
    Answers (exec (.alarmToneDetect dt r e) s) fun t =>
      (ringAt t r).tone = true ∧ (canAssert (modRing r (fun g => { g with tone := true }) (advance dt s)) 4 = true → (tripOf t 4).asserted = true)) ∧
  (∀ dt r s, ringServed s r = true → 0 < (ringAt s r).found → (ringAt s r).cutA = none → (ringAt s r).cutB = none →
    Answers (exec (.carrierLoss dt r .endA) s) (fun t => (ringAt t r).service = .wrapped ∧ (ringAt t r).cutA = some 0 ∧ (ringAt t r).cutB = some 0) ∧
    Answers (exec (.carrierLoss dt r .endB) s) (fun t => (ringAt t r).service = .wrapped ∧
      (ringAt t r).cutA = some (ringAt s r).found ∧ (ringAt t r).cutB = some (ringAt s r).found)) ∧
  (∀ dt r e h lostB s, ringServed s r = true → 0 < (ringAt s r).found → (ringAt s r).cutA = none → (ringAt s r).cutB = none →
    Answers (exec (.breakNoticeReceive dt r e h lostB) s) fun t => (ringAt t r).service = .wrapped ∧
      (ringAt t r).cutA = (if lostB then some (h + 1) else none) ∧ (ringAt t r).cutB = (if lostB then none else some h)) ∧
  (∀ dt r e h lostB s, (ringAt s r).service = .enumerating →
    Answers (exec (.breakNoticeReceive dt r e h lostB) s) fun t => (ringAt t r).service = .notServed) ∧
  (∀ dt r s, (ringAt s r).service = .wrapped →
    Answers (exec (.carrierReturn dt r) s) fun t => (ringAt t r).cleanAt = some (s.phys + dt) ∧ (ringAt t r).service = .wrapped) ∧
  (∀ dt r s, (ringAt s r).service = .wrapped → p0 s pChnWrapRestore = 1 → passed (advance dt s) (ringAt s r).cleanAt (10 * secNs) = true →
    Answers (exec (.wrapRestore dt r) s) fun t =>
      (s.chn.cellNow = true ∨ slotEnd < cycleNs (advance dt s) → (ringAt t r).restoreDue = true ∧ (ringAt t r).service = .wrapped) ∧
      (s.chn.cellNow = false → cycleNs (advance dt s) ≤ slotEnd → t = clearLoops r (advance dt s))) ∧
  (∀ r s, let g := ringAt s r
    let hops := (if 0 < g.endsA ∧ g.endsA ≤ g.found then [g.endsA - 1] else []) ++ (if g.startsB < g.found then [g.startsB] else [])
    hops ≠ [] → (ringAt (clearLoops r s) r).clearing = hops ∧ (ringAt (clearLoops r s) r).restoreDue = false ∧
      (ringAt (clearLoops r s) r).service = g.service) ∧
  (∀ a s, (ringAt s (ringOf a)).clearing = [hopOf a] →
    let t := loopCleared a s
    (ringAt t (ringOf a)).service = .served ∧ (ringAt t (ringOf a)).cutA = none ∧ (ringAt t (ringOf a)).cutB = none) ∧
  (∀ dt rq t s, Stands s rq 0x4004 t → num t.payload 0 1 ≤ 1 →
    Answers (exec (.bleedHold dt rq) s) fun u =>
      Replied t 0x00 [] s u ∧ ∀ r, r < 8 → (ringAt u r).holdDue = some (num t.payload 0 1 != 0)) ∧
  (∀ dt rq t s r, Stands s rq 0x4002 t → r < 8 → num t.payload 0 1 = 2 ^ r →
    Answers (exec (.ringRestore dt rq) s) fun u =>
      let items (c : Nat) := (List.replicate 8 0xFF).set r c
      let answer (c : Nat) := Replied t (itemsStatus 0x4002 (items c)) (itemBytes (items c)) s u
      (bit (p0 s pChnRingEnable) r = false → answer 0x10 ∧ u.chn = s.chn) ∧
      (bit (p0 s pChnRingEnable) r = true → (ringAt s r).service = .served → answer 0x01 ∧ u.chn = s.chn) ∧
      (bit (p0 s pChnRingEnable) r = true → (ringAt s r).service = .wrapped → (ringAt s r).cleanAt.isSome = true →
        let g := ringAt s r
        let hops := (if 0 < g.endsA ∧ g.endsA ≤ g.found then [g.endsA - 1] else []) ++ (if g.startsB < g.found then [g.startsB] else [])
        (hops ≠ [] → (ringAt u r).service = .wrapped ∧ ∃ x, findTxn u (txnKey t) = some x ∧ x.waiting = [r]) ∧
        (s.chn.cellNow = true → (ringAt u r).restoreDue = true) ∧
        (s.chn.cellNow = false → cycleNs (advance dt s) ≤ slotEnd → hops ≠ [] → (ringAt u r).clearing = hops)) ∧
      (bit (p0 s pChnRingEnable) r = true → (ringAt s r).service = .wrapped → (ringAt s r).cleanAt = none → answer 0x21 ∧ u.chn = s.chn)) ∧
  (∀ dt rq runs t s r, Stands s rq 0x4001 t → s.hub.txns = [t] → s.par.staged = [] → r < 8 → num t.payload 0 2 = 2 ^ r →
    Answers (exec (.ringEnumerate dt rq runs) s) fun u =>
      let items (c : Nat) := (List.replicate 8 0xFF).set r c
      let answer (c : Nat) := Replied t (itemsStatus 0x4001 (items c)) (itemBytes (items c)) s u
      (bit (p0 s pChnRingEnable) r = false → answer 0x10 ∧ u.chn = s.chn) ∧
      (bit (p0 s pChnRingEnable) r = true → (ringAt s r).service = .unpowered → answer 0x21 ∧ u.chn = s.chn) ∧
      (bit (p0 s pChnRingEnable) r = true → (ringAt s r).service ≠ .unpowered →
        let run := mget ({ nodes := [], more := false, closed := false, tAB := 0 } : EnumRun) runs r
        let nodes := (List.range 64).zip run.nodes
        (run.more = true ∨ (∃ e ∈ nodes, p0 s pChnRetryMax < e.2.asgMiss) → answer 0x21 ∧ (ringAt u r).service = .notServed) ∧
        (run.more = false → run.nodes.length ≤ 64 → run.closed = true → (∀ e ∈ nodes, e.2.asgMiss ≤ p0 s pChnRetryMax) →
          (∀ e ∈ nodes, e.2.dlyMiss ≤ p0 s pChnRetryMax) → s.chn.viol = 0 → answer 0x00 ∧ (ringAt u r).service = .served)))

/-- R50 to R53, R55, R68 to R73, R80, R83 to R85, R99: the chain cycle. It begins at an instant whose index is a multiple of 32: its number advances and its TC0
slot opens; the strobe goes to every served ring, with a new scan where it carries CELL; bleed goes off before a cell strobe and on after it; the
reads go out from the ends that reach the nodes, each frame with its header and CRC under the ring's next tag and sequence word; a new scan rate
applies from its anchor on. How tags are given out is the model's choice (log 133). -/
def Obligations.ChainCycleSendsItsFrames : Prop :=
  (∀ dt s, cycleDue s = true → s.chn.pend = [] → s.chn.scanHeld = true → s.chn.started = true →
    Answers (exec (.chainCycleStart dt) s) fun t =>
      t.chn.cycle = (s.chn.cycle + 1) % 32768 ∧ t.chn.phase = (s.chn.phase + 1) % s.chn.period ∧
        t.chn.hundred = (s.chn.hundred + 1) % 100 ∧ t.chn.since = s.chn.since + 1 ∧ t.chn.cycIdx = some s.met.sidx ∧ t.chn.strobed = false ∧
        t.chn.cellNow = (t.chn.phase == 0 || s.chn.insertAt == some t.chn.cycle) ∧
        t.chn.tempDue = (s.chn.tempDue || t.chn.hundred == 0)) ∧
  (∀ dt s, cycleDue s = true → s.chn.pend = [] → s.chn.scanHeld = true → s.chn.started = false →
    Answers (exec (.chainCycleStart dt) s) fun t => t.chn.cycle = 0 ∧ t.chn.phase = 0 ∧ t.chn.started = true ∧ t.chn.cellNow = true) ∧
  (∀ dt s, strobeDue s = true → s.chn.cellNow = false →
    Answers (exec (.strobeLaunch dt) s) fun t =>
      Sends s t (commandFrames s 0x10 [strobeWord s.chn]) ∧ t.chn.strobed = true ∧ t.chn.scanSidx = s.chn.scanSidx) ∧
  (∀ dt s, strobeDue s = true → s.chn.cellNow = true → s.chn.scanHeld = true →
    Answers (exec (.strobeLaunch dt) s) fun t =>
      Sends s t (commandFrames s 0x10 [strobeWord s.chn]) ∧ t.chn.strobed = true ∧ t.chn.scanSidx = strobeIdx s ∧ t.chn.scanHeld = false ∧
        t.chn.fragsOut = 0 ∧ t.chn.since = 0 ∧ t.chn.prevSidx = s.chn.scanSidx) ∧
  (∀ dt s, sequencing s = true → s.chn.started = true → strobeNext s.chn = true → s.chn.offOut = false →
    Answers (exec (.bleedOffBroadcast dt) s) fun t =>
      Sends s t (commandFrames s 0x11 []) ∧ t.chn.offOut = true ∧ ∀ r ∈ servedRings s, (ringAt t r).offAgain = false ∧
        (ringAt t r).offWait = (framesOf (ringAt s r) r 0x11 [] (commandEnds (ringAt s r))).map (fun f => (f.dir, f.tag))) ∧
  (∀ dt r s, sequencing s = true → s.chn.started = true → strobeNext s.chn = true → ringServed s r = true → (ringAt s r).offAgain = false →
    (ringAt s r).offWait ≠ [] →
    Answers (exec (.bleedOffRepeat dt r) s) fun t =>
      Sends s t (framesOf (ringAt s r) r 0x11 [] ((commandEnds (ringAt s r)).filter fun e => (ringAt s r).offWait.any (·.1 == e.1))) ∧
        (ringAt t r).offAgain = true) ∧
  (∀ dt s, sequencing s = true → s.chn.strobed = true → s.chn.cellNow = true → s.chn.onOut = false →
    Answers (exec (.bleedOnBroadcast dt) s) fun t => t.chn.onOut = true ∧
      Sends s t ((servedRings s).flatMap fun r =>
        if (ringAt s r).hold then [] else framesOf (ringAt s r) r 0x12 [] (commandEnds (ringAt s r)))) ∧
  (∀ dt s, sequencing s = true → s.chn.strobed = true → s.chn.strOut = false → deadNodes s 2 = [] →
    Answers (exec (.readStringLaunch dt) s) (fun t => Sends s t (readFrames s 0x21 []) ∧ t.chn.strOut = true)) ∧
  (∀ dt s, sequencing s = true → s.chn.started = true → rateDue (advance dt s) s.chn.auxAt (p0 s pAcqSsauxRate) = true → deadNodes s 2 = [] →
    Answers (exec (.readSsAuxLaunch dt) s) (fun t => Sends s t (readFrames s 0x25 []) ∧ t.chn.auxAt = some (s.phys + dt))) ∧
  (∀ dt k s, sequencing s = true → fragmentDue s.chn k = true → k + 1 < s.chn.frags →
    Answers (exec (.cellFragmentLaunch dt k) s) fun t =>
      Sends s t (readFrames s 0x20 [fragmentWord s.chn.frags k]) ∧ t.chn.fragsOut = k + 1) ∧
  (∀ dt s, sequencing s = true → s.chn.started = true → s.chn.tempDue = true → s.chn.cellNow = false → s.chn.since ≠ 1 →
    (mkeys s.chn.nodes).filter (fun a => !nodeLive s a) = [] →
    Answers (exec (.readTempsLaunch dt) s) fun t => Sends s t (readFrames s 0x22 []) ∧ t.chn.tempDue = false) ∧
  (∀ dt s, sequencing s = true → s.chn.started = true → rateDue (advance dt s) s.chn.coarseAt (p0 s pAcqCoarseRate) = true →
    Answers (exec (.readCoarseLaunch dt) s) fun t => Sends s t (readFrames s 0x23 []) ∧ t.chn.coarseAt = some (s.phys + dt)) ∧
  (∀ dt s, sequencing s = true → s.chn.started = true →
    let toned := (servedRings s).filter fun r => (ringAt s r).tone
    (toned ≠ [] → Answers (exec (.readStatusLaunch dt) s) fun t =>
      Sends s t (toned.flatMap fun r => framesOf (ringAt s r) r 0x24 [] (readEnds (ringAt s r)))) ∧
    (toned = [] → rateDue (advance dt s) s.chn.statAt 1 = true → Answers (exec (.readStatusLaunch dt) s) fun t =>
      Sends s t (readFrames s 0x24 []) ∧ t.chn.statAt = some (s.phys + dt))) ∧
  (∀ dt r a k fresh s, sequencing s = true → calNext (advance dt s) r = some (a, k, fresh) → ringOf a = r →
    (s.chn.pend.any fun p => p.ring == r && p.opc == 0x38) = false →
    (if (nodeOf s a).type = 1 then s.chn.onOut else s.chn.strOut) = true →
    Answers (exec (.calRunIssue dt r) s) fun t =>
      let words := [nextWord s r, BitVec.ofNat 16 k]
      let hdr := headerOf (endOf s a) false (hopOf a) 0x38 (((ringAt s r).tag + 1) % 1024) 2
      Sends s t [{ ring := r, dir := endOf s a, bc := false, hop := hopOf a, opc := 0x38, tag := ((ringAt s r).tag + 1) % 1024
                   data := words, hdr, crc := frameCrc hdr words, times := 1, at_ := 0 }] ∧
        (ringAt t r).calHop = hopOf a + 1 ∧ (ringAt t r).calStep = k) ∧
  (∀ dt p a s, s.chn.pending = some (p, a) → s.chn.started = true → (s.chn.cycle + 32768 - a) % 32768 < 16384 →
    Answers (exec (.scanRateAnchor dt) s) fun t =>
      t.chn.period = p ∧ t.chn.anchor = a ∧ t.chn.pending = none ∧ t.chn.frags = (if p < 10 then 3 else 2) ∧
        t.chn.phase = (s.chn.cycle + 32768 - a) % 32768 % p) ∧
  (∀ dt t s, sequencing s = true → ringServed s t.ring = true →
    exec (.responseTrainReceive dt t) s =
      .next (trainFirmware (advance dt s) t (takeTrain t (noteTransit t (noteOff t (advance dt s)))))) ∧
  (∀ t p a g s, pendOf s t = some p → expected s p = [a] → goodSegment t a = some g →
    takeTrain t s = hltFollow p.sidx (classesOf p.opc) (takeAnswer p a g (dropPend p s)) ∧
      takeTrain { t with segs := [] } s = hltFollow p.sidx (classesOf p.opc) (missing p a (dropPend p s))) ∧
  (∀ a c raw sidx bleed fly carry s,
    let t := putCell a c raw sidx bleed fly carry s
    (cellOf t c).volt = raw ∧ (cellOf t c).sidx = sidx ∧ (cellOf t c).qual = cellQual s a c (raw == 0xFFFF) bleed fly carry ∧
      (cellOf t c).stamp = stampOf s sidx ∧ ∀ d, d ≠ c → cellOf t d = cellOf s d)

/-- R92, R216 to R220, Table 07.7: a held scan and a chain cycle are evaluated once. A level condition enters when its value has stood beyond the
threshold for the dwell, and leaves when it has stood inside by the hysteresis for the dwell, by twice while it hovers; an NA reading changes
nothing. A comparison declares its fault after its count of failures in a row and clears it after its count of passes. The heat index never
falls below 0, rises above its rating and does not fall at it. A waiting G3 names its string once the current is small or the wait is over. -/
def Obligations.ScansAndCyclesAreEvaluated : Prop :=
  (∀ dt s, podUp s = true →
    Answers (exec (.scanEvaluation dt) s) fun t => t.chn.evalDue = []) ∧
  (∀ dt s, podUp s = true →
    Answers (exec (.chainCycleEvaluation dt) s) fun t =>
      t.chn.cycDone = some (strobeIdx s) ∧ (s.chn.cycDone = some (strobeIdx s) → t = advance dt s)) ∧
  (∀ now dwell n (k : Cond) (r : LevelReading), k.entered = false →
    levelStep now dwell n k none = (k, 0) ∧
    (r.beyond = false → levelStep now dwell n k (some r) = ({ k with since := none }, 0)) ∧
    (r.beyond = true → now - k.since.getD now < dwell → levelStep now dwell n k (some r) = ({ k with since := some (k.since.getD now) }, 0)) ∧
    (r.beyond = true → dwell ≤ now - k.since.getD now →
      (levelStep now dwell n k (some r)).1.entered = true ∧ (levelStep now dwell n k (some r)).2 = 1)) ∧
  (∀ now dwell n (k : Cond) (r : LevelReading), k.entered = true →
    levelStep now dwell n k none = (k, 0) ∧
    ((if k.hover then r.inside2 else r.inside) = false → levelStep now dwell n k (some r) = ({ k with since := none }, 0)) ∧
    ((if k.hover then r.inside2 else r.inside) = true → dwell ≤ now - k.since.getD now →
      (levelStep now dwell n k (some r)).1.entered = false ∧ (levelStep now dwell n k (some r)).1.hover = false ∧
        (levelStep now dwell n k (some r)).2 = 2)) ∧
  (∀ n clearN f p : Nat, ∀ b : Bool,
    (plausStep n clearN true (f, p, b)).2.2 = (b || decide (n ≤ f + 1)) ∧ (plausStep n clearN true (f, p, b)).2.1 = 0 ∧
    (plausStep n clearN false (f, p, b)).2.2 = (b && !decide (clearN ≤ p + 1)) ∧ (plausStep n clearN false (f, p, b)).1 = 0) ∧
  (∀ s h m, 0 ≤ heatStep s h m ∧ (1 ≤ m → h ≤ heatStep s h m) ∧ (0 ≤ h → 0 ≤ m → m ≤ 1 → heatStep s h m ≤ h)) ∧
  (∀ dt j w s, mfind s.prt.g3wait j = some w →
    Answers (exec (.g3OpenWaitExpiry dt j) s) fun t =>
      ((strCurrent s j).natAbs ≤ p0 s pPrtOpenI * 1000 ∨ p0 s pPrtOpenWaitT * msNs ≤ s.phys + dt - w.1 →
        t.prt.g3wait = mdel s.prt.g3wait j) ∧
      (p0 s pPrtOpenI * 1000 < (strCurrent s j).natAbs → s.phys + dt - w.1 < p0 s pPrtOpenWaitT * msNs → t = advance dt s)) ∧
  (∀ c inst j chg s, condIn s c inst = false → condIn (plainCond c inst j chg true s) c inst = true)

/-- R101 to R106: balancing. Each planning pass plans every string that has cell nodes. No budget passes one and a half planning periods, and a node
that is not eligible receives none. By voltage, a cell bleeds only after 10 min at rest and only beyond the band above the lowest. A plan goes
out as BLEED_PLAN under the next plan number, and only where it differs from the one held or where a budget runs out; a node that becomes
ineligible receives zero budgets. A string held past ACQ.BAL_HOLD_MAX sets BAL_STALE. -/
def Obligations.BalancingPlansAndHolds : Prop :=
  (∀ dt s, podUp s = true → exec (.balancePlan dt) s = .next ((knownStrings s).foldl planString (advance dt s))) ∧
  (∀ s j a b, b ∈ planOf s j (wantsOf s j) a → b ≤ p0 s pAcqBalPeriod * 15 ∧ (eligible s j a = false → b = 0)) ∧
  (∀ s j base cells w, w ∈ wantVolt s j base cells →
    w.c ∈ cells ∧ passed s (balOf s j).quietAt (600 * secNs) = true ∧
      ∃ c ∈ base, (cellOf s c).volt + p0 s pAcqBalDv * 10 < (cellOf s w.c).volt) ∧
  (∀ plan a s,
    let tag := ((ringAt s (ringOf a)).tag + 1) % 1024
    let words := nextWord s (ringOf a) :: BitVec.ofNat 16 (((nodeOf s a).planNum + 1) % 256 * 256) :: plan.map (BitVec.ofNat 16)
    let hdr := headerOf (endOf s a) false (hopOf a) 0x13 tag words.length
    Sends s (sendPlan plan a s) [{
      ring := ringOf a, dir := endOf s a, bc := false, hop := hopOf a, opc := 0x13, tag, data := words
      hdr, crc := frameCrc hdr words, times := 1, at_ := 0 }]) ∧
  (∀ plan a s, nodeLive s a = true →
    (plan ≠ heldPlan (nodeOf s a) → renewPlan plan a s = sendPlan plan a s) ∧
    (plan = heldPlan (nodeOf s a) →
      (∀ i < 18, 0 < plan.getD i 0 → p0 s pAcqBalPeriod * secNs ≤ (nodeOf s a).left.getD i 0) → renewPlan plan a s = s) ∧
    (∀ i, i < 18 → 0 < plan.getD i 0 → (nodeOf s a).left.getD i 0 < p0 s pAcqBalPeriod * secNs → renewPlan plan a s = sendPlan plan a s)) ∧
  (∀ j a s, nodeLive s a = true → eligible s j a = false → (∃ b ∈ heldPlan (nodeOf s a), b ≠ 0) → (∃ b ∈ (nodeOf s a).left, b ≠ 0) →
    (∀ p ∈ s.chn.pend, p.opc ≠ 0x13) → withdraw j s a = sendPlan (List.replicate 18 0) a s) ∧
  (∀ dt j t s, (balOf s j).heldAt = some t → (balOf s j).stale = false →
    Answers (exec (.balHoldExpiry dt j) s) fun u =>
      (p0 s pAcqBalHoldMax * secNs ≤ s.phys + dt - t → (balOf u j).stale = true ∧ ∀ i, i ≠ j → balOf u i = balOf s i) ∧
      (s.phys + dt - t < p0 s pAcqBalHoldMax * secNs → u = advance dt s))

/-- R155 to R158, R170, R176 to R179, R203: estimation's passes. The scans held since are filtered, each once and in their order, and a limit cycle publishes one set, numbered on and stamped with its
time, an accepted restore applied first. A whole rest that ends is an anchor: it counts as a long rest where a cell is not known well enough, begins a
cycle where none runs, and else ends the one that runs, which is rejected with its code or queued; an update of the string still uncomputed then makes its learning stale. The oldest queued cycle of a string then moves its
cells' capacities, and IMP_REF_SET sets or clears a cell's growth reference. -/
def Obligations.EstimationPassesRun : Prop :=
  (∀ dt s, arrayUp s = true →
    Answers (exec (.cellFilterPass dt) s) fun t =>
      t.est.scanDue = [] ∧ (∀ k, s.est.scanDue.getLast? = some k → t.est.passIdx = some k.idx ∧ t.est.passNew = true) ∧
        (s.est.scanDue = [] → t = advance dt s)) ∧
  (∀ dt s, podUp s = true →
    Answers (exec (.limitCycle dt) s) fun t =>
      t.est.set.number = s.est.set.number + 1 ∧ t.est.set.at_ = s.phys + dt ∧ t.est.setAt = s.phys + dt ∧ t.est.any = true ∧
        t.est.passNew = false ∧ t.est.applyDue = false) ∧
  (∀ dt j idx s, podUp s = true → (learnOf s j).restOver = some idx →
    Answers (exec (.anchorEnd dt j) s) fun t =>
      (learnOf t j).restOver = none ∧
      (allSure s j = false → (learnOf t j).longRest = true ∧ t.est.backlog = s.est.backlog ∧ (learnOf t j).startIdx = (learnOf s j).startIdx) ∧
      (allSure s j = true → (learnOf t j).startIdx = some idx ∧ (learnOf t j).charge = 0 ∧ (learnOf t j).samples = 0 ∧
        ((learnOf s j).startIdx = none → t.est.backlog = s.est.backlog) ∧
        ((learnOf s j).startIdx.isSome = true → (learnOf t j).stale = ((learnOf s j).stale || s.est.backlog.any (·.str == j))) ∧
        ((learnOf s j).startIdx.isSome = true → cycleCode s j ≠ 0 → t.est.backlog = s.est.backlog) ∧
        ((learnOf s j).startIdx.isSome = true → cycleCode s j = 0 → ∃ q : Cycle, t.est.backlog = s.est.backlog ++ [q] ∧ q.str = j ∧
          q.charge = ((learnOf s j).charge : Rat) / 1000000 ∧ q.all = stringCells s j))) ∧
  (∀ dt j q s, arrayUp s = true → s.est.backlog.find? (·.str == j) = some q →
    Answers (exec (.capacityUpdate dt j) s) fun t => t.est.backlog = eraseFirst (fun x : Cycle => x.str == j) s.est.backlog) ∧
  (∀ s charge c x e, 0 ≤ e.cap → ∃ d : Rat, (learnCap s charge c x e).cap = Config.fp32 (e.cap + d) ∧
    -(e.cap * (p0 s pEstCapStepMax : Nat) / 1000) ≤ d ∧ d ≤ e.cap * (p0 s pEstCapStepMax : Nat) / 1000 ∧
    (learnCap s charge c x e).learned = true ∧ (learnCap s charge c x e).cAt = s.phys) ∧
  (∀ dt rq t s c e, Stands s rq 0x8001 t → num t.payload 0 2 = c → c < 9216 → num t.payload 2 2 = 1 → mfind s.est.cells c = some e →
    Answers (exec (.impRefSet dt rq) s) fun u =>
      (num t.payload 4 1 = 0 → validity (atWork dt t s) e = .valid → e.rser ≠ e.rserRef →
        Replied t 0x00 (le 2 1) s u ∧ mfind u.est.cells c = some { e with rserRef := e.rser }) ∧
      (num t.payload 4 1 = 0 → validity (atWork dt t s) e ≠ .valid → Replied t 0x00 (le 2 0) s u ∧ u.est = s.est) ∧
      (num t.payload 4 1 = 1 → e.rserRef ≠ 0 → Replied t 0x00 (le 2 1) s u ∧ mfind u.est.cells c = some { e with rserRef := 0 }))

/-- R184 to R199, Tables 06.3 and 06.4: the impedance engine. A candidate is judged once, 32 sampling instants after its trigger, and one without an edge is
dropped. The IMP values of a step are those in force at its edge. A response instant, the first one planned on a candidate's edge as far as it is seen, takes a
regular strobe of its window, else an inserted one, else the step fails. A step whose response has ended leaves the engine as it is closed, before one
whose response is open; with an exclusion its outcome is the lowest one met and it is not queued, a kept one is queued as the newest of at most four. A queued record is fitted oldest
first while the array is served, and a record that waits too long makes the cells of its strings stale. -/
def Obligations.ImpedanceStepsAreTakenAndFitted : Prop :=
  (∀ dt k s, s.imp.open_ = some k →
    (k.confirmed = true ∨ idxDiff s.met.sidx k.trig < 32 → exec (.stepConfirm dt) s = .next (advance dt s)) ∧
    (k.confirmed = false → 32 ≤ idxDiff s.met.sidx k.trig →
      Answers (exec (.stepConfirm dt) s) fun t =>
        (t.imp.open_ = none ∨ t.imp.open_ = some k ∨ ∃ k', t.imp.open_ = some k' ∧ k'.confirmed = true ∧ k'.strs ≠ [] ∧ k'.trig = k.trig ∧ k'.par = parsAt s k'.edge) ∧
        (edgeOf ((s.imp.hist.drop (idxDiff s.met.sidx k.trig - 32)).take (33 + edgeN k.par)).reverse k.iq = none → t.imp.open_ = none))) ∧
  (∀ dt o k p s, s.imp.open_ = some k → planned s o k = some p → p.failed = false → p.ended = none → o < 4 → mfind p.insts o = none →
    s.chn.insertAt = none →
    Answers (exec (.responseInstant dt o) s) fun t =>
      (k.confirmed = true → p = k) ∧ (k.confirmed = false → o = 0) ∧
      (chooseInstant s p (offsets.getD o 0) = none → t.imp.open_ = some { k with failed := true } ∧ t.chn = s.chn) ∧
      (∀ m ins, chooseInstant s p (offsets.getD o 0) = some (m, ins) →
        (∃ k', t.imp.open_ = some k' ∧ mfind k'.insts o = some (strobeIn s m) ∧ k'.failed = false) ∧
          t.chn.insertAt = (if ins then some (((s.chn.cycle : Int) + m) % 32768).toNat else none))) ∧
  (∀ dt k s, s.imp.closing = some k ∨ (s.imp.closing = none ∧ s.imp.open_ = some k) → closable k = true →
    Answers (exec (.stepClose dt) s) fun t =>
      t.imp.closing = none ∧ t.imp.open_ = (if s.imp.closing = none then none else s.imp.open_) ∧
        (2 ≤ outcomeOf s k → t.imp.queue = s.imp.queue) ∧
        (outcomeOf s k < 2 → s.imp.queue.length ≤ 4 → t.imp.queue.length ≤ 4 ∧
          ∃ q, t.imp.queue.getLast? = some q ∧ q.outcome = outcomeOf s k ∧ q.trig = k.trig ∧ q.queuedAt = s.phys + dt)) ∧
  (∀ s k h, h ∈ k.hits → concerns s k h = true → outcomeOf s k ≤ h / 65536) ∧
  (∀ dt k ks s, arrayUp s = true → s.imp.queue = k :: ks → Answers (exec (.impedanceFit dt) s) fun t => t.imp.queue = ks) ∧
  (∀ dt s, Answers (exec (.fitDeferExpiry dt) s) fun t =>
    ∀ c e, mfind s.est.cells c = some e →
      (∀ k ∈ s.imp.queue, k.parN pImpFitDeferMax * secNs < s.phys + dt - k.queuedAt → ∀ x ∈ k.strs, c ∈ stringCells s x.1 →
        mfind t.est.cells c = some { e with rstale := true }) ∧
      ((∀ k ∈ s.imp.queue, k.parN pImpFitDeferMax * secNs < s.phys + dt - k.queuedAt → ∀ x ∈ k.strs, c ∉ stringCells s x.1) →
        mfind t.est.cells c = some e))

/-- R207 to R215, R226, R227, Tables 07.2, 07.3 and 07.5: the Husk and the fault reset. A source asserts at an armed Husk, acts at once or after its DELAY, and latches
where its entry or its action says so; the first latched since a reset is kept. An action needs EN; a code above 8, and 0x4 where no string is
named, acts as 0x5. SLD_VIOL asserts only against a line that has stood for PRT.SLD_T; a lost PWM domain's clock holds PW0 to PW5, DA0 and DA1 off. A released source keeps a latched action and ends one that is not. FLT_ARM opens its session's
window of 2 s; FLT_CONFIRM in it, with nothing latched since and E_STOP closed, makes the reset, which clears every latched source no longer
asserted and leaves the others latched; so does FLT_RST after 50 ms low. -/
def Obligations.HuskTripsLatchAndReset : Prop :=
  (∀ dt src m s, canAssert s src = false → exec (.huskSourceAssert dt src m) s = .next (advance dt s)) ∧
  (∀ s src,
    (bit (matrixEntry s src) 31 = false → sourceAction s src = 0) ∧
    (bit (matrixEntry s src) 31 = true → bits (matrixEntry s src) 27 24 ≤ 8 →
      bits (matrixEntry s src) 27 24 ≠ 4 ∨ (namesStrings src = true ∧ (tripOf s src).strings ≠ 0) → sourceAction s src = bits (matrixEntry s src) 27 24) ∧
    (bit (matrixEntry s src) 31 = true →
      8 < bits (matrixEntry s src) 27 24 ∨ (bits (matrixEntry s src) 27 24 = 4 ∧ (namesStrings src = false ∨ (tripOf s src).strings = 0)) →
      sourceAction s src = 5)) ∧
  (∀ dt m s, lineStands (advance dt s) s.husk.chgLine = false → lineStands (advance dt s) s.husk.disLine = false →
    exec (.huskSourceAssert dt 13 m) s = .next (advance dt s)) ∧
  (∀ dt (m : BitVec 16) s, s.husk.armed = true → bit m.toNat 3 = true →
    Answers (exec (.huskSourceAssert dt 24 m) s) fun t =>
      t.husk.pwmOff = true ∧ t.ctl.gated = List.range 6 ∧ t.ctl.da = [(0, 0), (1, 0)]) ∧
  (∀ i s, (sldHolds s i = true → canAssert s 13 = true → (tripOf (followSld i s) 13).asserted = true) ∧
    (sldHolds s i = false → (tripOf (followSld i s) 13).asserted = false)) ∧
  (∀ dt src m s, canAssert s src = true → (tripOf s src).asserted = false →
    (src = 13 → lineStands (advance dt s) s.husk.chgLine = true ∨ lineStands (advance dt s) s.husk.disLine = true) →
    Answers (exec (.huskSourceAssert dt src m) s) fun t =>
      let a := sourceAction t src
      let named : BitVec 16 := if namesStrings src then m else 0
      (tripOf t src).asserted = true ∧ (tripOf t src).strings = (tripOf s src).strings ||| named ∧ (tripOf t src).since = s.phys + dt ∧
      (a = 0 → (tripOf t src).acting = (tripOf s src).acting ∧ (tripOf t src).latched = (tripOf s src).latched) ∧
      (a ≠ 0 → 0 < bits (matrixEntry s src) 23 16 → (tripOf t src).delaying = true ∧ (tripOf t src).acting = (tripOf s src).acting) ∧
      (a ≠ 0 → bits (matrixEntry s src) 23 16 = 0 → (tripOf s src).latched = false →
        (tripOf t src).acting = some a ∧ (tripOf t src).latched = (bit (matrixEntry s src) 30 || decide (3 < a)) ∧
          ((bit (matrixEntry s src) 30 || decide (3 < a)) = true → t.husk.tripCount = inc16 s.husk.tripCount ∧
            t.husk.first = if s.husk.first = 0xFF then src else s.husk.first))) ∧
  (∀ dt src s, (tripOf s src).delaying = true → (tripOf s src).asserted = true → (tripOf s src).latched = false → sourceAction s src ≠ 0 →
    Answers (exec (.huskDelayExpiry dt src) s) fun t =>
      (bits (matrixEntry s src) 23 16 * msNs ≤ s.phys + dt - (tripOf s src).since →
        (tripOf t src).delaying = false ∧ (tripOf t src).acting = some (sourceAction s src)) ∧
      (s.phys + dt - (tripOf s src).since < bits (matrixEntry s src) 23 16 * msNs → t = advance dt s)) ∧
  (∀ dt src s, Answers (exec (.huskSourceRelease dt src) s) fun t =>
      ((tripOf s src).asserted = false → t = advance dt s) ∧
      ((tripOf s src).asserted = true → (src = 24 → t.husk.pwmOff = false) ∧ (tripOf t src).asserted = false ∧ (tripOf t src).delaying = false ∧
        (tripOf t src).latched = (tripOf s src).latched ∧
        ((tripOf s src).latched = true → (tripOf t src).acting = (tripOf s src).acting ∧ (tripOf t src).strings = (tripOf s src).strings) ∧
        ((tripOf s src).latched = false → (tripOf t src).acting = none ∧ (tripOf t src).strings = 0))) ∧
  (∀ dt c b s, podUp s = true → s.pod.shelled = false →
    Answers (exec (.comparatorChannelTest dt c b true) s) (fun t => t.husk.badChan = s.husk.badChan.filter (· != c * 2 + b2n b)) ∧
    (s.husk.armed = true →
      Answers (exec (.comparatorChannelTest dt c b false) s) fun t => c * 2 + b2n b ∈ t.husk.badChan ∧ (tripOf t 26).asserted = true)) ∧
  (∀ dt rq t s, Stands s rq 0x9002 t →
    Answers (exec (.fltArm dt rq) s) fun u =>
      ((∀ a, s.husk.arm = some a → armMine t a = true) →
        Replied t 0x00 [] s u ∧ u.husk.arm = some { port := t.port, session := t.session, latch := latchWord s, time := s.phys + dt }) ∧
      (∀ a, s.husk.arm = some a → armMine t a = false → Replied t 0x11 [] s u ∧ u.husk = s.husk)) ∧
  (∀ dt rq t s, Stands s rq 0x9003 t →
    Answers (exec (.fltConfirm dt rq) s) fun u =>
      (s.husk.arm = none → Replied t 0x11 (le 8 0) s u ∧ u.husk = s.husk) ∧
      ∀ a, s.husk.arm = some a →
        (armMine t a = false → Replied t 0x11 (le 8 0) s u ∧ u.husk = s.husk) ∧
        (armMine t a = true → armWindow < s.phys + dt - a.time ∨ latchWord s &&& (a.latch ^^^ 0xFFFFFFFF) ≠ 0 ∨ s.husk.estop = true →
          Replied t 0x11 (le 8 0) s u ∧ u.husk = { s.husk with arm := none }) ∧
        (armMine t a = true → s.phys + dt - a.time ≤ armWindow → latchWord s &&& (a.latch ^^^ 0xFFFFFFFF) = 0 → s.husk.estop = false →
          u.husk.arm = none ∧ u.husk.fwBlk = false ∧ u.husk.first = 0xFF ∧ u.prt.g4 = false ∧
          (∀ src, src ≠ 16 → (tripOf u src).latched = ((tripOf s src).latched && (tripOf s src).asserted)) ∧ (tripOf u 16).latched = false ∧
          u = complete { t with served := true } 0x00 (le 4 (latchWord s &&& (latchWord u ^^^ 0xFFFFFFFF)) ++ le 4 (latchWord u))
            (faultReset (let w := atWork dt t s; { w with husk := { w.husk with arm := none } })))) ∧
  (∀ dt a s, s.husk.arm = some a →
    Answers (exec (.fltArmExpiry dt) s) fun t =>
      (armWindow ≤ s.phys + dt - a.time → t.husk = { s.husk with arm := none }) ∧ (s.phys + dt - a.time < armWindow → t = advance dt s)) ∧
  (∀ dt lo hi s, s.husk.armed = true → msNs ≤ hi →
    Answers (exec (.fltRstEdge dt lo hi) s) fun t =>
      (lo < 50 * msNs → t.husk = { s.husk with rstRej := inc16 s.husk.rstRej }) ∧
      (50 * msNs ≤ lo → s.husk.estop = true → t = advance dt s) ∧
      (50 * msNs ≤ lo → s.husk.estop = false →
        t.prt.g4 = false ∧ t.husk.first = 0xFF ∧ (tripOf t 16).latched = false ∧
          ∀ src, src ≠ 16 → (tripOf t src).latched = ((tripOf s src).latched && (tripOf s src).asserted))) ∧
  (∀ dt rq t s, Stands s rq 0x9004 t → canAssert s 16 = true →
    Answers (exec (.prtOpenReq dt rq) s) fun u =>
      u.prt.g4 = true ∧ u.husk.fwBlk = true ∧ (tripOf u 16).asserted = true ∧
        u = complete { t with served := true } 0x00 [] (openBlock (atWork dt t s)))

/-- R237 to R249, R511: joins. STRING_JOIN answers a string that is in service, or confirmed for the next limit cycle, with 0x01, one that is queued with 0x02 and one whose state check fails with
its code, and queues any other but on a live bus that no string serves. The next string is the ready one of smallest rank, ties to the lowest number; its KN goes on where no join runs,
the settle time is over and every check holds, its KP SEQ.K_GAP_T later, and a join whose contactors are not seen closed in time ends with 0x21. A pending
confirmation is judged at the current, a wait that is over ends the join or the close, and the weld test follows the second coil; it is over
unless the Husk, on a G2 request that changes, opens the pair anew. -/
def Obligations.StringsJoinTheBus : Prop :=
  (∀ dt rq t s j, Stands s rq 0xA003 t → j < 16 → num t.payload 0 2 = 2 ^ j → s.par.pendingRole = false →
    Answers (exec (.stringJoin dt rq) s) fun u =>
      let items (c : Nat) := (List.replicate 16 0xFF).set j c
      let answer (c : Nat) := Replied t (itemsStatus 0xA003 (items c)) (itemBytes (items c)) s u
      (isJoined s j = true → answer 0x01 ∧ u.seq = s.seq) ∧
      (isJoined s j = false → (joinOf s j).isSome = true → answer 0x02 ∧ ∃ k, joinOf u j = some k ∧ k.report = true) ∧
      (∀ c, isJoined s j = false → joinOf s j = none → joinState (atWork dt t s) j = some c → answer c ∧ u.seq = s.seq) ∧
      (isJoined s j = false → joinOf s j = none → joinState (atWork dt t s) j = none → liveUnserved s (seqPars s) = false →
        ∃ k, joinOf u j = some k ∧ k.reqAt = s.phys + dt ∧ k.knAt = none ∧ k.report = false ∧ u.hub.sent = s.hub.sent)) ∧
  (∀ s j, nextJoin s = some j → ∃ k ∈ s.seq.joins, k.str = j ∧ k.knAt = none ∧ k.dwellOk = true ∧ k.hinder = none ∧
    ∀ m ∈ s.seq.joins, m.knAt = none → m.dwellOk = true → m.hinder = none →
      joinRank s k < joinRank s m ∨ (joinRank s k = joinRank s m ∧ j ≤ m.str)) ∧
  (∀ dt s, (∃ k ∈ s.seq.joins, k.knAt.isSome = true) ∨ s.phys + dt < s.seq.settleTo → exec (.joinSettleExpiry dt) s = .next (advance dt s)) ∧
  (∀ dt s j, (∀ k ∈ s.seq.joins, k.knAt = none) → s.seq.settleTo ≤ s.phys + dt → nextJoin (advance dt s) = some j →
    joinState (advance dt s) j = none → joinData (advance dt s) j = none →
    Answers (exec (.joinSettleExpiry dt) s) fun t => ∃ k, joinOf t j = some k ∧ k.knAt = some (s.phys + dt)) ∧
  (∀ dt s j k d, s.seq.joins = [k] → k.str = j → k.knAt = none → k.hinder = none → k.dwellAt = some d →
    keptN k.par pSeqJoinDwell * msNs ≤ s.phys + dt - d → s.seq.settleTo ≤ s.phys + dt →
    joinState (advance dt s) j = none → joinData (advance dt s) j = none →
    Answers (exec (.joinDwellComplete dt j) s) fun t => ∃ k', joinOf t j = some k' ∧ k'.dwellOk = true ∧ k'.knAt = some (s.phys + dt)) ∧
  (∀ dt s k a, s.seq.joins.find? (fun k => k.knAt.isSome && k.kpAt.isNone) = some k → k.knAt = some a →
    Answers (exec (.kpOn dt) s) fun t =>
      (keptN k.par pSeqKGapT * msNs ≤ s.phys + dt - a → ∃ k', joinOf t k.str = some k' ∧ k'.kpAt = some (s.phys + dt)) ∧
      (s.phys + dt - a < keptN k.par pSeqKGapT * msNs → t = advance dt s)) ∧
  (∀ dt s k a, s.seq.joins.find? (·.kpAt.isSome) = some k → k.kpAt = some a →
    Answers (exec (.joinConfirmTimeout dt) s) fun t =>
      (keptN k.par pSeqKConfirmT * msNs ≤ s.phys + dt - a → joinOf t k.str = none ∧ t.seq.last = 0x21) ∧
      (s.phys + dt - a < keptN k.par pSeqKConfirmT * msNs → t = advance dt s)) ∧
  (∀ dt j s a i x, j < 16 → (strOf s j).confPend = true → (strOf s j).confAt = some a → p0 s pSeqKConfirmT * msNs ≤ s.phys + dt - a →
    iNow s = some i → (strSample s j).current = some x →
    Answers (exec (.confPendingCheck dt j) s) fun t =>
      let n := (serviceList s).length
      let along : Int := if 0 ≤ i then x else -x
      (i.natAbs < n * p0 s pSeqWeldI * 1000 → t = advance dt s) ∧
      (n * p0 s pSeqWeldI * 1000 ≤ i.natAbs → (i.natAbs : Int) ≤ along * (4 * n) →
        (strOf t j).confPend = false ∧ inService t j = inService s j) ∧
      (n * p0 s pSeqWeldI * 1000 ≤ i.natAbs → along * (4 * n) < (i.natAbs : Int) → inService t j = false ∧ bit t.seq.openMask.toNat j = true)) ∧
  (∀ dt j s k, joinOf s j = some k → k.knAt = none → s.seq.step ≠ .closeJoin →
    Answers (exec (.joinWaitExpiry dt j) s) fun t =>
      (keptN k.par pSeqJoinWaitT * secNs ≤ s.phys + dt - k.reqAt → joinOf t j = none ∧ t.seq.last = k.hinder.getD 0x20) ∧
      (s.phys + dt - k.reqAt < keptN k.par pSeqJoinWaitT * secNs → t = advance dt s)) ∧
  (∀ dt j s, joinOf s j = none → s.seq.step = .closeJoin → keptN s.seq.par pSeqJoinWaitT * secNs ≤ s.phys + dt - s.seq.joinAt →
    (serviceList s).length < keptN s.seq.par pSeqMinStrings →
    Answers (exec (.joinWaitExpiry dt j) s) fun t => t.seq.step = .none ∧ t.seq.last = 0x20) ∧
  (∀ dt j s i, (strOf s j).iTest = true → keptN s.seq.openPar pSeqWeldT * msNs ≤ s.phys + dt - (strOf s j).offAt →
    (strSample s j).current = some i → keptN s.seq.openPar pSeqWeldI * 1000 < i.natAbs →
    Answers (exec (.weldCurrentTest dt (.string j)) s) fun t => (strOf t j).weld = true ∧ t.prt.g4 = true) ∧
  (∀ dt j s i, (strOf s j).iTest = true → keptN s.seq.openPar pSeqWeldT * msNs ≤ s.phys + dt - (strOf s j).offAt →
    (strSample s j).current = some i → i.natAbs ≤ keptN s.seq.openPar pSeqWeldI * 1000 →
    Answers (exec (.weldCurrentTest dt (.string j)) s) fun t =>
      (strOf t j).weld = (strOf s j).weld ∧ (g2Flags t = g2Flags s → (strOf t j).iTest = false)) ∧
  (∀ dt s i, s.seq.mainTest = true → keptN s.seq.openPar pSeqWeldT * msNs ≤ s.phys + dt - s.seq.mainOffAt → iNow s = some i →
    Answers (exec (.weldCurrentTest dt .main) s) fun t =>
      (g2Flags t = g2Flags s → t.seq.mainTest = false) ∧ t.seq.mainWeld = decide (keptN s.seq.openPar pSeqWeldI * 1000 < i.natAbs) ∧
        (keptN s.seq.openPar pSeqWeldI * 1000 < i.natAbs → t.seq.step = .none ∧ t.seq.last = 0x22))

/-- R237, R238, R250 to R256: BLOCK_CLOSE and pre-charge. A close that a check refuses gives every item its code; an accepted one begins with the
disconnector where it is not at END_CLOSED, else with the joins of its mask. The probe finds MN welded or switches MN on; MN is confirmed in its time; the
window of pre-charge done closes MP; a short, a timeout, an overcurrent and a missing confirm open pre-charge with their codes, and MP confirmed
leaves the block closed. -/
def Obligations.BlockClosesThroughPrecharge : Prop :=
  (∀ dt rq t s c, Stands s rq 0xA001 t → num t.payload 0 2 ≠ 0 → s.par.pendingRole = false → s.seq.closed = false →
    closeRefusal (atWork dt t s) = some c →
    Answers (exec (.blockClose dt rq) s) fun u =>
      let items := (List.range 17).map fun i => if i = 16 ∨ bit (num t.payload 0 2) i = true then c else 0xFF
      Replied t (itemsStatus 0xA001 items) (itemBytes items) s u ∧ u.seq = { s.seq with last := c }) ∧
  (∀ dt rq t s, Stands s rq 0xA001 t → num t.payload 0 2 ≠ 0 → s.par.pendingRole = false → s.seq.closed = false →
    closeRefusal (atWork dt t s) = none →
    Answers (exec (.blockClose dt rq) s) fun u =>
      (p0 s pSeqDscMode = 1 → s.seq.endClosed = false → dscCloseCheck (atWork dt t s) = none →
        u.seq.step = .closeDsc ∧ u.seq.dscStep = .dscDrive ∧ u.seq.dsc = .closing ∧ u.seq.closeCmd = true ∧ u.seq.dscFrom = s.phys + dt ∧
          u.seq.mask = BitVec.ofNat 16 (num t.payload 0 2)) ∧
      (p0 s pSeqDscMode ≠ 1 ∨ s.seq.endClosed = true → (serviceList s).length < keptN (seqPars s) pSeqMinStrings →
        u.seq.step = .closeJoin ∧ u.seq.joinAt = s.phys + dt ∧ u.seq.mask = BitVec.ofNat 16 (num t.payload 0 2))) ∧
  (∀ dt s a, s.seq.step = .pcProbe → s.seq.pathAt = some a →
    Answers (exec (.prechargeProbeEnd dt) s) fun t =>
      let welded : Bool := if pcMode s = 1 then decide (pcImax s / 20 < convCurrent s)
        else match vlNow s with
          | some v => decide ((keptN s.seq.par pSeqWeldV * 1000 : Nat) < v - s.seq.vlStart)
          | none => false
      (s.phys + dt - a < keptN s.seq.par pSeqPcProbeT * msNs → t = advance dt s) ∧
      (keptN s.seq.par pSeqPcProbeT * msNs ≤ s.phys + dt - a → welded = true → t.seq.step = .none ∧ t.seq.last = 0x22) ∧
      (keptN s.seq.par pSeqPcProbeT * msNs ≤ s.phys + dt - a → welded = false →
        t.seq.step = .pcMn ∧ t.seq.mnAt = some (s.phys + dt) ∧ t.seq.rampAt = some (s.phys + dt) ∧ t.lsw = (roleOn 4 0 (advance dt s)).lsw)) ∧
  (∀ dt s a, s.seq.step = .pcMn → s.seq.rampAt = some a →
    Answers (exec (.mnConfirm dt) s) fun t =>
      let bound := if pcMode s = 2 then keptN s.seq.par pSeqPcTmax * 100 * msNs else keptN s.seq.par pSeqKConfirmT * msNs
      (mnSeen s = true → t.seq = { s.seq with step := .pcRamp } ∧ t.lsw = s.lsw) ∧
      (mnSeen s = false → s.phys + dt - a < bound → t = advance dt s) ∧
      (mnSeen s = false → bound ≤ s.phys + dt - a → t.seq.step = .none ∧ t.seq.last = 0x21)) ∧
  (∀ dt s a, ramping s = true → doneWindow s = true → s.seq.doneAt = some a →
    Answers (exec (.prechargeDone dt) s) fun t =>
      (keptN s.seq.par pSeqPcDoneT * msNs ≤ s.phys + dt - a → t.seq.step = .pcMp ∧ t.seq.mpAt = some (s.phys + dt) ∧
        (pcMode s = 0 → t.seq.pckOffAt = some (s.phys + dt)) ∧ (pcMode s ≠ 0 →
          t.lsw = (roleOn 3 0 { advance dt s with seq := { s.seq with step := .pcMp, mpAt := some (s.phys + dt) } }).lsw)) ∧
      (s.phys + dt - a < keptN s.seq.par pSeqPcDoneT * msNs → t = advance dt s)) ∧
  (∀ dt s a v, ramping s = true → pcMode s ≠ 2 → s.seq.shortDone = false → (if pcMode s = 1 then s.seq.rampAt else s.seq.pathAt) = some a →
    keptN s.seq.par pSeqPcShortT * msNs ≤ s.phys + dt - a → vlNow s = some v →
    Answers (exec (.prechargeShortCheck dt) s) fun t =>
      (v < (keptN s.seq.par pSeqPcShortV * 1000 : Nat) → t.seq.step = .none ∧ t.seq.last = 0x31) ∧
      ((keptN s.seq.par pSeqPcShortV * 1000 : Nat) ≤ v → t = { advance dt s with seq := { s.seq with shortDone := true } })) ∧
  (∀ dt s a, ramping s = true → s.seq.mnAt = some a →
    Answers (exec (.prechargeTimeout dt) s) fun t =>
      (keptN s.seq.par pSeqPcTmax * 100 * msNs ≤ s.phys + dt - a → t.seq.step = .none ∧ t.seq.last = 0x30 ∧ t.seq.mnAt = none) ∧
      (s.phys + dt - a < keptN s.seq.par pSeqPcTmax * 100 * msNs → t = advance dt s)) ∧
  (∀ dt s, ramping s = true ∨ s.seq.step = .pcProbe → pcMode s = 1 →
    Answers (exec (.prechargeOvercurrent dt) s) fun t =>
      (pcImax s * 5 / 4 < convCurrent s → t.seq.step = .none ∧ t.seq.last = 0x32) ∧ (convCurrent s ≤ pcImax s * 5 / 4 → t = advance dt s)) ∧
  (∀ dt s m, s.seq.step = .pcMp → s.seq.mpAt = some m →
    Answers (exec (.mpConfirm dt) s) fun t =>
      let late := decide (keptN s.seq.par pSeqKConfirmT * msNs ≤ s.phys + dt - m)
      let seen : Bool := if pcMode s = 1 then decide (convCurrent s < pcImax s / 20)
        else late && doneWindow s && match s.seq.doneAt with
          | some d => decide (d ≤ m)
          | none => false
      (seen = true → t.seq.closed = true ∧ t.seq.step = .none ∧ t.seq.last = 0x00) ∧
      (seen = false → late = true → t.seq.closed = (s.seq.closed && !(roleActive s 3 0 || roleActive s 4 0)) ∧ t.seq.step = .none ∧ t.seq.last = 0x21) ∧
      (seen = false → late = false → t = advance dt s)) ∧
  (∀ c s, (pcFails c s).seq.step = .none ∧ (pcFails c s).seq.last = c ∧ (pcFails c s).seq.strs = s.seq.strs ∧
    (pcFails c s).lsw = (roleOff 4 0 (roleOff 3 0 (roleOff 6 0 (roleOff 5 0
      (if roleActive s 3 0 || roleActive s 4 0 then mainsOpened (testsUnder s.seq.par s) else s))))).lsw ∧
    (roleActive s 3 0 = true ∨ roleActive s 4 0 = true →
      (pcFails c s).seq.closed = false ∧ (pcFails c s).seq.mainTest = true ∧ (pcFails c s).seq.mainOffAt = s.phys))

/-- R237, R257 to R259, R321, R323: the disconnector. DSC_CLOSE and DSC_OPEN answer a refusal with its code's status and the
sixteen bytes of the strings, which none names, or drive; an opening that finds END_OPEN active is done at once. The brake is released 50 ms after the
drive's supply, the reached end applies it, DME goes off 100 ms later; a close not reached in SEQ.DSC_CLOSE_T, or an opening without END_OPEN in
SEQ.DSC_OPEN_T, leaves it intermediate. An end switch that becomes active ends its opening, and both active stop the drive. -/
def Obligations.DisconnectorIsDriven : Prop :=
  (∀ dt rq t s, Stands s rq 0xA006 t → s.par.pendingRole = false →
    Answers (exec (.dscClose dt rq) s) fun u =>
      let w := atWork dt t s
      let refusal : Option Nat := if p0 s pSeqDscMode = 0 ∨ s.seq.cfgDsc = true then some 0x10
        else if blockBusy s = true ∨ s.seq.step ≠ .none then some 0x11 else dscCloseCheck w
      let items (c : Nat) := (List.replicate 17 0xFF).set 16 c
      (∀ c, refusal = some c → Replied t (itemsStatus 0xA006 (items c)) (itemBytes (List.replicate 16 0xFF)) s u ∧ u.seq = { s.seq with last := c }) ∧
      (refusal = none → u.seq.dscStep = .dscDrive ∧ u.seq.dsc = .closing ∧ u.seq.closeCmd = true ∧ u.seq.dscAt = s.phys + dt ∧
        u.seq.dscFrom = s.phys + dt ∧ u.seq.par = seqPars s)) ∧
  (∀ dt rq t s, Stands s rq 0xA007 t →
    Answers (exec (.dscOpen dt rq) s) fun u =>
      let refusal : Option Nat := if p0 s pSeqDscMode = 0 ∨ s.seq.cfgDsc = true then some 0x10
        else if blockBusy s = true ∨ s.seq.step ≠ .none then some 0x11
        else if roleActive s 3 0 = true ∨ roleActive s 4 0 = true then some 0x14
        else if s.seq.endOpen = true ∧ s.seq.dsc = .opened then some 0x01 else none
      let items (c : Nat) := (List.replicate 17 0xFF).set 16 c
      (∀ c, refusal = some c → Replied t (itemsStatus 0xA007 (items c)) (itemBytes (List.replicate 16 0xFF)) s u ∧ u.seq = { s.seq with last := c }) ∧
      (refusal = none → s.seq.endOpen = true → u.seq.dscStep = .none ∧ u.seq.dsc = .opened ∧ u.seq.last = 0x00 ∧ u.seq.brakeOff = false) ∧
      (refusal = none → s.seq.endOpen = false → u.seq.dscStep = .openDsc ∧ u.seq.dsc = .opening ∧ u.seq.closeCmd = false ∧ u.seq.brakeOff = false ∧ u.seq.dscAt = s.phys + dt)) ∧
  (∀ dt s, s.seq.dscStep = .dscDrive → effectOn (advance dt s) 5 = false →
    Answers (exec (.dscBrakeRelease dt) s) fun t =>
      (50 * msNs ≤ s.phys + dt - s.seq.dscAt → t.seq = { s.seq with brakeOff := true, dscStep := .dscMove, dscAt := s.phys + dt } ∧
        ∀ k, k = 2 ∨ k = 3 ∨ k = 4 → (loopOf t k).state = .running ∧ (loopOf t k).fresh = true) ∧
      (s.phys + dt - s.seq.dscAt < 50 * msNs → t = advance dt s)) ∧
  (∀ dt s, s.seq.dscStep = .dscMove →
    Answers (exec (.dscCloseReached dt) s) fun t =>
      (s.seq.endClosed = true → nearClosed s = true →
        t.seq = { s.seq with brakeOff := false, dscStep := .dscStop, dscAt := s.phys + dt } ∧
          ∀ k, k = 2 ∨ k = 3 ∨ k = 4 → reserved s k = true → (loopOf t k).state = .off) ∧
      (s.seq.endClosed = false ∨ nearClosed s = false → t = advance dt s)) ∧
  (∀ dt s, s.seq.dscStep = .dscStop → s.seq.step ≠ .closeDsc →
    Answers (exec (.dscDmeOff dt) s) fun t =>
      (100 * msNs ≤ s.phys + dt - s.seq.dscAt → t.seq.dsc = .closed ∧ t.seq.dscStep = .none ∧ t.seq.last = 0x00) ∧
      (s.phys + dt - s.seq.dscAt < 100 * msNs → t = advance dt s)) ∧
  (∀ dt s, s.seq.dscStep = .dscDrive ∨ s.seq.dscStep = .dscMove →
    Answers (exec (.dscCloseTimeout dt) s) fun t =>
      (keptN s.seq.par pSeqDscCloseT * 100 * msNs ≤ s.phys + dt - s.seq.dscFrom →
        t.seq.dsc = .intermediate ∧ t.seq.dscStep = .none ∧ t.seq.last = 0x41 ∧ t.seq.brakeOff = false ∧ t.seq.closeCmd = false ∧
          (s.seq.step = .closeDsc → t.seq.step = .none)) ∧
      (s.phys + dt - s.seq.dscFrom < keptN s.seq.par pSeqDscCloseT * 100 * msNs → t = advance dt s)) ∧
  (∀ dt s, s.seq.dscStep = .openDsc →
    Answers (exec (.dscOpenTimeout dt) s) fun t =>
      (keptN s.seq.openPar pSeqDscOpenT * msNs ≤ s.phys + dt - s.seq.dscAt →
        t.seq.dsc = .intermediate ∧ t.seq.dscStep = .none ∧ t.seq.last = 0x42 ∧ (s.seq.step = .openDsc → t.seq.step = .none)) ∧
      (s.phys + dt - s.seq.dscAt < keptN s.seq.openPar pSeqDscOpenT * msNs → t = advance dt s)) ∧
  (∀ dt s, sequencing s = true → p0 s pSeqDscMode = 1 → s.seq.endClosed = false →
    Answers (exec (.endOpenActive dt) s) fun t =>
      t.seq.endOpen = true ∧ t.pos.endBoth = s.pos.endBoth ∧
      (s.seq.dscStep = .openDsc → t.seq.dsc = .opened ∧ t.seq.dscStep = .none) ∧
      (s.seq.dscStep = .none → t.seq.dsc = .opened)) ∧
  (∀ dt s, sequencing s = true → p0 s pSeqDscMode = 1 → s.seq.endOpen = false →
    Answers (exec (.endClosedActive dt) s) fun t =>
      t.seq.endClosed = true ∧ t.pos.endBoth = s.pos.endBoth ∧ (s.seq.dscStep = .none → t.seq.dsc = .closed)) ∧
  (∀ dt s, sequencing s = true → s.seq.endClosed = true → Answers (exec (.endOpenActive dt) s) fun t => t.pos.endBoth = true) ∧
  (∀ dt s, sequencing s = true → s.seq.endOpen = true → Answers (exec (.endClosedActive dt) s) fun t => t.pos.endBoth = true)

/-- R236, R237, R258 to R261: the openings. BLOCK_OPEN is always accepted and begins its wait, or widens an opening under way; the wait over, MP, PCK and PCE go
off and MN follows, each switch-off at its due time. STRING_OPEN takes a closed string out of service and answers an open one with 0x01. STRING_CLEAR
clears a string's LOST, WELD_SUSPECT and G3 latches as it selects, the last only while no condition calls for it. -/
def Obligations.OpeningsAndClears : Prop :=
  (∀ dt rq t s, Stands s rq 0xA002 t →
    Answers (exec (.blockOpen dt rq) s) fun u =>
      let scope := min 2 (num t.payload 0 1)
      let under := s.seq.step = .openWait ∨ s.seq.step = .openMn ∨ s.seq.step = .openWeld ∨ s.seq.step = .openStrings ∨
        s.seq.step = .openTests ∨ s.seq.step = .openDsc
      (¬ under → u.seq.step = .openWait ∧ u.seq.scope = scope ∧ u.seq.waitAt = some (s.phys + dt)) ∧
      (under → u.seq.step = s.seq.step ∧ u.seq.scope = max scope s.seq.scope) ∧ (scope ≠ 0 → ∀ k ∈ u.seq.joins, 16 ≤ k.str)) ∧
  (∀ dt s, s.seq.step = .openWait → roleActive s 3 0 = true ∨ roleActive s 4 0 = true →
    Answers (exec (.openCurrentWaitEnd dt) s) fun t =>
      (waitOver (advance dt s) = true → t.seq.step = .openMn ∧ t.seq.closed = false ∧ t.seq.waitAt = none ∧
        t.lsw = (roleOff 6 0 (roleOff 5 0 (roleOff 3 0 (advance dt s)))).lsw ∧
        ({ role := 4, str := 0, due := s.phys + dt + keptN s.seq.openPar pSeqKGapT * msNs } : OpenItem) ∈ t.seq.opens) ∧
      (waitOver (advance dt s) = false → t = advance dt s)) ∧
  (∀ dt s o os, s.seq.opens = o :: os →
    Answers (exec (.openStagger dt) s) fun t =>
      (s.phys + dt < o.due → t = advance dt s) ∧
      (o.due ≤ s.phys + dt → o.role = 4 → t.seq.opens = os ∧ t.seq.closed = false ∧ t.seq.mainTest = true ∧ t.seq.mainOffAt = s.phys + dt ∧
        (s.seq.step = .openMn → t.seq.step = .openWeld) ∧ t.lsw = (roleOff 4 0 { advance dt s with seq := { s.seq with opens := os } }).lsw) ∧
      (o.due ≤ s.phys + dt → o.role = 2 → t.seq.opens = os ∧ inService t o.str = false ∧ (strOf t o.str).iTest = true ∧
        (strOf t o.str).vTests = 3 ∧ (strOf t o.str).offAt = s.phys + dt ∧ t.lsw = (roleOff 2 o.str { advance dt s with seq := { s.seq with opens := os } }).lsw) ∧
      (o.due ≤ s.phys + dt → o.role = 1 → t.seq = { s.seq with opens := os } ∧ t.lsw = (roleOff 1 o.str { advance dt s with seq := { s.seq with opens := os } }).lsw)) ∧
  (∀ dt rq t s j, Stands s rq 0xA004 t → anyWaits s [0xA001, 0xA003] j = false → (∀ x ∈ s.hub.txns, txnKey x = txnKey t → x.opcode = 0xA004) → j < 16 → num t.payload 0 2 = 2 ^ j → joinOf s j = none →
    Answers (exec (.stringOpen dt rq) s) fun u =>
      let items := (List.replicate 16 0xFF).set j 0x01
      (stringOff s j = true → bit s.seq.openMask.toNat j = false →
        Replied t (itemsStatus 0xA004 items) (itemBytes items) s u ∧ inService u j = inService s j) ∧
      (stringOff s j = false → inService u j = false ∧ bit u.seq.openMask.toNat j = true ∧ (strOf u j).opening = true)) ∧
  (∀ dt rq t s, Stands s rq 0xA005 t → t.role < 2 → bit (num t.payload 0 4) 17 = true ∨ bit (num t.payload 0 4) 18 = true →
    Answers (exec (.stringClear dt rq) s) fun u => Replied t 0x12 [] s u ∧ u.seq = s.seq ∧ u.prt = s.prt) ∧
  (∀ dt rq t s j, Stands s rq 0xA005 t → 2 ≤ t.role → j < 16 → num t.payload 0 4 = 2 ^ 18 + 2 ^ j →
    Answers (exec (.stringClear dt rq) s) fun u =>
      let items := (List.replicate 16 0xFF).set j (if (strOf s j).weld then 0x00 else 0x01)
      Replied t (itemsStatus 0xA005 items) (itemBytes items) s u ∧ (strOf u j).weld = false ∧ u.prt = s.prt) ∧
  (∀ dt rq t s j, Stands s rq 0xA005 t → j < 16 → num t.payload 0 4 = 2 ^ 16 + 2 ^ j →
    Answers (exec (.stringClear dt rq) s) fun u =>
      let items (c : Nat) := (List.replicate 16 0xFF).set j c
      let answer (c : Nat) := Replied t (itemsStatus 0xA005 (items c)) (itemBytes (items c)) s u
      (bit s.prt.g3.toNat j = false → answer 0x01 ∧ u.prt = s.prt) ∧
      (bit s.prt.g3.toNat j = true → g3Called s j = true → answer 0x11 ∧ u.prt = s.prt) ∧
      (bit s.prt.g3.toNat j = true → g3Called s j = false → bit u.prt.g3.toNat j = false))

/-- R270 to R277, R282, R285, R288, R289, R513, Tables 09.6 and 09.7: LOAD_ON, LOAD_OFF and LOAD_CLEAR. Each answers a disabled load with 0x10 and one of another owner
with 0x11. LOAD_ON refuses as the table's order says, starts a load that is admitted and whose HS no earlier request awaits, its LS first, and lets any other wait. LOAD_OFF switches an
active or waiting load off, and answers 0x01 for one that is off. LOAD_CLEAR clears the latches it selects and switches nothing on. A test and the
clearing of FW_MISSING need Service. -/
def Obligations.LoadCommandsSwitchTheirLoads : Prop :=
  (∀ dt rq t s n, Stands s rq 0xB001 t → n < 48 → num t.payload 0 8 = 2 ^ n → num t.payload 8 4 = 0 →
    Answers (exec (.loadOn dt rq) s) fun u =>
      let w := atWork dt t s
      let items (c : Nat) := (List.replicate 48 0xFF).set n c
      let answer (c : Nat) := Replied t (itemsStatus 0xB001 (items c)) (itemBytes (items c)) s u
      (loadDef s n = none → answer 0x10 ∧ loadOf u n = { loadOf s n with last := 0x10 } ∧ u.lsw.queue = s.lsw.queue) ∧
      ((loadDef s n).isSome = true → hostOwned s n = false →
        answer 0x11 ∧ loadOf u n = { loadOf s n with last := 0x11 } ∧ u.lsw.queue = s.lsw.queue) ∧
      (∀ c, hostOwned s n = true → onRefusal w n = some c → answer c ∧ loadOf u n = { loadOf s n with last := c }) ∧
      (hostOwned s n = true → onRefusal w n = none → s.lsw.clock = true → gapFree w = true → admitted w n = true →
        (∀ h, loadHs s n = some h → ∀ m ∈ s.lsw.queue, loadHs s m ≠ some h) →
        active (loadOf u n) = true ∧ (loadOf u n).run = some (defNow s n) ∧ n ∉ u.lsw.queue ∧ ∀ x, loadLs s n = some x → (lsOf u x).on = true) ∧
      (hostOwned s n = true → onRefusal w n = none → s.lsw.clock = false ∨ gapFree w = false ∨ admitted w n = false →
        (loadOf u n).state = .waiting ∧ (loadOf u n).waitAt = s.phys + dt ∧ n ∈ u.lsw.queue ∧ u.hub.sent = s.hub.sent)) ∧
  (∀ dt rq t s, Stands s rq 0xB001 t → bit (num t.payload 8 4) 0 = true → t.role < 2 →
    Answers (exec (.loadOn dt rq) s) fun u => Replied t 0x12 [] s u ∧ u.lsw = s.lsw) ∧
  (∀ dt rq t s n, Stands s rq 0xB002 t → s.hub.txns = [t] → s.par.pendingDef = [] → n < 48 → num t.payload 0 8 = 2 ^ n →
    Answers (exec (.loadOff dt rq) s) fun u =>
      let items (c : Nat) := (List.replicate 48 0xFF).set n c
      let answer (c : Nat) := Replied t (itemsStatus 0xB002 (items c)) (itemBytes (items c)) s u
      (loadDef s n = none → answer 0x10 ∧ loadOf u n = { loadOf s n with last := 0x10 } ∧ u.lsw.queue = s.lsw.queue) ∧
      ((loadDef s n).isSome = true → hostOwned s n = false →
        answer 0x11 ∧ loadOf u n = { loadOf s n with last := 0x11 } ∧ u.lsw.queue = s.lsw.queue) ∧
      (hostOwned s n = true → hsOnly s n = false → active (loadOf s n) = true →
        answer 0x00 ∧ (loadOf u n).state = .off ∧ (loadOf u n).last = 0x00 ∧ ∀ x, loadLs s n = some x → (lsOf u x).on = false) ∧
      (hostOwned s n = true → waits (loadOf s n) = true ∨ (loadOf s n).state = .thermal →
        answer 0x00 ∧ (loadOf u n).state = .off ∧ n ∉ u.lsw.queue) ∧
      (hostOwned s n = true → active (loadOf s n) = false → waits (loadOf s n) = false → (loadOf s n).state ≠ .thermal →
        answer 0x01 ∧ (loadOf u n).state = (loadOf s n).state)) ∧
  (∀ dt rq t s n, Stands s rq 0xB003 t → n < 48 → num t.payload 0 8 = 2 ^ n → bit (num t.payload 8 4) 2 = false →
    Answers (exec (.loadClear dt rq) s) fun u =>
      let f := num t.payload 8 4
      let items (c : Nat) := (List.replicate 48 0xFF).set n c
      let answer (c : Nat) := Replied t (itemsStatus 0xB003 (items c)) (itemBytes (items c)) s u
      (loadDef s n = none → answer 0x10 ∧ loadOf u n = { loadOf s n with last := 0x10 } ∧ u.lsw.queue = s.lsw.queue) ∧
      ((loadDef s n).isSome = true → answer 0x00 ∧ (loadOf u n).last = 0x00 ∧
        (bit f 0 = true → ∀ c ∈ chansOf s n, (chanOf u c).ocLatch = false) ∧
        (bit f 1 = true → (loadOf u n).thLatch = false) ∧ (bit f 1 = false → (loadOf u n).thLatch = (loadOf s n).thLatch) ∧
        (∀ m < 48, active (loadOf u m) = active (loadOf s m)) ∧ ∀ x, (lsOf u x).on = (lsOf s x).on)) ∧
  (∀ dt rq t s, Stands s rq 0xB003 t → bit (num t.payload 8 4) 2 = true → t.role < 2 →
    Answers (exec (.loadClear dt rq) s) fun u => Replied t 0x12 [] s u ∧ u.lsw = s.lsw)

/-- R268, R274 to R291, R509: the events of the load switch array. The 1 ms check takes its measurement, starts the waiting load that is
admitted, none of whose channels is latched, and ends with 0x15 one that fails the clamp energy; a wait that is too long ends with 0x20; an HS follows its LS; an
envelope's end, or a second, ends the item with 0x00 and begins a hold, whose duty is regulated while LSW.P_HOLD stands. A
channel's overcurrent latches it and its loads, a thermal shutdown latches or postpones them, and a thermal restart asks again or gives up. An LG pin gates its
loads off and permits them again; the overload and clamp holds, FW_MISSING and the loss of the array's clock follow their rules. -/
def Obligations.LoadEventsFollowTheirRules : Prop :=
  (∀ dt m s, s.lsw.queue = [] → s.lsw.overload = false →
    Answers (exec (.loadAdmissionCheck dt m) s) fun t => t = takeMeas m (advance dt s) ∧ t.lsw.vload = m.vload ∧
      (∀ i < 40, (lsOf t i).amps = some (mget 0 m.amps i)) ∧ ∀ i < 12, (hsOf t i).amps = some (mget 0 m.amps (40 + i))) ∧
  (∀ dt m s n, s.lsw.queue = [n] → s.lsw.overload = false → s.par.pendingDef = [] → waits (loadOf s n) = true →
    Answers (exec (.loadAdmissionCheck dt m) s) fun t =>
      let w := takeMeas m (advance dt s)
      let short := (loadOf s n).resume = false ∧ s.lsw.locked = false ∧ clampFits w n = false
      (short → (loadOf t n).state = .off ∧ (loadOf t n).last = 0x15 ∧ n ∉ t.lsw.queue) ∧
      (s.lsw.clock = true → gapFree w = true → admitted w n = true → n ∉ huskHeld s → n ∉ gated s → (∀ c ∈ chansOf s n, (chanOf s c).ocLatch = false) →
        active (loadOf t n) = true ∧ (loadOf t n).run = some (defNow s n) ∧ t.lsw.queue = []) ∧
      (¬ short → admitted w n = false ∨ gapFree w = false → t = w)) ∧
  (∀ dt n s, s.par.pendingDef = [] → waits (loadOf s n) = true → (loadOf s n).resume = false ∨ s.lsw.locked = false →
    Answers (exec (.loadStaggerTimeout dt n) s) fun t =>
      (p0 s pLswStaggerMax * msNs ≤ s.phys + dt - (loadOf s n).waitAt →
        (loadOf t n).state = .off ∧ (loadOf t n).last = 0x20 ∧ n ∉ t.lsw.queue) ∧
      (s.phys + dt - (loadOf s n).waitAt < p0 s pLswStaggerMax * msNs → t = advance dt s)) ∧
  (∀ dt n h s, loadHs s n = some h → s.lsw.clock = true → isActive s n = true → (loadOf s n).starting = true →
    Answers (exec (.loadChannelStart dt n) s) fun t =>
      (gapFree (advance dt s) = true → (hsOf t h).on = true ∧ (loadOf t n).starting = false ∧ (loadOf t n).onAt = s.phys + dt) ∧
      (gapFree (advance dt s) = false → t = advance dt s)) ∧
  (∀ dt n s, active (loadOf s n) = true → (loadOf s n).starting = false → (loadOf s n).envDone = false →
    Answers (exec (.loadEnvelopeEnd dt n) s) fun t =>
      ((runDef s n).ends ≤ s.phys + dt - (loadOf s n).onAt →
        (loadOf t n).envDone = true ∧ (loadOf t n).state = if holds s n then .hold else .on) ∧
      (min (runDef s n).ends secNs ≤ s.phys + dt - (loadOf s n).onAt → (loadOf s n).ours = true →
        (loadOf t n).last = 0x00 ∧ (loadOf t n).ours = false)) ∧
  (∀ dt m s n x, n < 48 → loadLs s n = some x → (loadOf s n).state = .hold →
    Answers (exec (.holdRegulation dt m) s) fun t =>
      (holds s n = true → (loadOf t n).duty = (holdDuty (pn s pLswPHold n) m.vload (loadOf s n).duty (mget 0 m.amps x)).1 ∧ (loadOf t n).state = .hold) ∧
      (holds s n = false → (loadOf t n).duty = 10000 ∧ (loadOf t n).state = .on)) ∧
  (∀ p v d a, 500 ≤ (holdDuty p v d a).1 ∧ (holdDuty p v d a).1 ≤ 10000) ∧
  (∀ dt c s, s.par.pendingDef = [] → (chanOf s c).on = true →
    Answers (exec (.channelOvercurrent dt c) s) fun t =>
      (chanOf t c).on = false ∧ (chanOf t c).ocLatch = true ∧
        ∀ n < 48, c ∈ chansOf s n → isActive s n = true → (loadOf t n).state = .latched ∧ (loadOf t n).last = 0x21) ∧
  (∀ dt c s, (chanOf s c).on = false → exec (.channelOvercurrent dt c) s = .next (advance dt s) ∧
    exec (.channelThermalShutdown dt c) s = .next (advance dt s)) ∧
  (∀ dt c s, Answers (exec (.channelThermalWarn dt c) s) fun t =>
      (chanOf t c).warm = true ∧ ((chanOf s c).warm = true → t = advance dt s)) ∧
  (∀ dt c s, s.par.pendingDef = [] → (chanOf s c).on = true →
    Answers (exec (.channelThermalShutdown dt c) s) fun t =>
      (chanOf t c).on = false ∧ (chanOf t c).cooling = true ∧
        ∀ n < 48, c ∈ chansOf s n → isActive s n = true →
          (thermalLatches (advance dt s) n = true → (loadOf t n).state = .latched ∧ (loadOf t n).thLatch = true ∧ (loadOf t n).last = 0x22) ∧
          (thermalLatches (advance dt s) n = false →
            (loadOf t n).state = .thermal ∧ (loadOf t n).resume = true ∧ (loadOf t n).recovAt = some (s.phys + dt))) ∧
  (∀ dt c s, s.par.pendingDef = [] → (chanOf s c).cooling = true →
    Answers (exec (.channelThermalRestart dt c) s) fun t =>
      (chanOf t c).cooling = false ∧
        ∀ n < 48, c ∈ chansOf s n → (loadOf s n).state = .thermal → (loadOf s n).resume = true → (loadOf s n).recovAt.isSome = true →
          ((runDef s n).retryN ≤ (loadOf s n).restarts → (loadOf t n).state = .latched ∧ (loadOf t n).thLatch = true ∧ (loadOf t n).last = 0x23) ∧
          ((loadOf s n).restarts < (runDef s n).retryN →
            (loadOf t n).restarts = satN 255 ((loadOf s n).restarts + 1) ∧ (waits (loadOf t n) = true ∨ active (loadOf t n) = true))) ∧
  (∀ dt n s, isActive s n = true →
    Answers (exec (.loadPhaseEnd dt n) s) fun t =>
      (loadOf t n).phase = phaseNow (advance dt s) n ∧
        (phaseNow (advance dt s) n ≠ (loadOf s n).phase → (loadOf t n).restarts = 0) ∧
        (phaseNow (advance dt s) n = (loadOf s n).phase → t = advance dt s)) ∧
  (∀ dt pin s, s.par.pendingDef = [] → pin < 4 →
    Answers (exec (.lgPinGate dt pin) s) fun t =>
      t.lsw.lg = s.lsw.lg &&& ~~~ BitVec.ofNat 4 (2 ^ pin) ∧
        ∀ n < 48, ∀ w, loadDef s n = some w → bit w 28 = true → bits w 27 26 = pin → n ∉ huskHeld s → (loadOf t n).state = .gated) ∧
  (∀ dt pin s, s.par.pendingDef = [] → pin < 4 →
    Answers (exec (.lgPinPermit dt pin) s) fun t =>
      t.lsw.lg = s.lsw.lg ||| BitVec.ofNat 4 (2 ^ pin) ∧
        ∀ n < 48, (loadDef s n).isSome = true → n ∉ huskHeld s → (loadOf s n).state = .gated →
          n ∉ gated (withLsw s fun a => { a with lg := s.lsw.lg ||| BitVec.ofNat 4 (2 ^ pin) }) →
          ((loadOf s n).resume = false → (loadOf t n).state = .off ∧ (loadOf t n).cmd = false) ∧
          ((loadOf s n).resume = true → waits (loadOf t n) = true ∨ active (loadOf t n) = true)) ∧
  (∀ dt s, Answers (exec (.vloadOver dt) s) fun t =>
      (32000 < loadMean s → t.lsw.overload = true) ∧ (loadMean s ≤ 32000 ∨ s.lsw.overload = true → t = advance dt s)) ∧
  (∀ dt s, s.lsw.locked = true → s.lsw.queue = [] →
    Answers (exec (.clampLockClear dt) s) fun t =>
      let a := s.lsw.clamp * expNeg (((s.phys + dt - s.lsw.clampAt : Nat) : Rat) / (10 * secNs : Nat))
      (a < (p0 s pLswClampESum * 5 : Nat) → t.lsw = { s.lsw with locked := false, clamp := a, clampAt := s.phys + dt }) ∧
      ((p0 s pLswClampESum * 5 : Nat) ≤ a → t = advance dt s)) ∧
  (∀ dt n s, Answers (exec (.m2304Excursion dt n) s) fun t =>
      (m2304 s n = true → (loadOf t n).fwMiss = true) ∧ (m2304 s n = false ∨ (loadOf s n).fwMiss = true → t = advance dt s)) ∧
  (∀ dt s, s.par.pendingDef = [] →
    Answers (exec (.loadSwitchClockLoss dt) s) fun t =>
      t.lsw.clock = false ∧ (∀ h, (hsOf t h).on = false) ∧ (∀ l, (lsOf t l).on = false) ∧
        ∀ n < 48, isActive s n = true → (loadOf t n).state = .off ∧ (loadOf t n).last = 0x20)

/-- R295 to R306, R309, R310, Tables 10.5 and 10.6: LOOP_ENABLE and LOOP_SET of a loop answer as the tables say and start or stop it, or hold its setpoint for its next
evaluation. A control tick, of which there is none without the domain's clock, latches its inputs and the means of running loops, and evaluates the loop that is due by the control law on its measurement; a
loop without one is held, and faults after MISS_MAX misses. An evaluation keeps its measurement, its reference and error in Q15, and its
output within the limits. A ratio that stays invalid for 10 ms faults its loop. -/
def Obligations.LoopsFollowTheirTicks : Prop :=
  (∀ dt rq t s k, Stands s rq 0xC001 t → k < 8 → num t.payload 0 1 = 2 ^ k → num t.payload 1 1 = 0 →
    Answers (exec (.loopEnable dt rq) s) fun u =>
      let items (c : Nat) := (List.replicate 8 0xFF).set k c
      let answer (c : Nat) := Replied t (itemsStatus 0xC001 (items c)) (itemBytes (items c)) s u
      let given := reserved s k = false ∧ cfgMeas (loopCfg s k) ≠ 0 ∧ cfgSink (loopCfg s k) ≠ 0
      (reserved s k = true → answer 0x10 ∧ u.ctl = s.ctl) ∧
      (reserved s k = false → cfgMeas (loopCfg s k) = 0 ∨ cfgSink (loopCfg s k) = 0 → answer 0x11 ∧ u.ctl = s.ctl) ∧
      (given → sinkGated s k = true → answer 0x12 ∧ u.ctl = s.ctl) ∧
      (given → sinkGated s k = false → loopRuns s k = true → (loopOf s k).fresh = false → answer 0x01 ∧ u.ctl = s.ctl) ∧
      (given → sinkGated s k = false → loopRuns s k = false →
        (loopOf u k).state = .running ∧ (loopOf u k).fresh = true ∧ (loopOf u k).i = 0 ∧ (loopOf u k).d = 0 ∧ (loopOf u k).u = 0 ∧
          u.hub.sent = s.hub.sent)) ∧
  (∀ dt rq t s k, Stands s rq 0xC001 t → s.hub.txns = [t] → k < 8 → num t.payload 1 1 = 2 ^ k →
    num t.payload 0 1 = 0 ∨ num t.payload 0 1 = 2 ^ k →
    Answers (exec (.loopEnable dt rq) s) fun u =>
      let items (c : Nat) := (List.replicate 8 0xFF).set k c
      let answer (c : Nat) := Replied t (itemsStatus 0xC001 (items c)) (itemBytes (items c)) s u
      (reserved s k = true → answer 0x10 ∧ u.ctl = s.ctl) ∧
      (reserved s k = false → (loopOf s k).state = .off → answer 0x01 ∧ u.ctl = s.ctl) ∧
      (reserved s k = false → (loopOf s k).state ≠ .off →
        answer 0x00 ∧ (loopOf u k).state = .off ∧ (loopOf u k).u = 0 ∧ (loopOf u k).setp = none)) ∧
  (∀ dt rq t s, Stands s rq 0xC002 t → s.hub.txns = [t] →
    Answers (exec (.loopSet dt rq) s) fun u =>
      let k := num t.payload 0 1 % 8
      let x := signed 16 (num t.payload 1 2)
      let items (c : Nat) := (List.replicate 8 0xFF).set k c
      let answer (c : Nat) := Replied t (itemsStatus 0xC002 (items c)) (itemBytes (items c)) s u
      (reserved s k = true → answer 0x10 ∧ u.ctl = s.ctl) ∧
      (reserved s k = false → loopRuns s k = true → loopOf u k = { loopOf s k with setp := some x } ∧ u.hub.sent = s.hub.sent) ∧
      (reserved s k = false → loopRuns s k = false → mwf s.par.applied = true →
        answer 0x00 ∧ pv u pCtlSetpoint k = x ∧ (loopOf u k).setp = none)) ∧
  (∀ dt ai m s, sequencing s = false ∨ s.husk.pwmOff = true → exec (.controlTick dt ai m) s = .next (advance dt s)) ∧
  (∀ dt ai m s, sequencing s = true → s.husk.pwmOff = false → s.par.staged = [] →
    (∀ k < 8, loopRuns s k = true → (loopOf s k).placed = true → (s.ctl.tick + 1) % max 1 (loopOf s k).div ≠ (loopOf s k).phase) →
    Answers (exec (.controlTick dt ai m) s) fun t =>
      t.ctl.tick = s.ctl.tick + 1 ∧ t.ctl.ai = (ai.take 8).map q15 ∧ t.ctl.aiMean = (m.take 8).map q15 ∧
        ∀ k < 8,
          (loopRuns s k = true → 1 ≤ cfgMeas (loopCfg s k) → cfgMeas (loopCfg s k) ≤ 8 →
            loopOf t k = { loopOf s k with
              aiSum := (loopOf s k).aiSum + ((m.take 8).map q15).getD (cfgMeas (loopCfg s k) - 1) 0, aiN := (loopOf s k).aiN + 1 }) ∧
          (loopRuns s k = false ∨ cfgMeas (loopCfg s k) = 0 ∨ 8 < cfgMeas (loopCfg s k) → loopOf t k = loopOf s k)) ∧
  (∀ dt ai m s k, sequencing s = true → s.husk.pwmOff = false → s.par.staged = [] → k < 8 → loopRuns s k = true → (loopOf s k).placed = true →
    (s.ctl.tick + 1) % max 1 (loopOf s k).div = (loopOf s k).phase → (loopOf s k).setp = none →
    (∀ j < 8, j ≠ k → loopRuns s j = true → (loopOf s j).placed = true → (s.ctl.tick + 1) % max 1 (loopOf s j).div ≠ (loopOf s j).phase) →
    Answers (exec (.controlTick dt ai m) s) fun t =>
      let w := noteMeans (withCtl (advance dt s) fun c => { c with tick := c.tick + 1, ai := (ai.take 8).map q15, aiMean := (m.take 8).map q15 })
      (∀ y, measure w k = some y → loopOf t k = evaluate w k y ∧ t.ctl.tick = s.ctl.tick + 1) ∧
      (measure w k = none → (loopOf s k).fresh = true → reserved s k = false → (loopOf t k).state = .off ∧ (loopOf t k).u = 0) ∧
      (measure w k = none → (loopOf s k).fresh = false → (loopOf s k).missRun + 1 < pn s pCtlMissMax k →
        (loopOf t k).state = .held ∧ (loopOf t k).miss = true ∧ (loopOf t k).missRun = (loopOf s k).missRun + 1 ∧
          (loopOf t k).missN = inc16 (loopOf s k).missN ∧ (loopOf t k).u = (loopOf s k).u) ∧
      (measure w k = none → (loopOf s k).fresh = false → pn s pCtlMissMax k ≤ (loopOf s k).missRun + 1 → reserved s k = false →
        (loopOf t k).state = .fault ∧ (loopOf t k).u = 0 ∧ (loopOf t k).i = 0 ∧ (bit (loopCfg s k) 4 = true → t.seq.brakeOff = false))) ∧
  (∀ s k y, let l := evaluate s k y
    l.state = .running ∧ l.fresh = false ∧ l.miss = false ∧ l.missRun = 0 ∧ l.y = y ∧ -32768 ≤ l.r ∧ l.r ≤ 32767 ∧ l.e = q15 (l.r - y) ∧
      -(2 ^ 39) ≤ l.v ∧ l.v ≤ 2 ^ 39 - 1 ∧
      ((outLimits s k).1 ≤ (outLimits s k).2 → (outLimits s k).1 ≤ l.u ∧ l.u ≤ (outLimits s k).2 ∧
        (l.satHi = true → l.u = (outLimits s k).2) ∧ (l.satHi = false → l.satLo = true → l.u = (outLimits s k).1))) ∧
  (∀ dt k s, loopRuns s k = true → reserved s k = false →
    Answers (exec (.ffInvalidTimeout dt k) s) fun t =>
      ∀ a, (loopOf s k).ffAt = some a →
        (10 * msNs ≤ s.phys + dt - a → (loopOf t k).state = .fault ∧ (loopOf t k).u = 0 ∧ (bit (loopCfg s k) 4 = true → t.seq.brakeOff = false)) ∧
        (s.phys + dt - a < 10 * msNs → t = advance dt s)) ∧
  (∀ dt k s, loopRuns s k = false ∨ (loopOf s k).ffAt = none → exec (.ffInvalidTimeout dt k) s = .next (advance dt s))

/-- R314 to R329, R331, Tables 11.5 and 11.6, with a disconnector that is not motor-driven where the whole module could follow: POS_ARM and POS_PRESET answer as the tables say and arm
or set the channel they name. A sample of the observer, of which there is none without the domain's clock, tracks both channels, gives a valid channel its count and releases the end switches. Sixty-four good
samples lock a channel; two bad vectors or four bad errors lose it, and its reference with it. The index sets a count to the nearest whole line of its
position; timed speed takes an interval of one direction; speed stays valid for 2 ms after a loss; a compare pulse ends when its time is over; and an
entry takes up its state without firing. -/
def Obligations.PositionFollowsItsSamples : Prop :=
  (∀ dt rq t s ch, Stands s rq 0xD001 t → ch < 2 → num t.payload 0 1 = 2 ^ ch →
    Answers (exec (.posArm dt rq) s) fun u =>
      let items (c : Nat) := (List.replicate 2 0xFF).set ch c
      let answer (c : Nat) := Replied t (itemsStatus 0xD001 (items c)) (itemBytes (items c)) s u
      let may := posEnabled s ch = true ∧ pn s pPosIdxMode ch = 2
      (¬ may → answer 0x10 ∧ u.pos = s.pos) ∧
      (may → (chanAt s ch).armed = true → answer 0x01 ∧ u.pos = s.pos) ∧
      (may → (chanAt s ch).armed = false → answer 0x00 ∧ chanAt u ch = { chanAt s ch with armed := true } ∧ chanAt u (1 - ch) = chanAt s (1 - ch))) ∧
  (∀ dt rq t s ch, Stands s rq 0xD002 t → ch < 2 → num t.payload 0 1 = 2 ^ ch →
    Answers (exec (.posPreset dt rq) s) fun u =>
      let items (c : Nat) := (List.replicate 2 0xFF).set ch c
      let answer (c : Nat) := Replied t (itemsStatus 0xD002 (items c)) (itemBytes (items c)) s u
      let driven := ch = 0 ∧ p0 s pSeqDscMode = 1
      (posEnabled s ch = false → answer 0x10 ∧ u.pos = s.pos) ∧
      (posEnabled s ch = true → driven → answer 0x12 ∧ u.pos = s.pos) ∧
      (posEnabled s ch = true → ¬ driven → (chanAt s ch).lock ≠ .locked → answer 0x11 ∧ u.pos = s.pos) ∧
      (posEnabled s ch = true → ¬ driven → (chanAt s ch).lock = .locked →
        answer 0x00 ∧ (chanAt u ch).ref = true ∧ (chanAt u ch).count = wrap32 (posCounts s ch (signed 32 (num t.payload 1 4))) ∧
          liveCount u ch (chanAt u ch) + (chanAt u ch).offset = (chanAt u ch).count ∧ chanAt u (1 - ch) = chanAt s (1 - ch))) ∧
  (∀ dt x y a b s, sequencing s = false ∨ s.husk.pwmOff = true → exec (.observerSample dt x y a b) s = .next (advance dt s)) ∧
  (∀ dt x y a b s, sequencing s = true → s.husk.pwmOff = false → s.par.staged = [] → p0 s pSeqDscMode ≠ 1 → s.pos.slp = false →
    Answers (exec (.observerSample dt x y a b) s) fun t =>
      t.seq.endOpen = (s.seq.endOpen && a) ∧ t.seq.endClosed = (s.seq.endClosed && b) ∧ t.pos.endBoth = (s.seq.endOpen && a && (s.seq.endClosed && b)) ∧
        ∀ ch < 2,
          (posEnabled s ch = false → (chanAt t ch).lock = .disabled ∧ (chanAt t ch).valid = false) ∧
          (posEnabled s ch = true →
            let c := track s ch (if ch = 0 then x else y) (chanAt s ch)
            (chanAt t ch).theta = c.theta ∧ (chanAt t ch).omega = c.omega ∧ (chanAt t ch).err = c.err ∧ (chanAt t ch).mag2 = c.mag2 ∧
              ((chanAt t ch).valid = true → (chanAt t ch).count = wrap32 (liveCount s ch c + (chanAt t ch).offset)))) ∧
  (∀ s ch, (chanAt s ch).lock ≠ .locked → let good := magFits s ch (chanAt s ch) && decide (ratAbs (chanAt s ch).err < 1 / 16)
    let c := chanAt (judgeLock ch s) ch
    (good = true → 63 ≤ (chanAt s ch).good → c.lock = .locked ∧ c.spdValid = true) ∧
      (good = true → (chanAt s ch).good < 63 → c = { chanAt s ch with good := (chanAt s ch).good + 1 }) ∧
      (good = false → c = { chanAt s ch with good := 0 })) ∧
  (∀ s ch, p0 s pSeqDscMode ≠ 1 → (chanAt s ch).lock = .locked → let e := ratAbs (chanAt s ch).err
    let old := chanAt s ch
    let c := chanAt (judgeLock ch s) ch
    let lost := c.lock = .lost ∧ c.ref = false ∧ c.count = old.count ∧ c.speed = old.speed ∧ c.losses = inc16 old.losses ∧ c.supp = true ∧ c.lossAt = some s.phys
    (magFits s ch old = false → 1 ≤ old.badMag → lost) ∧ (1 / 8 < e → 3 ≤ old.badErr → lost) ∧
      (magFits s ch old = true ∨ old.badMag = 0 → e ≤ 1 / 8 ∨ old.badErr < 3 →
        c.lock = .locked ∧ c.ref = old.ref ∧ c.badMag = (if magFits s ch old then 0 else 1) ∧ c.badErr = if 1 / 8 < e then old.badErr + 1 else 0)) ∧
  (∀ dt ch s, Answers (exec (.spdValidExpiry dt ch) s) fun t =>
      (∀ l, (chanAt s ch).lossAt = some l → 2 * msNs ≤ s.phys + dt - l →
        chanAt t ch = { chanAt s ch with spdValid := false, extrap := false, lossAt := none }) ∧
      (∀ l, (chanAt s ch).lossAt = some l → s.phys + dt - l < 2 * msNs → t = advance dt s) ∧
      ((chanAt s ch).lossAt = none → t = advance dt s)) ∧
  (∀ dt pin s, mwf s.pos.pulses = true →
    Answers (exec (.cmpPulseEnd dt pin) s) fun t =>
      (∀ e, mfind s.pos.pulses pin = some e → e ≤ s.phys + dt → mfind t.pos.pulses pin = none ∧ ∀ q, q ≠ pin → mfind t.pos.pulses q = mfind s.pos.pulses q) ∧
      (∀ e, mfind s.pos.pulses pin = some e → s.phys + dt < e → t = advance dt s) ∧
      (mfind s.pos.pulses pin = none → t = advance dt s)) ∧
  (∀ dt ch s, Answers (exec (.indexEdge dt ch) s) fun t =>
      let c := chanAt s ch
      let mode := pn s pPosIdxMode ch
      let takes := sequencing s && c.lock == .locked && c.quad == pn s pPosIdxQuad ch && (mode == 1 || (mode == 2 && c.armed))
      let target := posCounts s ch (pv s pPosIdxPos ch)
      (takes = true → ∃ n : Int, (chanAt t ch).offset = n * 4096 ∧ (liveCount s ch c + n * 4096 - target).natAbs ≤ 2048 ∧
        (chanAt t ch).count = wrap32 (liveCount s ch c + n * 4096) ∧ (chanAt t ch).ref = true ∧ (chanAt t ch).armed = false ∧
          (chanAt t ch).entries = []) ∧
      (takes = false → t = advance dt s)) ∧
  (∀ dt ch up n s, Answers (exec (.timedSpeedCrossing dt ch up n) s) fun t =>
      (sequencing s = true → (chanAt s ch).lock = .locked →
        (chanAt t ch).crossAt = some (s.phys + dt) ∧ (chanAt t ch).crossUp = up ∧
          ((chanAt s ch).crossAt = none → (chanAt t ch).timed = (chanAt s ch).timed) ∧
          ((chanAt s ch).crossAt.isSome = true → (chanAt s ch).crossUp = up → (chanAt t ch).timed = some (n, up) ∧ (chanAt t ch).dirChg = false) ∧
          ((chanAt s ch).crossAt.isSome = true → (chanAt s ch).crossUp ≠ up → (chanAt t ch).timed = none ∧ (chanAt t ch).dirChg = true)) ∧
      (sequencing s = false ∨ (chanAt s ch).lock ≠ .locked → t = advance dt s)) ∧
  (∀ ch s d, mfind (chanAt s ch).entries (d.1 % 16) = none →
    let t := evalCmp ch s d
    t.log = s.log ∧ t.met = s.met ∧ t.pos.pulses = s.pos.pulses ∧
      (mfind (chanAt t ch).entries (d.1 % 16)).map (·.above) = some (decide (posCounts s ch d.2.2.1 ≤ (chanAt s ch).count))) ∧
  (∀ d s, let p := (quadOut d s).pos
    p.qoAcc.natAbs < max 1 (p0 s pPosQoDiv) ∧ p.qoPhase < 4 ∧ (p.qoOvr = true ↔ p.qoPend ≠ 0))

/-- R334, R335, R337, R341 to R347: a read of the module sensors gives each its code and takes the stop from the two stop levels, stated where
no actuator entry is in force and no stop begins with the read. A sensor with an implausible conversion reads hottest, and again its value after 10 s of
plausible ones; a level or entry changes when its condition has lasted its dwell, and HOVER pins the hotter side after too many changes. A level is active above its limit
and not below its hysteresis. TS_AON is read once a second. ACTUATOR_RETRY asks again for the load of an active entry that failed THM.RETRY_T before. -/
def Obligations.ThermalManagerFollowsItsSensors : Prop :=
  (∀ dt rd s, podUp s = false → exec (.moduleSensorRead dt rd) s = .next (advance dt s)) ∧
  (∀ dt rd s, podUp s = true → s.thm.defs = [] → (∀ e < 16, bit (pn s pThmActDef e) 31 = false) →
    s.thm.stop = true ∨ (0 < p0 s pThmDwell ∧ ∀ i, i = 2 ∨ i = 3 → (levelOf s i).active = false ∧ (levelOf s i).hover = false ∧ (levelOf s i).since = none) →
    Answers (exec (.moduleSensorRead dt rd) s) fun t =>
      let now := s.phys + dt
      let after (i : Nat) (r : Option Int) := (sensorStep now (sensorOf s i) ((sensorOf s i).at_.map (now - ·)) r).code
      (sensorOf t 0).code = after 0 rd.die ∧ (sensorOf t 2).code = (if aonDue (advance dt s) then after 2 rd.aon else (sensorOf s 2).code) ∧ (sensorOf t 3).code = after 3 rd.baseA ∧
        (sensorOf t 4).code = after 4 rd.baseB ∧ (sensorOf t 1).code = (if hvPowered s then after 1 rd.hv else (sensorOf s 1).code) ∧
        t.thm.lastRead = some now ∧ t.thm.stop = ((levelOf t 2).active || (levelOf t 3).active) ∧
        (levelOf t 0).input = baseTemp t ∧ (levelOf t 1).input = dieTemp t) ∧
  (∀ now x d r, sensorBad x d r = true → (sensorStep now x d r).code = hottest ∧ (sensorStep now x d r).bad = true ∧ (sensorStep now x d r).goodAt = none) ∧
  (∀ now x d v, sensorBad x d (some v) = false → let y := sensorStep now x d (some v);
    -5500 ≤ v ∧ v ≤ 15000 ∧ y.prev = some v ∧ (x.bad = false → y.code = v ∧ y.bad = false) ∧
      (∀ g, x.bad = true → x.goodAt = some g → 10 * secNs ≤ now - g → y.code = v ∧ y.bad = false) ∧
      (∀ g, x.bad = true → x.goodAt = some g → now - g < 10 * secNs → y.code = hottest ∧ y.bad = true ∧ y.goodAt = some g) ∧
      (x.bad = true → x.goodAt = none → y.code = hottest ∧ y.bad = true ∧ y.goodAt = some now)) ∧
  (∀ now dwell n hot e r, let due := if e.hover then r.leaves2 else if e.active then r.leaves else r.enters
    let e' := actStep now dwell n hot e r
    (due = false → e' = { e with since := none }) ∧
      (∀ t, due = true → e.since = some t → now - t < dwell → e' = e) ∧
      (due = true → e.since = none → 0 < dwell → e' = { e with since := some now }) ∧
      (∀ t, due = true → e.since = some t → dwell ≤ now - t → e.hover = true →
        e'.active = !e.active ∧ e'.hover = false ∧ e'.toggles = []) ∧
      (∀ t, due = true → e.since = some t → dwell ≤ now - t → e.hover = false →
        let made := (e.toggles.filter fun x => decide (now - x < 3600 * secNs)).length + 1
        e'.toggles.length = made ∧ (made ≤ n → e'.active = !e.active ∧ e'.hover = false) ∧ (n < made → e'.active = hot ∧ e'.hover = true))) ∧
  (∀ s i, i < 4 → (levelOf s i).hover = false → 0 ≤ pv s pThmHyst 0 →
    let t := evalLevel s i
    let x := levelTemp s i
    (levelOf t i).input = x ∧
      (∀ a, x < levelLimit s i → (levelOf s i).active = a → (x < levelLimit s i - pv s pThmHyst 0 → a = false) → (levelOf t i).active = a) ∧
      (levelLimit s i ≤ x → (levelOf s i).active = true → (levelOf t i).active = true) ∧
      (∀ g, levelLimit s i ≤ x → (levelOf s i).active = false → (levelOf s i).since = some g → p0 s pThmDwell * 100 * msNs ≤ s.phys - g →
        (levelOf t i).active = true)) ∧
  (∀ dt e s, (mfind s.thm.defs e).isNone = true ∨ podUp s = false ∨ (entryOf s e).active = false ∨ (entryOf s e).failed = false →
    exec (.actuatorRetry dt e) s = .next (advance dt s)) ∧
  (∀ dt e s w f, mfind s.thm.defs e = some w → podUp s = true → (entryOf s e).active = true → (entryOf s e).failed = true →
    (entryOf s e).failedAt = some f → p0 s pThmRetryT * secNs ≤ s.phys + dt - f →
    Answers (exec (.actuatorRetry dt e) s) fun t =>
      let n := actLoad w.toNat
      (∀ c, onRefusal (advance dt s) n = some c → (loadOf t n).last = c ∧ (loadOf t n).state = (loadOf s n).state) ∧
      (onRefusal (advance dt s) n = none → waits (loadOf t n) = true ∨ active (loadOf t n) = true))

/-- R392, R394: BULB_ENTRY, once the rails are down after a Bulb power-down, enters Bulb and stops the always-on clock; WAKE from an enabled source starts it
again and waits for AUX_IN; WAKE_TIMEOUT, 60 s later, goes back to Bulb and counts the wake. Each answers exactly this state. -/
def Obligations.BulbCommandsComplete : Prop :=
  (∀ dt s, s.pow.phase = .off → s.pow.endReason = 0x22 →
    exec (.bulbEntry dt) s = .next (toPhase .bulb (withPow (advance dt s) fun w => { w with aonClock := false }))) ∧
  (∀ dt wakeIn s, s.pow.phase = .bulb → bit s.pow.wakeSrc (b2n wakeIn) = true →
    exec (.wake dt wakeIn) s = .next (toPhase .bulbWake (withPow (advance dt s) fun w => { w with aonClock := true, auxOk := false }))) ∧
  (∀ dt s, s.pow.phase = .bulbWake → 60 * secNs ≤ s.phys + dt - s.pow.phaseAt →
    exec (.wakeTimeout dt) s =
      .next (toPhase .bulb (withPow (advance dt s) fun w => { w with aonClock := false, wakes := satN 255 (w.wakes + 1) })))

/-- R337, R338, R362, R385, R389: THERMAL_HARD_LIMIT at 118 °C of the base plate or 150 °C of the always-on sensor, in Normal, begins the power-down with reason THERMAL;
THERMAL_RESTART, both readings having stood at 95 °C and 120 °C or below for 60 s with AUX_IN good, begins a cold start;
SUPERVISOR_RESTART of cores held in reset is a counted reset start. -/
def Obligations.ThermalAndSupervisorComplete : Prop :=
  (∀ dt a b s, s.pow.phase = .normal → 11800 ≤ a ∨ 15000 ≤ b →
    Answers (exec (.thermalHardLimit dt a b) s) fun t =>
      t = goDown 0x02 0x20 (advance dt s) ∧ t.pow.phase = .powerDown ∧ t.pow.endReason = 0x20) ∧
  (∀ dt a b n s, s.pow.phase = .thermal → a ≤ 9500 → b ≤ 12000 → s.pow.restartOk = some n → 60 * secNs ≤ s.phys + dt - n →
    s.pow.auxOk = true →
    Answers (exec (.thermalRestart dt a b) s) fun t => t = beginCold (advance dt s) ∧ t.pow.phase = .rails) ∧
  (∀ dt s, s.pow.phase = .normal ∨ s.pow.phase = .cress → s.pod.heldReset = true →
    Answers (exec (.supervisorRestart dt) s) fun t =>
      t = failStart 0x16 0 0 0x5 false (withPow (advance dt s) fun w => { w with retRecord := [] }) ∧
        t.pow.phase = .retry ∧ t.pow.endReason = 0x16)

/-- R404: in Normal a crossing of AUX_IN or BATT_AUX is taken, its warning set below its threshold and cleared 0.5 V above it, and either change
posts AUX_WARN or BATT_WARN with the new state and the measured voltage; a value between leaves the warning as it is. -/
def Obligations.SupplyWarningsComplete : Prop :=
  (∀ dt x s, level s = 2 →
    let w := withPow (advance dt s) fun p => { p with auxIn := x }
    let turn (on : Bool) : State := post .auxWarn 0xFF 0 ([BitVec.ofNat 8 (b2n on), 0] ++ le 2 x) (withPow w fun p => { p with auxWarn := on })
    (s.pow.auxWarn = false → x < p0 s pPwrAuxWarn → exec (.auxWarnCrossing dt x) s = .next (turn true)) ∧
    (s.pow.auxWarn = true → p0 s pPwrAuxWarn + 50 ≤ x → exec (.auxWarnCrossing dt x) s = .next (turn false)) ∧
    (p0 s pPwrAuxWarn ≤ x → x < p0 s pPwrAuxWarn + 50 → exec (.auxWarnCrossing dt x) s = .next w)) ∧
  (∀ dt x s, level s = 2 →
    let w := withPow (advance dt s) fun p => { p with battAux := x }
    let turn (on : Bool) : State := post .battWarn 0xFF 0 ([BitVec.ofNat 8 (b2n on), 0] ++ le 2 x) (withPow w fun p => { p with battWarn := on })
    (s.pow.battWarn = false → x < p0 s pPwrBattWarn → exec (.battWarnCrossing dt x) s = .next (turn true)) ∧
    (s.pow.battWarn = true → p0 s pPwrBattWarn + 50 ≤ x → exec (.battWarnCrossing dt x) s = .next (turn false)) ∧
    (p0 s pPwrBattWarn ≤ x → x < p0 s pPwrBattWarn + 50 → exec (.battWarnCrossing dt x) s = .next w))

/-- R268, R274, R276 to R278: LOAD_ADMISSION_CHECK with nothing waiting and no overload held takes its measurement; LOAD_STAGGER_TIMEOUT switches a request off that
has waited LSW.STAGGER_MAX, with 0x20; LOAD_CHANNEL_START switches on the HS of a starting load one gap after its LS; LOAD_ENVELOPE_END checks the envelope of the
load it names; HOLD_REGULATION takes its measurement and gives each load its hold's step, in ascending number. -/
def Obligations.LoadAdmissionCommandsComplete : Prop :=
  (∀ dt m s, s.lsw.queue = [] → s.lsw.overload = false → exec (.loadAdmissionCheck dt m) s = .next (takeMeas m (advance dt s))) ∧
  (∀ dt n s, waits (loadOf s n) = true → (loadOf s n).resume = false → p0 s pLswStaggerMax * msNs ≤ s.phys + dt - (loadOf s n).waitAt →
    exec (.loadStaggerTimeout dt n) s = .next (loadGoesOff .off (some 0x20) false n (advance dt s))) ∧
  (∀ dt n h s, loadHs s n = some h → s.lsw.clock = true → isActive s n = true → (loadOf s n).starting = true → gapFree (advance dt s) = true →
    (hsOf s h).on = false → exec (.loadChannelStart dt n) s = .next (loadIsOn n (chanOn (.hs h) (advance dt s)))) ∧
  (∀ dt n s, exec (.loadEnvelopeEnd dt n) s = .next (envelopeCheck n (advance dt s))) ∧
  (∀ dt m s, exec (.holdRegulation dt m) s = .next ((List.range 48).foldl (fun s n => holdStep n s) (takeMeas m (advance dt s))))

/-- R282, R283, R285: the four channel events. CHANNEL_OVERCURRENT and CHANNEL_THERMAL_SHUTDOWN of a channel that is on leave it off, the second cooling; with no
active load on it nothing else follows. CHANNEL_THERMAL_WARN is recorded once per entry. CHANNEL_THERMAL_RESTART ends the cooling, and with no load that awaits it
does no more. -/
def Obligations.ChannelEventsComplete : Prop :=
  (∀ dt c s, (chanOf s c).on = true →
    Answers (exec (.channelOvercurrent dt c) s) fun t => (chanOf t c).on = false ∧
      ((∀ n ∈ loadsOn s c, isActive s n = false) → t = modChan c (fun k => { k with on := false }) (modChan c (fun k => { k with ocLatch := true }) (advance dt s)))) ∧
  (∀ dt c s, (chanOf s c).warm = false →
    exec (.channelThermalWarn dt c) s =
      .next (post .loadThWarn (chanKind c).1 (chanKind c).2 [] (modChan c (fun k => { k with warm := true }) (advance dt s)))) ∧
  (∀ dt c s, (chanOf s c).on = true →
    Answers (exec (.channelThermalShutdown dt c) s) fun t => (chanOf t c).on = false ∧ (chanOf t c).cooling = true ∧
      ((∀ n ∈ loadsOn s c, isActive s n = false) → t = modChan c (fun k => { k with cooling := true }) (modChan c (fun k => { k with on := false }) (advance dt s)))) ∧
  (∀ dt c s, (chanOf s c).cooling = true → (∀ n ∈ loadsOn s c, (loadOf s n).state ≠ .thermal) →
    exec (.channelThermalRestart dt c) s = .next (modChan c (fun k => { k with cooling := false }) (advance dt s)))

/-- R268, R279, R281, R284, R285, R287, R288, R291, R509: the other events of the load switch array. LOAD_PHASE_END of an active load ends its phase; the LG pins gate and permit by
their state; VLOAD_OVER above 32 A holds admissions; CLAMP_LOCK_CLEAR below half the sum clears the lock; M2304_EXCURSION sets FW_MISSING once;
LOAD_SWITCH_CLOCK_LOSS turns every channel off. -/
def Obligations.LoadArrayEventsComplete : Prop :=
  (∀ dt n s, isActive s n = true → exec (.loadPhaseEnd dt n) s = .next (phaseEnds n (advance dt s))) ∧
  (∀ dt pin s, exec (.lgPinGate dt pin) s = .next (meetHolds (withLsw (advance dt s) fun a => { a with lg := a.lg &&& ~~~ BitVec.ofNat 4 (2 ^ pin) }))) ∧
  (∀ dt pin s, exec (.lgPinPermit dt pin) s = .next (meetHolds (withLsw (advance dt s) fun a => { a with lg := a.lg ||| BitVec.ofNat 4 (2 ^ pin) }))) ∧
  (∀ dt s, 32000 < loadMean s → s.lsw.overload = false →
    exec (.vloadOver dt) s = .next (post .vloadOver 0xFF 0 [] (withLsw (advance dt s) fun a => { a with overload := true }))) ∧
  (∀ dt s, s.lsw.locked = true → s.lsw.queue = [] →
    let a := s.lsw.clamp * expNeg (((s.phys + dt - s.lsw.clampAt : Nat) : Rat) / (10 * secNs : Nat))
    a < (p0 s pLswClampESum * 5 : Nat) →
    exec (.clampLockClear dt) s = .next (withLsw (advance dt s) fun x => { x with locked := false, clamp := a, clampAt := s.phys + dt })) ∧
  (∀ dt n s, m2304 s n = true → (loadOf s n).fwMiss = false →
    exec (.m2304Excursion dt n) s = .next (post .fwMissing 5 n [] (modLoad n (fun l => { l with fwMiss := true }) (advance dt s)))) ∧
  (∀ dt s, Answers (exec (.loadSwitchClockLoss dt) s) fun t =>
      t.lsw.clock = false ∧ (∀ h, (hsOf t h).on = false) ∧ (∀ l, (lsOf t l).on = false))

/-- R314, R317, R319, R322, R327, R330: the position events. A sample of the observer, with the section up and its clock running, samples both channels in their order; SPD_VALID_EXPIRY 2 ms after a loss
ends the validity of speed; CMP_PULSE_END over its time lets its pin fall; INDEX_EDGE in its quadrant references a locked channel; a timed crossing of a
locked channel is kept with its direction. -/
def Obligations.PositionEventsComplete : Prop :=
  (∀ dt x y a b s, sequencing s = true → s.husk.pwmOff = false →
    let w := samplePos 1 y (samplePos 0 x (takeTable (endReleased a b (advance dt s))))
    exec (.observerSample dt x y a b) s = .next (posIdleApply (followSlp (followCreep (if p0 w pPosQoSrc = 2 then quadOff w else w))))) ∧
  (∀ dt ch l s, (chanAt s ch).lossAt = some l → 2 * msNs ≤ s.phys + dt - l →
    exec (.spdValidExpiry dt ch) s =
      .next (modPos ch (fun c => { c with spdValid := false, extrap := false, lossAt := none }) (advance dt s))) ∧
  (∀ dt pin e s, mfind s.pos.pulses pin = some e → e ≤ s.phys + dt →
    Answers (exec (.cmpPulseEnd dt pin) s) fun t => t.pos.pulses = mdel s.pos.pulses pin) ∧
  (∀ dt ch s, sequencing s = true → (chanAt s ch).lock = .locked → (chanAt s ch).quad = pn s pPosIdxQuad ch →
    pn s pPosIdxMode ch = 1 ∨ (pn s pPosIdxMode ch = 2 ∧ (chanAt s ch).armed = true) →
    exec (.indexEdge dt ch) s = .next (reference ch (posCounts s ch (pv s pPosIdxPos ch)) true (advance dt s))) ∧
  (∀ dt ch up n s, sequencing s = true → (chanAt s ch).lock = .locked →
    Answers (exec (.timedSpeedCrossing dt ch up n) s) fun t => (chanAt t ch).crossAt = some (s.phys + dt) ∧ (chanAt t ch).crossUp = up ∧
      ((chanAt s ch).crossAt.isSome = true → (chanAt s ch).crossUp = up → (chanAt t ch).timed = some (n, up)))

/-- R331, Table 11.5: POS_ARM of one channel that is enabled with POS.IDX_MODE 2 and not armed, and POS_PRESET of one that is enabled, locked and not driven by
sequencing, are done: the channel is armed, or takes its count and REF, and the completion carries its result 0x00. -/
def Obligations.PositionCommandsComplete : Prop :=
  (∀ dt rq t s ch, Stands s rq 0xD001 t → ch < 2 → num t.payload 0 1 = 2 ^ ch → posEnabled s ch = true → pn s pPosIdxMode ch = 2 →
    (chanAt s ch).armed = false →
    Answers (exec (.posArm dt rq) s) fun u =>
      Replied t 0x00 (itemBytes ((List.replicate 2 0xFF).set ch 0x00)) s u ∧ chanAt u ch = { chanAt s ch with armed := true }) ∧
  (∀ dt rq t s ch, Stands s rq 0xD002 t → ch < 2 → num t.payload 0 1 = 2 ^ ch → posEnabled s ch = true →
    ¬ (ch = 0 ∧ p0 s pSeqDscMode = 1) → (chanAt s ch).lock = .locked →
    Answers (exec (.posPreset dt rq) s) fun u =>
      Replied t 0x00 (itemBytes ((List.replicate 2 0xFF).set ch 0x00)) s u ∧ (chanAt u ch).ref = true ∧
        (chanAt u ch).count = wrap32 (posCounts s ch (signed 32 (num t.payload 1 4))))

/-- The capacities of the headline figures (Table 01.9), as what is added keeps them: the event FIFO never holds more than 64 reserved and 960 general entries, a
reserved one always of class 0; a ledger of at most 16,384 records has a slot free wherever a record is given room; the transaction table
gives an entry only from a pool of 64 or 960 that has one free; a captured buffer lies within 262,144 words; and the catalogue has 2,614 IDs. -/
def Obligations.HeadlineCapacitiesHold : Prop :=
  (∀ now e l, e.reserved = false →
    let fits (f : List Event) := (f.filter (·.reserved)).length ≤ 64 ∧ (f.filter fun x => !x.reserved).length ≤ 960 ∧ ∀ x ∈ f, x.reserved = true → x.cls = 0
    fits l.fifo → fits (fifoPlace now e l).fifo) ∧
  (∀ hold reserve cls lost l l', l.records.length ≤ ledgerSlots → makeRoom hold reserve cls lost l = some l' → l'.records.length < ledgerSlots) ∧
  (∀ s p c, (entryFor s p c = some true → reservedUsed s < 64) ∧ (entryFor s p c = some false → generalUsed s < 960)) ∧
  (∀ words pct, capDepth words * words ≤ 262144 ∧ (pct ≤ 100 → capPre words pct ≤ capDepth words)) ∧
  catalogueIds.length = 2614
end

