-- ==== Sys2Proof/Laws/Parts.lean ====
section
/-!
SUPPORT. The relation "differs at most in these parts" under record updates, choices and loops, and the outcome of a command.
-/
namespace Sys2Proof.Machine
open Sys2Proof

/-! ### The relation "differs at most in these parts" -/

@[simp] theorem only_self (qs : List Part) (s : State) : Only qs s s := by
  intro p _; cases p <;> rfl

theorem Only.trans {ps : List Part} {s t u : State} (h : Only ps s t) (k : Only ps t u) : Only ps s u := by
  intro p hp; have a := h p hp; have b := k p hp
  cases p <;> exact Eq.trans b a

theorem Only.mono {ps qs : List Part} {s t : State} (h : Only ps s t) (k : ∀ p ∈ ps, p ∈ qs) : Only qs s t :=
  fun p hp => h p fun m => hp (k p m)

theorem Only.symm {ps : List Part} {s t : State} (h : Only ps s t) : Only ps t s := by
  intro p hp; have a := h p hp
  cases p <;> exact Eq.symm a

/-- A state made from `t` by a change of parts in `qs` differs from `s` in `qs` alone exactly where `t` does. -/
theorem Only.iff {ps qs : List Part} {s t u : State} (h : Only ps t u) (k : ∀ p ∈ ps, p ∈ qs) :
    Only qs s u ↔ Only qs s t :=
  ⟨fun a => a.trans (h.mono k).symm, fun a => a.trans (h.mono k)⟩

@[simp] theorem only_ite (qs : List Part) (c : Prop) [Decidable c] (s a b : State) :
    Only qs s (if c then a else b) ↔ if c then Only qs s a else Only qs s b := by split <;> rfl

@[simp] theorem only_foldl {α : Type} (f : State → α → State) (qs : List Part) (h : ∀ t x, Only qs t (f t x)) (l : List α) (s t : State) :
    Only qs s (l.foldl f t) ↔ Only qs s t := by
  induction l generalizing t with
  | nil => rfl
  | cons x l ih => exact (ih (f t x)).trans (Only.iff (h t x) fun _ m => m)

theorem only_next {qs : List Part} {s a t : State} (h : (Host.Outcome.next a : Out) = .next t) (k : Only qs s a) : Only qs s t := by
  cases h; exact k

@[simp] theorem only_phys (qs : List Part) (s t : State) (x) (h : Part.phys ∈ qs) :
    Only qs s { t with phys := x } ↔ Only qs s t := by
  refine Only.iff (ps := qs) (fun p hp => ?_) (fun _ m => m)
  cases p <;> first | rfl | exact absurd h hp

@[simp] theorem only_free (qs : List Part) (s t : State) (x) (h : Part.free ∈ qs) :
    Only qs s { t with free := x } ↔ Only qs s t := by
  refine Only.iff (ps := qs) (fun p hp => ?_) (fun _ m => m)
  cases p <;> first | rfl | exact absurd h hp

@[simp] theorem only_pow (qs : List Part) (s t : State) (x) (h : Part.pow ∈ qs) (he : Part.epoch ∈ qs ∨ x.epoch = t.pow.epoch) (ha : Part.aonOn ∈ qs ∨ x.aonOn = t.pow.aonOn) :
    Only qs s { t with pow := x } ↔ Only qs s t := by
  refine Only.iff (ps := qs) (fun p hp => ?_) (fun _ m => m)
  cases p <;> first | rfl | exact absurd h hp | exact he.resolve_left hp | exact ha.resolve_left hp

@[simp] theorem only_pod (qs : List Part) (s t : State) (x) (h : Part.pod ∈ qs) (ho : Part.otp ∈ qs ∨ x.otp = t.pod.otp) :
    Only qs s { t with pod := x } ↔ Only qs s t := by
  refine Only.iff (ps := qs) (fun p hp => ?_) (fun _ m => m)
  cases p <;> first | rfl | exact absurd h hp | exact ho.resolve_left hp

@[simp] theorem only_par (qs : List Part) (s t : State) (x) (h : Part.par ∈ qs) :
    Only qs s { t with par := x } ↔ Only qs s t := by
  refine Only.iff (ps := qs) (fun p hp => ?_) (fun _ m => m)
  cases p <;> first | rfl | exact absurd h hp

@[simp] theorem only_hub (qs : List Part) (s t : State) (x) (h : Part.hub ∈ qs) :
    Only qs s { t with hub := x } ↔ Only qs s t := by
  refine Only.iff (ps := qs) (fun p hp => ?_) (fun _ m => m)
  cases p <;> first | rfl | exact absurd h hp

@[simp] theorem only_chn (qs : List Part) (s t : State) (x) (h : Part.chn ∈ qs) :
    Only qs s { t with chn := x } ↔ Only qs s t := by
  refine Only.iff (ps := qs) (fun p hp => ?_) (fun _ m => m)
  cases p <;> first | rfl | exact absurd h hp

@[simp] theorem only_met (qs : List Part) (s t : State) (x) (h : Part.met ∈ qs) :
    Only qs s { t with met := x } ↔ Only qs s t := by
  refine Only.iff (ps := qs) (fun p hp => ?_) (fun _ m => m)
  cases p <;> first | rfl | exact absurd h hp

@[simp] theorem only_est (qs : List Part) (s t : State) (x) (h : Part.est ∈ qs) :
    Only qs s { t with est := x } ↔ Only qs s t := by
  refine Only.iff (ps := qs) (fun p hp => ?_) (fun _ m => m)
  cases p <;> first | rfl | exact absurd h hp

@[simp] theorem only_imp (qs : List Part) (s t : State) (x) (h : Part.imp ∈ qs) :
    Only qs s { t with imp := x } ↔ Only qs s t := by
  refine Only.iff (ps := qs) (fun p hp => ?_) (fun _ m => m)
  cases p <;> first | rfl | exact absurd h hp

@[simp] theorem only_husk (qs : List Part) (s t : State) (x) (h : Part.husk ∈ qs) :
    Only qs s { t with husk := x } ↔ Only qs s t := by
  refine Only.iff (ps := qs) (fun p hp => ?_) (fun _ m => m)
  cases p <;> first | rfl | exact absurd h hp

@[simp] theorem only_prt (qs : List Part) (s t : State) (x) (h : Part.prt ∈ qs) :
    Only qs s { t with prt := x } ↔ Only qs s t := by
  refine Only.iff (ps := qs) (fun p hp => ?_) (fun _ m => m)
  cases p <;> first | rfl | exact absurd h hp

@[simp] theorem only_seq (qs : List Part) (s t : State) (x) (h : Part.seq ∈ qs) :
    Only qs s { t with seq := x } ↔ Only qs s t := by
  refine Only.iff (ps := qs) (fun p hp => ?_) (fun _ m => m)
  cases p <;> first | rfl | exact absurd h hp

@[simp] theorem only_lsw (qs : List Part) (s t : State) (x) (h : Part.lsw ∈ qs) :
    Only qs s { t with lsw := x } ↔ Only qs s t := by
  refine Only.iff (ps := qs) (fun p hp => ?_) (fun _ m => m)
  cases p <;> first | rfl | exact absurd h hp

@[simp] theorem only_ctl (qs : List Part) (s t : State) (x) (h : Part.ctl ∈ qs) :
    Only qs s { t with ctl := x } ↔ Only qs s t := by
  refine Only.iff (ps := qs) (fun p hp => ?_) (fun _ m => m)
  cases p <;> first | rfl | exact absurd h hp

@[simp] theorem only_pos (qs : List Part) (s t : State) (x) (h : Part.pos ∈ qs) :
    Only qs s { t with pos := x } ↔ Only qs s t := by
  refine Only.iff (ps := qs) (fun p hp => ?_) (fun _ m => m)
  cases p <;> first | rfl | exact absurd h hp

@[simp] theorem only_thm (qs : List Part) (s t : State) (x) (h : Part.thm ∈ qs) :
    Only qs s { t with thm := x } ↔ Only qs s t := by
  refine Only.iff (ps := qs) (fun p hp => ?_) (fun _ m => m)
  cases p <;> first | rfl | exact absurd h hp

@[simp] theorem only_log (qs : List Part) (s t : State) (x) (h : Part.log ∈ qs) :
    Only qs s { t with log := x } ↔ Only qs s t := by
  refine Only.iff (ps := qs) (fun p hp => ?_) (fun _ m => m)
  cases p <;> first | rfl | exact absurd h hp

@[simp] theorem only_tb (qs : List Part) (s t : State) (x) (h : Part.tb ∈ qs) :
    Only qs s { t with tb := x } ↔ Only qs s t := by
  refine Only.iff (ps := qs) (fun p hp => ?_) (fun _ m => m)
  cases p <;> first | rfl | exact absurd h hp

@[simp] theorem only_xfer (qs : List Part) (s t : State) (x) (h : Part.xfer ∈ qs) :
    Only qs s { t with xfer := x } ↔ Only qs s t := by
  refine Only.iff (ps := qs) (fun p hp => ?_) (fun _ m => m)
  cases p <;> first | rfl | exact absurd h hp

@[simp] theorem only_pending (qs : List Part) (s t : State) (x) (h : Part.pending ∈ qs) :
    Only qs s { t with pending := x } ↔ Only qs s t := by
  refine Only.iff (ps := qs) (fun p hp => ?_) (fun _ m => m)
  cases p <;> first | rfl | exact absurd h hp

@[simp] theorem only_ite_snd {β : Type} (qs : List Part) (c : Prop) [Decidable c] (s : State) (a b : β × State) :
    Only qs s (if c then a else b).2 ↔ if c then Only qs s a.2 else Only qs s b.2 := by split <;> rfl

@[simp] theorem only_ite_fst {β : Type} (qs : List Part) (c : Prop) [Decidable c] (s : State) (a b : State × β) :
    Only qs s (if c then a else b).1 ↔ if c then Only qs s a.1 else Only qs s b.1 := by split <;> rfl

@[simp] theorem only_foldl_snd {α β : Type} (f : β × State → α → β × State) (qs : List Part) (h : ∀ p x, Only qs p.2 (f p x).2)
    (l : List α) (s : State) (p : β × State) : Only qs s (l.foldl f p).2 ↔ Only qs s p.2 := by
  induction l generalizing p with
  | nil => rfl
  | cons x l ih => exact (ih (f p x)).trans (Only.iff (h p x) fun _ m => m)

@[simp] theorem only_foldl_fst {α β : Type} (f : State × β → α → State × β) (qs : List Part) (h : ∀ p x, Only qs p.1 (f p x).1)
    (l : List α) (s : State) (p : State × β) : Only qs s (l.foldl f p).1 ↔ Only qs s p.1 := by
  induction l generalizing p with
  | nil => rfl
  | cons x l ih => exact (ih (f p x)).trans (Only.iff (h p x) fun _ m => m)

@[simp] theorem only_seq_ctl (qs : List Part) (s t : State) (x y) (hx : Part.seq ∈ qs) (hy : Part.ctl ∈ qs) :
    Only qs s { t with seq := x, ctl := y } ↔ Only qs s t := by
  exact (only_ctl qs s { t with seq := x } y hy).trans (only_seq qs s t x hx)

@[simp] theorem only_husk_prt (qs : List Part) (s t : State) (x y) (hx : Part.husk ∈ qs) (hy : Part.prt ∈ qs) :
    Only qs s { t with husk := x, prt := y } ↔ Only qs s t := by
  exact (only_prt qs s { t with husk := x } y hy).trans (only_husk qs s t x hx)

@[simp] theorem only_par_seq (qs : List Part) (s t : State) (x y) (hx : Part.par ∈ qs) (hy : Part.seq ∈ qs) :
    Only qs s { t with par := x, seq := y } ↔ Only qs s t := by
  exact (only_seq qs s { t with par := x } y hy).trans (only_par qs s t x hx)

@[simp] theorem only_husk_seq (qs : List Part) (s t : State) (x y) (hx : Part.husk ∈ qs) (hy : Part.seq ∈ qs) :
    Only qs s { t with husk := x, seq := y } ↔ Only qs s t := by
  exact (only_seq qs s { t with husk := x } y hy).trans (only_husk qs s t x hx)

@[simp] theorem only_husk_lsw (qs : List Part) (s t : State) (x y) (hx : Part.husk ∈ qs) (hy : Part.lsw ∈ qs) :
    Only qs s { t with husk := x, lsw := y } ↔ Only qs s t := by
  exact (only_lsw qs s { t with husk := x } y hy).trans (only_husk qs s t x hx)

@[simp] theorem only_chn_est (qs : List Part) (s t : State) (x y) (hx : Part.chn ∈ qs) (hy : Part.est ∈ qs) :
    Only qs s { t with chn := x, est := y } ↔ Only qs s t := by
  exact (only_est qs s { t with chn := x } y hy).trans (only_chn qs s t x hx)

@[simp] theorem only_free_chn (qs : List Part) (s t : State) (x y) (hx : Part.free ∈ qs) (hy : Part.chn ∈ qs) :
    Only qs s { t with free := x, chn := y } ↔ Only qs s t := by
  exact (only_chn qs s { t with free := x } y hy).trans (only_free qs s t x hx)

@[simp] theorem only_pow_log (qs : List Part) (s t : State) (x y) (hx : Part.pow ∈ qs) (hy : Part.log ∈ qs) (he : Part.epoch ∈ qs ∨ x.epoch = t.pow.epoch) (ha : Part.aonOn ∈ qs ∨ x.aonOn = t.pow.aonOn) :
    Only qs s { t with pow := x, log := y } ↔ Only qs s t := by
  exact (only_log qs s { t with pow := x } y hy).trans (only_pow qs s t x hx he ha)

@[simp] theorem only_pow_chn (qs : List Part) (s t : State) (x y) (hx : Part.pow ∈ qs) (hy : Part.chn ∈ qs) (he : Part.epoch ∈ qs ∨ x.epoch = t.pow.epoch) (ha : Part.aonOn ∈ qs ∨ x.aonOn = t.pow.aonOn) :
    Only qs s { t with pow := x, chn := y } ↔ Only qs s t := by
  exact (only_chn qs s { t with pow := x } y hy).trans (only_pow qs s t x hx he ha)

@[simp] theorem only_pod_est_husk (qs : List Part) (s t : State) (x y z) (hx : Part.pod ∈ qs) (hy : Part.est ∈ qs) (hz : Part.husk ∈ qs) (ho : Part.otp ∈ qs ∨ x.otp = t.pod.otp) :
    Only qs s { t with pod := x, est := y, husk := z } ↔ Only qs s t := by
  exact (only_husk qs s { ({ t with pod := x }) with est := y } z hz).trans ((only_est qs s { t with pod := x } y hy).trans (only_pod qs s t x hx ho))

theorem Only.fold {α : Type} {f : State → α → State} {qs : List Part} {l : List α} {s t : State} (h : ∀ t x, Only qs t (f t x))
    (k : Only qs s t) : Only qs s (l.foldl f t) := (only_foldl f qs h l s t).2 k

@[simp] theorem answers_next (t : State) (p : State → Prop) : Answers (.next t) p ↔ p t :=
  ⟨fun ⟨_, e, h⟩ => by cases e; exact h, fun h => ⟨t, rfl, h⟩⟩

@[simp] theorem answers_ite (c : Prop) [Decidable c] (a b : Out) (p : State → Prop) :
    Answers (if c then a else b) p ↔ if c then Answers a p else Answers b p := by split <;> rfl

end Sys2Proof.Machine
end

