-- ==== Sys2Proof/Laws/PartsHub.lean ====
section
/-!
SUPPORT. Which parts of the state an operation may change: the parameters, the event FIFO and ledger, the hub and the buffers.
One lemma per operation, in the form in which simp uses it under a longer list of parts.
-/
namespace Sys2Proof.Machine
open Sys2Proof

@[simp] theorem drawn_only (qs : List Part) (s : State) (t) (h : ∀ p ∈ ([.free] : List Part), p ∈ qs) :
    Only qs s (drawn t) ↔ Only qs s t := by
  refine Only.iff (ps := [.free]) ?_ h
  simp [drawn]

@[simp] theorem countClamps_only (qs : List Part) (s : State) (a0 t) (h : ∀ p ∈ ([.par] : List Part), p ∈ qs) :
    Only qs s (countClamps a0 t) ↔ Only qs s t := by
  refine Only.iff (ps := [.par]) ?_ h
  simp [countClamps]

@[simp] theorem setApplied_only (qs : List Part) (s : State) (t a1 a2 a3) (h : ∀ p ∈ ([.par] : List Part), p ∈ qs) :
    Only qs s (setApplied t a1 a2 a3) ↔ Only qs s t := by
  refine Only.iff (ps := [.par]) ?_ h
  simp [setApplied]

@[simp] theorem clampTo_only (qs : List Part) (s : State) (t a1 a2 a3) (h : ∀ p ∈ ([.par] : List Part), p ∈ qs) :
    Only qs s (clampTo t a1 a2 a3) ↔ Only qs s t := by
  refine Only.iff (ps := [.par]) ?_ h
  simp [clampTo]

@[simp] theorem judgePair_only (qs : List Part) (s : State) (t a1 a2) (h : ∀ p ∈ ([.par] : List Part), p ∈ qs) :
    Only qs s (judgePair t a1 a2) ↔ Only qs s t := by
  refine Only.iff (ps := [.par]) ?_ h
  simp [judgePair]

@[simp] theorem judgeImp_only (qs : List Part) (s : State) (t a1 a2 a3) (h : ∀ p ∈ ([.par] : List Part), p ∈ qs) :
    Only qs s (judgeImp t a1 a2 a3) ↔ Only qs s t := by
  refine Only.iff (ps := [.par]) ?_ h
  simp [judgeImp]

@[simp] theorem judgePd_only (qs : List Part) (s : State) (t) (h : ∀ p ∈ ([.par] : List Part), p ∈ qs) :
    Only qs s (judgePd t) ↔ Only qs s t := by
  refine Only.iff (ps := [.par]) ?_ h
  simp [judgePd]

@[simp] theorem judgeDsc_only (qs : List Part) (s : State) (t a1) (h : ∀ p ∈ ([.par] : List Part), p ∈ qs) :
    Only qs s (judgeDsc t a1) ↔ Only qs s t := by
  refine Only.iff (ps := [.par]) ?_ h
  simp [judgeDsc]

@[simp] theorem judgeOcvT_only (qs : List Part) (s : State) (a0 t a2) (h : ∀ p ∈ ([.par] : List Part), p ∈ qs) :
    Only qs s (judgeOcvT a0 t a2) ↔ Only qs s t := by
  refine Only.iff (ps := [.par]) ?_ h
  simp [judgeOcvT]

@[simp] theorem judgeTCut_only (qs : List Part) (s : State) (t) (h : ∀ p ∈ ([.par] : List Part), p ∈ qs) :
    Only qs s (judgeTCut t) ↔ Only qs s t := by
  refine Only.iff (ps := [.par]) ?_ h
  simp [judgeTCut]

@[simp] theorem judgeOcv_only (qs : List Part) (s : State) (a0 t a2) (h : ∀ p ∈ ([.par] : List Part), p ∈ qs) :
    Only qs s (judgeOcv a0 t a2) ↔ Only qs s t := by
  refine Only.iff (ps := [.par]) ?_ h
  simp [judgeOcv]

@[simp] theorem judgeCmp_only (qs : List Part) (s : State) (t a1) (h : ∀ p ∈ ([.par] : List Part), p ∈ qs) :
    Only qs s (judgeCmp t a1) ↔ Only qs s t := by
  refine Only.iff (ps := [.par]) ?_ h
  simp [judgeCmp]

@[simp] theorem judgeIp_only (qs : List Part) (s : State) (t) (h : ∀ p ∈ ([.par] : List Part), p ∈ qs) :
    Only qs s (judgeIp t) ↔ Only qs s t := by
  refine Only.iff (ps := [.par]) ?_ h
  simp [judgeIp]

@[simp] theorem judgeCap_only (qs : List Part) (s : State) (t) (h : ∀ p ∈ ([.par] : List Part), p ∈ qs) :
    Only qs s (judgeCap t) ↔ Only qs s t := by
  refine Only.iff (ps := [.par]) ?_ h
  simp [judgeCap]

@[simp] theorem judgePairs_only (qs : List Part) (s : State) (t a1) (h : ∀ p ∈ ([.par] : List Part), p ∈ qs) :
    Only qs s (judgePairs t a1) ↔ Only qs s t := by
  refine Only.iff (ps := [.par]) ?_ h
  simp [judgePairs]

@[simp] theorem judgeOrder_only (qs : List Part) (s : State) (a0 a1 t) (h : ∀ p ∈ ([.par] : List Part), p ∈ qs) :
    Only qs s (judgeOrder a0 a1 t) ↔ Only qs s t := by
  refine Only.iff (ps := [.par]) ?_ h
  simp [judgeOrder]

@[simp] theorem post_only (qs : List Part) (s : State) (a0 a1 a2 a3 t) (h : ∀ p ∈ ([.log] : List Part), p ∈ qs) :
    Only qs s (post a0 a1 a2 a3 t) ↔ Only qs s t := by
  refine Only.iff (ps := [.log]) ?_ h
  simp [post]

@[simp] theorem postKind_only (qs : List Part) (s : State) (a0 a1 t) (h : ∀ p ∈ ([.log] : List Part), p ∈ qs) :
    Only qs s (postKind a0 a1 t) ↔ Only qs s t := by
  refine Only.iff (ps := [.log]) ?_ h
  simp [postKind]

@[simp] theorem noteFill_only (qs : List Part) (s : State) (t) (h : ∀ p ∈ ([.log] : List Part), p ∈ qs) :
    Only qs s (noteFill t) ↔ Only qs s t := by
  refine Only.iff (ps := [.log]) ?_ h
  simp [noteFill]

theorem commit_only {e : Event} {s t : State} (h : commit e s = some t) : Only [.log] s t := by
  unfold commit at h
  split at h
  · cases h
  · cases h; simp

@[simp] theorem commitDirect_only (qs : List Part) (s : State) (a0 t) (h : ∀ p ∈ ([.log] : List Part), p ∈ qs) :
    Only qs s (commitDirect a0 t) ↔ Only qs s t := by
  refine Only.iff (ps := [.log]) ?_ h
  unfold commitDirect
  cases c : commit a0 t with
  | none => simp
  | some u => simpa using commit_only c

@[simp] theorem withHub_only (qs : List Part) (s : State) (t a1) (h : ∀ p ∈ ([.hub] : List Part), p ∈ qs) :
    Only qs s (withHub t a1) ↔ Only qs s t := by
  refine Only.iff (ps := [.hub]) ?_ h
  simp [withHub]

@[simp] theorem modPort_only (qs : List Part) (s : State) (a0 a1 t) (h : ∀ p ∈ ([.hub] : List Part), p ∈ qs) :
    Only qs s (modPort a0 a1 t) ↔ Only qs s t := by
  refine Only.iff (ps := [.hub]) ?_ h
  simp [modPort]

@[simp] theorem sendMsg_only (qs : List Part) (s : State) (a0 t) (h : ∀ p ∈ ([.hub] : List Part), p ∈ qs) :
    Only qs s (sendMsg a0 t) ↔ Only qs s t := by
  refine Only.iff (ps := [.hub]) ?_ h
  simp [sendMsg]

@[simp] theorem answer_only (qs : List Part) (s : State) (a0 a1 a2 a3 t) (h : ∀ p ∈ ([.hub] : List Part), p ∈ qs) :
    Only qs s (answer a0 a1 a2 a3 t) ↔ Only qs s t := by
  refine Only.iff (ps := [.hub]) ?_ h
  simp [answer]

@[simp] theorem modTxn_only (qs : List Part) (s : State) (a0 a1 t) (h : ∀ p ∈ ([.hub] : List Part), p ∈ qs) :
    Only qs s (modTxn a0 a1 t) ↔ Only qs s t := by
  refine Only.iff (ps := [.hub]) ?_ h
  simp [modTxn]

@[simp] theorem complete_only (qs : List Part) (s : State) (a0 a1 a2 t) (h : ∀ p ∈ ([.hub] : List Part), p ∈ qs) :
    Only qs s (complete a0 a1 a2 t) ↔ Only qs s t := by
  refine Only.iff (ps := [.hub]) ?_ h
  simp [complete]

@[simp] theorem noteSize_only (qs : List Part) (s : State) (a0 a1 t) (h : ∀ p ∈ ([.par] : List Part), p ∈ qs) :
    Only qs s (noteSize a0 a1 t) ↔ Only qs s t := by
  refine Only.iff (ps := [.par]) ?_ h
  unfold noteSize; split <;> simp

@[simp] theorem notice_only (qs : List Part) (s : State) (a0 a1 a2 a3 a4 t) (h : ∀ p ∈ ([.hub] : List Part), p ∈ qs) :
    Only qs s (notice a0 a1 a2 a3 a4 t) ↔ Only qs s t := by
  refine Only.iff (ps := [.hub]) ?_ h
  simp [notice]

@[simp] theorem assignRing_only (qs : List Part) (s : State) (t) (h : ∀ p ∈ ([.hub] : List Part), p ∈ qs) :
    Only qs s (assignRing t) ↔ Only qs s t := by
  refine Only.iff (ps := [.hub]) ?_ h
  simp [assignRing]

@[simp] theorem abortAll_only (qs : List Part) (s : State) (a0 a1 t) (h : ∀ p ∈ ([.hub] : List Part), p ∈ qs) :
    Only qs s (abortAll a0 a1 t) ↔ Only qs s t := by
  refine Only.iff (ps := [.hub]) ?_ h
  simp [abortAll]

@[simp] theorem admitLate_only (qs : List Part) (s t : State) (rq op) (h : ∀ p ∈ ([.par, .hub] : List Part), p ∈ qs) :
    Only qs s (admitLate t rq op).1 ↔ Only qs s t := by
  refine Only.iff (ps := [.par, .hub]) ?_ h
  unfold admitLate; dsimp only
  repeat' split
  all_goals simp

@[simp] theorem admitTxn_only (qs : List Part) (s t : State) (rq op) (h : ∀ p ∈ ([.par, .hub] : List Part), p ∈ qs) :
    Only qs s (admitTxn t rq op).1 ↔ Only qs s t := by
  refine Only.iff (ps := [.par, .hub]) ?_ h
  unfold admitTxn; dsimp only
  repeat' split
  all_goals simp

/-- A mailbox command changes the hub, the count of clamps, and what its work changes. -/

theorem mailbox_only {qs : List Part} {op dt : Nat} {rq : Request} {body : Txn → State → State} {s : State}
    (h : ∀ p ∈ ([.par, .hub] : List Part), p ∈ qs) (k : ∀ t s, Only qs s (body t s)) :
    Only qs (advance dt s) (mailbox op dt rq body s) := by
  have e : ∀ (t : Txn) (a u : State), Only qs a u → Only qs a (if serving u then
      body { t with served := true } (noteSize op t.payload (modTxn (txnKey t) (fun t => { t with served := true }) u)) else u) := by
    intro t a u hu
    split
    · refine Only.trans ?_ (k _ _)
      simpa [h] using hu
    · exact hu
  unfold mailbox
  dsimp only
  split
  · exact e _ _ _ (only_self _ _)
  · split
    · rename_i x hx
      have := (admitTxn_only qs (advance dt s) (advance dt s) rq op h).2 (only_self _ _)
      rw [hx] at this; exact this
    · rename_i x y hx
      have := (admitTxn_only qs (advance dt s) (advance dt s) rq op h).2 (only_self _ _)
      rw [hx] at this; exact e _ _ _ this

theorem readOp_only {qs : List Part} {op dt : Nat} {rq : Request} {f : Txn → State → Bytes} {s : State}
    (h : ∀ p ∈ ([.par, .hub] : List Part), p ∈ qs) : Only qs (advance dt s) (readOp op dt rq f s) :=
  mailbox_only h fun t u => by
    have : ∀ p ∈ ([.hub] : List Part), p ∈ qs := fun p hp => h p (by simp at hp; simp [hp])
    simp [this]

@[simp] theorem receiveMessage_only (qs : List Part) (s : State) (a0 a1 a2 t) (h : ∀ p ∈ ([.par, .hub] : List Part), p ∈ qs) :
    Only qs s (receiveMessage a0 a1 a2 t) ↔ Only qs s t := by
  refine Only.iff (ps := [.par, .hub]) ?_ h
  simp [receiveMessage]

@[simp] theorem closeSession_only (qs : List Part) (s : State) (a0 a1 t) (h : ∀ p ∈ ([.hub, .husk] : List Part), p ∈ qs) :
    Only qs s (closeSession a0 a1 t) ↔ Only qs s t := by
  refine Only.iff (ps := [.hub, .husk]) ?_ h
  unfold closeSession; (try dsimp only); split <;> simp

@[simp] theorem spiCommand_only (qs : List Part) (s : State) (t) (h : ∀ p ∈ ([.hub] : List Part), p ∈ qs) :
    Only qs s (spiCommand t) ↔ Only qs s t := by
  refine Only.iff (ps := [.hub]) ?_ h
  simp [spiCommand]

@[simp] theorem sendSite_only (qs : List Part) (s : State) (a0 t) (h : ∀ p ∈ ([.hub] : List Part), p ∈ qs) :
    Only qs s (sendSite a0 t) ↔ Only qs s t := by
  refine Only.iff (ps := [.hub]) ?_ h
  simp [sendSite]

@[simp] theorem armCapture_only (qs : List Part) (s : State) (t) (h : ∀ p ∈ ([.met] : List Part), p ∈ qs) :
    Only qs s (armCapture t) ↔ Only qs s t := by
  refine Only.iff (ps := [.met]) ?_ h
  simp [armCapture]

@[simp] theorem modTrace_only (qs : List Part) (s : State) (a0 a1 t) (h : ∀ p ∈ ([.ctl] : List Part), p ∈ qs) :
    Only qs s (modTrace a0 a1 t) ↔ Only qs s t := by
  refine Only.iff (ps := [.ctl]) ?_ h
  simp [modTrace]

@[simp] theorem traceTrigger_only (qs : List Part) (s : State) (a0 a1 t) (h : ∀ p ∈ ([.ctl] : List Part), p ∈ qs) :
    Only qs s (traceTrigger a0 a1 t) ↔ Only qs s t := by
  refine Only.iff (ps := [.ctl]) ?_ h
  simp [traceTrigger]

@[simp] theorem capTriggerAt_only (qs : List Part) (s : State) (a0 a1 t) (h : ∀ p ∈ ([.met, .ctl] : List Part), p ∈ qs) :
    Only qs s (capTriggerAt a0 a1 t) ↔ Only qs s t := by
  refine Only.iff (ps := [.met, .ctl]) ?_ h
  unfold capTriggerAt; (try dsimp only); repeat' split
  all_goals simp

@[simp] theorem capTrigger_only (qs : List Part) (s : State) (a0 t) (h : ∀ p ∈ ([.met, .ctl] : List Part), p ∈ qs) :
    Only qs s (capTrigger a0 t) ↔ Only qs s t := by
  refine Only.iff (ps := [.met, .ctl]) ?_ h
  simp [capTrigger]

@[simp] theorem huskTrigger_only (qs : List Part) (s : State) (t) (h : ∀ p ∈ ([.met, .ctl] : List Part), p ∈ qs) :
    Only qs s (huskTrigger t) ↔ Only qs s t := by
  refine Only.iff (ps := [.met, .ctl]) ?_ h
  simp [huskTrigger]

@[simp] theorem completeItems_only (qs : List Part) (s : State) (a0 t) (h : ∀ p ∈ ([.hub] : List Part), p ∈ qs) :
    Only qs s (completeItems a0 t) ↔ Only qs s t := by
  refine Only.iff (ps := [.hub]) ?_ h
  simp [completeItems]

@[simp] theorem endItem_only (qs : List Part) (s : State) (a0 a1 a2 t) (h : ∀ p ∈ ([.hub] : List Part), p ∈ qs) :
    Only qs s (endItem a0 a1 a2 t) ↔ Only qs s t := by
  refine Only.iff (ps := [.hub]) ?_ h
  unfold endItem; split <;> simp

@[simp] theorem endItems_only (qs : List Part) (s : State) (a0 a1 a2 t) (h : ∀ p ∈ ([.hub] : List Part), p ∈ qs) :
    Only qs s (endItems a0 a1 a2 t) ↔ Only qs s t := by
  refine Only.iff (ps := [.hub]) ?_ h
  simp [endItems]

@[simp] theorem openItems_only (qs : List Part) (s : State) (a0 a1 a2 t) (h : ∀ p ∈ ([.hub] : List Part), p ∈ qs) :
    Only qs s (openItems a0 a1 a2 t) ↔ Only qs s t := by
  refine Only.iff (ps := [.hub]) ?_ h
  simp [openItems]

@[simp] theorem noteReserved_only (qs : List Part) (s : State) (a0 a1 t) (h : ∀ p ∈ ([.par] : List Part), p ∈ qs) :
    Only qs s (noteReserved a0 a1 t) ↔ Only qs s t := by
  refine Only.iff (ps := [.par]) ?_ h
  simp [noteReserved]

@[simp] theorem readItems_only (qs : List Part) (s : State) (a0 a1 a2 a3 t) (h : ∀ p ∈ ([.par, .hub] : List Part), p ∈ qs) :
    Only qs s (readItems a0 a1 a2 a3 t) ↔ Only qs s t := by
  refine Only.iff (ps := [.par, .hub]) ?_ h
  simp [readItems]

@[simp] theorem limitsOn_only (qs : List Part) (s : State) (a0 a1 a2 t a4) (h : ∀ p ∈ ([.hub] : List Part), p ∈ qs) :
    Only qs s (limitsOn a0 a1 a2 t a4) ↔ Only qs s t := by
  refine Only.iff (ps := [.hub]) ?_ h
  simp [limitsOn]

@[simp] theorem sendLimits_only (qs : List Part) (s : State) (a0 a1 a2 t) (h : ∀ p ∈ ([.hub] : List Part), p ∈ qs) :
    Only qs s (sendLimits a0 a1 a2 t) ↔ Only qs s t := by
  refine Only.iff (ps := [.hub]) ?_ h
  simp [sendLimits]

@[simp] theorem drainEntry_only (qs : List Part) (s : State) (a0 a1 t) (h : ∀ p ∈ ([.log] : List Part), p ∈ qs) :
    Only qs s (drainEntry a0 a1 t) ↔ Only qs s t := by
  refine Only.iff (ps := [.log]) ?_ h
  unfold drainEntry
  split
  · simp
  · rename_i x
    simpa using commit_only x

@[simp] theorem drainLost_only (qs : List Part) (s : State) (a0 t) (h : ∀ p ∈ ([.log] : List Part), p ∈ qs) :
    Only qs s (drainLost a0 t) ↔ Only qs s t := by
  refine Only.iff (ps := [.log]) ?_ h
  unfold drainLost
  split
  · simp
  · rename_i x
    simpa using commit_only x

@[simp] theorem rangeOf_only (qs : List Part) (s : State) (a0 a1 a2 a3 a4 a5 t) (h : ∀ p ∈ ([.par] : List Part), p ∈ qs) :
    Only qs s (rangeOf a0 a1 a2 a3 a4 a5 t).2.2 ↔ Only qs s t := by
  refine Only.iff (ps := [.par]) ?_ h
  simp [rangeOf]

@[simp] theorem logReadBody_only (qs : List Part) (s : State) (a0 t) (h : ∀ p ∈ ([.par, .hub] : List Part), p ∈ qs) :
    Only qs s (logReadBody a0 t) ↔ Only qs s t := by
  refine Only.iff (ps := [.par, .hub]) ?_ h
  simp [logReadBody]

@[simp] theorem logAckBody_only (qs : List Part) (s : State) (a0 t) (h : ∀ p ∈ ([.par, .hub, .log] : List Part), p ∈ qs) :
    Only qs s (logAckBody a0 t) ↔ Only qs s t := by
  refine Only.iff (ps := [.par, .hub, .log]) ?_ h
  simp [logAckBody]

@[simp] theorem readBuffer_only (qs : List Part) (s : State) (a0 a1 a2 a3 t) (h : ∀ p ∈ ([.par, .hub] : List Part), p ∈ qs) :
    Only qs s (readBuffer a0 a1 a2 a3 t).1 ↔ Only qs s t := by
  refine Only.iff (ps := [.par, .hub]) ?_ h
  unfold readBuffer; (try dsimp only); repeat' split
  all_goals simp

@[simp] theorem captureReadBody_only (qs : List Part) (s : State) (a0 t) (h : ∀ p ∈ ([.par, .hub, .met] : List Part), p ∈ qs) :
    Only qs s (captureReadBody a0 t) ↔ Only qs s t := by
  refine Only.iff (ps := [.par, .hub, .met]) ?_ h
  simp [captureReadBody]

@[simp] theorem traceReadBody_only (qs : List Part) (s : State) (a0 t) (h : ∀ p ∈ ([.par, .hub] : List Part), p ∈ qs) :
    Only qs s (traceReadBody a0 t) ↔ Only qs s t := by
  refine Only.iff (ps := [.par, .hub]) ?_ h
  simp [traceReadBody]

@[simp] theorem releaseBuffer_only (qs : List Part) (s : State) (a0 a1 t) (h : ∀ p ∈ ([.met, .ctl] : List Part), p ∈ qs) :
    Only qs s (releaseBuffer a0 a1 t).2 ↔ Only qs s t := by
  refine Only.iff (ps := [.met, .ctl]) ?_ h
  unfold releaseBuffer; (try dsimp only); repeat' split
  all_goals simp

@[simp] theorem bufferReleaseBody_only (qs : List Part) (s : State) (a0 t) (h : ∀ p ∈ ([.par, .hub, .met, .ctl] : List Part), p ∈ qs) :
    Only qs s (bufferReleaseBody a0 t) ↔ Only qs s t := by
  refine Only.iff (ps := [.par, .hub, .met, .ctl]) ?_ h
  simp [bufferReleaseBody]

@[simp] theorem withTb_only (qs : List Part) (s : State) (t a1) (h : ∀ p ∈ ([.tb] : List Part), p ∈ qs) :
    Only qs s (withTb t a1) ↔ Only qs s t := by
  refine Only.iff (ps := [.tb]) ?_ h
  simp [withTb]

@[simp] theorem setRate_only (qs : List Part) (s : State) (a0 t) (h : ∀ p ∈ ([.tb] : List Part), p ∈ qs) :
    Only qs s (setRate a0 t) ↔ Only qs s t := by
  refine Only.iff (ps := [.tb]) ?_ h
  simp [setRate]

@[simp] theorem stepTime_only (qs : List Part) (s : State) (a0 a1 t) (h : ∀ p ∈ ([.log, .tb] : List Part), p ∈ qs) :
    Only qs s (stepTime a0 a1 t) ↔ Only qs s t := by
  refine Only.iff (ps := [.log, .tb]) ?_ h
  simp [stepTime]

@[simp] theorem loseSource_only (qs : List Part) (s : State) (a0 t) (h : ∀ p ∈ ([.tb] : List Part), p ∈ qs) :
    Only qs s (loseSource a0 t) ↔ Only qs s t := by
  refine Only.iff (ps := [.tb]) ?_ h
  simp [loseSource]

@[simp] theorem followOffset_only (qs : List Part) (s : State) (a0 t) (h : ∀ p ∈ ([.tb] : List Part), p ∈ qs) :
    Only qs s (followOffset a0 t) ↔ Only qs s t := by
  refine Only.iff (ps := [.tb]) ?_ h
  simp [followOffset]

@[simp] theorem settleLock_only (qs : List Part) (s : State) (a0 a1 t) (h : ∀ p ∈ ([.tb] : List Part), p ∈ qs) :
    Only qs s (settleLock a0 a1 t) ↔ Only qs s t := by
  refine Only.iff (ps := [.tb]) ?_ h
  simp [settleLock]

@[simp] theorem timeMessage_only (qs : List Part) (s : State) (a0 a1 t) (h : ∀ p ∈ ([.log, .tb] : List Part), p ∈ qs) :
    Only qs s (timeMessage a0 a1 t) ↔ Only qs s t := by
  refine Only.iff (ps := [.log, .tb]) ?_ h
  simp [timeMessage]

@[simp] theorem takeSync_only (qs : List Part) (s : State) (a0 a1 a2 t) (h : ∀ p ∈ ([.hub, .log, .tb] : List Part), p ∈ qs) :
    Only qs s (takeSync a0 a1 a2 t) ↔ Only qs s t := by
  refine Only.iff (ps := [.hub, .log, .tb]) ?_ h
  simp [takeSync]

@[simp] theorem takeDelay_only (qs : List Part) (s : State) (a0 t) (h : ∀ p ∈ ([.tb] : List Part), p ∈ qs) :
    Only qs s (takeDelay a0 t) ↔ Only qs s t := by
  refine Only.iff (ps := [.tb]) ?_ h
  unfold takeDelay; split <;> simp

end Sys2Proof.Machine
end

