-- ==== Sys2Proof/Laws/PartsSeq.lean ====
section
/-!
SUPPORT. Which parts of the state an operation may change: the load switch array, the Husk, the grades and sequencing.
One lemma per operation, in the form in which simp uses it under a longer list of parts.
-/
namespace Sys2Proof.Machine
open Sys2Proof

@[simp] theorem modStr_only (qs : List Part) (s : State) (a0 a1 t) (h : ∀ p ∈ ([.seq] : List Part), p ∈ qs) :
    Only qs s (modStr a0 a1 t) ↔ Only qs s t := by
  refine Only.iff (ps := [.seq]) ?_ h
  simp [modStr]

@[simp] theorem modJoin_only (qs : List Part) (s : State) (a0 a1 t) (h : ∀ p ∈ ([.seq] : List Part), p ∈ qs) :
    Only qs s (modJoin a0 a1 t) ↔ Only qs s t := by
  refine Only.iff (ps := [.seq]) ?_ h
  simp [modJoin]

@[simp] theorem endStr_only (qs : List Part) (s : State) (a0 a1 a2 t) (h : ∀ p ∈ ([.hub, .seq] : List Part), p ∈ qs) :
    Only qs s (endStr a0 a1 a2 t) ↔ Only qs s t := by
  refine Only.iff (ps := [.hub, .seq]) ?_ h
  unfold endStr; split <;> simp

@[simp] theorem endBlock_only (qs : List Part) (s : State) (a0 a1 t) (h : ∀ p ∈ ([.hub, .seq] : List Part), p ∈ qs) :
    Only qs s (endBlock a0 a1 t) ↔ Only qs s t := by
  refine Only.iff (ps := [.hub, .seq]) ?_ h
  simp [endBlock]

@[simp] theorem endJoin_only (qs : List Part) (s : State) (a0 a1 t) (h : ∀ p ∈ ([.hub, .seq, .log] : List Part), p ∈ qs) :
    Only qs s (endJoin a0 a1 t) ↔ Only qs s t := by
  refine Only.iff (ps := [.hub, .seq, .log]) ?_ h
  unfold endJoin; split <;> simp

@[simp] theorem modLoop_only (qs : List Part) (s : State) (a0 a1 t) (h : ∀ p ∈ ([.ctl] : List Part), p ∈ qs) :
    Only qs s (modLoop a0 a1 t) ↔ Only qs s t := by
  refine Only.iff (ps := [.ctl]) ?_ h
  simp [modLoop]

@[simp] theorem sinkZero_only (qs : List Part) (s : State) (t a1) (h : ∀ p ∈ ([.ctl] : List Part), p ∈ qs) :
    Only qs s (sinkZero t a1) ↔ Only qs s t := by
  refine Only.iff (ps := [.ctl]) ?_ h
  simp [sinkZero]

@[simp] theorem endLoopItems_only (qs : List Part) (s : State) (a0 a1 t) (h : ∀ p ∈ ([.hub] : List Part), p ∈ qs) :
    Only qs s (endLoopItems a0 a1 t) ↔ Only qs s t := by
  refine Only.iff (ps := [.hub]) ?_ h
  simp [endLoopItems]

@[simp] theorem stopLoop_only (qs : List Part) (s : State) (a0 a1 t) (h : ∀ p ∈ ([.ctl] : List Part), p ∈ qs) :
    Only qs s (stopLoop a0 a1 t) ↔ Only qs s t := by
  refine Only.iff (ps := [.ctl]) ?_ h
  simp [stopLoop]

@[simp] theorem loopsOff_only (qs : List Part) (s : State) (a0 t) (h : ∀ p ∈ ([.ctl] : List Part), p ∈ qs) :
    Only qs s (loopsOff a0 t) ↔ Only qs s t := by
  refine Only.iff (ps := [.ctl]) ?_ h
  simp [loopsOff]

@[simp] theorem endClose_only (qs : List Part) (s : State) (a0 t) (h : ∀ p ∈ ([.hub, .seq, .ctl] : List Part), p ∈ qs) :
    Only qs s (endClose a0 t) ↔ Only qs s t := by
  refine Only.iff (ps := [.hub, .seq, .ctl]) ?_ h
  simp [endClose]

@[simp] theorem endDsc_only (qs : List Part) (s : State) (a0 t) (h : ∀ p ∈ ([.hub, .seq, .ctl] : List Part), p ∈ qs) :
    Only qs s (endDsc a0 t) ↔ Only qs s t := by
  refine Only.iff (ps := [.hub, .seq, .ctl]) ?_ h
  simp [endDsc]

@[simp] theorem strOpened_only (qs : List Part) (s : State) (a0 t) (h : ∀ p ∈ ([.seq] : List Part), p ∈ qs) :
    Only qs s (strOpened a0 t) ↔ Only qs s t := by
  refine Only.iff (ps := [.seq]) ?_ h
  simp [strOpened]

@[simp] theorem mainsOpened_only (qs : List Part) (s : State) (t) (h : ∀ p ∈ ([.seq] : List Part), p ∈ qs) :
    Only qs s (mainsOpened t) ↔ Only qs s t := by
  refine Only.iff (ps := [.seq]) ?_ h
  simp [mainsOpened]

@[simp] theorem partOpened_only (qs : List Part) (s : State) (a0 a1 t) (h : ∀ p ∈ ([.hub, .seq, .ctl, .log] : List Part), p ∈ qs) :
    Only qs s (partOpened a0 a1 t) ↔ Only qs s t := by
  refine Only.iff (ps := [.hub, .seq, .ctl, .log]) ?_ h
  unfold partOpened
  repeat' (first | split | simp)

@[simp] theorem withLsw_only (qs : List Part) (s : State) (t a1) (h : ∀ p ∈ ([.lsw] : List Part), p ∈ qs) :
    Only qs s (withLsw t a1) ↔ Only qs s t := by
  refine Only.iff (ps := [.lsw]) ?_ h
  simp [withLsw]

@[simp] theorem modLoad_only (qs : List Part) (s : State) (a0 a1 t) (h : ∀ p ∈ ([.lsw] : List Part), p ∈ qs) :
    Only qs s (modLoad a0 a1 t) ↔ Only qs s t := by
  refine Only.iff (ps := [.lsw]) ?_ h
  simp [modLoad]

@[simp] theorem modHs_only (qs : List Part) (s : State) (a0 a1 t) (h : ∀ p ∈ ([.lsw] : List Part), p ∈ qs) :
    Only qs s (modHs a0 a1 t) ↔ Only qs s t := by
  refine Only.iff (ps := [.lsw]) ?_ h
  simp [modHs]

@[simp] theorem modLs_only (qs : List Part) (s : State) (a0 a1 t) (h : ∀ p ∈ ([.lsw] : List Part), p ∈ qs) :
    Only qs s (modLs a0 a1 t) ↔ Only qs s t := by
  refine Only.iff (ps := [.lsw]) ?_ h
  simp [modLs]

@[simp] theorem modChan_only (qs : List Part) (s : State) (a0 a1 t) (h : ∀ p ∈ ([.lsw] : List Part), p ∈ qs) :
    Only qs s (modChan a0 a1 t) ↔ Only qs s t := by
  refine Only.iff (ps := [.lsw]) ?_ h
  unfold modChan; split <;> simp

@[simp] theorem thmResult_only (qs : List Part) (s : State) (a0 a1 t) (h : ∀ p ∈ ([.thm, .log] : List Part), p ∈ qs) :
    Only qs s (thmResult a0 a1 t) ↔ Only qs s t := by
  refine Only.iff (ps := [.thm, .log]) ?_ h
  simp [thmResult]

@[simp] theorem endLoad_only (qs : List Part) (s : State) (a0 a1 t) (h : ∀ p ∈ ([.hub, .lsw, .thm, .log] : List Part), p ∈ qs) :
    Only qs s (endLoad a0 a1 t) ↔ Only qs s t := by
  refine Only.iff (ps := [.hub, .lsw, .thm, .log]) ?_ h
  simp [endLoad]

@[simp] theorem setPhase_only (qs : List Part) (s : State) (a0 t) (h : ∀ p ∈ ([.lsw] : List Part), p ∈ qs) :
    Only qs s (setPhase a0 t) ↔ Only qs s t := by
  refine Only.iff (ps := [.lsw]) ?_ h
  simp [setPhase]

@[simp] theorem phaseEnds_only (qs : List Part) (s : State) (a0 t) (h : ∀ p ∈ ([.lsw] : List Part), p ∈ qs) :
    Only qs s (phaseEnds a0 t) ↔ Only qs s t := by
  refine Only.iff (ps := [.lsw]) ?_ h
  simp [phaseEnds]

@[simp] theorem regulate_only (qs : List Part) (s : State) (a0 t) (h : ∀ p ∈ ([.lsw, .log] : List Part), p ∈ qs) :
    Only qs s (regulate a0 t) ↔ Only qs s t := by
  refine Only.iff (ps := [.lsw, .log]) ?_ h
  unfold regulate; split <;> simp

@[simp] theorem envelopeCheck_only (qs : List Part) (s : State) (a0 t) (h : ∀ p ∈ ([.hub, .lsw, .thm, .log] : List Part), p ∈ qs) :
    Only qs s (envelopeCheck a0 t) ↔ Only qs s t := by
  refine Only.iff (ps := [.hub, .lsw, .thm, .log]) ?_ h
  simp [envelopeCheck]

@[simp] theorem loadIsOn_only (qs : List Part) (s : State) (a0 t) (h : ∀ p ∈ ([.hub, .lsw, .thm, .log] : List Part), p ∈ qs) :
    Only qs s (loadIsOn a0 t) ↔ Only qs s t := by
  refine Only.iff (ps := [.hub, .lsw, .thm, .log]) ?_ h
  simp [loadIsOn]

@[simp] theorem chanOn_only (qs : List Part) (s : State) (a0 t) (h : ∀ p ∈ ([.lsw] : List Part), p ∈ qs) :
    Only qs s (chanOn a0 t) ↔ Only qs s t := by
  refine Only.iff (ps := [.lsw]) ?_ h
  simp [chanOn]

@[simp] theorem startLoad_only (qs : List Part) (s : State) (a0 t) (h : ∀ p ∈ ([.hub, .lsw, .thm, .log] : List Part), p ∈ qs) :
    Only qs s (startLoad a0 t) ↔ Only qs s t := by
  refine Only.iff (ps := [.hub, .lsw, .thm, .log]) ?_ h
  unfold startLoad; (try dsimp only); split <;> simp

@[simp] theorem tryStart_only (qs : List Part) (s : State) (a0 t) (h : ∀ p ∈ ([.hub, .lsw, .thm, .log] : List Part), p ∈ qs) :
    Only qs s (tryStart a0 t) ↔ Only qs s t := by
  refine Only.iff (ps := [.hub, .lsw, .thm, .log]) ?_ h
  simp [tryStart]

@[simp] theorem enqueueLoad_only (qs : List Part) (s : State) (a0 t) (h : ∀ p ∈ ([.hub, .lsw, .thm, .log] : List Part), p ∈ qs) :
    Only qs s (enqueueLoad a0 t) ↔ Only qs s t := by
  refine Only.iff (ps := [.hub, .lsw, .thm, .log]) ?_ h
  simp [enqueueLoad]

@[simp] theorem ownLoadOn_only (qs : List Part) (s : State) (a0 t) (h : ∀ p ∈ ([.hub, .lsw, .thm, .log] : List Part), p ∈ qs) :
    Only qs s (ownLoadOn a0 t) ↔ Only qs s t := by
  refine Only.iff (ps := [.hub, .lsw, .thm, .log]) ?_ h
  unfold ownLoadOn; split <;> simp

@[simp] theorem clampRecord_only (qs : List Part) (s : State) (a0 t) (h : ∀ p ∈ ([.free, .lsw, .log] : List Part), p ∈ qs) :
    Only qs s (clampRecord a0 t) ↔ Only qs s t := by
  refine Only.iff (ps := [.free, .lsw, .log]) ?_ h
  simp [clampRecord]

@[simp] theorem chansOff_only (qs : List Part) (s : State) (a0 a1 t) (h : ∀ p ∈ ([.lsw] : List Part), p ∈ qs) :
    Only qs s (chansOff a0 a1 t) ↔ Only qs s t := by
  refine Only.iff (ps := [.lsw]) ?_ h
  unfold chansOff; (try dsimp only); repeat' split
  all_goals simp

@[simp] theorem takeDef_only (qs : List Part) (s : State) (a0 t) (h : ∀ p ∈ ([.lsw] : List Part), p ∈ qs) :
    Only qs s (takeDef a0 t) ↔ Only qs s t := by
  refine Only.iff (ps := [.lsw]) ?_ h
  unfold takeDef; split <;> simp

@[simp] theorem settleDef_only (qs : List Part) (s : State) (a0 t) (h : ∀ p ∈ ([.par, .lsw] : List Part), p ∈ qs) :
    Only qs s (settleDef a0 t) ↔ Only qs s t := by
  refine Only.iff (ps := [.par, .lsw]) ?_ h
  simp [settleDef]

@[simp] theorem loadGoesOff_only (qs : List Part) (s : State) (a0 a1 a2 a3 t) (h : ∀ p ∈ ([.free, .par, .hub, .lsw, .thm, .log] : List Part), p ∈ qs) :
    Only qs s (loadGoesOff a0 a1 a2 a3 t) ↔ Only qs s t := by
  refine Only.iff (ps := [.free, .par, .hub, .lsw, .thm, .log]) ?_ h
  unfold loadGoesOff; split <;> simp

@[simp] theorem loadOffAct_only (qs : List Part) (s : State) (a0 t) (h : ∀ p ∈ ([.free, .par, .hub, .lsw, .thm, .log] : List Part), p ∈ qs) :
    Only qs s (loadOffAct a0 t).2 ↔ Only qs s t := by
  refine Only.iff (ps := [.free, .par, .hub, .lsw, .thm, .log]) ?_ h
  simp [loadOffAct]

@[simp] theorem loadOff_only (qs : List Part) (s : State) (a0 t) (h : ∀ p ∈ ([.free, .par, .hub, .lsw, .thm, .log] : List Part), p ∈ qs) :
    Only qs s (loadOff a0 t).2 ↔ Only qs s t := by
  refine Only.iff (ps := [.free, .par, .hub, .lsw, .thm, .log]) ?_ h
  simp [loadOff]

@[simp] theorem ownLoadOff_only (qs : List Part) (s : State) (a0 t) (h : ∀ p ∈ ([.free, .par, .hub, .lsw, .thm, .log] : List Part), p ∈ qs) :
    Only qs s (ownLoadOff a0 t) ↔ Only qs s t := by
  refine Only.iff (ps := [.free, .par, .hub, .lsw, .thm, .log]) ?_ h
  simp [ownLoadOff]

@[simp] theorem roleOn_only (qs : List Part) (s : State) (a0 a1 t) (h : ∀ p ∈ ([.hub, .lsw, .thm, .log] : List Part), p ∈ qs) :
    Only qs s (roleOn a0 a1 t) ↔ Only qs s t := by
  refine Only.iff (ps := [.hub, .lsw, .thm, .log]) ?_ h
  unfold roleOn; split <;> simp

@[simp] theorem roleOff_only (qs : List Part) (s : State) (a0 a1 t) (h : ∀ p ∈ ([.free, .par, .hub, .lsw, .thm, .log] : List Part), p ∈ qs) :
    Only qs s (roleOff a0 a1 t) ↔ Only qs s t := by
  refine Only.iff (ps := [.free, .par, .hub, .lsw, .thm, .log]) ?_ h
  unfold roleOff; split <;> simp

@[simp] theorem reportOff_only (qs : List Part) (s : State) (a0 a1 t) (h : ∀ p ∈ ([.hub, .seq, .ctl, .log] : List Part), p ∈ qs) :
    Only qs s (reportOff a0 a1 t) ↔ Only qs s t := by
  refine Only.iff (ps := [.hub, .seq, .ctl, .log]) ?_ h
  simp [reportOff]

@[simp] theorem meetHold_only (qs : List Part) (s : State) (a0 a1 a2 t) (h : ∀ p ∈ ([.free, .par, .hub, .seq, .lsw, .ctl, .thm, .log] : List Part), p ∈ qs) :
    Only qs s (meetHold a0 a1 a2 t) ↔ Only qs s t := by
  refine Only.iff (ps := [.free, .par, .hub, .seq, .lsw, .ctl, .thm, .log]) ?_ h
  simp [meetHold]

@[simp] theorem meetHolds_only (qs : List Part) (s : State) (t) (h : ∀ p ∈ ([.free, .par, .hub, .seq, .lsw, .ctl, .thm, .log] : List Part), p ∈ qs) :
    Only qs s (meetHolds t) ↔ Only qs s t := by
  refine Only.iff (ps := [.free, .par, .hub, .seq, .lsw, .ctl, .thm, .log]) ?_ h
  simp [meetHolds]

@[simp] theorem loadOc_only (qs : List Part) (s : State) (a0 t) (h : ∀ p ∈ ([.free, .par, .hub, .seq, .lsw, .ctl, .thm, .log] : List Part), p ∈ qs) :
    Only qs s (loadOc a0 t) ↔ Only qs s t := by
  refine Only.iff (ps := [.free, .par, .hub, .seq, .lsw, .ctl, .thm, .log]) ?_ h
  simp [loadOc]

@[simp] theorem thermalLatch_only (qs : List Part) (s : State) (a0 a1 t) (h : ∀ p ∈ ([.free, .par, .hub, .seq, .lsw, .ctl, .thm, .log] : List Part), p ∈ qs) :
    Only qs s (thermalLatch a0 a1 t) ↔ Only qs s t := by
  refine Only.iff (ps := [.free, .par, .hub, .seq, .lsw, .ctl, .thm, .log]) ?_ h
  simp [thermalLatch]

@[simp] theorem loadTh_only (qs : List Part) (s : State) (a0 t) (h : ∀ p ∈ ([.free, .par, .hub, .seq, .lsw, .ctl, .thm, .log] : List Part), p ∈ qs) :
    Only qs s (loadTh a0 t) ↔ Only qs s t := by
  refine Only.iff (ps := [.free, .par, .hub, .seq, .lsw, .ctl, .thm, .log]) ?_ h
  simp [loadTh]

@[simp] theorem loadRestarts_only (qs : List Part) (s : State) (a0 t) (h : ∀ p ∈ ([.free, .par, .hub, .seq, .lsw, .ctl, .thm, .log] : List Part), p ∈ qs) :
    Only qs s (loadRestarts a0 t) ↔ Only qs s t := by
  refine Only.iff (ps := [.free, .par, .hub, .seq, .lsw, .ctl, .thm, .log]) ?_ h
  simp [loadRestarts]

@[simp] theorem endLoadItem_only (qs : List Part) (s : State) (a0 a1 a2 t) (h : ∀ p ∈ ([.hub, .lsw] : List Part), p ∈ qs) :
    Only qs s (endLoadItem a0 a1 a2 t) ↔ Only qs s t := by
  refine Only.iff (ps := [.hub, .lsw]) ?_ h
  simp [endLoadItem]

@[simp] theorem loadOnItem_only (qs : List Part) (s : State) (a0 a1 t a3) (h : ∀ p ∈ ([.hub, .lsw, .thm, .log] : List Part), p ∈ qs) :
    Only qs s (loadOnItem a0 a1 t a3) ↔ Only qs s t := by
  refine Only.iff (ps := [.hub, .lsw, .thm, .log]) ?_ h
  unfold loadOnItem; repeat' split
  all_goals simp

@[simp] theorem loadOffItem_only (qs : List Part) (s : State) (a0 t a2) (h : ∀ p ∈ ([.free, .par, .hub, .lsw, .thm, .log] : List Part), p ∈ qs) :
    Only qs s (loadOffItem a0 t a2) ↔ Only qs s t := by
  refine Only.iff (ps := [.free, .par, .hub, .lsw, .thm, .log]) ?_ h
  simp [loadOffItem]

@[simp] theorem unlatch_only (qs : List Part) (s : State) (t) (h : ∀ p ∈ ([.lsw] : List Part), p ∈ qs) :
    Only qs s (unlatch t) ↔ Only qs s t := by
  refine Only.iff (ps := [.lsw]) ?_ h
  simp [unlatch]

@[simp] theorem loadClearItem_only (qs : List Part) (s : State) (a0 a1 t a3) (h : ∀ p ∈ ([.hub, .lsw] : List Part), p ∈ qs) :
    Only qs s (loadClearItem a0 a1 t a3) ↔ Only qs s t := by
  refine Only.iff (ps := [.hub, .lsw]) ?_ h
  simp [loadClearItem]

@[simp] theorem takeMeas_only (qs : List Part) (s : State) (a0 t) (h : ∀ p ∈ ([.lsw] : List Part), p ∈ qs) :
    Only qs s (takeMeas a0 t) ↔ Only qs s t := by
  refine Only.iff (ps := [.lsw]) ?_ h
  simp [takeMeas]

@[simp] theorem modTrip_only (qs : List Part) (s : State) (a0 a1 t) (h : ∀ p ∈ ([.husk] : List Part), p ∈ qs) :
    Only qs s (modTrip a0 a1 t) ↔ Only qs s t := by
  refine Only.iff (ps := [.husk]) ?_ h
  simp [modTrip]

@[simp] theorem forceLoops_only (qs : List Part) (s : State) (a0 t) (h : ∀ p ∈ ([.hub, .ctl] : List Part), p ∈ qs) :
    Only qs s (forceLoops a0 t) ↔ Only qs s t := by
  refine Only.iff (ps := [.hub, .ctl]) ?_ h
  simp [forceLoops]

@[simp] theorem noteLines_only (qs : List Part) (s : State) (t) (h : ∀ p ∈ ([.husk] : List Part), p ∈ qs) :
    Only qs s (noteLines t) ↔ Only qs s t := by
  refine Only.iff (ps := [.husk]) ?_ h
  simp [noteLines]

@[simp] theorem huskEffects_only (qs : List Part) (s : State) (t) (h : ∀ p ∈ ([.free, .par, .hub, .husk, .seq, .lsw, .ctl, .thm, .log] : List Part), p ∈ qs) :
    Only qs s (huskEffects t) ↔ Only qs s t := by
  refine Only.iff (ps := [.free, .par, .hub, .husk, .seq, .lsw, .ctl, .thm, .log]) ?_ h
  simp [huskEffects]

@[simp] theorem noteTrip_only (qs : List Part) (s : State) (a0 t) (h : ∀ p ∈ ([.met, .husk, .ctl] : List Part), p ∈ qs) :
    Only qs s (noteTrip a0 t) ↔ Only qs s t := by
  refine Only.iff (ps := [.met, .husk, .ctl]) ?_ h
  simp [noteTrip]

@[simp] theorem sourceActs_only (qs : List Part) (s : State) (a0 t) (h : ∀ p ∈ ([.free, .par, .hub, .met, .husk, .seq, .lsw, .ctl, .thm, .log] : List Part), p ∈ qs) :
    Only qs s (sourceActs a0 t) ↔ Only qs s t := by
  refine Only.iff (ps := [.free, .par, .hub, .met, .husk, .seq, .lsw, .ctl, .thm, .log]) ?_ h
  unfold sourceActs; (try dsimp only); split <;> simp

@[simp] theorem assertSource_only (qs : List Part) (s : State) (a0 a1 t) (h : ∀ p ∈ ([.free, .par, .hub, .met, .husk, .seq, .lsw, .ctl, .thm, .log] : List Part), p ∈ qs) :
    Only qs s (assertSource a0 a1 t) ↔ Only qs s t := by
  refine Only.iff (ps := [.free, .par, .hub, .met, .husk, .seq, .lsw, .ctl, .thm, .log]) ?_ h
  unfold assertSource; (try dsimp only); split <;> simp

@[simp] theorem delayEnds_only (qs : List Part) (s : State) (a0 t) (h : ∀ p ∈ ([.free, .par, .hub, .met, .husk, .seq, .lsw, .ctl, .thm, .log] : List Part), p ∈ qs) :
    Only qs s (delayEnds a0 t) ↔ Only qs s t := by
  refine Only.iff (ps := [.free, .par, .hub, .met, .husk, .seq, .lsw, .ctl, .thm, .log]) ?_ h
  simp [delayEnds]

@[simp] theorem setPwmOff_only (qs : List Part) (s : State) (a0 t) (h : ∀ p ∈ ([.free, .par, .hub, .husk, .seq, .lsw, .ctl, .pos, .thm, .log] : List Part), p ∈ qs) :
    Only qs s (setPwmOff a0 t) ↔ Only qs s t := by
  refine Only.iff (ps := [.free, .par, .hub, .husk, .seq, .lsw, .ctl, .pos, .thm, .log]) ?_ h
  simp [setPwmOff]

@[simp] theorem releaseSource_only (qs : List Part) (s : State) (a0 t) (h : ∀ p ∈ ([.free, .par, .hub, .husk, .seq, .lsw, .ctl, .pos, .thm, .log] : List Part), p ∈ qs) :
    Only qs s (releaseSource a0 t) ↔ Only qs s t := by
  refine Only.iff (ps := [.free, .par, .hub, .husk, .seq, .lsw, .ctl, .pos, .thm, .log]) ?_ h
  unfold releaseSource; (try dsimp only); split <;> simp

@[simp] theorem openBlock_only (qs : List Part) (s : State) (t) (h : ∀ p ∈ ([.free, .par, .hub, .met, .husk, .prt, .seq, .lsw, .ctl, .thm, .log] : List Part), p ∈ qs) :
    Only qs s (openBlock t) ↔ Only qs s t := by
  refine Only.iff (ps := [.free, .par, .hub, .met, .husk, .prt, .seq, .lsw, .ctl, .thm, .log]) ?_ h
  simp [openBlock]

@[simp] theorem nameString_only (qs : List Part) (s : State) (a0 t) (h : ∀ p ∈ ([.free, .par, .hub, .met, .husk, .seq, .lsw, .ctl, .thm, .log] : List Part), p ∈ qs) :
    Only qs s (nameString a0 t) ↔ Only qs s t := by
  refine Only.iff (ps := [.free, .par, .hub, .met, .husk, .seq, .lsw, .ctl, .thm, .log]) ?_ h
  simp [nameString]

@[simp] theorem unnameString_only (qs : List Part) (s : State) (a0 t) (h : ∀ p ∈ ([.free, .par, .hub, .husk, .seq, .lsw, .ctl, .pos, .thm, .log] : List Part), p ∈ qs) :
    Only qs s (unnameString a0 t) ↔ Only qs s t := by
  refine Only.iff (ps := [.free, .par, .hub, .husk, .seq, .lsw, .ctl, .pos, .thm, .log]) ?_ h
  simp [unnameString]

@[simp] theorem setInhibits_only (qs : List Part) (s : State) (a0 a1 t) (h : ∀ p ∈ ([.free, .par, .hub, .met, .husk, .seq, .lsw, .ctl, .pos, .thm, .log] : List Part), p ∈ qs) :
    Only qs s (setInhibits a0 a1 t) ↔ Only qs s t := by
  refine Only.iff (ps := [.free, .par, .hub, .met, .husk, .seq, .lsw, .ctl, .pos, .thm, .log]) ?_ h
  simp [setInhibits]

@[simp] theorem faultReset_only (qs : List Part) (s : State) (t) (h : ∀ p ∈ ([.free, .par, .hub, .husk, .prt, .seq, .lsw, .ctl, .thm, .log] : List Part), p ∈ qs) :
    Only qs s (faultReset t) ↔ Only qs s t := by
  refine Only.iff (ps := [.free, .par, .hub, .husk, .prt, .seq, .lsw, .ctl, .thm, .log]) ?_ h
  simp [faultReset]

@[simp] theorem withPrt_only (qs : List Part) (s : State) (t a1) (h : ∀ p ∈ ([.prt] : List Part), p ∈ qs) :
    Only qs s (withPrt t a1) ↔ Only qs s t := by
  refine Only.iff (ps := [.prt]) ?_ h
  simp [withPrt]

@[simp] theorem g2Follow_only (qs : List Part) (s : State) (a0 a1 t) (h : ∀ p ∈ ([.free, .par, .hub, .met, .husk, .prt, .seq, .lsw, .ctl, .pos, .thm, .log] : List Part), p ∈ qs) :
    Only qs s (g2Follow a0 a1 t) ↔ Only qs s t := by
  refine Only.iff (ps := [.free, .par, .hub, .met, .husk, .prt, .seq, .lsw, .ctl, .pos, .thm, .log]) ?_ h
  simp [g2Follow]

@[simp] theorem g2Enter_only (qs : List Part) (s : State) (a0 a1 a2 t) (h : ∀ p ∈ ([.free, .par, .hub, .met, .husk, .prt, .seq, .lsw, .ctl, .pos, .thm, .log] : List Part), p ∈ qs) :
    Only qs s (g2Enter a0 a1 a2 t) ↔ Only qs s t := by
  refine Only.iff (ps := [.free, .par, .hub, .met, .husk, .prt, .seq, .lsw, .ctl, .pos, .thm, .log]) ?_ h
  simp [g2Enter]

@[simp] theorem g2Leave_only (qs : List Part) (s : State) (a0 t) (h : ∀ p ∈ ([.free, .par, .hub, .met, .husk, .prt, .seq, .lsw, .ctl, .pos, .thm, .log] : List Part), p ∈ qs) :
    Only qs s (g2Leave a0 t) ↔ Only qs s t := by
  refine Only.iff (ps := [.free, .par, .hub, .met, .husk, .prt, .seq, .lsw, .ctl, .pos, .thm, .log]) ?_ h
  simp [g2Leave]

@[simp] theorem g1Enter_only (qs : List Part) (s : State) (a0 t) (h : ∀ p ∈ ([.prt] : List Part), p ∈ qs) :
    Only qs s (g1Enter a0 t) ↔ Only qs s t := by
  refine Only.iff (ps := [.prt]) ?_ h
  simp [g1Enter]

@[simp] theorem g1Leave_only (qs : List Part) (s : State) (a0 t) (h : ∀ p ∈ ([.prt] : List Part), p ∈ qs) :
    Only qs s (g1Leave a0 t) ↔ Only qs s t := by
  refine Only.iff (ps := [.prt]) ?_ h
  simp [g1Leave]

@[simp] theorem g3Settle_only (qs : List Part) (s : State) (a0 t) (h : ∀ p ∈ ([.free, .par, .hub, .met, .husk, .prt, .seq, .lsw, .ctl, .pos, .thm, .log] : List Part), p ∈ qs) :
    Only qs s (g3Settle a0 t) ↔ Only qs s t := by
  refine Only.iff (ps := [.free, .par, .hub, .met, .husk, .prt, .seq, .lsw, .ctl, .pos, .thm, .log]) ?_ h
  simp [g3Settle]

@[simp] theorem g3Name_only (qs : List Part) (s : State) (a0 t) (h : ∀ p ∈ ([.free, .par, .hub, .met, .husk, .prt, .seq, .lsw, .ctl, .pos, .thm, .log] : List Part), p ∈ qs) :
    Only qs s (g3Name a0 t) ↔ Only qs s t := by
  refine Only.iff (ps := [.free, .par, .hub, .met, .husk, .prt, .seq, .lsw, .ctl, .pos, .thm, .log]) ?_ h
  simp [g3Name]

@[simp] theorem g3Enter_only (qs : List Part) (s : State) (a0 a1 t) (h : ∀ p ∈ ([.free, .par, .hub, .met, .husk, .prt, .seq, .lsw, .ctl, .pos, .thm, .log] : List Part), p ∈ qs) :
    Only qs s (g3Enter a0 a1 t) ↔ Only qs s t := by
  refine Only.iff (ps := [.free, .par, .hub, .met, .husk, .prt, .seq, .lsw, .ctl, .pos, .thm, .log]) ?_ h
  simp [g3Enter]

@[simp] theorem g3Check_only (qs : List Part) (s : State) (a0 t) (h : ∀ p ∈ ([.free, .par, .hub, .met, .husk, .prt, .seq, .lsw, .ctl, .pos, .thm, .log] : List Part), p ∈ qs) :
    Only qs s (g3Check a0 t) ↔ Only qs s t := by
  refine Only.iff (ps := [.free, .par, .hub, .met, .husk, .prt, .seq, .lsw, .ctl, .pos, .thm, .log]) ?_ h
  unfold g3Check; split <;> simp

@[simp] theorem gradeEnter_only (qs : List Part) (s : State) (a0 a1 a2 a3 t) (h : ∀ p ∈ ([.free, .par, .hub, .met, .husk, .prt, .seq, .lsw, .ctl, .pos, .thm, .log] : List Part), p ∈ qs) :
    Only qs s (gradeEnter a0 a1 a2 a3 t) ↔ Only qs s t := by
  refine Only.iff (ps := [.free, .par, .hub, .met, .husk, .prt, .seq, .lsw, .ctl, .pos, .thm, .log]) ?_ h
  unfold gradeEnter; repeat' split
  all_goals simp

@[simp] theorem gradeLeave_only (qs : List Part) (s : State) (a0 t) (h : ∀ p ∈ ([.free, .par, .hub, .met, .husk, .prt, .seq, .lsw, .ctl, .pos, .thm, .log] : List Part), p ∈ qs) :
    Only qs s (gradeLeave a0 t) ↔ Only qs s t := by
  refine Only.iff (ps := [.free, .par, .hub, .met, .husk, .prt, .seq, .lsw, .ctl, .pos, .thm, .log]) ?_ h
  simp [gradeLeave]

@[simp] theorem setCond_only (qs : List Part) (s : State) (a0 a1 t) (h : ∀ p ∈ ([.prt] : List Part), p ∈ qs) :
    Only qs s (setCond a0 a1 t) ↔ Only qs s t := by
  refine Only.iff (ps := [.prt]) ?_ h
  simp [setCond]

@[simp] theorem enterCond_only (qs : List Part) (s : State) (a0 a1 a2 a3 t) (h : ∀ p ∈ ([.free, .par, .hub, .met, .husk, .prt, .seq, .lsw, .ctl, .pos, .thm, .log] : List Part), p ∈ qs) :
    Only qs s (enterCond a0 a1 a2 a3 t) ↔ Only qs s t := by
  refine Only.iff (ps := [.free, .par, .hub, .met, .husk, .prt, .seq, .lsw, .ctl, .pos, .thm, .log]) ?_ h
  simp [enterCond]

@[simp] theorem leaveCond_only (qs : List Part) (s : State) (a0 a1 t) (h : ∀ p ∈ ([.free, .par, .hub, .met, .husk, .prt, .seq, .lsw, .ctl, .pos, .thm, .log] : List Part), p ∈ qs) :
    Only qs s (leaveCond a0 a1 t) ↔ Only qs s t := by
  refine Only.iff (ps := [.free, .par, .hub, .met, .husk, .prt, .seq, .lsw, .ctl, .pos, .thm, .log]) ?_ h
  simp [leaveCond]

@[simp] theorem levelCond_only (qs : List Part) (s : State) (a0 a1 a2 a3 a4 t) (h : ∀ p ∈ ([.free, .par, .hub, .met, .husk, .prt, .seq, .lsw, .ctl, .pos, .thm, .log] : List Part), p ∈ qs) :
    Only qs s (levelCond a0 a1 a2 a3 a4 t) ↔ Only qs s t := by
  refine Only.iff (ps := [.free, .par, .hub, .met, .husk, .prt, .seq, .lsw, .ctl, .pos, .thm, .log]) ?_ h
  simp [levelCond]

@[simp] theorem plainCond_only (qs : List Part) (s : State) (a0 a1 a2 a3 a4 t) (h : ∀ p ∈ ([.free, .par, .hub, .met, .husk, .prt, .seq, .lsw, .ctl, .pos, .thm, .log] : List Part), p ∈ qs) :
    Only qs s (plainCond a0 a1 a2 a3 a4 t) ↔ Only qs s t := by
  refine Only.iff (ps := [.free, .par, .hub, .met, .husk, .prt, .seq, .lsw, .ctl, .pos, .thm, .log]) ?_ h
  simp [plainCond]

@[simp] theorem g2Turn_only (qs : List Part) (s : State) (a0 a1 t) (h : ∀ p ∈ ([.free, .par, .hub, .met, .husk, .prt, .seq, .lsw, .ctl, .pos, .thm, .log] : List Part), p ∈ qs) :
    Only qs s (g2Turn a0 a1 t) ↔ Only qs s t := by
  refine Only.iff (ps := [.free, .par, .hub, .met, .husk, .prt, .seq, .lsw, .ctl, .pos, .thm, .log]) ?_ h
  simp [g2Turn]

@[simp] theorem lossTest_only (qs : List Part) (s : State) (t) (h : ∀ p ∈ ([.free, .par, .hub, .met, .husk, .prt, .seq, .lsw, .ctl, .pos, .thm, .log] : List Part), p ∈ qs) :
    Only qs s (lossTest t) ↔ Only qs s t := by
  refine Only.iff (ps := [.free, .par, .hub, .met, .husk, .prt, .seq, .lsw, .ctl, .pos, .thm, .log]) ?_ h
  unfold lossTest; split <;> simp

@[simp] theorem judgeConfig_only (qs : List Part) (s : State) (t) (h : ∀ p ∈ ([.chn, .husk, .seq, .log] : List Part), p ∈ qs) :
    Only qs s (judgeConfig t) ↔ Only qs s t := by
  refine Only.iff (ps := [.chn, .husk, .seq, .log]) ?_ h
  simp [judgeConfig]

@[simp] theorem settleRoles_only (qs : List Part) (s : State) (t) (h : ∀ p ∈ ([.par, .chn, .husk, .seq, .log] : List Part), p ∈ qs) :
    Only qs s (settleRoles t) ↔ Only qs s t := by
  refine Only.iff (ps := [.par, .chn, .husk, .seq, .log]) ?_ h
  simp [settleRoles]

@[simp] theorem judgeJoin_only (qs : List Part) (s : State) (a0 t) (h : ∀ p ∈ ([.hub, .seq, .log] : List Part), p ∈ qs) :
    Only qs s (judgeJoin a0 t) ↔ Only qs s t := by
  refine Only.iff (ps := [.hub, .seq, .log]) ?_ h
  unfold judgeJoin; repeat' split
  all_goals simp

@[simp] theorem joinSample_only (qs : List Part) (s : State) (a0 t) (h : ∀ p ∈ ([.seq] : List Part), p ∈ qs) :
    Only qs s (joinSample a0 t) ↔ Only qs s t := by
  refine Only.iff (ps := [.seq]) ?_ h
  unfold joinSample; repeat' split
  all_goals simp

@[simp] theorem dwellEnds_only (qs : List Part) (s : State) (a0 t) (h : ∀ p ∈ ([.seq] : List Part), p ∈ qs) :
    Only qs s (dwellEnds a0 t) ↔ Only qs s t := by
  refine Only.iff (ps := [.seq]) ?_ h
  unfold dwellEnds; split <;> simp

@[simp] theorem tryKn_only (qs : List Part) (s : State) (t) (h : ∀ p ∈ ([.hub, .seq, .lsw, .thm, .log] : List Part), p ∈ qs) :
    Only qs s (tryKn t) ↔ Only qs s t := by
  refine Only.iff (ps := [.hub, .seq, .lsw, .thm, .log]) ?_ h
  unfold tryKn; repeat' split
  all_goals simp

@[simp] theorem requestJoin_only (qs : List Part) (s : State) (a0 a1 t) (h : ∀ p ∈ ([.hub, .seq, .log] : List Part), p ∈ qs) :
    Only qs s (requestJoin a0 a1 t) ↔ Only qs s t := by
  refine Only.iff (ps := [.hub, .seq, .log]) ?_ h
  unfold requestJoin; split <;> simp

@[simp] theorem testsUnder_only (qs : List Part) (s : State) (a0 t) (h : ∀ p ∈ ([.seq] : List Part), p ∈ qs) :
    Only qs s (testsUnder a0 t) ↔ Only qs s t := by
  refine Only.iff (ps := [.seq]) ?_ h
  simp [testsUnder]

@[simp] theorem abortJoin_only (qs : List Part) (s : State) (a0 a1 t) (h : ∀ p ∈ ([.free, .par, .hub, .seq, .lsw, .thm, .log] : List Part), p ∈ qs) :
    Only qs s (abortJoin a0 a1 t) ↔ Only qs s t := by
  refine Only.iff (ps := [.free, .par, .hub, .seq, .lsw, .thm, .log]) ?_ h
  simp [abortJoin]

@[simp] theorem confirmJoin_only (qs : List Part) (s : State) (a0 t) (h : ∀ p ∈ ([.hub, .seq, .log] : List Part), p ∈ qs) :
    Only qs s (confirmJoin a0 t) ↔ Only qs s t := by
  refine Only.iff (ps := [.hub, .seq, .log]) ?_ h
  simp [confirmJoin]

@[simp] theorem postWeld_only (qs : List Part) (s : State) (a0 a1 t) (h : ∀ p ∈ ([.log] : List Part), p ∈ qs) :
    Only qs s (postWeld a0 a1 t) ↔ Only qs s t := by
  refine Only.iff (ps := [.log]) ?_ h
  simp [postWeld]

@[simp] theorem markWeld_only (qs : List Part) (s : State) (a0 a1 t) (h : ∀ p ∈ ([.seq, .log] : List Part), p ∈ qs) :
    Only qs s (markWeld a0 a1 t) ↔ Only qs s t := by
  refine Only.iff (ps := [.seq, .log]) ?_ h
  simp [markWeld]

@[simp] theorem openingDone_only (qs : List Part) (s : State) (a0 t) (h : ∀ p ∈ ([.hub, .seq] : List Part), p ∈ qs) :
    Only qs s (openingDone a0 t) ↔ Only qs s t := by
  refine Only.iff (ps := [.hub, .seq]) ?_ h
  simp [openingDone]

@[simp] theorem endScope_only (qs : List Part) (s : State) (a0 a1 t) (h : ∀ p ∈ ([.hub, .seq] : List Part), p ∈ qs) :
    Only qs s (endScope a0 a1 t) ↔ Only qs s t := by
  refine Only.iff (ps := [.hub, .seq]) ?_ h
  simp [endScope]

@[simp] theorem driveOff_only (qs : List Part) (s : State) (t) (h : ∀ p ∈ ([.seq, .ctl] : List Part), p ∈ qs) :
    Only qs s (driveOff t) ↔ Only qs s t := by
  refine Only.iff (ps := [.seq, .ctl]) ?_ h
  simp [driveOff]

@[simp] theorem dscFails_only (qs : List Part) (s : State) (a0 a1 t) (h : ∀ p ∈ ([.free, .par, .hub, .seq, .lsw, .ctl, .thm, .log] : List Part), p ∈ qs) :
    Only qs s (dscFails a0 a1 t) ↔ Only qs s t := by
  refine Only.iff (ps := [.free, .par, .hub, .seq, .lsw, .ctl, .thm, .log]) ?_ h
  simp [dscFails]

@[simp] theorem dscOpenSteps_only (qs : List Part) (s : State) (t) (h : ∀ p ∈ ([.free, .par, .hub, .met, .seq, .lsw, .ctl, .thm, .log] : List Part), p ∈ qs) :
    Only qs s (dscOpenSteps t) ↔ Only qs s t := by
  refine Only.iff (ps := [.free, .par, .hub, .met, .seq, .lsw, .ctl, .thm, .log]) ?_ h
  simp [dscOpenSteps]

@[simp] theorem supersede_only (qs : List Part) (s : State) (a0 a1 a2 t) (h : ∀ p ∈ ([.free, .par, .hub, .seq, .lsw, .ctl, .thm, .log] : List Part), p ∈ qs) :
    Only qs s (supersede a0 a1 a2 t) ↔ Only qs s t := by
  refine Only.iff (ps := [.free, .par, .hub, .seq, .lsw, .ctl, .thm, .log]) ?_ h
  unfold supersede; simp
  refine Only.fold (fun _ _ => ?_) (by simp)
  repeat' split
  all_goals simp

@[simp] theorem openStrings_only (qs : List Part) (s : State) (a0 t) (h : ∀ p ∈ ([.seq] : List Part), p ∈ qs) :
    Only qs s (openStrings a0 t) ↔ Only qs s t := by
  refine Only.iff (ps := [.seq]) ?_ h
  simp [openStrings]

@[simp] theorem openDscPart_only (qs : List Part) (s : State) (t) (h : ∀ p ∈ ([.free, .par, .hub, .met, .seq, .lsw, .ctl, .thm, .log] : List Part), p ∈ qs) :
    Only qs s (openDscPart t) ↔ Only qs s t := by
  refine Only.iff (ps := [.free, .par, .hub, .met, .seq, .lsw, .ctl, .thm, .log]) ?_ h
  simp [openDscPart]

@[simp] theorem openStringsDone_only (qs : List Part) (s : State) (t) (h : ∀ p ∈ ([.free, .par, .hub, .met, .seq, .lsw, .ctl, .thm, .log] : List Part), p ∈ qs) :
    Only qs s (openStringsDone t) ↔ Only qs s t := by
  refine Only.iff (ps := [.free, .par, .hub, .met, .seq, .lsw, .ctl, .thm, .log]) ?_ h
  simp [openStringsDone]

@[simp] theorem openMainsDone_only (qs : List Part) (s : State) (t) (h : ∀ p ∈ ([.free, .par, .hub, .met, .seq, .lsw, .ctl, .thm, .log] : List Part), p ∈ qs) :
    Only qs s (openMainsDone t) ↔ Only qs s t := by
  refine Only.iff (ps := [.free, .par, .hub, .met, .seq, .lsw, .ctl, .thm, .log]) ?_ h
  simp [openMainsDone]

@[simp] theorem openMains_only (qs : List Part) (s : State) (t) (h : ∀ p ∈ ([.free, .par, .hub, .met, .seq, .lsw, .ctl, .thm, .log] : List Part), p ∈ qs) :
    Only qs s (openMains t) ↔ Only qs s t := by
  refine Only.iff (ps := [.free, .par, .hub, .met, .seq, .lsw, .ctl, .thm, .log]) ?_ h
  simp [openMains]

@[simp] theorem blockOpen_only (qs : List Part) (s : State) (a0 t) (h : ∀ p ∈ ([.free, .par, .hub, .seq, .lsw, .ctl, .thm, .log] : List Part), p ∈ qs) :
    Only qs s (blockOpen a0 t) ↔ Only qs s t := by
  refine Only.iff (ps := [.free, .par, .hub, .seq, .lsw, .ctl, .thm, .log]) ?_ h
  unfold blockOpen; (try dsimp only); split <;> simp

@[simp] theorem startLoop_only (qs : List Part) (s : State) (a0 t) (h : ∀ p ∈ ([.ctl] : List Part), p ∈ qs) :
    Only qs s (startLoop a0 t) ↔ Only qs s t := by
  refine Only.iff (ps := [.ctl]) ?_ h
  simp [startLoop]

@[simp] theorem pcFails_only (qs : List Part) (s : State) (a0 t) (h : ∀ p ∈ ([.free, .par, .hub, .seq, .lsw, .ctl, .thm, .log] : List Part), p ∈ qs) :
    Only qs s (pcFails a0 t) ↔ Only qs s t := by
  refine Only.iff (ps := [.free, .par, .hub, .seq, .lsw, .ctl, .thm, .log]) ?_ h
  simp [pcFails]

@[simp] theorem mnOn_only (qs : List Part) (s : State) (t) (h : ∀ p ∈ ([.hub, .seq, .lsw, .ctl, .thm, .log] : List Part), p ∈ qs) :
    Only qs s (mnOn t) ↔ Only qs s t := by
  refine Only.iff (ps := [.hub, .seq, .lsw, .ctl, .thm, .log]) ?_ h
  simp [mnOn]

@[simp] theorem pcBegin_only (qs : List Part) (s : State) (t) (h : ∀ p ∈ ([.hub, .seq, .lsw, .ctl, .thm, .log] : List Part), p ∈ qs) :
    Only qs s (pcBegin t) ↔ Only qs s t := by
  refine Only.iff (ps := [.hub, .seq, .lsw, .ctl, .thm, .log]) ?_ h
  simp [pcBegin]

@[simp] theorem closeJoins_only (qs : List Part) (s : State) (t) (h : ∀ p ∈ ([.hub, .seq, .log] : List Part), p ∈ qs) :
    Only qs s (closeJoins t) ↔ Only qs s t := by
  refine Only.iff (ps := [.hub, .seq, .log]) ?_ h
  simp [closeJoins]

@[simp] theorem closeGoesOn_only (qs : List Part) (s : State) (t) (h : ∀ p ∈ ([.hub, .seq, .lsw, .ctl, .thm, .log] : List Part), p ∈ qs) :
    Only qs s (closeGoesOn t) ↔ Only qs s t := by
  refine Only.iff (ps := [.hub, .seq, .lsw, .ctl, .thm, .log]) ?_ h
  simp [closeGoesOn]

@[simp] theorem seqLoopFault_only (qs : List Part) (s : State) (a0 t) (h : ∀ p ∈ ([.free, .par, .hub, .seq, .lsw, .ctl, .thm, .log] : List Part), p ∈ qs) :
    Only qs s (seqLoopFault a0 t) ↔ Only qs s t := by
  refine Only.iff (ps := [.free, .par, .hub, .seq, .lsw, .ctl, .thm, .log]) ?_ h
  unfold seqLoopFault; repeat' split
  all_goals simp

@[simp] theorem dscCloseBegin_only (qs : List Part) (s : State) (t) (h : ∀ p ∈ ([.hub, .seq, .lsw, .thm, .log] : List Part), p ∈ qs) :
    Only qs s (dscCloseBegin t) ↔ Only qs s t := by
  refine Only.iff (ps := [.hub, .seq, .lsw, .thm, .log]) ?_ h
  simp [dscCloseBegin]

@[simp] theorem closeBegin_only (qs : List Part) (s : State) (a0 t) (h : ∀ p ∈ ([.hub, .seq, .lsw, .ctl, .thm, .log] : List Part), p ∈ qs) :
    Only qs s (closeBegin a0 t) ↔ Only qs s t := by
  refine Only.iff (ps := [.hub, .seq, .lsw, .ctl, .thm, .log]) ?_ h
  unfold closeBegin; (try dsimp only); repeat' split
  all_goals simp

@[simp] theorem dscItem_only (qs : List Part) (s : State) (a0 t) (h : ∀ p ∈ ([.hub] : List Part), p ∈ qs) :
    Only qs s (dscItem a0 t) ↔ Only qs s t := by
  refine Only.iff (ps := [.hub]) ?_ h
  simp [dscItem]

@[simp] theorem dscOpenEnds_only (qs : List Part) (s : State) (a0 a1 t) (h : ∀ p ∈ ([.hub, .seq] : List Part), p ∈ qs) :
    Only qs s (dscOpenEnds a0 a1 t) ↔ Only qs s t := by
  refine Only.iff (ps := [.hub, .seq]) ?_ h
  simp [dscOpenEnds]

@[simp] theorem openDue_only (qs : List Part) (s : State) (a0 t) (h : ∀ p ∈ ([.free, .par, .hub, .seq, .lsw, .thm, .log] : List Part), p ∈ qs) :
    Only qs s (openDue a0 t) ↔ Only qs s t := by
  refine Only.iff (ps := [.free, .par, .hub, .seq, .lsw, .thm, .log]) ?_ h
  simp [openDue]

end Sys2Proof.Machine
end

