-- ==== Sys2Proof/Laws/PartsChain.lean ====
section
/-!
SUPPORT. Which parts of the state an operation may change: applied parameters, the chain, the thermal manager, position, the control engine and metrology.
One lemma per operation, in the form in which simp uses it under a longer list of parts.
-/
namespace Sys2Proof.Machine
open Sys2Proof

@[simp] theorem resolveRoles_only (qs : List Part) (s : State) (t) (h : ∀ p ∈ ([.par] : List Part), p ∈ qs) :
    Only qs s (resolveRoles t) ↔ Only qs s t := by
  refine Only.iff (ps := [.par]) ?_ h
  simp [resolveRoles]

@[simp] theorem resolveDefs_only (qs : List Part) (s : State) (t) (h : ∀ p ∈ ([.par, .lsw] : List Part), p ∈ qs) :
    Only qs s (resolveDefs t) ↔ Only qs s t := by
  refine Only.iff (ps := [.par, .lsw]) ?_ h
  simp [resolveDefs]

@[simp] theorem noteSingle_only (qs : List Part) (s : State) (t) (h : ∀ p ∈ ([.log] : List Part), p ∈ qs) :
    Only qs s (noteSingle t) ↔ Only qs s t := by
  refine Only.iff (ps := [.log]) ?_ h
  simp [noteSingle]

@[simp] theorem resolveActs_only (qs : List Part) (s : State) (t) (h : ∀ p ∈ ([.par] : List Part), p ∈ qs) :
    Only qs s (resolveActs t) ↔ Only qs s t := by
  refine Only.iff (ps := [.par]) ?_ h
  simp [resolveActs]

@[simp] theorem rematrix_only (qs : List Part) (s : State) (t) (h : ∀ p ∈ ([.free, .par, .hub, .met, .husk, .seq, .lsw, .ctl, .thm, .log] : List Part), p ∈ qs) :
    Only qs s (rematrix t) ↔ Only qs s t := by
  refine Only.iff (ps := [.free, .par, .hub, .met, .husk, .seq, .lsw, .ctl, .thm, .log]) ?_ h
  simp [rematrix]

@[simp] theorem scheduleRate_only (qs : List Part) (s : State) (t) (h : ∀ p ∈ ([.chn] : List Part), p ∈ qs) :
    Only qs s (scheduleRate t) ↔ Only qs s t := by
  refine Only.iff (ps := [.chn]) ?_ h
  simp [scheduleRate]

@[simp] theorem remap_only (qs : List Part) (s : State) (t) (h : ∀ p ∈ ([.chn, .husk, .seq, .log] : List Part), p ∈ qs) :
    Only qs s (remap t) ↔ Only qs s t := by
  refine Only.iff (ps := [.chn, .husk, .seq, .log]) ?_ h
  simp [remap]

@[simp] theorem breakCycle_only (qs : List Part) (s : State) (t a1) (h : ∀ p ∈ ([.par] : List Part), p ∈ qs) :
    Only qs s (breakCycle t a1) ↔ Only qs s t := by
  refine Only.iff (ps := [.par]) ?_ h
  simp [breakCycle]

@[simp] theorem shareSinks_only (qs : List Part) (s : State) (t) (h : ∀ p ∈ ([.par] : List Part), p ∈ qs) :
    Only qs s (shareSinks t) ↔ Only qs s t := by
  refine Only.iff (ps := [.par]) ?_ h
  simp [shareSinks]

@[simp] theorem scheduleLoops_only (qs : List Part) (s : State) (t) (h : ∀ p ∈ ([.par, .ctl] : List Part), p ∈ qs) :
    Only qs s (scheduleLoops t) ↔ Only qs s t := by
  refine Only.iff (ps := [.par, .ctl]) ?_ h
  unfold scheduleLoops; (try dsimp only)
  repeat' (first | split | refine Only.fold (fun _ _ => ?_) ?_ | simp)

@[simp] theorem clampQuota_only (qs : List Part) (s : State) (t a1) (h : ∀ p ∈ ([.par] : List Part), p ∈ qs) :
    Only qs s (clampQuota t a1) ↔ Only qs s t := by
  refine Only.iff (ps := [.par]) ?_ h
  simp [clampQuota]

@[simp] theorem judgeQuotas_only (qs : List Part) (s : State) (a0 a1 t) (h : ∀ p ∈ ([.par] : List Part), p ∈ qs) :
    Only qs s (judgeQuotas a0 a1 t) ↔ Only qs s t := by
  refine Only.iff (ps := [.par]) ?_ h
  simp [judgeQuotas]

@[simp] theorem restartDwells_only (qs : List Part) (s : State) (t) (h : ∀ p ∈ ([.thm] : List Part), p ∈ qs) :
    Only qs s (restartDwells t) ↔ Only qs s t := by
  refine Only.iff (ps := [.thm]) ?_ h
  simp [restartDwells]

@[simp] theorem dropRings_only (qs : List Part) (s : State) (t) (h : ∀ p ∈ ([.pow, .chn] : List Part), p ∈ qs) :
    Only qs s (dropRings t) ↔ Only qs s t := by
  refine Only.iff (ps := [.pow, .chn]) ?_ h
  simp [dropRings]

@[simp] theorem afterApply_only (qs : List Part) (s : State) (a0 a1 t) (h : ∀ p ∈ ([.free, .pow, .par, .hub, .chn, .met, .husk, .seq, .lsw, .ctl, .pos, .thm, .log] : List Part), p ∈ qs) :
    Only qs s (afterApply a0 a1 t) ↔ Only qs s t := by
  refine Only.iff (ps := [.free, .pow, .par, .hub, .chn, .met, .husk, .seq, .lsw, .ctl, .pos, .thm, .log]) ?_ h
  simp [afterApply]

@[simp] theorem placeValue_only (qs : List Part) (s : State) (a0 a1 t a3 a4) (h : ∀ p ∈ ([.par] : List Part), p ∈ qs) :
    Only qs s (placeValue a0 a1 t a3 a4).1 ↔ Only qs s t := by
  refine Only.iff (ps := [.par]) ?_ h
  simp [placeValue]

@[simp] theorem placeAllValues_only (qs : List Part) (s : State) (a0 a1 a2 t) (h : ∀ p ∈ ([.par] : List Part), p ∈ qs) :
    Only qs s (placeAllValues a0 a1 a2 t).1 ↔ Only qs s t := by
  refine Only.iff (ps := [.par]) ?_ h
  simp [placeAllValues]

@[simp] theorem writeValues_only (qs : List Part) (s : State) (a0 a1 t) (h : ∀ p ∈ ([.free, .pow, .par, .hub, .chn, .met, .husk, .seq, .lsw, .ctl, .pos, .thm, .log] : List Part), p ∈ qs) :
    Only qs s (writeValues a0 a1 t) ↔ Only qs s t := by
  refine Only.iff (ps := [.free, .pow, .par, .hub, .chn, .met, .husk, .seq, .lsw, .ctl, .pos, .thm, .log]) ?_ h
  simp [writeValues]

@[simp] theorem releaseHeld_only (qs : List Part) (s : State) (t) (h : ∀ p ∈ ([.free, .pow, .par, .hub, .chn, .met, .husk, .seq, .lsw, .ctl, .pos, .thm, .log] : List Part), p ∈ qs) :
    Only qs s (releaseHeld t) ↔ Only qs s t := by
  refine Only.iff (ps := [.free, .pow, .par, .hub, .chn, .met, .husk, .seq, .lsw, .ctl, .pos, .thm, .log]) ?_ h
  simp [releaseHeld]

@[simp] theorem writeBatch_only (qs : List Part) (s : State) (a0 a1 t) (h : ∀ p ∈ ([.free, .pow, .par, .hub, .chn, .met, .husk, .seq, .lsw, .ctl, .pos, .thm, .log] : List Part), p ∈ qs) :
    Only qs s (writeBatch a0 a1 t) ↔ Only qs s t := by
  refine Only.iff (ps := [.free, .pow, .par, .hub, .chn, .met, .husk, .seq, .lsw, .ctl, .pos, .thm, .log]) ?_ h
  simp [writeBatch]

@[simp] theorem applyIdle_only (qs : List Part) (s : State) (a0 t) (h : ∀ p ∈ ([.free, .pow, .par, .hub, .chn, .met, .husk, .seq, .lsw, .ctl, .pos, .thm, .log] : List Part), p ∈ qs) :
    Only qs s (applyIdle a0 t) ↔ Only qs s t := by
  refine Only.iff (ps := [.free, .pow, .par, .hub, .chn, .met, .husk, .seq, .lsw, .ctl, .pos, .thm, .log]) ?_ h
  simp [applyIdle]

@[simp] theorem withImp_only (qs : List Part) (s : State) (t a1) (h : ∀ p ∈ ([.imp] : List Part), p ∈ qs) :
    Only qs s (withImp t a1) ↔ Only qs s t := by
  refine Only.iff (ps := [.imp]) ?_ h
  simp [withImp]

@[simp] theorem modStep_only (qs : List Part) (s : State) (a0 t) (h : ∀ p ∈ ([.imp] : List Part), p ∈ qs) :
    Only qs s (modStep a0 t) ↔ Only qs s t := by
  refine Only.iff (ps := [.imp]) ?_ h
  simp [modStep]

@[simp] theorem modSteps_only (qs : List Part) (s : State) (a0 t) (h : ∀ p ∈ ([.imp] : List Part), p ∈ qs) :
    Only qs s (modSteps a0 t) ↔ Only qs s t := by
  refine Only.iff (ps := [.imp]) ?_ h
  simp [modSteps]

@[simp] theorem noteAt_only (qs : List Part) (s : State) (a0 a1 a2 a3 t) (h : ∀ p ∈ ([.imp] : List Part), p ∈ qs) :
    Only qs s (noteAt a0 a1 a2 a3 t) ↔ Only qs s t := by
  refine Only.iff (ps := [.imp]) ?_ h
  unfold noteAt; (try dsimp only)
  all_goals simp

@[simp] theorem noteImp_only (qs : List Part) (s : State) (a0 a1 t) (h : ∀ p ∈ ([.imp] : List Part), p ∈ qs) :
    Only qs s (noteImp a0 a1 t) ↔ Only qs s t := by
  refine Only.iff (ps := [.imp]) ?_ h
  simp [noteImp]

@[simp] theorem postStep_only (qs : List Part) (s : State) (a0 a1 a2 a3 t) (h : ∀ p ∈ ([.log] : List Part), p ∈ qs) :
    Only qs s (postStep a0 a1 a2 a3 t) ↔ Only qs s t := by
  refine Only.iff (ps := [.log]) ?_ h
  simp [postStep]

@[simp] theorem impCurrent_only (qs : List Part) (s : State) (a0 a1 a2 t) (h : ∀ p ∈ ([.imp] : List Part), p ∈ qs) :
    Only qs s (impCurrent a0 a1 a2 t) ↔ Only qs s t := by
  refine Only.iff (ps := [.imp]) ?_ h
  simp [impCurrent]

@[simp] theorem impScan_only (qs : List Part) (s : State) (a0 t) (h : ∀ p ∈ ([.imp] : List Part), p ∈ qs) :
    Only qs s (impScan a0 t) ↔ Only qs s t := by
  refine Only.iff (ps := [.imp]) ?_ h
  simp [impScan]

@[simp] theorem impPass_only (qs : List Part) (s : State) (a0 t) (h : ∀ p ∈ ([.imp] : List Part), p ∈ qs) :
    Only qs s (impPass a0 t) ↔ Only qs s t := by
  refine Only.iff (ps := [.imp]) ?_ h
  simp [impPass]

@[simp] theorem withChn_only (qs : List Part) (s : State) (t a1) (h : ∀ p ∈ ([.chn] : List Part), p ∈ qs) :
    Only qs s (withChn t a1) ↔ Only qs s t := by
  refine Only.iff (ps := [.chn]) ?_ h
  simp [withChn]

@[simp] theorem modRing_only (qs : List Part) (s : State) (a0 a1 t) (h : ∀ p ∈ ([.chn] : List Part), p ∈ qs) :
    Only qs s (modRing a0 a1 t) ↔ Only qs s t := by
  refine Only.iff (ps := [.chn]) ?_ h
  simp [modRing]

@[simp] theorem modNode_only (qs : List Part) (s : State) (a0 a1 t) (h : ∀ p ∈ ([.chn] : List Part), p ∈ qs) :
    Only qs s (modNode a0 a1 t) ↔ Only qs s t := by
  refine Only.iff (ps := [.chn]) ?_ h
  simp [modNode]

@[simp] theorem launchTimes_only (qs : List Part) (s : State) (a0 a1 a2 a3 a4 a5 a6 t) (h : ∀ p ∈ ([.chn] : List Part), p ∈ qs) :
    Only qs s (launchTimes a0 a1 a2 a3 a4 a5 a6 t) ↔ Only qs s t := by
  refine Only.iff (ps := [.chn]) ?_ h
  simp [launchTimes]

@[simp] theorem launchSeq_only (qs : List Part) (s : State) (a0 a1 a2 a3 a4 a5 t) (h : ∀ p ∈ ([.chn] : List Part), p ∈ qs) :
    Only qs s (launchSeq a0 a1 a2 a3 a4 a5 t) ↔ Only qs s t := by
  refine Only.iff (ps := [.chn]) ?_ h
  simp [launchSeq]

@[simp] theorem launch_only (qs : List Part) (s : State) (a0 a1 a2 a3 a4 a5 t) (h : ∀ p ∈ ([.chn] : List Part), p ∈ qs) :
    Only qs s (launch a0 a1 a2 a3 a4 a5 t) ↔ Only qs s t := by
  refine Only.iff (ps := [.chn]) ?_ h
  simp [launch]

@[simp] theorem await_only (qs : List Part) (s : State) (a0 a1 t) (h : ∀ p ∈ ([.chn] : List Part), p ∈ qs) :
    Only qs s (await a0 a1 t) ↔ Only qs s t := by
  refine Only.iff (ps := [.chn]) ?_ h
  unfold await; split <;> simp

@[simp] theorem broadcastRead_only (qs : List Part) (s : State) (a0 a1 a2 t a4) (h : ∀ p ∈ ([.chn] : List Part), p ∈ qs) :
    Only qs s (broadcastRead a0 a1 a2 t a4) ↔ Only qs s t := by
  refine Only.iff (ps := [.chn]) ?_ h
  simp [broadcastRead]

@[simp] theorem broadcast_only (qs : List Part) (s : State) (a0 a1 a2 t a4) (h : ∀ p ∈ ([.chn] : List Part), p ∈ qs) :
    Only qs s (broadcast a0 a1 a2 t a4) ↔ Only qs s t := by
  refine Only.iff (ps := [.chn]) ?_ h
  simp [broadcast]

@[simp] theorem addressed_only (qs : List Part) (s : State) (a0 a1 a2 a3 t) (h : ∀ p ∈ ([.chn] : List Part), p ∈ qs) :
    Only qs s (addressed a0 a1 a2 a3 t) ↔ Only qs s t := by
  refine Only.iff (ps := [.chn]) ?_ h
  simp [addressed]

@[simp] theorem retryAt_only (qs : List Part) (s : State) (a0 a1 t) (h : ∀ p ∈ ([.chn] : List Part), p ∈ qs) :
    Only qs s (retryAt a0 a1 t) ↔ Only qs s t := by
  refine Only.iff (ps := [.chn]) ?_ h
  simp [retryAt]

@[simp] theorem hltStep_only (qs : List Part) (s : State) (a0 a1 a2 a3 t) (h : ∀ p ∈ ([.chn] : List Part), p ∈ qs) :
    Only qs s (hltStep a0 a1 a2 a3 t) ↔ Only qs s t := by
  refine Only.iff (ps := [.chn]) ?_ h
  simp [hltStep]

@[simp] theorem hltClass_only (qs : List Part) (s : State) (a0 a1 t) (h : ∀ p ∈ ([.free, .par, .hub, .chn, .met, .husk, .seq, .lsw, .ctl, .pos, .thm, .log] : List Part), p ∈ qs) :
    Only qs s (hltClass a0 a1 t) ↔ Only qs s t := by
  refine Only.iff (ps := [.free, .par, .hub, .chn, .met, .husk, .seq, .lsw, .ctl, .pos, .thm, .log]) ?_ h
  simp [hltClass]

@[simp] theorem hltFollow_only (qs : List Part) (s : State) (a0 a1 t) (h : ∀ p ∈ ([.free, .par, .hub, .chn, .met, .husk, .seq, .lsw, .ctl, .pos, .thm, .log] : List Part), p ∈ qs) :
    Only qs s (hltFollow a0 a1 t) ↔ Only qs s t := by
  refine Only.iff (ps := [.free, .par, .hub, .chn, .met, .husk, .seq, .lsw, .ctl, .pos, .thm, .log]) ?_ h
  simp [hltFollow]

@[simp] theorem modCell_only (qs : List Part) (s : State) (a0 a1 t) (h : ∀ p ∈ ([.chn] : List Part), p ∈ qs) :
    Only qs s (modCell a0 a1 t) ↔ Only qs s t := by
  refine Only.iff (ps := [.chn]) ?_ h
  simp [modCell]

@[simp] theorem putCell_only (qs : List Part) (s : State) (a0 a1 a2 a3 a4 a5 a6 t) (h : ∀ p ∈ ([.chn] : List Part), p ∈ qs) :
    Only qs s (putCell a0 a1 a2 a3 a4 a5 a6 t) ↔ Only qs s t := by
  refine Only.iff (ps := [.chn]) ?_ h
  simp [putCell]

@[simp] theorem putRef_only (qs : List Part) (s : State) (a0 a1 t) (h : ∀ p ∈ ([.chn, .log] : List Part), p ∈ qs) :
    Only qs s (putRef a0 a1 t) ↔ Only qs s t := by
  refine Only.iff (ps := [.chn, .log]) ?_ h
  simp [putRef]

@[simp] theorem bookNode_only (qs : List Part) (s : State) (a0 t a1) (h : ∀ p ∈ ([.chn, .est] : List Part), p ∈ qs) :
    Only qs s (bookNode a0 t a1) ↔ Only qs s t := by
  refine Only.iff (ps := [.chn, .est]) ?_ h
  simp [bookNode]

@[simp] theorem bookRing_only (qs : List Part) (s : State) (a0 t) (h : ∀ p ∈ ([.chn, .est] : List Part), p ∈ qs) :
    Only qs s (bookRing a0 t) ↔ Only qs s t := by
  refine Only.iff (ps := [.chn, .est]) ?_ h
  simp [bookRing]

@[simp] theorem putStatus_only (qs : List Part) (s : State) (a0 a1 a2 t) (h : ∀ p ∈ ([.chn, .est] : List Part), p ∈ qs) :
    Only qs s (putStatus a0 a1 a2 t) ↔ Only qs s t := by
  refine Only.iff (ps := [.chn, .est]) ?_ h
  unfold putStatus
  all_goals simp

@[simp] theorem takeCells_only (qs : List Part) (s : State) (a0 a1 a2 t) (h : ∀ p ∈ ([.chn, .est, .log] : List Part), p ∈ qs) :
    Only qs s (takeCells a0 a1 a2 t) ↔ Only qs s t := by
  refine Only.iff (ps := [.chn, .est, .log]) ?_ h
  simp [takeCells]

@[simp] theorem naCells_only (qs : List Part) (s : State) (a0 a1 t) (h : ∀ p ∈ ([.chn] : List Part), p ∈ qs) :
    Only qs s (naCells a0 a1 t) ↔ Only qs s t := by
  refine Only.iff (ps := [.chn]) ?_ h
  simp [naCells]

@[simp] theorem putCoarse_only (qs : List Part) (s : State) (a0 a1 a2 a3 t) (h : ∀ p ∈ ([.chn, .log] : List Part), p ∈ qs) :
    Only qs s (putCoarse a0 a1 a2 a3 t) ↔ Only qs s t := by
  refine Only.iff (ps := [.chn, .log]) ?_ h
  simp [putCoarse]

@[simp] theorem takeCoarse_only (qs : List Part) (s : State) (a0 a1 a2 t) (h : ∀ p ∈ ([.chn, .log] : List Part), p ∈ qs) :
    Only qs s (takeCoarse a0 a1 a2 t) ↔ Only qs s t := by
  refine Only.iff (ps := [.chn, .log]) ?_ h
  simp [takeCoarse]

@[simp] theorem modTemp_only (qs : List Part) (s : State) (a0 a1 t) (h : ∀ p ∈ ([.chn] : List Part), p ∈ qs) :
    Only qs s (modTemp a0 a1 t) ↔ Only qs s t := by
  refine Only.iff (ps := [.chn]) ?_ h
  simp [modTemp]

@[simp] theorem dropCounts_only (qs : List Part) (s : State) (a0 t) (h : ∀ p ∈ ([.chn] : List Part), p ∈ qs) :
    Only qs s (dropCounts a0 t) ↔ Only qs s t := by
  refine Only.iff (ps := [.chn]) ?_ h
  simp [dropCounts]

@[simp] theorem putTemp_only (qs : List Part) (s : State) (a0 a1 a2 t) (h : ∀ p ∈ ([.chn, .log] : List Part), p ∈ qs) :
    Only qs s (putTemp a0 a1 a2 t) ↔ Only qs s t := by
  refine Only.iff (ps := [.chn, .log]) ?_ h
  unfold putTemp; repeat' split
  all_goals simp

@[simp] theorem writeDelay_only (qs : List Part) (s : State) (t a0) (h : ∀ p ∈ ([.chn] : List Part), p ∈ qs) :
    Only qs s (writeDelay t a0) ↔ Only qs s t := by
  refine Only.iff (ps := [.chn]) ?_ h
  simp [writeDelay]

@[simp] theorem retrack_only (qs : List Part) (s : State) (a0 a1 a2 t) (h : ∀ p ∈ ([.chn] : List Part), p ∈ qs) :
    Only qs s (retrack a0 a1 a2 t) ↔ Only qs s t := by
  refine Only.iff (ps := [.chn]) ?_ h
  simp [retrack]

@[simp] theorem modSample_only (qs : List Part) (s : State) (a0 a1 t) (h : ∀ p ∈ ([.chn] : List Part), p ∈ qs) :
    Only qs s (modSample a0 a1 t) ↔ Only qs s t := by
  refine Only.iff (ps := [.chn]) ?_ h
  simp [modSample]

@[simp] theorem putShunt_only (qs : List Part) (s : State) (a0 a1 t) (h : ∀ p ∈ ([.chn] : List Part), p ∈ qs) :
    Only qs s (putShunt a0 a1 t) ↔ Only qs s t := by
  refine Only.iff (ps := [.chn]) ?_ h
  unfold putShunt; repeat' split
  all_goals simp

@[simp] theorem takeTemps_only (qs : List Part) (s : State) (a0 a1 a2 t) (h : ∀ p ∈ ([.chn, .log] : List Part), p ∈ qs) :
    Only qs s (takeTemps a0 a1 a2 t) ↔ Only qs s t := by
  refine Only.iff (ps := [.chn, .log]) ?_ h
  simp [takeTemps]

@[simp] theorem naTemps_only (qs : List Part) (s : State) (a0 a1 t) (h : ∀ p ∈ ([.chn, .log] : List Part), p ∈ qs) :
    Only qs s (naTemps a0 a1 t) ↔ Only qs s t := by
  refine Only.iff (ps := [.chn, .log]) ?_ h
  simp [naTemps]

@[simp] theorem sumCurrent_only (qs : List Part) (s : State) (a0 a1 t) (h : ∀ p ∈ ([.chn] : List Part), p ∈ qs) :
    Only qs s (sumCurrent a0 a1 t) ↔ Only qs s t := by
  refine Only.iff (ps := [.chn]) ?_ h
  simp [sumCurrent]

@[simp] theorem latchScan_only (qs : List Part) (s : State) (a0 a1 a2 t) (h : ∀ p ∈ ([.chn] : List Part), p ∈ qs) :
    Only qs s (latchScan a0 a1 a2 t) ↔ Only qs s t := by
  refine Only.iff (ps := [.chn]) ?_ h
  simp [latchScan]

@[simp] theorem putString_only (qs : List Part) (s : State) (a0 a1 a2 a3 a4 a5 a6 t) (h : ∀ p ∈ ([.chn, .imp] : List Part), p ∈ qs) :
    Only qs s (putString a0 a1 a2 a3 a4 a5 a6 t) ↔ Only qs s t := by
  refine Only.iff (ps := [.chn, .imp]) ?_ h
  unfold putString; (try dsimp only); repeat' split
  all_goals simp

@[simp] theorem takeString_only (qs : List Part) (s : State) (a0 a1 a2 t) (h : ∀ p ∈ ([.chn, .imp] : List Part), p ∈ qs) :
    Only qs s (takeString a0 a1 a2 t) ↔ Only qs s t := by
  refine Only.iff (ps := [.chn, .imp]) ?_ h
  unfold takeString; split <;> simp

@[simp] theorem naString_only (qs : List Part) (s : State) (a0 a1 t) (h : ∀ p ∈ ([.chn, .imp] : List Part), p ∈ qs) :
    Only qs s (naString a0 a1 t) ↔ Only qs s t := by
  refine Only.iff (ps := [.chn, .imp]) ?_ h
  unfold naString; repeat' split
  all_goals simp

@[simp] theorem takeAux_only (qs : List Part) (s : State) (a0 a1 a2 t) (h : ∀ p ∈ ([.chn] : List Part), p ∈ qs) :
    Only qs s (takeAux a0 a1 a2 t) ↔ Only qs s t := by
  refine Only.iff (ps := [.chn]) ?_ h
  unfold takeAux; split <;> simp

@[simp] theorem naAux_only (qs : List Part) (s : State) (a0 t) (h : ∀ p ∈ ([.chn] : List Part), p ∈ qs) :
    Only qs s (naAux a0 t) ↔ Only qs s t := by
  refine Only.iff (ps := [.chn]) ?_ h
  unfold naAux; split <;> simp

@[simp] theorem takeStatus_only (qs : List Part) (s : State) (a0 a1 a2 t) (h : ∀ p ∈ ([.chn, .est] : List Part), p ∈ qs) :
    Only qs s (takeStatus a0 a1 a2 t) ↔ Only qs s t := by
  refine Only.iff (ps := [.chn, .est]) ?_ h
  simp [takeStatus]

@[simp] theorem dropRestore_only (qs : List Part) (s : State) (a0 t) (h : ∀ p ∈ ([.hub, .chn] : List Part), p ∈ qs) :
    Only qs s (dropRestore a0 t) ↔ Only qs s t := by
  refine Only.iff (ps := [.hub, .chn]) ?_ h
  simp [dropRestore]

@[simp] theorem restoreRing_only (qs : List Part) (s : State) (a0 t) (h : ∀ p ∈ ([.hub, .chn] : List Part), p ∈ qs) :
    Only qs s (restoreRing a0 t) ↔ Only qs s t := by
  refine Only.iff (ps := [.hub, .chn]) ?_ h
  simp [restoreRing]

@[simp] theorem loopCleared_only (qs : List Part) (s : State) (a0 t) (h : ∀ p ∈ ([.hub, .chn] : List Part), p ∈ qs) :
    Only qs s (loopCleared a0 t) ↔ Only qs s t := by
  refine Only.iff (ps := [.hub, .chn]) ?_ h
  unfold loopCleared; (try dsimp only); repeat' split
  all_goals simp

@[simp] theorem planHeld_only (qs : List Part) (s : State) (a0 a1 t) (h : ∀ p ∈ ([.chn, .est] : List Part), p ∈ qs) :
    Only qs s (planHeld a0 a1 t) ↔ Only qs s t := by
  refine Only.iff (ps := [.chn, .est]) ?_ h
  unfold planHeld; (try dsimp only)
  all_goals simp

@[simp] theorem takeAnswer_only (qs : List Part) (s : State) (a0 a1 a2 t) (h : ∀ p ∈ ([.hub, .chn, .est, .imp, .log] : List Part), p ∈ qs) :
    Only qs s (takeAnswer a0 a1 a2 t) ↔ Only qs s t := by
  refine Only.iff (ps := [.hub, .chn, .est, .imp, .log]) ?_ h
  unfold takeAnswer
  extract_lets s1 s2 fails
  have h2 : Only [.hub, .chn, .est, .imp, .log] t s2 := by simp [s2, s1]
  clear_value s2
  split <;> simp [h2]

@[simp] theorem exhausted_only (qs : List Part) (s : State) (a0 a1 t) (h : ∀ p ∈ ([.hub, .chn, .imp, .log] : List Part), p ∈ qs) :
    Only qs s (exhausted a0 a1 t) ↔ Only qs s t := by
  refine Only.iff (ps := [.hub, .chn, .imp, .log]) ?_ h
  unfold exhausted; (try dsimp only); split <;> simp

@[simp] theorem missing_only (qs : List Part) (s : State) (a0 a1 t) (h : ∀ p ∈ ([.hub, .chn, .imp, .log] : List Part), p ∈ qs) :
    Only qs s (missing a0 a1 t) ↔ Only qs s t := by
  refine Only.iff (ps := [.hub, .chn, .imp, .log]) ?_ h
  simp [missing]

@[simp] theorem dropPend_only (qs : List Part) (s : State) (a0 t) (h : ∀ p ∈ ([.chn] : List Part), p ∈ qs) :
    Only qs s (dropPend a0 t) ↔ Only qs s t := by
  refine Only.iff (ps := [.chn]) ?_ h
  simp [dropPend]

@[simp] theorem takeTrain_only (qs : List Part) (s : State) (a0 t) (h : ∀ p ∈ ([.free, .par, .hub, .chn, .met, .est, .imp, .husk, .seq, .lsw, .ctl, .pos, .thm, .log] : List Part), p ∈ qs) :
    Only qs s (takeTrain a0 t) ↔ Only qs s t := by
  refine Only.iff (ps := [.free, .par, .hub, .chn, .met, .est, .imp, .husk, .seq, .lsw, .ctl, .pos, .thm, .log]) ?_ h
  unfold takeTrain; (try dsimp only)
  repeat' (first | split | refine Only.fold (fun _ _ => ?_) ?_ | simp)

@[simp] theorem sweep_only (qs : List Part) (s : State) (a0 t) (h : ∀ p ∈ ([.free, .par, .hub, .chn, .met, .imp, .husk, .seq, .lsw, .ctl, .pos, .thm, .log] : List Part), p ∈ qs) :
    Only qs s (sweep a0 t) ↔ Only qs s t := by
  refine Only.iff (ps := [.free, .par, .hub, .chn, .met, .imp, .husk, .seq, .lsw, .ctl, .pos, .thm, .log]) ?_ h
  unfold sweep; (try dsimp only)
  repeat' (first | split | refine Only.fold (fun _ _ => ?_) ?_ | simp)

@[simp] theorem noteTransit_only (qs : List Part) (s : State) (a0 t) (h : ∀ p ∈ ([.chn] : List Part), p ∈ qs) :
    Only qs s (noteTransit a0 t) ↔ Only qs s t := by
  refine Only.iff (ps := [.chn]) ?_ h
  unfold noteTransit; split <;> simp

@[simp] theorem cutRing_only (qs : List Part) (s : State) (a0 a1 a2 t) (h : ∀ p ∈ ([.hub, .chn, .est] : List Part), p ∈ qs) :
    Only qs s (cutRing a0 a1 a2 t) ↔ Only qs s t := by
  refine Only.iff (ps := [.hub, .chn, .est]) ?_ h
  simp [cutRing]

@[simp] theorem relaunch_only (qs : List Part) (s : State) (a0 a1 t) (h : ∀ p ∈ ([.free, .par, .hub, .chn, .met, .imp, .husk, .seq, .lsw, .ctl, .pos, .thm, .log] : List Part), p ∈ qs) :
    Only qs s (relaunch a0 a1 t) ↔ Only qs s t := by
  refine Only.iff (ps := [.free, .par, .hub, .chn, .met, .imp, .husk, .seq, .lsw, .ctl, .pos, .thm, .log]) ?_ h
  unfold relaunch; (try dsimp only)
  repeat' (first | split | refine Only.fold (fun _ _ => ?_) ?_ | simp)

@[simp] theorem loopSet_only (qs : List Part) (s : State) (a0 a1 a2 a3 t) (h : ∀ p ∈ ([.chn] : List Part), p ∈ qs) :
    Only qs s (loopSet a0 a1 a2 a3 t) ↔ Only qs s t := by
  refine Only.iff (ps := [.chn]) ?_ h
  simp [loopSet]

@[simp] theorem loopAround_only (qs : List Part) (s : State) (a0 a1 t) (h : ∀ p ∈ ([.chn] : List Part), p ∈ qs) :
    Only qs s (loopAround a0 a1 t) ↔ Only qs s t := by
  refine Only.iff (ps := [.chn]) ?_ h
  simp [loopAround]

@[simp] theorem breakNotice_only (qs : List Part) (s : State) (a0 a1 a2 t) (h : ∀ p ∈ ([.free, .par, .hub, .chn, .met, .est, .imp, .husk, .seq, .lsw, .ctl, .pos, .thm, .log] : List Part), p ∈ qs) :
    Only qs s (breakNotice a0 a1 a2 t) ↔ Only qs s t := by
  refine Only.iff (ps := [.free, .par, .hub, .chn, .met, .est, .imp, .husk, .seq, .lsw, .ctl, .pos, .thm, .log]) ?_ h
  simp [breakNotice]

@[simp] theorem endLost_only (qs : List Part) (s : State) (a0 a1 t) (h : ∀ p ∈ ([.free, .par, .hub, .chn, .met, .est, .imp, .husk, .seq, .lsw, .ctl, .pos, .thm, .log] : List Part), p ∈ qs) :
    Only qs s (endLost a0 a1 t) ↔ Only qs s t := by
  refine Only.iff (ps := [.free, .par, .hub, .chn, .met, .est, .imp, .husk, .seq, .lsw, .ctl, .pos, .thm, .log]) ?_ h
  unfold endLost; split <;> simp

@[simp] theorem isolate_only (qs : List Part) (s : State) (a0 t) (h : ∀ p ∈ ([.hub, .chn, .est] : List Part), p ∈ qs) :
    Only qs s (isolate a0 t) ↔ Only qs s t := by
  refine Only.iff (ps := [.hub, .chn, .est]) ?_ h
  simp [isolate]

@[simp] theorem forgetRing_only (qs : List Part) (s : State) (a0 t) (h : ∀ p ∈ ([.chn] : List Part), p ∈ qs) :
    Only qs s (forgetRing a0 t) ↔ Only qs s t := by
  refine Only.iff (ps := [.chn]) ?_ h
  simp [forgetRing]

@[simp] theorem failRing_only (qs : List Part) (s : State) (a0 a1 a2 t) (h : ∀ p ∈ ([.hub, .chn, .husk, .seq, .log] : List Part), p ∈ qs) :
    Only qs s (failRing a0 a1 a2 t) ↔ Only qs s t := by
  refine Only.iff (ps := [.hub, .chn, .husk, .seq, .log]) ?_ h
  simp [failRing]

@[simp] theorem launchMany_only (qs : List Part) (s : State) (a0 a1 a2 a3 a4 a5 t) (h : ∀ p ∈ ([.chn] : List Part), p ∈ qs) :
    Only qs s (launchMany a0 a1 a2 a3 a4 a5 t) ↔ Only qs s t := by
  refine Only.iff (ps := [.chn]) ?_ h
  simp [launchMany]

@[simp] theorem launchTried_only (qs : List Part) (s : State) (a0 a1 a2 a3 a4 t) (h : ∀ p ∈ ([.chn] : List Part), p ∈ qs) :
    Only qs s (launchTried a0 a1 a2 a3 a4 t) ↔ Only qs s t := by
  refine Only.iff (ps := [.chn]) ?_ h
  simp [launchTried]

@[simp] theorem findNode_only (qs : List Part) (s : State) (a0 t a1) (h : ∀ p ∈ ([.chn] : List Part), p ∈ qs) :
    Only qs s (findNode a0 t a1) ↔ Only qs s t := by
  refine Only.iff (ps := [.chn]) ?_ h
  simp [findNode]

@[simp] theorem measureNode_only (qs : List Part) (s : State) (a0 t a1) (h : ∀ p ∈ ([.chn] : List Part), p ∈ qs) :
    Only qs s (measureNode a0 t a1) ↔ Only qs s t := by
  refine Only.iff (ps := [.chn]) ?_ h
  simp [measureNode]

@[simp] theorem tellNodes_only (qs : List Part) (s : State) (a0 a1 a2 a3 a4 t) (h : ∀ p ∈ ([.chn] : List Part), p ∈ qs) :
    Only qs s (tellNodes a0 a1 a2 a3 a4 t) ↔ Only qs s t := by
  refine Only.iff (ps := [.chn]) ?_ h
  simp [tellNodes]

@[simp] theorem setUpNodes_only (qs : List Part) (s : State) (a0 a1 t) (h : ∀ p ∈ ([.chn] : List Part), p ∈ qs) :
    Only qs s (setUpNodes a0 a1 t) ↔ Only qs s t := by
  refine Only.iff (ps := [.chn]) ?_ h
  simp [setUpNodes]

@[simp] theorem pruneCounts_only (qs : List Part) (s : State) (a0 t) (h : ∀ p ∈ ([.free, .par, .hub, .chn, .met, .husk, .seq, .lsw, .ctl, .pos, .thm, .log] : List Part), p ∈ qs) :
    Only qs s (pruneCounts a0 t) ↔ Only qs s t := by
  refine Only.iff (ps := [.free, .par, .hub, .chn, .met, .husk, .seq, .lsw, .ctl, .pos, .thm, .log]) ?_ h
  simp [pruneCounts]

@[simp] theorem reportHops_only (qs : List Part) (s : State) (a0 t) (h : ∀ p ∈ ([.log] : List Part), p ∈ qs) :
    Only qs s (reportHops a0 t) ↔ Only qs s t := by
  refine Only.iff (ps := [.log]) ?_ h
  simp [reportHops]

@[simp] theorem enumerate_only (qs : List Part) (s : State) (a0 a1 t) (h : ∀ p ∈ ([.free, .pow, .par, .hub, .chn, .met, .husk, .seq, .lsw, .ctl, .pos, .thm, .log] : List Part), p ∈ qs) :
    Only qs s (enumerate a0 a1 t) ↔ Only qs s t := by
  refine Only.iff (ps := [.free, .pow, .par, .hub, .chn, .met, .husk, .seq, .lsw, .ctl, .pos, .thm, .log]) ?_ h
  unfold enumerate
  extract_lets s1 s2 s3 tries nodes lost s4 s5 tol s6 s7 want short s8
  have h4 : Only [.free, .pow, .par, .hub, .chn, .met, .husk, .seq, .lsw, .ctl, .pos, .thm, .log] t s4 := by simp [s4, s3, s2, s1]
  have h5 : Only [.free, .pow, .par, .hub, .chn, .met, .husk, .seq, .lsw, .ctl, .pos, .thm, .log] t s5 := by simp [s5, h4]
  have h6 : Only [.free, .pow, .par, .hub, .chn, .met, .husk, .seq, .lsw, .ctl, .pos, .thm, .log] t s6 := Only.fold (fun _ _ => by simp) h5
  have h7 : Only [.free, .pow, .par, .hub, .chn, .met, .husk, .seq, .lsw, .ctl, .pos, .thm, .log] t s7 :=
    (setUpNodes_only _ _ _ _ _ (by simp)).2 (Only.fold (fun _ _ => by simp) h6)
  have h8 : Only [.free, .pow, .par, .hub, .chn, .met, .husk, .seq, .lsw, .ctl, .pos, .thm, .log] t s8 := by simp [s8, h7]
  clear_value s8 s7 s6 s5 s4 lost
  split
  · simp [h4]
  · simp [h5, h7, h8]

@[simp] theorem closeScan_only (qs : List Part) (s t : State)
    (h : ∀ p ∈ ([.free, .par, .hub, .chn, .met, .est, .imp, .husk, .seq, .lsw, .ctl, .pos, .thm, .log] : List Part), p ∈ qs) :
    Only qs s (closeScan t) ↔ Only qs s t := by
  refine Only.iff (ps := [.free, .par, .hub, .chn, .met, .est, .imp, .husk, .seq, .lsw, .ctl, .pos, .thm, .log]) ?_ h
  unfold closeScan
  split
  · simp
  · extract_lets s1 idx out s2 s3 s4 k s5
    have h1 : Only [.free, .par, .hub, .chn, .met, .est, .imp, .husk, .seq, .lsw, .ctl, .pos, .thm, .log] t s1 := by simp [s1]
    have h2 : Only [.free, .par, .hub, .chn, .met, .est, .imp, .husk, .seq, .lsw, .ctl, .pos, .thm, .log] t s2 :=
      Only.fold (fun _ _ => Only.fold (fun _ _ => by simp) (by simp)) h1
    clear_value s2
    have h3 : Only [.free, .par, .hub, .chn, .met, .est, .imp, .husk, .seq, .lsw, .ctl, .pos, .thm, .log] t s3 := by simp [s3, h2]
    clear_value s3
    have h4 : Only [.free, .par, .hub, .chn, .met, .est, .imp, .husk, .seq, .lsw, .ctl, .pos, .thm, .log] t s4 := by simp [s4, h3]
    clear_value s4 k
    have h5 : Only [.free, .par, .hub, .chn, .met, .est, .imp, .husk, .seq, .lsw, .ctl, .pos, .thm, .log] t s5 := by simp [s5, h4]
    clear_value s5
    simp [h5]

@[simp] theorem withThm_only (qs : List Part) (s : State) (t a1) (h : ∀ p ∈ ([.thm] : List Part), p ∈ qs) :
    Only qs s (withThm t a1) ↔ Only qs s t := by
  refine Only.iff (ps := [.thm]) ?_ h
  simp [withThm]

@[simp] theorem readSensor_only (qs : List Part) (s : State) (a0 a1 t) (h : ∀ p ∈ ([.thm, .log] : List Part), p ∈ qs) :
    Only qs s (readSensor a0 a1 t) ↔ Only qs s t := by
  refine Only.iff (ps := [.thm, .log]) ?_ h
  simp [readSensor]

@[simp] theorem evalLevel_only (qs : List Part) (s : State) (t a1) (h : ∀ p ∈ ([.thm, .log] : List Part), p ∈ qs) :
    Only qs s (evalLevel t a1) ↔ Only qs s t := by
  refine Only.iff (ps := [.thm, .log]) ?_ h
  simp [evalLevel]

@[simp] theorem noteHist_only (qs : List Part) (s : State) (a0 a1 t) (h : ∀ p ∈ ([.thm] : List Part), p ∈ qs) :
    Only qs s (noteHist a0 a1 t) ↔ Only qs s t := by
  refine Only.iff (ps := [.thm]) ?_ h
  simp [noteHist]

@[simp] theorem beginStop_only (qs : List Part) (s : State) (t) (h : ∀ p ∈ ([.free, .par, .hub, .met, .husk, .prt, .seq, .lsw, .ctl, .thm, .log] : List Part), p ∈ qs) :
    Only qs s (beginStop t) ↔ Only qs s t := by
  refine Only.iff (ps := [.free, .par, .hub, .met, .husk, .prt, .seq, .lsw, .ctl, .thm, .log]) ?_ h
  simp [beginStop]

@[simp] theorem followStop_only (qs : List Part) (s : State) (t) (h : ∀ p ∈ ([.free, .par, .hub, .met, .husk, .prt, .seq, .lsw, .ctl, .thm, .log] : List Part), p ∈ qs) :
    Only qs s (followStop t) ↔ Only qs s t := by
  refine Only.iff (ps := [.free, .par, .hub, .met, .husk, .prt, .seq, .lsw, .ctl, .thm, .log]) ?_ h
  simp [followStop]

@[simp] theorem modEntry_only (qs : List Part) (s : State) (a0 a1 t) (h : ∀ p ∈ ([.thm] : List Part), p ∈ qs) :
    Only qs s (modEntry a0 a1 t) ↔ Only qs s t := by
  refine Only.iff (ps := [.thm]) ?_ h
  simp [modEntry]

@[simp] theorem evalEntry_only (qs : List Part) (s : State) (t a1) (h : ∀ p ∈ ([.thm, .log] : List Part), p ∈ qs) :
    Only qs s (evalEntry t a1) ↔ Only qs s t := by
  refine Only.iff (ps := [.thm, .log]) ?_ h
  simp [evalEntry]

@[simp] theorem takeActs_only (qs : List Part) (s : State) (t) (h : ∀ p ∈ ([.free, .par, .hub, .lsw, .thm, .log] : List Part), p ∈ qs) :
    Only qs s (takeActs t) ↔ Only qs s t := by
  refine Only.iff (ps := [.free, .par, .hub, .lsw, .thm, .log]) ?_ h
  simp [takeActs]

@[simp] theorem driveLoads_only (qs : List Part) (s : State) (a0 t) (h : ∀ p ∈ ([.free, .par, .hub, .lsw, .thm, .log] : List Part), p ∈ qs) :
    Only qs s (driveLoads a0 t) ↔ Only qs s t := by
  refine Only.iff (ps := [.free, .par, .hub, .lsw, .thm, .log]) ?_ h
  simp [driveLoads]

@[simp] theorem evalEntries_only (qs : List Part) (s : State) (t) (h : ∀ p ∈ ([.free, .par, .hub, .lsw, .thm, .log] : List Part), p ∈ qs) :
    Only qs s (evalEntries t) ↔ Only qs s t := by
  refine Only.iff (ps := [.free, .par, .hub, .lsw, .thm, .log]) ?_ h
  simp [evalEntries]

@[simp] theorem withPos_only (qs : List Part) (s : State) (t a1) (h : ∀ p ∈ ([.pos] : List Part), p ∈ qs) :
    Only qs s (withPos t a1) ↔ Only qs s t := by
  refine Only.iff (ps := [.pos]) ?_ h
  simp [withPos]

@[simp] theorem modPos_only (qs : List Part) (s : State) (a0 a1 t) (h : ∀ p ∈ ([.pos] : List Part), p ∈ qs) :
    Only qs s (modPos a0 a1 t) ↔ Only qs s t := by
  refine Only.iff (ps := [.pos]) ?_ h
  simp [modPos]

@[simp] theorem reference_only (qs : List Part) (s : State) (a0 a1 a2 t) (h : ∀ p ∈ ([.pos, .log] : List Part), p ∈ qs) :
    Only qs s (reference a0 a1 a2 t) ↔ Only qs s t := by
  refine Only.iff (ps := [.pos, .log]) ?_ h
  simp [reference]

@[simp] theorem referenceOpen_only (qs : List Part) (s : State) (t) (h : ∀ p ∈ ([.pos, .log] : List Part), p ∈ qs) :
    Only qs s (referenceOpen t) ↔ Only qs s t := by
  refine Only.iff (ps := [.pos, .log]) ?_ h
  simp [referenceOpen]

@[simp] theorem stopDrive_only (qs : List Part) (s : State) (a0 t) (h : ∀ p ∈ ([.free, .par, .hub, .seq, .lsw, .ctl, .thm, .log] : List Part), p ∈ qs) :
    Only qs s (stopDrive a0 t) ↔ Only qs s t := by
  refine Only.iff (ps := [.free, .par, .hub, .seq, .lsw, .ctl, .thm, .log]) ?_ h
  simp [stopDrive]

@[simp] theorem loseLock_only (qs : List Part) (s : State) (a0 t) (h : ∀ p ∈ ([.free, .par, .hub, .met, .husk, .seq, .lsw, .ctl, .pos, .thm, .log] : List Part), p ∈ qs) :
    Only qs s (loseLock a0 t) ↔ Only qs s t := by
  refine Only.iff (ps := [.free, .par, .hub, .met, .husk, .seq, .lsw, .ctl, .pos, .thm, .log]) ?_ h
  simp [loseLock]

@[simp] theorem gainLock_only (qs : List Part) (s : State) (a0 t) (h : ∀ p ∈ ([.pos, .log] : List Part), p ∈ qs) :
    Only qs s (gainLock a0 t) ↔ Only qs s t := by
  refine Only.iff (ps := [.pos, .log]) ?_ h
  simp [gainLock]

@[simp] theorem judgeLock_only (qs : List Part) (s : State) (a0 t) (h : ∀ p ∈ ([.free, .par, .hub, .met, .husk, .seq, .lsw, .ctl, .pos, .thm, .log] : List Part), p ∈ qs) :
    Only qs s (judgeLock a0 t) ↔ Only qs s t := by
  refine Only.iff (ps := [.free, .par, .hub, .met, .husk, .seq, .lsw, .ctl, .pos, .thm, .log]) ?_ h
  simp [judgeLock]

@[simp] theorem takeTable_only (qs : List Part) (s : State) (t) (h : ∀ p ∈ ([.pos] : List Part), p ∈ qs) :
    Only qs s (takeTable t) ↔ Only qs s t := by
  refine Only.iff (ps := [.pos]) ?_ h
  simp [takeTable]

@[simp] theorem cmpActs_only (qs : List Part) (s : State) (a0 a1 a2 t) (h : ∀ p ∈ ([.met, .ctl, .pos, .log] : List Part), p ∈ qs) :
    Only qs s (cmpActs a0 a1 a2 t) ↔ Only qs s t := by
  refine Only.iff (ps := [.met, .ctl, .pos, .log]) ?_ h
  simp [cmpActs]

@[simp] theorem evalCmp_only (qs : List Part) (s : State) (a0 t a2) (h : ∀ p ∈ ([.met, .ctl, .pos, .log] : List Part), p ∈ qs) :
    Only qs s (evalCmp a0 t a2) ↔ Only qs s t := by
  refine Only.iff (ps := [.met, .ctl, .pos, .log]) ?_ h
  unfold evalCmp; (try dsimp only); split <;> simp

@[simp] theorem evalTable_only (qs : List Part) (s : State) (a0 t) (h : ∀ p ∈ ([.met, .ctl, .pos, .log] : List Part), p ∈ qs) :
    Only qs s (evalTable a0 t) ↔ Only qs s t := by
  refine Only.iff (ps := [.met, .ctl, .pos, .log]) ?_ h
  simp [evalTable]

@[simp] theorem followCreep_only (qs : List Part) (s : State) (t) (h : ∀ p ∈ ([.pos] : List Part), p ∈ qs) :
    Only qs s (followCreep t) ↔ Only qs s t := by
  refine Only.iff (ps := [.pos]) ?_ h
  simp [followCreep]

@[simp] theorem followSlp_only (qs : List Part) (s : State) (t) (h : ∀ p ∈ ([.free, .par, .hub, .met, .husk, .seq, .lsw, .ctl, .pos, .thm, .log] : List Part), p ∈ qs) :
    Only qs s (followSlp t) ↔ Only qs s t := by
  refine Only.iff (ps := [.free, .par, .hub, .met, .husk, .seq, .lsw, .ctl, .pos, .thm, .log]) ?_ h
  simp [followSlp]

@[simp] theorem quadOut_only (qs : List Part) (s : State) (a0 t) (h : ∀ p ∈ ([.pos] : List Part), p ∈ qs) :
    Only qs s (quadOut a0 t) ↔ Only qs s t := by
  refine Only.iff (ps := [.pos]) ?_ h
  simp [quadOut]

@[simp] theorem quadOff_only (qs : List Part) (s : State) (t) (h : ∀ p ∈ ([.pos] : List Part), p ∈ qs) :
    Only qs s (quadOff t) ↔ Only qs s t := by
  refine Only.iff (ps := [.pos]) ?_ h
  simp [quadOff]

@[simp] theorem samplePos_only (qs : List Part) (s : State) (a0 a1 t) (h : ∀ p ∈ ([.free, .par, .hub, .met, .husk, .seq, .lsw, .ctl, .pos, .thm, .log] : List Part), p ∈ qs) :
    Only qs s (samplePos a0 a1 t) ↔ Only qs s t := by
  refine Only.iff (ps := [.free, .par, .hub, .met, .husk, .seq, .lsw, .ctl, .pos, .thm, .log]) ?_ h
  simp [samplePos]

@[simp] theorem posIdleApply_only (qs : List Part) (s : State) (t) (h : ∀ p ∈ ([.free, .pow, .par, .hub, .chn, .met, .husk, .seq, .lsw, .ctl, .pos, .thm, .log] : List Part), p ∈ qs) :
    Only qs s (posIdleApply t) ↔ Only qs s t := by
  refine Only.iff (ps := [.free, .pow, .par, .hub, .chn, .met, .husk, .seq, .lsw, .ctl, .pos, .thm, .log]) ?_ h
  simp [posIdleApply]

@[simp] theorem endReleased_only (qs : List Part) (s : State) (a0 a1 t) (h : ∀ p ∈ ([.seq, .pos] : List Part), p ∈ qs) :
    Only qs s (endReleased a0 a1 t) ↔ Only qs s t := by
  refine Only.iff (ps := [.seq, .pos]) ?_ h
  simp [endReleased]

@[simp] theorem checkBoth_only (qs : List Part) (s : State) (t) (h : ∀ p ∈ ([.free, .par, .hub, .met, .husk, .seq, .lsw, .ctl, .pos, .thm, .log] : List Part), p ∈ qs) :
    Only qs s (checkBoth t) ↔ Only qs s t := by
  refine Only.iff (ps := [.free, .par, .hub, .met, .husk, .seq, .lsw, .ctl, .pos, .thm, .log]) ?_ h
  simp [checkBoth]

@[simp] theorem armPos_only (qs : List Part) (s : State) (a0 t) (h : ∀ p ∈ ([.pos] : List Part), p ∈ qs) :
    Only qs s (armPos a0 t).2 ↔ Only qs s t := by
  refine Only.iff (ps := [.pos]) ?_ h
  simp [armPos]

@[simp] theorem presetPos_only (qs : List Part) (s : State) (a0 a1 t) (h : ∀ p ∈ ([.pos] : List Part), p ∈ qs) :
    Only qs s (presetPos a0 a1 t).2 ↔ Only qs s t := by
  refine Only.iff (ps := [.pos]) ?_ h
  simp [presetPos]

@[simp] theorem withCtl_only (qs : List Part) (s : State) (t a1) (h : ∀ p ∈ ([.ctl] : List Part), p ∈ qs) :
    Only qs s (withCtl t a1) ↔ Only qs s t := by
  refine Only.iff (ps := [.ctl]) ?_ h
  simp [withCtl]

@[simp] theorem nextFreeze_only (qs : List Part) (s : State) (t) (h : ∀ p ∈ ([.xfer] : List Part), p ∈ qs) :
    Only qs s (nextFreeze t).2 ↔ Only qs s t := by
  refine Only.iff (ps := [.xfer]) ?_ h
  simp [nextFreeze]

@[simp] theorem settleTrace_only (qs : List Part) (s : State) (a0 t) (h : ∀ p ∈ ([.ctl, .xfer] : List Part), p ∈ qs) :
    Only qs s (settleTrace a0 t) ↔ Only qs s t := by
  refine Only.iff (ps := [.ctl, .xfer]) ?_ h
  simp [settleTrace]

@[simp] theorem traceEval_only (qs : List Part) (s : State) (a0 t a2) (h : ∀ p ∈ ([.ctl, .xfer] : List Part), p ∈ qs) :
    Only qs s (traceEval a0 t a2) ↔ Only qs s t := by
  refine Only.iff (ps := [.ctl, .xfer]) ?_ h
  simp [traceEval]

@[simp] theorem loopTrigger_only (qs : List Part) (s : State) (a0 a1 a2 t) (h : ∀ p ∈ ([.ctl, .xfer] : List Part), p ∈ qs) :
    Only qs s (loopTrigger a0 a1 a2 t) ↔ Only qs s t := by
  refine Only.iff (ps := [.ctl, .xfer]) ?_ h
  simp [loopTrigger]

@[simp] theorem writeSink_only (qs : List Part) (s : State) (a0 t) (h : ∀ p ∈ ([.ctl] : List Part), p ∈ qs) :
    Only qs s (writeSink a0 t) ↔ Only qs s t := by
  refine Only.iff (ps := [.ctl]) ?_ h
  simp [writeSink]

@[simp] theorem pwPeriods_only (qs : List Part) (s : State) (t) (h : ∀ p ∈ ([.ctl] : List Part), p ∈ qs) :
    Only qs s (pwPeriods t) ↔ Only qs s t := by
  refine Only.iff (ps := [.ctl]) ?_ h
  simp [pwPeriods]

@[simp] theorem faultLoop_only (qs : List Part) (s : State) (a0 t) (h : ∀ p ∈ ([.free, .par, .hub, .seq, .lsw, .ctl, .thm, .log, .xfer] : List Part), p ∈ qs) :
    Only qs s (faultLoop a0 t) ↔ Only qs s t := by
  refine Only.iff (ps := [.free, .par, .hub, .seq, .lsw, .ctl, .thm, .log, .xfer]) ?_ h
  simp [faultLoop]

@[simp] theorem missLoop_only (qs : List Part) (s : State) (a0 t) (h : ∀ p ∈ ([.free, .par, .hub, .seq, .lsw, .ctl, .thm, .log, .xfer] : List Part), p ∈ qs) :
    Only qs s (missLoop a0 t) ↔ Only qs s t := by
  refine Only.iff (ps := [.free, .par, .hub, .seq, .lsw, .ctl, .thm, .log, .xfer]) ?_ h
  simp [missLoop]

@[simp] theorem takeSetpoint_only (qs : List Part) (s : State) (a0 t) (h : ∀ p ∈ ([.par, .hub, .ctl] : List Part), p ∈ qs) :
    Only qs s (takeSetpoint a0 t) ↔ Only qs s t := by
  refine Only.iff (ps := [.par, .hub, .ctl]) ?_ h
  unfold takeSetpoint; split <;> simp

@[simp] theorem dueLoop_only (qs : List Part) (s : State) (a0 t a2) (h : ∀ p ∈ ([.free, .par, .hub, .seq, .lsw, .ctl, .thm, .log, .xfer] : List Part), p ∈ qs) :
    Only qs s (dueLoop a0 t a2) ↔ Only qs s t := by
  refine Only.iff (ps := [.free, .par, .hub, .seq, .lsw, .ctl, .thm, .log, .xfer]) ?_ h
  unfold dueLoop; split <;> simp

@[simp] theorem ctlIdleApply_only (qs : List Part) (s : State) (t) (h : ∀ p ∈ ([.free, .pow, .par, .hub, .chn, .met, .husk, .seq, .lsw, .ctl, .pos, .thm, .log] : List Part), p ∈ qs) :
    Only qs s (ctlIdleApply t) ↔ Only qs s t := by
  refine Only.iff (ps := [.free, .pow, .par, .hub, .chn, .met, .husk, .seq, .lsw, .ctl, .pos, .thm, .log]) ?_ h
  simp [ctlIdleApply]

@[simp] theorem noteMeans_only (qs : List Part) (s : State) (t) (h : ∀ p ∈ ([.ctl] : List Part), p ∈ qs) :
    Only qs s (noteMeans t) ↔ Only qs s t := by
  refine Only.iff (ps := [.ctl]) ?_ h
  simp [noteMeans]

@[simp] theorem enableLoop_only (qs : List Part) (s : State) (a0 t) (h : ∀ p ∈ ([.ctl] : List Part), p ∈ qs) :
    Only qs s (enableLoop a0 t).2 ↔ Only qs s t := by
  refine Only.iff (ps := [.ctl]) ?_ h
  simp [enableLoop]

@[simp] theorem disableLoop_only (qs : List Part) (s : State) (a0 t) (h : ∀ p ∈ ([.par, .hub, .ctl] : List Part), p ∈ qs) :
    Only qs s (disableLoop a0 t).2 ↔ Only qs s t := by
  refine Only.iff (ps := [.par, .hub, .ctl]) ?_ h
  simp [disableLoop]

@[simp] theorem endAtOnce_only (qs : List Part) (s : State) (a0 a1 t) (h : ∀ p ∈ ([.hub] : List Part), p ∈ qs) :
    Only qs s (endAtOnce a0 a1 t) ↔ Only qs s t := by
  refine Only.iff (ps := [.hub]) ?_ h
  unfold endAtOnce
  repeat' (first | split | refine Only.fold (fun _ _ => ?_) ?_ | simp)

@[simp] theorem armTrace_only (qs : List Part) (s : State) (a0 t) (h : ∀ p ∈ ([.ctl] : List Part), p ∈ qs) :
    Only qs s (armTrace a0 t) ↔ Only qs s t := by
  refine Only.iff (ps := [.ctl]) ?_ h
  simp [armTrace]

@[simp] theorem withMet_only (qs : List Part) (s : State) (t a1) (h : ∀ p ∈ ([.met] : List Part), p ∈ qs) :
    Only qs s (withMet t a1) ↔ Only qs s t := by
  refine Only.iff (ps := [.met]) ?_ h
  simp [withMet]

@[simp] theorem takeSamples_only (qs : List Part) (s : State) (a0 a1 t) (h : ∀ p ∈ ([.met] : List Part), p ∈ qs) :
    Only qs s (takeSamples a0 a1 t) ↔ Only qs s t := by
  refine Only.iff (ps := [.met]) ?_ h
  simp [takeSamples]

@[simp] theorem followOverlap_only (qs : List Part) (s : State) (a0 t) (h : ∀ p ∈ ([.met] : List Part), p ∈ qs) :
    Only qs s (followOverlap a0 t) ↔ Only qs s t := by
  refine Only.iff (ps := [.met]) ?_ h
  unfold followOverlap; split <;> simp

@[simp] theorem yieldSpare_only (qs : List Part) (s : State) (t) (h : ∀ p ∈ ([.met] : List Part), p ∈ qs) :
    Only qs s (yieldSpare t) ↔ Only qs s t := by
  refine Only.iff (ps := [.met]) ?_ h
  unfold yieldSpare; repeat' split
  all_goals simp

@[simp] theorem nextIndex_only (qs : List Part) (s : State) (t) (h : ∀ p ∈ ([.met, .log] : List Part), p ∈ qs) :
    Only qs s (nextIndex t) ↔ Only qs s t := by
  refine Only.iff (ps := [.met, .log]) ?_ h
  simp [nextIndex]

@[simp] theorem followCapture_only (qs : List Part) (s : State) (a0 t) (h : ∀ p ∈ ([.met] : List Part), p ∈ qs) :
    Only qs s (followCapture a0 t) ↔ Only qs s t := by
  refine Only.iff (ps := [.met]) ?_ h
  unfold followCapture; (try dsimp only); split <;> simp

@[simp] theorem currentTriggers_only (qs : List Part) (s : State) (t) (h : ∀ p ∈ ([.met, .ctl] : List Part), p ∈ qs) :
    Only qs s (currentTriggers t) ↔ Only qs s t := by
  refine Only.iff (ps := [.met, .ctl]) ?_ h
  unfold currentTriggers; repeat' split
  all_goals simp

@[simp] theorem beginHalf_only (qs : List Part) (s : State) (a0 a1 t) (h : ∀ p ∈ ([.met] : List Part), p ∈ qs) :
    Only qs s (beginHalf a0 a1 t) ↔ Only qs s t := by
  refine Only.iff (ps := [.met]) ?_ h
  simp [beginHalf]

@[simp] theorem followInsulation_only (qs : List Part) (s : State) (t) (h : ∀ p ∈ ([.met] : List Part), p ∈ qs) :
    Only qs s (followInsulation t) ↔ Only qs s t := by
  refine Only.iff (ps := [.met]) ?_ h
  simp [followInsulation]

@[simp] theorem judgeInsulation_only (qs : List Part) (s : State) (t) (h : ∀ p ∈ ([.free, .par, .hub, .met, .husk, .prt, .seq, .lsw, .ctl, .pos, .thm, .log] : List Part), p ∈ qs) :
    Only qs s (judgeInsulation t) ↔ Only qs s t := by
  refine Only.iff (ps := [.free, .par, .hub, .met, .husk, .prt, .seq, .lsw, .ctl, .pos, .thm, .log]) ?_ h
  simp [judgeInsulation]

@[simp] theorem insResult_only (qs : List Part) (s : State) (a0 a1 t) (h : ∀ p ∈ ([.free, .par, .hub, .met, .husk, .prt, .seq, .lsw, .ctl, .pos, .thm, .log] : List Part), p ∈ qs) :
    Only qs s (insResult a0 a1 t) ↔ Only qs s t := by
  refine Only.iff (ps := [.free, .par, .hub, .met, .husk, .prt, .seq, .lsw, .ctl, .pos, .thm, .log]) ?_ h
  simp [insResult]

@[simp] theorem followEnergy_only (qs : List Part) (s : State) (t) (h : ∀ p ∈ ([.free, .par, .hub, .seq, .lsw, .ctl, .thm, .log] : List Part), p ∈ qs) :
    Only qs s (followEnergy t) ↔ Only qs s t := by
  refine Only.iff (ps := [.free, .par, .hub, .seq, .lsw, .ctl, .thm, .log]) ?_ h
  unfold followEnergy; repeat' split
  all_goals simp

@[simp] theorem followDone_only (qs : List Part) (s : State) (t) (h : ∀ p ∈ ([.seq] : List Part), p ∈ qs) :
    Only qs s (followDone t) ↔ Only qs s t := by
  refine Only.iff (ps := [.seq]) ?_ h
  simp [followDone]

@[simp] theorem followSld_only (qs : List Part) (s : State) (a0 t) (h : ∀ p ∈ ([.free, .par, .hub, .met, .husk, .seq, .lsw, .ctl, .pos, .thm, .log] : List Part), p ∈ qs) :
    Only qs s (followSld a0 t) ↔ Only qs s t := by
  refine Only.iff (ps := [.free, .par, .hub, .met, .husk, .seq, .lsw, .ctl, .pos, .thm, .log]) ?_ h
  simp [followSld]

@[simp] theorem instant_only (qs : List Part) (s : State) (a0 t) (h : ∀ p ∈ ([.free, .par, .hub, .met, .husk, .seq, .lsw, .ctl, .pos, .thm, .log] : List Part), p ∈ qs) :
    Only qs s (instant a0 t) ↔ Only qs s t := by
  refine Only.iff (ps := [.free, .par, .hub, .met, .husk, .seq, .lsw, .ctl, .pos, .thm, .log]) ?_ h
  simp [instant]

end Sys2Proof.Machine
end

