-- ==== Sys2Proof/Laws/PartsEst.lean ====
section
/-!
SUPPORT. Which parts of the state an operation may change: estimation, limits, balancing, scan evaluation, the impedance engine, ports and parameter items.
One lemma per operation, in the form in which simp uses it under a longer list of parts.
-/
namespace Sys2Proof.Machine
open Sys2Proof

@[simp] theorem modEst_only (qs : List Part) (s : State) (a0 a1 t) (h : ∀ p ∈ ([.est] : List Part), p ∈ qs) :
    Only qs s (modEst a0 a1 t) ↔ Only qs s t := by
  refine Only.iff (ps := [.est]) ?_ h
  unfold modEst; split <;> simp

@[simp] theorem withEst_only (qs : List Part) (s : State) (t a1) (h : ∀ p ∈ ([.est] : List Part), p ∈ qs) :
    Only qs s (withEst t a1) ↔ Only qs s t := by
  refine Only.iff (ps := [.est]) ?_ h
  simp [withEst]

@[simp] theorem modLearn_only (qs : List Part) (s : State) (a0 a1 t) (h : ∀ p ∈ ([.est] : List Part), p ∈ qs) :
    Only qs s (modLearn a0 a1 t) ↔ Only qs s t := by
  refine Only.iff (ps := [.est]) ?_ h
  simp [modLearn]

@[simp] theorem applyRestore_only (qs : List Part) (s : State) (t) (h : ∀ p ∈ ([.est] : List Part), p ∈ qs) :
    Only qs s (applyRestore t) ↔ Only qs s t := by
  refine Only.iff (ps := [.est]) ?_ h
  simp [applyRestore]

@[simp] theorem initCell_only (qs : List Part) (s : State) (a0 a1 a2 t) (h : ∀ p ∈ ([.free, .est] : List Part), p ∈ qs) :
    Only qs s (initCell a0 a1 a2 t) ↔ Only qs s t := by
  refine Only.iff (ps := [.free, .est]) ?_ h
  simp [initCell]

@[simp] theorem passCell_only (qs : List Part) (s : State) (a0 a1 a2 a3 a4 t a6) (h : ∀ p ∈ ([.free, .est] : List Part), p ∈ qs) :
    Only qs s (passCell a0 a1 a2 a3 a4 t a6) ↔ Only qs s t := by
  refine Only.iff (ps := [.free, .est]) ?_ h
  unfold passCell; split <;> simp

@[simp] theorem learnScan_only (qs : List Part) (s : State) (a0 a1 t) (h : ∀ p ∈ ([.est] : List Part), p ∈ qs) :
    Only qs s (learnScan a0 a1 t) ↔ Only qs s t := by
  refine Only.iff (ps := [.est]) ?_ h
  simp [learnScan]

@[simp] theorem passString_only (qs : List Part) (s : State) (a0 a1 t a3) (h : ∀ p ∈ ([.free, .chn, .est] : List Part), p ∈ qs) :
    Only qs s (passString a0 a1 t a3) ↔ Only qs s t := by
  refine Only.iff (ps := [.free, .chn, .est]) ?_ h
  simp [passString]

@[simp] theorem passScan_only (qs : List Part) (s : State) (t a0) (h : ∀ p ∈ ([.free, .chn, .est, .imp] : List Part), p ∈ qs) :
    Only qs s (passScan t a0) ↔ Only qs s t := by
  refine Only.iff (ps := [.free, .chn, .est, .imp]) ?_ h
  simp [passScan]

@[simp] theorem filterPass_only (qs : List Part) (s : State) (t) (h : ∀ p ∈ ([.free, .chn, .est, .imp] : List Part), p ∈ qs) :
    Only qs s (filterPass t) ↔ Only qs s t := by
  refine Only.iff (ps := [.free, .chn, .est, .imp]) ?_ h
  simp [filterPass]

@[simp] theorem growthEvent_only (qs : List Part) (s : State) (a0 a1 a2 a3 a4 t) (h : ∀ p ∈ ([.log] : List Part), p ∈ qs) :
    Only qs s (growthEvent a0 a1 a2 a3 a4 t) ↔ Only qs s t := by
  refine Only.iff (ps := [.log]) ?_ h
  simp [growthEvent]

@[simp] theorem growthCell_only (qs : List Part) (s : State) (a0 t a2) (h : ∀ p ∈ ([.free, .par, .hub, .met, .est, .husk, .prt, .seq, .lsw, .ctl, .pos, .thm, .log] : List Part), p ∈ qs) :
    Only qs s (growthCell a0 t a2) ↔ Only qs s t := by
  refine Only.iff (ps := [.free, .par, .hub, .met, .est, .husk, .prt, .seq, .lsw, .ctl, .pos, .thm, .log]) ?_ h
  unfold growthCell; split <;> simp

@[simp] theorem growthString_only (qs : List Part) (s : State) (t a1) (h : ∀ p ∈ ([.free, .par, .hub, .met, .est, .husk, .prt, .seq, .lsw, .ctl, .pos, .thm, .log] : List Part), p ∈ qs) :
    Only qs s (growthString t a1) ↔ Only qs s t := by
  refine Only.iff (ps := [.free, .par, .hub, .met, .est, .husk, .prt, .seq, .lsw, .ctl, .pos, .thm, .log]) ?_ h
  simp [growthString]

@[simp] theorem reportString_only (qs : List Part) (s : State) (a0 t a1) (h : ∀ p ∈ ([.chn, .est] : List Part), p ∈ qs) :
    Only qs s (reportString a0 t a1) ↔ Only qs s t := by
  refine Only.iff (ps := [.chn, .est]) ?_ h
  simp [reportString]

@[simp] theorem bringUp_only (qs : List Part) (s : State) (t) (h : ∀ p ∈ ([.free, .par, .hub, .chn, .met, .est, .husk, .prt, .seq, .lsw, .ctl, .pos, .thm, .log] : List Part), p ∈ qs) :
    Only qs s (bringUp t) ↔ Only qs s t := by
  refine Only.iff (ps := [.free, .par, .hub, .chn, .met, .est, .husk, .prt, .seq, .lsw, .ctl, .pos, .thm, .log]) ?_ h
  simp [bringUp]

@[simp] theorem publish_only (qs : List Part) (s : State) (t) (h : ∀ p ∈ ([.free, .par, .hub, .chn, .met, .est, .husk, .prt, .seq, .lsw, .ctl, .pos, .thm, .log] : List Part), p ∈ qs) :
    Only qs s (publish t) ↔ Only qs s t := by
  refine Only.iff (ps := [.free, .par, .hub, .chn, .met, .est, .husk, .prt, .seq, .lsw, .ctl, .pos, .thm, .log]) ?_ h
  unfold publish
  extract_lets s3 strs ps inS raw limB risenOf cellLims outs0 outs views idx set s4 s5 s6
  have h3 : Only [.free, .par, .hub, .chn, .met, .est, .husk, .prt, .seq, .lsw, .ctl, .pos, .thm, .log] t s3 := by simp [s3]
  clear_value s3 set risenOf limB cellLims
  have h4 : Only [.free, .par, .hub, .chn, .met, .est, .husk, .prt, .seq, .lsw, .ctl, .pos, .thm, .log] t s4 := by simp [s4, h3]
  clear_value s4
  have h5 : Only [.free, .par, .hub, .chn, .met, .est, .husk, .prt, .seq, .lsw, .ctl, .pos, .thm, .log] t s5 := by simp [s5, h4]
  clear_value s5
  simp [s6, h5]

@[simp] theorem noticeSet_only (qs : List Part) (s : State) (t) (h : ∀ p ∈ ([.hub, .prt] : List Part), p ∈ qs) :
    Only qs s (noticeSet t) ↔ Only qs s t := by
  refine Only.iff (ps := [.hub, .prt]) ?_ h
  simp [noticeSet]

@[simp] theorem modBal_only (qs : List Part) (s : State) (a0 a1 t) (h : ∀ p ∈ ([.chn] : List Part), p ∈ qs) :
    Only qs s (modBal a0 a1 t) ↔ Only qs s t := by
  refine Only.iff (ps := [.chn]) ?_ h
  simp [modBal]

@[simp] theorem sendPlan_only (qs : List Part) (s : State) (a0 a1 t) (h : ∀ p ∈ ([.chn] : List Part), p ∈ qs) :
    Only qs s (sendPlan a0 a1 t) ↔ Only qs s t := by
  refine Only.iff (ps := [.chn]) ?_ h
  simp [sendPlan]

@[simp] theorem renewPlan_only (qs : List Part) (s : State) (a0 a1 t) (h : ∀ p ∈ ([.chn] : List Part), p ∈ qs) :
    Only qs s (renewPlan a0 a1 t) ↔ Only qs s t := by
  refine Only.iff (ps := [.chn]) ?_ h
  simp [renewPlan]

@[simp] theorem planString_only (qs : List Part) (s : State) (t a1) (h : ∀ p ∈ ([.chn] : List Part), p ∈ qs) :
    Only qs s (planString t a1) ↔ Only qs s t := by
  refine Only.iff (ps := [.chn]) ?_ h
  simp [planString]

@[simp] theorem watchHold_only (qs : List Part) (s : State) (t a1) (h : ∀ p ∈ ([.chn] : List Part), p ∈ qs) :
    Only qs s (watchHold t a1) ↔ Only qs s t := by
  refine Only.iff (ps := [.chn]) ?_ h
  simp [watchHold]

@[simp] theorem withdraw_only (qs : List Part) (s : State) (a0 t a2) (h : ∀ p ∈ ([.chn] : List Part), p ∈ qs) :
    Only qs s (withdraw a0 t a2) ↔ Only qs s t := by
  refine Only.iff (ps := [.chn]) ?_ h
  simp [withdraw]

@[simp] theorem balanceCycle_only (qs : List Part) (s : State) (t a1) (h : ∀ p ∈ ([.chn] : List Part), p ∈ qs) :
    Only qs s (balanceCycle t a1) ↔ Only qs s t := by
  refine Only.iff (ps := [.chn]) ?_ h
  simp [balanceCycle]

@[simp] theorem balSample_only (qs : List Part) (s : State) (a0 a1 t) (h : ∀ p ∈ ([.chn] : List Part), p ∈ qs) :
    Only qs s (balSample a0 a1 t) ↔ Only qs s t := by
  refine Only.iff (ps := [.chn]) ?_ h
  simp [balSample]

@[simp] theorem stringHeat_only (qs : List Part) (s : State) (a0 a1 t) (h : ∀ p ∈ ([.free, .par, .hub, .met, .husk, .prt, .seq, .lsw, .ctl, .pos, .thm, .log] : List Part), p ∈ qs) :
    Only qs s (stringHeat a0 a1 t) ↔ Only qs s t := by
  refine Only.iff (ps := [.free, .par, .hub, .met, .husk, .prt, .seq, .lsw, .ctl, .pos, .thm, .log]) ?_ h
  simp [stringHeat]

@[simp] theorem blockHeat_only (qs : List Part) (s : State) (a0 t) (h : ∀ p ∈ ([.free, .par, .hub, .met, .husk, .prt, .seq, .lsw, .ctl, .pos, .thm, .log] : List Part), p ∈ qs) :
    Only qs s (blockHeat a0 t) ↔ Only qs s t := by
  refine Only.iff (ps := [.free, .par, .hub, .met, .husk, .prt, .seq, .lsw, .ctl, .pos, .thm, .log]) ?_ h
  simp [blockHeat]

@[simp] theorem loseString_only (qs : List Part) (s : State) (a0 t) (h : ∀ p ∈ ([.free, .par, .hub, .chn, .met, .est, .imp, .husk, .prt, .seq, .lsw, .ctl, .pos, .thm, .log] : List Part), p ∈ qs) :
    Only qs s (loseString a0 t) ↔ Only qs s t := by
  refine Only.iff (ps := [.free, .par, .hub, .chn, .met, .est, .imp, .husk, .prt, .seq, .lsw, .ctl, .pos, .thm, .log]) ?_ h
  simp [loseString]

@[simp] theorem learnSample_only (qs : List Part) (s : State) (a0 a1 a2 t) (h : ∀ p ∈ ([.est] : List Part), p ∈ qs) :
    Only qs s (learnSample a0 a1 a2 t) ↔ Only qs s t := by
  refine Only.iff (ps := [.est]) ?_ h
  unfold learnSample; (try dsimp only); split <;> simp

@[simp] theorem stringJudged_only (qs : List Part) (s : State) (a0 a1 a2 a3 t) (h : ∀ p ∈ ([.free, .par, .hub, .chn, .met, .est, .imp, .husk, .prt, .seq, .lsw, .ctl, .pos, .thm, .log] : List Part), p ∈ qs) :
    Only qs s (stringJudged a0 a1 a2 a3 t) ↔ Only qs s t := by
  refine Only.iff (ps := [.free, .par, .hub, .chn, .met, .est, .imp, .husk, .prt, .seq, .lsw, .ctl, .pos, .thm, .log]) ?_ h
  simp [stringJudged]

@[simp] theorem stringFirmware_only (qs : List Part) (s : State) (t a1) (h : ∀ p ∈ ([.free, .par, .hub, .chn, .met, .est, .imp, .husk, .prt, .seq, .lsw, .ctl, .pos, .thm, .log] : List Part), p ∈ qs) :
    Only qs s (stringFirmware t a1) ↔ Only qs s t := by
  refine Only.iff (ps := [.free, .par, .hub, .chn, .met, .est, .imp, .husk, .prt, .seq, .lsw, .ctl, .pos, .thm, .log]) ?_ h
  unfold stringFirmware
  split
  · simp
  · extract_lets x s1
    have h1 : Only [.free, .par, .hub, .chn, .met, .est, .imp, .husk, .prt, .seq, .lsw, .ctl, .pos, .thm, .log] t s1 := by simp [s1]
    clear_value s1 x
    split <;> simp [h1]

@[simp] theorem afterStrings_only (qs : List Part) (s : State) (a0 t) (h : ∀ p ∈ ([.free, .par, .hub, .chn, .met, .est, .imp, .husk, .prt, .seq, .lsw, .ctl, .pos, .thm, .log] : List Part), p ∈ qs) :
    Only qs s (afterStrings a0 t) ↔ Only qs s t := by
  refine Only.iff (ps := [.free, .par, .hub, .chn, .met, .est, .imp, .husk, .prt, .seq, .lsw, .ctl, .pos, .thm, .log]) ?_ h
  simp [afterStrings]

@[simp] theorem countSkip_only (qs : List Part) (s : State) (t) (h : ∀ p ∈ ([.chn] : List Part), p ∈ qs) :
    Only qs s (countSkip t) ↔ Only qs s t := by
  refine Only.iff (ps := [.chn]) ?_ h
  simp [countSkip]

@[simp] theorem joinReading_only (qs : List Part) (s : State) (a0 a1 a2 a3 t) (h : ∀ p ∈ ([.hub, .chn, .seq, .log] : List Part), p ∈ qs) :
    Only qs s (joinReading a0 a1 a2 a3 t) ↔ Only qs s t := by
  refine Only.iff (ps := [.hub, .chn, .seq, .log]) ?_ h
  unfold joinReading; repeat' split
  all_goals simp

@[simp] theorem openReading_only (qs : List Part) (s : State) (a0 a1 a2 t) (h : ∀ p ∈ ([.free, .par, .hub, .chn, .met, .seq, .lsw, .ctl, .thm, .log] : List Part), p ∈ qs) :
    Only qs s (openReading a0 a1 a2 t) ↔ Only qs s t := by
  refine Only.iff (ps := [.free, .par, .hub, .chn, .met, .seq, .lsw, .ctl, .thm, .log]) ?_ h
  simp [openReading]

@[simp] theorem auxFirmware_only (qs : List Part) (s : State) (t a1) (h : ∀ p ∈ ([.free, .par, .hub, .chn, .met, .seq, .lsw, .ctl, .thm, .log] : List Part), p ∈ qs) :
    Only qs s (auxFirmware t a1) ↔ Only qs s t := by
  refine Only.iff (ps := [.free, .par, .hub, .chn, .met, .seq, .lsw, .ctl, .thm, .log]) ?_ h
  unfold auxFirmware; (try dsimp only); repeat' split
  all_goals simp

@[simp] theorem statusFirmware_only (qs : List Part) (s : State) (t a1) (h : ∀ p ∈ ([.free, .par, .hub, .chn, .met, .est, .imp, .husk, .prt, .seq, .lsw, .ctl, .pos, .thm, .log] : List Part), p ∈ qs) :
    Only qs s (statusFirmware t a1) ↔ Only qs s t := by
  refine Only.iff (ps := [.free, .par, .hub, .chn, .met, .est, .imp, .husk, .prt, .seq, .lsw, .ctl, .pos, .thm, .log]) ?_ h
  unfold statusFirmware; split <;> simp

@[simp] theorem cellConds_only (qs : List Part) (s : State) (a0 t a2) (h : ∀ p ∈ ([.free, .par, .hub, .met, .husk, .prt, .seq, .lsw, .ctl, .pos, .thm, .log] : List Part), p ∈ qs) :
    Only qs s (cellConds a0 t a2) ↔ Only qs s t := by
  refine Only.iff (ps := [.free, .par, .hub, .met, .husk, .prt, .seq, .lsw, .ctl, .pos, .thm, .log]) ?_ h
  unfold cellConds; (try dsimp only); split <;> simp

@[simp] theorem tempConds_only (qs : List Part) (s : State) (t a1) (h : ∀ p ∈ ([.free, .par, .hub, .met, .husk, .prt, .seq, .lsw, .ctl, .pos, .thm, .log] : List Part), p ∈ qs) :
    Only qs s (tempConds t a1) ↔ Only qs s t := by
  refine Only.iff (ps := [.free, .par, .hub, .met, .husk, .prt, .seq, .lsw, .ctl, .pos, .thm, .log]) ?_ h
  simp [tempConds]

@[simp] theorem implConds_only (qs : List Part) (s : State) (a0 t a1) (h : ∀ p ∈ ([.free, .par, .hub, .met, .husk, .prt, .seq, .lsw, .ctl, .pos, .thm, .log] : List Part), p ∈ qs) :
    Only qs s (implConds a0 t a1) ↔ Only qs s t := by
  refine Only.iff (ps := [.free, .par, .hub, .met, .husk, .prt, .seq, .lsw, .ctl, .pos, .thm, .log]) ?_ h
  simp [implConds]

@[simp] theorem sumCompare_only (qs : List Part) (s : State) (a0 t a2) (h : ∀ p ∈ ([.free, .par, .hub, .chn, .met, .husk, .prt, .seq, .lsw, .ctl, .pos, .thm, .log] : List Part), p ∈ qs) :
    Only qs s (sumCompare a0 t a2) ↔ Only qs s t := by
  refine Only.iff (ps := [.free, .par, .hub, .chn, .met, .husk, .prt, .seq, .lsw, .ctl, .pos, .thm, .log]) ?_ h
  unfold sumCompare; split <;> simp

@[simp] theorem scanJudge_only (qs : List Part) (s : State) (a0 t) (h : ∀ p ∈ ([.free, .par, .hub, .chn, .met, .husk, .prt, .seq, .lsw, .ctl, .pos, .thm, .log] : List Part), p ∈ qs) :
    Only qs s (scanJudge a0 t) ↔ Only qs s t := by
  refine Only.iff (ps := [.free, .par, .hub, .chn, .met, .husk, .prt, .seq, .lsw, .ctl, .pos, .thm, .log]) ?_ h
  simp [scanJudge]

/-- What is done at the time of an earlier instant leaves the present time as it was. -/
@[simp] theorem atTime_only (qs : List Part) (s : State) (n : Nat) (f : State → State) (t : State) (h : ∀ u, Only qs u (f u)) :
    Only qs s (atTime n f t) ↔ Only qs s t := by
  refine Only.iff (ps := qs) (fun p hp => ?_) (fun _ m => m)
  have k := h { t with phys := n } p hp
  cases p <;> first | rfl | exact k

@[simp] theorem scanAt_only (qs : List Part) (s : State) (t a0) (h : ∀ p ∈ ([.free, .par, .hub, .chn, .met, .husk, .prt, .seq, .lsw, .ctl, .pos, .thm, .log] : List Part), p ∈ qs) :
    Only qs s (scanAt t a0) ↔ Only qs s t := by
  refine Only.iff (ps := [.free, .par, .hub, .chn, .met, .husk, .prt, .seq, .lsw, .ctl, .pos, .thm, .log]) ?_ h
  unfold scanAt; split <;> simp

@[simp] theorem scanEval_only (qs : List Part) (s : State) (t) (h : ∀ p ∈ ([.free, .par, .hub, .chn, .met, .husk, .prt, .seq, .lsw, .ctl, .pos, .thm, .log] : List Part), p ∈ qs) :
    Only qs s (scanEval t) ↔ Only qs s t := by
  refine Only.iff (ps := [.free, .par, .hub, .chn, .met, .husk, .prt, .seq, .lsw, .ctl, .pos, .thm, .log]) ?_ h
  unfold scanEval; split
  · simp
  · exact Only.fold (fun _ _ => by simp) (by simp)

@[simp] theorem closeIfHeld_only (qs : List Part) (s : State) (t) (h : ∀ p ∈ ([.free, .par, .hub, .chn, .met, .est, .imp, .husk, .seq, .lsw, .ctl, .pos, .thm, .log] : List Part), p ∈ qs) :
    Only qs s (closeIfHeld t) ↔ Only qs s t := by
  refine Only.iff (ps := [.free, .par, .hub, .chn, .met, .est, .imp, .husk, .seq, .lsw, .ctl, .pos, .thm, .log]) ?_ h
  simp [closeIfHeld]

@[simp] theorem bookCurrent_only (qs : List Part) (s : State) (a0 a1 a2 a3 t) (h : ∀ p ∈ ([.chn, .est] : List Part), p ∈ qs) :
    Only qs s (bookCurrent a0 a1 a2 a3 t) ↔ Only qs s t := by
  refine Only.iff (ps := [.chn, .est]) ?_ h
  unfold bookCurrent; (try dsimp only); repeat' split
  all_goals simp

@[simp] theorem substitute_only (qs : List Part) (s : State) (a0 t) (h : ∀ p ∈ ([.chn, .est] : List Part), p ∈ qs) :
    Only qs s (substitute a0 t) ↔ Only qs s t := by
  refine Only.iff (ps := [.chn, .est]) ?_ h
  unfold substitute; (try dsimp only)
  repeat' (first | split | refine Only.fold (fun _ _ => ?_) ?_ | simp)

@[simp] theorem isumCompare_only (qs : List Part) (s : State) (a0 t) (h : ∀ p ∈ ([.free, .par, .hub, .chn, .met, .husk, .prt, .seq, .lsw, .ctl, .pos, .thm, .log] : List Part), p ∈ qs) :
    Only qs s (isumCompare a0 t) ↔ Only qs s t := by
  refine Only.iff (ps := [.free, .par, .hub, .chn, .met, .husk, .prt, .seq, .lsw, .ctl, .pos, .thm, .log]) ?_ h
  unfold isumCompare; (try dsimp only); split <;> simp

@[simp] theorem confirmTimes_only (qs : List Part) (s : State) (t) (h : ∀ p ∈ ([.seq] : List Part), p ∈ qs) :
    Only qs s (confirmTimes t) ↔ Only qs s t := by
  refine Only.iff (ps := [.seq]) ?_ h
  simp [confirmTimes]

@[simp] theorem cycleJudge_only (qs : List Part) (s : State) (a0 t) (h : ∀ p ∈ ([.free, .par, .hub, .chn, .met, .est, .husk, .prt, .seq, .lsw, .ctl, .pos, .thm, .log] : List Part), p ∈ qs) :
    Only qs s (cycleJudge a0 t) ↔ Only qs s t := by
  refine Only.iff (ps := [.free, .par, .hub, .chn, .met, .est, .husk, .prt, .seq, .lsw, .ctl, .pos, .thm, .log]) ?_ h
  unfold cycleJudge; (try dsimp only); repeat' split
  all_goals simp

@[simp] theorem cycleEval_only (qs : List Part) (s : State) (t) (h : ∀ p ∈ ([.free, .par, .hub, .chn, .met, .est, .husk, .prt, .seq, .lsw, .ctl, .pos, .thm, .log] : List Part), p ∈ qs) :
    Only qs s (cycleEval t) ↔ Only qs s t := by
  refine Only.iff (ps := [.free, .par, .hub, .chn, .met, .est, .husk, .prt, .seq, .lsw, .ctl, .pos, .thm, .log]) ?_ h
  unfold cycleEval; (try dsimp only); repeat' split
  all_goals simp

@[simp] theorem dataConds_only (qs : List Part) (s : State) (a0 t a2) (h : ∀ p ∈ ([.free, .par, .hub, .met, .husk, .prt, .seq, .lsw, .ctl, .pos, .thm, .log] : List Part), p ∈ qs) :
    Only qs s (dataConds a0 t a2) ↔ Only qs s t := by
  refine Only.iff (ps := [.free, .par, .hub, .met, .husk, .prt, .seq, .lsw, .ctl, .pos, .thm, .log]) ?_ h
  simp [dataConds]

@[simp] theorem learnTemps_only (qs : List Part) (s : State) (t a1) (h : ∀ p ∈ ([.est] : List Part), p ∈ qs) :
    Only qs s (learnTemps t a1) ↔ Only qs s t := by
  refine Only.iff (ps := [.est]) ?_ h
  unfold learnTemps; (try dsimp only); split <;> simp

@[simp] theorem guardJoin_only (qs : List Part) (s : State) (t a1) (h : ∀ p ∈ ([.free, .par, .hub, .seq, .lsw, .thm, .log] : List Part), p ∈ qs) :
    Only qs s (guardJoin t a1) ↔ Only qs s t := by
  refine Only.iff (ps := [.free, .par, .hub, .seq, .lsw, .thm, .log]) ?_ h
  simp [guardJoin]

@[simp] theorem joinCycle_only (qs : List Part) (s : State) (t) (h : ∀ p ∈ ([.free, .par, .hub, .seq, .lsw, .ctl, .thm, .log] : List Part), p ∈ qs) :
    Only qs s (joinCycle t) ↔ Only qs s t := by
  refine Only.iff (ps := [.free, .par, .hub, .seq, .lsw, .ctl, .thm, .log]) ?_ h
  simp [joinCycle]

@[simp] theorem enterService_only (qs : List Part) (s : State) (t) (h : ∀ p ∈ ([.seq] : List Part), p ∈ qs) :
    Only qs s (enterService t) ↔ Only qs s t := by
  refine Only.iff (ps := [.seq]) ?_ h
  simp [enterService]

@[simp] theorem limitWork_only (qs : List Part) (s t : State) (h : ∀ p ∈ ([.free, .par, .hub, .chn, .met, .est, .husk, .prt, .seq, .lsw, .ctl, .pos, .thm, .log] : List Part), p ∈ qs) :
    Only qs s (limitWork t) ↔ Only qs s t := by
  refine Only.iff (ps := [.free, .par, .hub, .chn, .met, .est, .husk, .prt, .seq, .lsw, .ctl, .pos, .thm, .log]) ?_ h
  unfold limitWork
  split
  · simp
  · simp
    refine Only.fold (fun u j => ?_) (by simp)
    have k : Only [.free, .par, .hub, .chn, .met, .est, .husk, .prt, .seq, .lsw, .ctl, .pos, .thm, .log] u ((stringCells u j).foldl (dataConds j) u) := Only.fold (fun _ _ => by simp) (by simp)
    simp [k]

@[simp] theorem scanEvalTo_only (qs : List Part) (s : State) (a0 t) (h : ∀ p ∈ ([.free, .par, .hub, .chn, .met, .husk, .prt, .seq, .lsw, .ctl, .pos, .thm, .log] : List Part), p ∈ qs) :
    Only qs s (scanEvalTo a0 t) ↔ Only qs s t := by
  refine Only.iff (ps := [.free, .par, .hub, .chn, .met, .husk, .prt, .seq, .lsw, .ctl, .pos, .thm, .log]) ?_ h
  unfold scanEvalTo
  exact Only.fold (fun _ _ => by simp) (by simp)

@[simp] theorem replayCycle_only (qs : List Part) (s : State) (a0 t) (h : ∀ p ∈ ([.free, .par, .hub, .chn, .met, .est, .imp, .husk, .prt, .seq, .lsw, .ctl, .pos, .thm, .log] : List Part), p ∈ qs) :
    Only qs s (replayCycle a0 t) ↔ Only qs s t := by
  refine Only.iff (ps := [.free, .par, .hub, .chn, .met, .est, .imp, .husk, .prt, .seq, .lsw, .ctl, .pos, .thm, .log]) ?_ h
  unfold replayCycle
  extract_lets s1
  have h1 : Only [.free, .par, .hub, .chn, .met, .est, .imp, .husk, .prt, .seq, .lsw, .ctl, .pos, .thm, .log] t s1 := Only.fold (fun _ _ => by split <;> simp) (by simp)
  clear_value s1
  split <;> simp [h1]

@[simp] theorem resumeWork_only (qs : List Part) (s : State) (t) (h : ∀ p ∈ ([.free, .par, .hub, .chn, .met, .est, .imp, .husk, .prt, .seq, .lsw, .ctl, .pos, .thm, .log] : List Part), p ∈ qs) :
    Only qs s (resumeWork t) ↔ Only qs s t := by
  refine Only.iff (ps := [.free, .par, .hub, .chn, .met, .est, .imp, .husk, .prt, .seq, .lsw, .ctl, .pos, .thm, .log]) ?_ h
  unfold resumeWork
  split
  · simp
  · extract_lets missed s1 now s2
    have h1 : Only [.free, .par, .hub, .chn, .met, .est, .imp, .husk, .prt, .seq, .lsw, .ctl, .pos, .thm, .log] t s1 := Only.fold (fun _ _ => by simp) (by simp)
    have h2 : Only [.free, .par, .hub, .chn, .met, .est, .imp, .husk, .prt, .seq, .lsw, .ctl, .pos, .thm, .log] t s2 := Only.fold (fun _ _ => by simp) h1
    clear_value s2
    simp [h2]

@[simp] theorem noteIf_only (qs : List Part) (s : State) (a0 a1 a2 t) (h : ∀ p ∈ ([.imp] : List Part), p ∈ qs) :
    Only qs s (noteIf a0 a1 a2 t) ↔ Only qs s t := by
  refine Only.iff (ps := [.imp]) ?_ h
  simp [noteIf]

@[simp] theorem watchEvents_only (qs : List Part) (s : State) (t) (h : ∀ p ∈ ([.imp] : List Part), p ∈ qs) :
    Only qs s (watchEvents t) ↔ Only qs s t := by
  refine Only.iff (ps := [.imp]) ?_ h
  simp [watchEvents]

@[simp] theorem notePars_only (qs : List Part) (s : State) (t) (h : ∀ p ∈ ([.imp] : List Part), p ∈ qs) :
    Only qs s (notePars t) ↔ Only qs s t := by
  refine Only.iff (ps := [.imp]) ?_ h
  simp [notePars]

@[simp] theorem retireStep_only (qs : List Part) (s : State) (t) (h : ∀ p ∈ ([.imp] : List Part), p ∈ qs) :
    Only qs s (retireStep t) ↔ Only qs s t := by
  refine Only.iff (ps := [.imp]) ?_ h
  unfold retireStep; repeat' split
  all_goals simp

@[simp] theorem stepTrigger_only (qs : List Part) (s : State) (t) (h : ∀ p ∈ ([.imp] : List Part), p ∈ qs) :
    Only qs s (stepTrigger t) ↔ Only qs s t := by
  refine Only.iff (ps := [.imp]) ?_ h
  unfold stepTrigger; (try dsimp only); repeat' split
  all_goals simp

@[simp] theorem confirmStep_only (qs : List Part) (s : State) (a0 t) (h : ∀ p ∈ ([.imp] : List Part), p ∈ qs) :
    Only qs s (confirmStep a0 t) ↔ Only qs s t := by
  refine Only.iff (ps := [.imp]) ?_ h
  unfold confirmStep; (try dsimp only); split <;> simp

@[simp] theorem settleAs_only (qs : List Part) (s : State) (a0 t a2) (h : ∀ p ∈ ([.chn, .imp] : List Part), p ∈ qs) :
    Only qs s (settleAs a0 t a2) ↔ Only qs s t := by
  refine Only.iff (ps := [.chn, .imp]) ?_ h
  unfold settleAs; split <;> simp

@[simp] theorem settleInstant_only (qs : List Part) (s : State) (a0 a1 t) (h : ∀ p ∈ ([.chn, .imp] : List Part), p ∈ qs) :
    Only qs s (settleInstant a0 a1 t) ↔ Only qs s t := by
  refine Only.iff (ps := [.chn, .imp]) ?_ h
  simp [settleInstant]

@[simp] theorem clearStale_only (qs : List Part) (s : State) (t) (h : ∀ p ∈ ([.est] : List Part), p ∈ qs) :
    Only qs s (clearStale t) ↔ Only qs s t := by
  refine Only.iff (ps := [.est]) ?_ h
  simp [clearStale]

@[simp] theorem queueStep_only (qs : List Part) (s : State) (a0 t) (h : ∀ p ∈ ([.est, .imp, .log] : List Part), p ∈ qs) :
    Only qs s (queueStep a0 t) ↔ Only qs s t := by
  refine Only.iff (ps := [.est, .imp, .log]) ?_ h
  unfold queueStep; split <;> simp

@[simp] theorem closeStep_only (qs : List Part) (s : State) (a0 t) (h : ∀ p ∈ ([.est, .imp, .log] : List Part), p ∈ qs) :
    Only qs s (closeStep a0 t) ↔ Only qs s t := by
  refine Only.iff (ps := [.est, .imp, .log]) ?_ h
  simp [closeStep]

@[simp] theorem fitCell_only (qs : List Part) (s : State) (a0 a1 a2 t) (h : ∀ p ∈ ([.free, .est] : List Part), p ∈ qs) :
    Only qs s (fitCell a0 a1 a2 t) ↔ Only qs s t := by
  refine Only.iff (ps := [.free, .est]) ?_ h
  unfold fitCell; split <;> simp

@[simp] theorem fitRecord_only (qs : List Part) (s : State) (a0 t) (h : ∀ p ∈ ([.free, .est] : List Part), p ∈ qs) :
    Only qs s (fitRecord a0 t) ↔ Only qs s t := by
  refine Only.iff (ps := [.free, .est]) ?_ h
  unfold fitRecord
  repeat' (first | split | refine Only.fold (fun _ _ => ?_) ?_ | simp)

@[simp] theorem proofFails_only (qs : List Part) (s : State) (a0 a1 t) (h : ∀ p ∈ ([.hub, .husk] : List Part), p ∈ qs) :
    Only qs s (proofFails a0 a1 t) ↔ Only qs s t := by
  refine Only.iff (ps := [.hub, .husk]) ?_ h
  simp [proofFails]

@[simp] theorem headMeets_only (qs : List Part) (s : State) (a0 t) (h : ∀ p ∈ ([.hub, .log] : List Part), p ∈ qs) :
    Only qs s (headMeets a0 t) ↔ Only qs s t := by
  refine Only.iff (ps := [.hub, .log]) ?_ h
  simp [headMeets]

@[simp] theorem itemCount_only (qs : List Part) (s : State) (a0 a1 a2 a3 t) (h : ∀ p ∈ ([.par] : List Part), p ∈ qs) :
    Only qs s (itemCount a0 a1 a2 a3 t).2 ↔ Only qs s t := by
  refine Only.iff (ps := [.par]) ?_ h
  simp [itemCount]

@[simp] theorem writeItem_only (qs : List Part) (s : State) (t a1 a2 a3) (h : ∀ p ∈ ([.par] : List Part), p ∈ qs) :
    Only qs s (writeItem t a1 a2 a3).1 ↔ Only qs s t := by
  refine Only.iff (ps := [.par]) ?_ h
  unfold writeItem; split <;> simp

@[simp] theorem gather_only (qs : List Part) (s : State) (t a1) (h : ∀ p ∈ ([.par] : List Part), p ∈ qs) :
    Only qs s (gather t a1).1 ↔ Only qs s t := by
  refine Only.iff (ps := [.par]) ?_ h
  simp [gather]

@[simp] theorem nextGen_only (qs : List Part) (s : State) (t) (h : ∀ p ∈ ([.par] : List Part), p ∈ qs) :
    Only qs s (nextGen t) ↔ Only qs s t := by
  refine Only.iff (ps := [.par]) ?_ h
  simp [nextGen]

@[simp] theorem setItems_only (qs : List Part) (s : State) (a0 t) (h : ∀ p ∈ ([.free, .pow, .par, .hub, .chn, .met, .husk, .seq, .lsw, .ctl, .pos, .thm, .log] : List Part), p ∈ qs) :
    Only qs s (setItems a0 t).1 ↔ Only qs s t := by
  refine Only.iff (ps := [.free, .pow, .par, .hub, .chn, .met, .husk, .seq, .lsw, .ctl, .pos, .thm, .log]) ?_ h
  simp [setItems]

@[simp] theorem noteXfer_only (qs : List Part) (s : State) (a0 t) (h : ∀ p ∈ ([.par] : List Part), p ∈ qs) :
    Only qs s (noteXfer a0 t) ↔ Only qs s t := by
  refine Only.iff (ps := [.par]) ?_ h
  simp [noteXfer]

@[simp] theorem failRead_only (qs : List Part) (s : State) (a0 a1 t) (h : ∀ p ∈ ([.hub] : List Part), p ∈ qs) :
    Only qs s (failRead a0 a1 t) ↔ Only qs s t := by
  refine Only.iff (ps := [.hub]) ?_ h
  simp [failRead]

@[simp] theorem readChunk_only (qs : List Part) (s : State) (a0 a1 t) (h : ∀ p ∈ ([.par, .hub] : List Part), p ∈ qs) :
    Only qs s (readChunk a0 a1 t) ↔ Only qs s t := by
  refine Only.iff (ps := [.par, .hub]) ?_ h
  simp [readChunk]

@[simp] theorem answerChunk_only (qs : List Part) (s : State) (a0 a1 a2 a3 t) (h : ∀ p ∈ ([.hub] : List Part), p ∈ qs) :
    Only qs s (answerChunk a0 a1 a2 a3 t) ↔ Only qs s t := by
  refine Only.iff (ps := [.hub]) ?_ h
  simp [answerChunk]

@[simp] theorem applyImage_only (qs : List Part) (s : State) (a0 t) (h : ∀ p ∈ ([.free, .pow, .par, .hub, .chn, .met, .husk, .seq, .lsw, .ctl, .pos, .thm, .log] : List Part), p ∈ qs) :
    Only qs s (applyImage a0 t).2.2 ↔ Only qs s t := by
  refine Only.iff (ps := [.free, .pow, .par, .hub, .chn, .met, .husk, .seq, .lsw, .ctl, .pos, .thm, .log]) ?_ h
  simp [applyImage]

@[simp] theorem answerCommit_only (qs : List Part) (s : State) (a0 a1 a2 t) (h : ∀ p ∈ ([.hub] : List Part), p ∈ qs) :
    Only qs s (answerCommit a0 a1 a2 t) ↔ Only qs s t := by
  refine Only.iff (ps := [.hub]) ?_ h
  simp [answerCommit]

end Sys2Proof.Machine
end

