-- ==== Sys2Proof/Laws/PartsPower.lean ====
section
/-!
SUPPORT. Which parts of the state an operation may change: power, the Pod, and the operations beside the commands.
One lemma per operation, in the form in which simp uses it under a longer list of parts.
-/
namespace Sys2Proof.Machine
open Sys2Proof

@[simp] theorem withPow_only (qs : List Part) (s t : State) (f : Power → Power) (h : Part.pow ∈ qs)
    (he : Part.epoch ∈ qs ∨ (f t.pow).epoch = t.pow.epoch) (ha : Part.aonOn ∈ qs ∨ (f t.pow).aonOn = t.pow.aonOn) :
    Only qs s (withPow t f) ↔ Only qs s t := only_pow qs s t (f t.pow) h he ha

@[simp] theorem toPhase_only (qs : List Part) (s : State) (a0 t) (h : ∀ p ∈ ([.pow] : List Part), p ∈ qs) :
    Only qs s (toPhase a0 t) ↔ Only qs s t := by
  refine Only.iff (ps := [.pow]) ?_ h
  unfold toPhase
  all_goals simp

@[simp] theorem writeRetention_only (qs : List Part) (s : State) (a0 a1 a2 a3 a4 t) (h : ∀ p ∈ ([.pow] : List Part), p ∈ qs) :
    Only qs s (writeRetention a0 a1 a2 a3 a4 t) ↔ Only qs s t := by
  refine Only.iff (ps := [.pow]) ?_ h
  unfold writeRetention
  all_goals simp

@[simp] theorem countFailure_only (qs : List Part) (s : State) (a0 t) (h : ∀ p ∈ ([.pow] : List Part), p ∈ qs) :
    Only qs s (countFailure a0 t) ↔ Only qs s t := by
  refine Only.iff (ps := [.pow]) ?_ h
  unfold countFailure
  all_goals simp

@[simp] theorem leaveCress_only (qs : List Part) (s : State) (t) (h : ∀ p ∈ ([.pow] : List Part), p ∈ qs) :
    Only qs s (leaveCress t) ↔ Only qs s t := by
  refine Only.iff (ps := [.pow]) ?_ h
  unfold leaveCress
  all_goals simp

@[simp] theorem clearUnits_only (qs : List Part) (s : State) (a0 t) (h : ∀ p ∈ ([.pow, .pod, .par, .hub, .chn, .met, .est, .imp, .husk, .prt, .seq, .lsw, .ctl, .pos, .thm, .log, .tb, .xfer] : List Part), p ∈ qs) :
    Only qs s (clearUnits a0 t) ↔ Only qs s t := by
  refine Only.iff (ps := [.pow, .pod, .par, .hub, .chn, .met, .est, .imp, .husk, .prt, .seq, .lsw, .ctl, .pos, .thm, .log, .tb, .xfer]) ?_ h
  intro p hp
  cases p <;> simp at hp <;> rfl

@[simp] theorem prepareKind_only (qs : List Part) (s : State) (a0 t) (h : ∀ p ∈ ([.pow, .pod] : List Part), p ∈ qs) :
    Only qs s (prepareKind a0 t) ↔ Only qs s t := by
  refine Only.iff (ps := [.pow, .pod]) ?_ h
  unfold prepareKind; (try dsimp only); split <;> simp

@[simp] theorem beginCold_only (qs : List Part) (s : State) (t) (h : ∀ p ∈ ([.pow, .pod, .par, .hub, .chn, .met, .est, .imp, .husk, .prt, .seq, .lsw, .ctl, .pos, .thm, .log, .tb, .xfer] : List Part), p ∈ qs) :
    Only qs s (beginCold t) ↔ Only qs s t := by
  refine Only.iff (ps := [.pow, .pod, .par, .hub, .chn, .met, .est, .imp, .husk, .prt, .seq, .lsw, .ctl, .pos, .thm, .log, .tb, .xfer]) ?_ h
  unfold beginCold
  all_goals simp

@[simp] theorem awaitReset_only (qs : List Part) (s : State) (t) (h : ∀ p ∈ ([.pow, .pod, .par, .hub, .chn, .met, .est, .imp, .husk, .prt, .seq, .lsw, .ctl, .pos, .thm, .log, .tb, .xfer] : List Part), p ∈ qs) :
    Only qs s (awaitReset t) ↔ Only qs s t := by
  refine Only.iff (ps := [.pow, .pod, .par, .hub, .chn, .met, .est, .imp, .husk, .prt, .seq, .lsw, .ctl, .pos, .thm, .log, .tb, .xfer]) ?_ h
  unfold awaitReset
  all_goals simp

@[simp] theorem railsOff_only (qs : List Part) (s : State) (t) (h : ∀ p ∈ ([.pow, .pod, .par, .hub, .chn, .met, .est, .imp, .husk, .prt, .seq, .lsw, .ctl, .pos, .thm, .log, .tb, .xfer] : List Part), p ∈ qs) :
    Only qs s (railsOff t) ↔ Only qs s t := by
  refine Only.iff (ps := [.pow, .pod, .par, .hub, .chn, .met, .est, .imp, .husk, .prt, .seq, .lsw, .ctl, .pos, .thm, .log, .tb, .xfer]) ?_ h
  unfold railsOff; (try dsimp only); split <;> simp

@[simp] theorem holdOpen_only (qs : List Part) (s : State) (a0 a1 t) (h : ∀ p ∈ ([.pow, .pod, .par, .hub, .chn, .met, .est, .imp, .husk, .prt, .seq, .lsw, .ctl, .pos, .thm, .log, .tb, .xfer] : List Part), p ∈ qs) :
    Only qs s (holdOpen a0 a1 t) ↔ Only qs s t := by
  refine Only.iff (ps := [.pow, .pod, .par, .hub, .chn, .met, .est, .imp, .husk, .prt, .seq, .lsw, .ctl, .pos, .thm, .log, .tb, .xfer]) ?_ h
  unfold holdOpen
  all_goals simp

@[simp] theorem failStart_only (qs : List Part) (s : State) (a0 a1 a2 a3 a4 t) (h : ∀ p ∈ ([.pow, .pod, .par, .hub, .chn, .met, .est, .imp, .husk, .prt, .seq, .lsw, .ctl, .pos, .thm, .log, .tb, .xfer] : List Part), p ∈ qs) :
    Only qs s (failStart a0 a1 a2 a3 a4 t) ↔ Only qs s t := by
  refine Only.iff (ps := [.pow, .pod, .par, .hub, .chn, .met, .est, .imp, .husk, .prt, .seq, .lsw, .ctl, .pos, .thm, .log, .tb, .xfer]) ?_ h
  unfold failStart; (try dsimp only); split <;> simp

@[simp] theorem bootSteps_only (qs : List Part) (s : State) (a0 t) (h : ∀ p ∈ ([.pow, .pod, .par, .hub, .chn, .met, .est, .imp, .husk, .prt, .seq, .lsw, .ctl, .pos, .thm, .log, .tb, .xfer] : List Part), p ∈ qs) :
    Only qs s (bootSteps a0 t) ↔ Only qs s t := by
  refine Only.iff (ps := [.pow, .pod, .par, .hub, .chn, .met, .est, .imp, .husk, .prt, .seq, .lsw, .ctl, .pos, .thm, .log, .tb, .xfer]) ?_ h
  simp only [bootSteps]; repeat' split
  all_goals simp

@[simp] theorem countEpoch_only (qs : List Part) (s : State) (t) (h : ∀ p ∈ ([.pow, .epoch] : List Part), p ∈ qs) :
    Only qs s (countEpoch t) ↔ Only qs s t := by
  refine Only.iff (ps := [.pow, .epoch]) ?_ h
  unfold countEpoch
  all_goals simp

@[simp] theorem enterRetention_only (qs : List Part) (s : State) (t) (h : ∀ p ∈ ([.pow, .log] : List Part), p ∈ qs) :
    Only qs s (enterRetention t) ↔ Only qs s t := by
  refine Only.iff (ps := [.pow, .log]) ?_ h
  simp [enterRetention]

@[simp] theorem enterCress_only (qs : List Part) (s : State) (t) (h : ∀ p ∈ ([.pow, .pod, .log, .epoch] : List Part), p ∈ qs) :
    Only qs s (enterCress t) ↔ Only qs s t := by
  refine Only.iff (ps := [.pow, .pod, .log, .epoch]) ?_ h
  simp [enterCress]

@[simp] theorem powerFail_only (qs : List Part) (s : State) (t a1) (h : ∀ p ∈ ([.hub] : List Part), p ∈ qs) :
    Only qs s (powerFail t a1) ↔ Only qs s t := by
  refine Only.iff (ps := [.hub]) ?_ h
  simp [powerFail]

@[simp] theorem holdBleed_only (qs : List Part) (s : State) (t) (h : ∀ p ∈ ([.chn] : List Part), p ∈ qs) :
    Only qs s (holdBleed t) ↔ Only qs s t := by
  refine Only.iff (ps := [.chn]) ?_ h
  simp [holdBleed]

@[simp] theorem stopSequences_only (qs : List Part) (s : State) (t) (h : ∀ p ∈ ([.seq] : List Part), p ∈ qs) :
    Only qs s (stopSequences t) ↔ Only qs s t := by
  refine Only.iff (ps := [.seq]) ?_ h
  simp [stopSequences]

@[simp] theorem beginPowerDown_only (qs : List Part) (s : State) (a0 a1 a2 t) (h : ∀ p ∈ ([.free, .pow, .par, .hub, .chn, .met, .husk, .seq, .lsw, .ctl, .pos, .thm, .log] : List Part), p ∈ qs) :
    Only qs s (beginPowerDown a0 a1 a2 t) ↔ Only qs s t := by
  refine Only.iff (ps := [.free, .pow, .par, .hub, .chn, .met, .husk, .seq, .lsw, .ctl, .pos, .thm, .log]) ?_ h
  unfold beginPowerDown; (try dsimp only); split <;> simp

@[simp] theorem bareDown_only (qs : List Part) (s : State) (a0 a1 t) (h : ∀ p ∈ ([.pow] : List Part), p ∈ qs) :
    Only qs s (bareDown a0 a1 t) ↔ Only qs s t := by
  refine Only.iff (ps := [.pow]) ?_ h
  unfold bareDown
  all_goals simp

@[simp] theorem goDown_only (qs : List Part) (s : State) (a0 a1 t) (h : ∀ p ∈ ([.free, .pow, .pod, .par, .hub, .chn, .met, .est, .imp, .husk, .prt, .seq, .lsw, .ctl, .pos, .thm, .log, .tb, .xfer] : List Part), p ∈ qs) :
    Only qs s (goDown a0 a1 t) ↔ Only qs s t := by
  refine Only.iff (ps := [.free, .pow, .pod, .par, .hub, .chn, .met, .est, .imp, .husk, .prt, .seq, .lsw, .ctl, .pos, .thm, .log, .tb, .xfer]) ?_ h
  unfold goDown; repeat' split
  all_goals simp

@[simp] theorem commandStart_only (qs : List Part) (s : State) (a0 t) (h : ∀ p ∈ ([.free, .pow, .pod, .par, .hub, .chn, .met, .est, .imp, .husk, .prt, .seq, .lsw, .ctl, .pos, .thm, .log, .tb, .xfer] : List Part), p ∈ qs) :
    Only qs s (commandStart a0 t) ↔ Only qs s t := by
  refine Only.iff (ps := [.free, .pow, .pod, .par, .hub, .chn, .met, .est, .imp, .husk, .prt, .seq, .lsw, .ctl, .pos, .thm, .log, .tb, .xfer]) ?_ h
  unfold commandStart; (try dsimp only); split <;> simp

@[simp] theorem withPod_only (qs : List Part) (s t : State) (f : Pod → Pod) (h : Part.pod ∈ qs)
    (ho : Part.otp ∈ qs ∨ (f t.pod).otp = t.pod.otp) :
    Only qs s (withPod t f) ↔ Only qs s t := only_pod qs s t (f t.pod) h ho

@[simp] theorem startPatch_only (qs : List Part) (s : State) (t) (h : ∀ p ∈ ([.pod] : List Part), p ∈ qs) :
    Only qs s (startPatch t) ↔ Only qs s t := by
  refine Only.iff (ps := [.pod]) ?_ h
  simp [startPatch]

@[simp] theorem modBank_only (qs : List Part) (s : State) (a0 a1 t) (h : ∀ p ∈ ([.pod] : List Part), p ∈ qs) :
    Only qs s (modBank a0 a1 t) ↔ Only qs s t := by
  refine Only.iff (ps := [.pod]) ?_ h
  simp [modBank]

@[simp] theorem noteCe_only (qs : List Part) (s : State) (a0 a1 t) (h : ∀ p ∈ ([.pod, .log] : List Part), p ∈ qs) :
    Only qs s (noteCe a0 a1 t) ↔ Only qs s t := by
  refine Only.iff (ps := [.pod, .log]) ?_ h
  simp [noteCe]

@[simp] theorem noteUe_only (qs : List Part) (s : State) (a0 t) (h : ∀ p ∈ ([.free, .pod, .par, .hub, .met, .husk, .prt, .seq, .lsw, .ctl, .thm, .log] : List Part), p ∈ qs) :
    Only qs s (noteUe a0 t) ↔ Only qs s t := by
  refine Only.iff (ps := [.free, .pod, .par, .hub, .met, .husk, .prt, .seq, .lsw, .ctl, .thm, .log]) ?_ h
  simp [noteUe]

@[simp] theorem podIndication_only (qs : List Part) (s : State) (t) (h : ∀ p ∈ ([.seq, .lsw, .ctl, .thm] : List Part), p ∈ qs) :
    Only qs s (podIndication t) ↔ Only qs s t := by
  refine Only.iff (ps := [.seq, .lsw, .ctl, .thm]) ?_ h
  simp [podIndication]

@[simp] theorem halt_only (qs : List Part) (s : State) (a0 t) (h : ∀ p ∈ ([.pow, .pod, .par, .hub, .chn, .met, .est, .imp, .husk, .prt, .seq, .lsw, .ctl, .pos, .thm, .log, .tb, .xfer] : List Part), p ∈ qs) :
    Only qs s (halt a0 t) ↔ Only qs s t := by
  refine Only.iff (ps := [.pow, .pod, .par, .hub, .chn, .met, .est, .imp, .husk, .prt, .seq, .lsw, .ctl, .pos, .thm, .log, .tb, .xfer]) ?_ h
  unfold halt; split <;> simp

@[simp] theorem podFault_only (qs : List Part) (s : State) (a0 a1 t) (h : ∀ p ∈ ([.free, .pow, .pod, .par, .hub, .chn, .met, .est, .imp, .husk, .prt, .seq, .lsw, .ctl, .pos, .thm, .log, .tb, .xfer] : List Part), p ∈ qs) :
    Only qs s (podFault a0 a1 t) ↔ Only qs s t := by
  refine Only.iff (ps := [.free, .pow, .pod, .par, .hub, .chn, .met, .est, .imp, .husk, .prt, .seq, .lsw, .ctl, .pos, .thm, .log, .tb, .xfer]) ?_ h
  simp [podFault]

@[simp] theorem loseRecord_only (qs : List Part) (s : State) (t a1) (h : ∀ p ∈ ([.free, .par, .hub, .met, .husk, .prt, .seq, .lsw, .ctl, .pos, .thm, .log] : List Part), p ∈ qs) :
    Only qs s (loseRecord t a1) ↔ Only qs s t := by
  refine Only.iff (ps := [.free, .par, .hub, .met, .husk, .prt, .seq, .lsw, .ctl, .pos, .thm, .log]) ?_ h
  unfold loseRecord; split <;> simp

@[simp] theorem loseGroup_only (qs : List Part) (s : State) (t a1) (h : ∀ p ∈ ([.par, .log] : List Part), p ∈ qs) :
    Only qs s (loseGroup t a1) ↔ Only qs s t := by
  refine Only.iff (ps := [.par, .log]) ?_ h
  simp [loseGroup]

@[simp] theorem cleanSequences_only (qs : List Part) (s : State) (t) (h : ∀ p ∈ ([.free, .par, .hub, .seq, .lsw, .ctl, .thm, .log] : List Part), p ∈ qs) :
    Only qs s (cleanSequences t) ↔ Only qs s t := by
  refine Only.iff (ps := [.free, .par, .hub, .seq, .lsw, .ctl, .thm, .log]) ?_ h
  unfold cleanSequences; (try dsimp only); split <;> simp

@[simp] theorem applyPrt_only (qs : List Part) (s : State) (t) (h : ∀ p ∈ ([.par] : List Part), p ∈ qs) :
    Only qs s (applyPrt t) ↔ Only qs s t := by
  refine Only.iff (ps := [.par]) ?_ h
  unfold applyPrt; (try dsimp only)
  repeat' (first | split | refine Only.fold (fun _ _ => ?_) ?_ | simp)

@[simp] theorem recheckPatch_only (qs : List Part) (s : State) (t) (h : ∀ p ∈ ([.pod] : List Part), p ∈ qs) :
    Only qs s (recheckPatch t) ↔ Only qs s t := by
  refine Only.iff (ps := [.pod]) ?_ h
  simp [recheckPatch]

@[simp] theorem reattach_only (qs : List Part) (s : State) (t) (h : ∀ p ∈ ([.free, .pod, .par, .hub, .husk, .seq, .lsw, .ctl, .pos, .thm, .log, .xfer] : List Part), p ∈ qs) :
    Only qs s (reattach t) ↔ Only qs s t := by
  refine Only.iff (ps := [.free, .pod, .par, .hub, .husk, .seq, .lsw, .ctl, .pos, .thm, .log, .xfer]) ?_ h
  simp [reattach]

@[simp] theorem loseSb1_only (qs : List Part) (s : State) (t) (h : ∀ p ∈ ([.free, .chn, .met, .imp, .log] : List Part), p ∈ qs) :
    Only qs s (loseSb1 t) ↔ Only qs s t := by
  refine Only.iff (ps := [.free, .chn, .met, .imp, .log]) ?_ h
  unfold loseSb1; (try dsimp only); repeat' split
  all_goals simp

@[simp] theorem loseSb3_only (qs : List Part) (s : State) (t) (h : ∀ p ∈ ([.free, .hub, .met, .ctl] : List Part), p ∈ qs) :
    Only qs s (loseSb3 t) ↔ Only qs s t := by
  refine Only.iff (ps := [.free, .hub, .met, .ctl]) ?_ h
  unfold loseSb3; (try dsimp only); repeat' split
  all_goals simp

@[simp] theorem takeRole_only (qs : List Part) (s : State) (a0 t) (h : ∀ p ∈ ([.met, .log] : List Part), p ∈ qs) :
    Only qs s (takeRole a0 t) ↔ Only qs s t := by
  refine Only.iff (ps := [.met, .log]) ?_ h
  simp [takeRole]

@[simp] theorem modulatorFails_only (qs : List Part) (s : State) (a0 t) (h : ∀ p ∈ ([.met, .ctl, .log] : List Part), p ∈ qs) :
    Only qs s (modulatorFails a0 t) ↔ Only qs s t := by
  refine Only.iff (ps := [.met, .ctl, .log]) ?_ h
  simp [modulatorFails]

@[simp] theorem takeOver_only (qs : List Part) (s : State) (a0 a1 t) (h : ∀ p ∈ ([.met] : List Part), p ∈ qs) :
    Only qs s (takeOver a0 a1 t) ↔ Only qs s t := by
  refine Only.iff (ps := [.met]) ?_ h
  simp [takeOver]

@[simp] theorem replace_only (qs : List Part) (s : State) (a0 t) (h : ∀ p ∈ ([.met] : List Part), p ∈ qs) :
    Only qs s (replace a0 t) ↔ Only qs s t := by
  refine Only.iff (ps := [.met]) ?_ h
  unfold replace; split <;> simp

@[simp] theorem keepStrobe_only (qs : List Part) (s : State) (t) (h : ∀ p ∈ ([.met] : List Part), p ∈ qs) :
    Only qs s (keepStrobe t) ↔ Only qs s t := by
  refine Only.iff (ps := [.met]) ?_ h
  simp [keepStrobe]

@[simp] theorem setBleed_only (qs : List Part) (s : State) (a0 a1 t) (h : ∀ p ∈ ([.chn, .est] : List Part), p ∈ qs) :
    Only qs s (setBleed a0 a1 t) ↔ Only qs s t := by
  refine Only.iff (ps := [.chn, .est]) ?_ h
  simp [setBleed]

@[simp] theorem slotRing_only (qs : List Part) (s : State) (t a1) (h : ∀ p ∈ ([.chn, .est] : List Part), p ∈ qs) :
    Only qs s (slotRing t a1) ↔ Only qs s t := by
  refine Only.iff (ps := [.chn, .est]) ?_ h
  unfold slotRing; (try dsimp only); repeat' split
  all_goals simp

@[simp] theorem clearLoops_only (qs : List Part) (s : State) (a0 t) (h : ∀ p ∈ ([.hub, .chn] : List Part), p ∈ qs) :
    Only qs s (clearLoops a0 t) ↔ Only qs s t := by
  refine Only.iff (ps := [.hub, .chn]) ?_ h
  simp [clearLoops]

@[simp] theorem onServed_only (qs : List Part) (s : State) (f : State → Nat → State) (t : State) (k : ∀ u r, Only qs u (f u r)) :
    Only qs s (onServed f t) ↔ Only qs s t := by
  simp [onServed, k]

@[simp] theorem cycleFrames_only (qs : List Part) (s : State) (t) (h : ∀ p ∈ ([.hub, .chn, .est] : List Part), p ∈ qs) :
    Only qs s (cycleFrames t) ↔ Only qs s t := by
  refine Only.iff (ps := [.hub, .chn, .est]) ?_ h
  unfold cycleFrames
  extract_lets s1 s2 s3
  have h1 : Only [.hub, .chn, .est] t s1 := by simp [s1]
  clear_value s1
  have h2 : Only [.hub, .chn, .est] t s2 := by
    unfold s2; split
    · exact h1
    · exact Only.fold (fun _ _ => by simp) h1
  clear_value s2
  have h3 : Only [.hub, .chn, .est] t s3 := by unfold s3; split <;> simp [h2]
  clear_value s3
  split <;> simp [h3]

@[simp] theorem takeLimits_only (qs : List Part) (s : State) (a0 t) (h : ∀ p ∈ ([.chn] : List Part), p ∈ qs) :
    Only qs s (takeLimits a0 t) ↔ Only qs s t := by
  refine Only.iff (ps := [.chn]) ?_ h
  simp [takeLimits]

@[simp] theorem beginScan_only (qs : List Part) (s : State) (t) (h : ∀ p ∈ ([.free, .par, .hub, .chn, .met, .est, .imp, .husk, .seq, .lsw, .ctl, .pos, .thm, .log] : List Part), p ∈ qs) :
    Only qs s (beginScan t) ↔ Only qs s t := by
  refine Only.iff (ps := [.free, .par, .hub, .chn, .met, .est, .imp, .husk, .seq, .lsw, .ctl, .pos, .thm, .log]) ?_ h
  simp [beginScan]

@[simp] theorem bleedOff_only (qs : List Part) (s : State) (t a1) (h : ∀ p ∈ ([.chn, .est] : List Part), p ∈ qs) :
    Only qs s (bleedOff t a1) ↔ Only qs s t := by
  refine Only.iff (ps := [.chn, .est]) ?_ h
  simp [bleedOff]

@[simp] theorem trainFirmware_only (qs : List Part) (s : State) (a0 a1 t) (h : ∀ p ∈ ([.free, .par, .hub, .chn, .met, .est, .imp, .husk, .prt, .seq, .lsw, .ctl, .pos, .thm, .log] : List Part), p ∈ qs) :
    Only qs s (trainFirmware a0 a1 t) ↔ Only qs s t := by
  refine Only.iff (ps := [.free, .par, .hub, .chn, .met, .est, .imp, .husk, .prt, .seq, .lsw, .ctl, .pos, .thm, .log]) ?_ h
  unfold trainFirmware; split <;> simp

@[simp] theorem noteOff_only (qs : List Part) (s : State) (a0 t) (h : ∀ p ∈ ([.chn] : List Part), p ∈ qs) :
    Only qs s (noteOff a0 t) ↔ Only qs s t := by
  refine Only.iff (ps := [.chn]) ?_ h
  simp [noteOff]

@[simp] theorem enumerateItem_only (qs : List Part) (s : State) (a0 a1 t a3) (h : ∀ p ∈ ([.free, .pow, .par, .hub, .chn, .met, .husk, .seq, .lsw, .ctl, .pos, .thm, .log] : List Part), p ∈ qs) :
    Only qs s (enumerateItem a0 a1 t a3) ↔ Only qs s t := by
  refine Only.iff (ps := [.free, .pow, .par, .hub, .chn, .met, .husk, .seq, .lsw, .ctl, .pos, .thm, .log]) ?_ h
  simp [enumerateItem]

@[simp] theorem siteItem_only (qs : List Part) (s : State) (a0 t) (h : ∀ p ∈ ([.hub] : List Part), p ∈ qs) :
    Only qs s (siteItem a0 t) ↔ Only qs s t := by
  refine Only.iff (ps := [.hub]) ?_ h
  simp [siteItem]

@[simp] theorem orderRestore_only (qs : List Part) (s : State) (a0 t) (h : ∀ p ∈ ([.hub, .chn] : List Part), p ∈ qs) :
    Only qs s (orderRestore a0 t) ↔ Only qs s t := by
  refine Only.iff (ps := [.hub, .chn]) ?_ h
  simp [orderRestore]

@[simp] theorem restoreItem_only (qs : List Part) (s : State) (a0 t a2) (h : ∀ p ∈ ([.hub, .chn] : List Part), p ∈ qs) :
    Only qs s (restoreItem a0 t a2) ↔ Only qs s t := by
  refine Only.iff (ps := [.hub, .chn]) ?_ h
  unfold restoreItem; (try dsimp only); repeat' split
  all_goals simp

@[simp] theorem endCycle_only (qs : List Part) (s : State) (a0 a1 a2 t) (h : ∀ p ∈ ([.est, .log] : List Part), p ∈ qs) :
    Only qs s (endCycle a0 a1 a2 t) ↔ Only qs s t := by
  refine Only.iff (ps := [.est, .log]) ?_ h
  simp [endCycle]

@[simp] theorem startCycle_only (qs : List Part) (s : State) (a0 a1 t) (h : ∀ p ∈ ([.est] : List Part), p ∈ qs) :
    Only qs s (startCycle a0 a1 t) ↔ Only qs s t := by
  refine Only.iff (ps := [.est]) ?_ h
  simp [startCycle]

@[simp] theorem acceptRestore_only (qs : List Part) (s : State) (a0 t) (h : ∀ p ∈ ([.free, .par, .est] : List Part), p ∈ qs) :
    Only qs s (acceptRestore a0 t) ↔ Only qs s t := by
  refine Only.iff (ps := [.free, .par, .est]) ?_ h
  simp [acceptRestore]

@[simp] theorem clearLost_only (qs : List Part) (s : State) (a0 t) (h : ∀ p ∈ ([.free, .par, .hub, .met, .est, .husk, .prt, .seq, .lsw, .ctl, .pos, .thm, .log] : List Part), p ∈ qs) :
    Only qs s (clearLost a0 t) ↔ Only qs s t := by
  refine Only.iff (ps := [.free, .par, .hub, .met, .est, .husk, .prt, .seq, .lsw, .ctl, .pos, .thm, .log]) ?_ h
  simp [clearLost]

@[simp] theorem clearG3_only (qs : List Part) (s : State) (a0 t) (h : ∀ p ∈ ([.free, .par, .hub, .met, .husk, .prt, .seq, .lsw, .ctl, .pos, .thm, .log] : List Part), p ∈ qs) :
    Only qs s (clearG3 a0 t) ↔ Only qs s t := by
  refine Only.iff (ps := [.free, .par, .hub, .met, .husk, .prt, .seq, .lsw, .ctl, .pos, .thm, .log]) ?_ h
  simp [clearG3]

@[simp] theorem clearString_only (qs : List Part) (s : State) (a0 a1 t a3) (h : ∀ p ∈ ([.free, .par, .hub, .met, .est, .husk, .prt, .seq, .lsw, .ctl, .pos, .thm, .log] : List Part), p ∈ qs) :
    Only qs s (clearString a0 a1 t a3) ↔ Only qs s t := by
  refine Only.iff (ps := [.free, .par, .hub, .met, .est, .husk, .prt, .seq, .lsw, .ctl, .pos, .thm, .log]) ?_ h
  simp [clearString]

@[simp] theorem thmEvaluate_only (qs : List Part) (s : State) (t) (h : ∀ p ∈ ([.free, .par, .hub, .met, .husk, .prt, .seq, .lsw, .ctl, .thm, .log] : List Part), p ∈ qs) :
    Only qs s (thmEvaluate t) ↔ Only qs s t := by
  refine Only.iff (ps := [.free, .par, .hub, .met, .husk, .prt, .seq, .lsw, .ctl, .thm, .log]) ?_ h
  simp [thmEvaluate]

@[simp] theorem keepCycle_only (qs : List Part) (s : State) (t) (h : ∀ p ∈ ([.chn] : List Part), p ∈ qs) :
    Only qs s (keepCycle t) ↔ Only qs s t := by
  refine Only.iff (ps := [.chn]) ?_ h
  unfold keepCycle; (try dsimp only); repeat' split
  all_goals simp

@[simp] theorem noteReach_only (qs : List Part) (s : State) (t a0) (h : ∀ p ∈ ([.chn] : List Part), p ∈ qs) :
    Only qs s (noteReach t a0) ↔ Only qs s t := by
  refine Only.iff (ps := [.chn]) ?_ h
  simp [noteReach]

end Sys2Proof.Machine
end

