-- ==== Sys2Proof/Laws/CommandsField.lean ====
section
/-!
SUPPORT. One lemma per command of sequencing, loads, position, control, metrology, the chain and estimation:
it answers a next state, and beside the passing of time changes at most the listed parts.
-/
namespace Sys2Proof.Machine
open Sys2Proof

theorem execBlockClose_only (dt rq s) :
    Answers (execBlockClose dt rq s) (Only [.par, .hub, .chn, .husk, .seq, .lsw, .ctl, .thm, .log] (advance dt s)) := by
  refine ⟨_, rfl, mailbox_only (by simp) fun t u => ?_⟩
  extract_lets s1 m0 m strs s2 s3
  have h2 : Only [.par, .hub, .chn, .husk, .seq, .lsw, .ctl, .thm, .log] u s2 := by simp [s2, s1]
  clear_value s2
  split
  · have h3 : Only [.par, .hub, .chn, .husk, .seq, .lsw, .ctl, .thm, .log] u s3 := by
      refine Only.fold (fun v j => ?_) h2
      split
      · simp
      · split
        · simp
        · split <;> simp
    clear_value s3
    simp [h3]
  · split <;> simp [h2]

theorem execBlockOpen_only (dt rq s) : Answers (execBlockOpen dt rq s) (Only [.free, .par, .hub, .seq, .lsw, .ctl, .thm, .log] (advance dt s)) := by
  refine ⟨_, rfl, mailbox_only (by simp) fun t u => ?_⟩
  simp

theorem execStringJoin_only (dt rq s) : Answers (execStringJoin dt rq s) (Only [.par, .hub, .chn, .husk, .seq, .log] (advance dt s)) := by
  refine ⟨_, rfl, mailbox_only (by simp) fun t u => ?_⟩
  refine Only.fold (fun _ _ => ?_) (by simp)
  repeat' split
  all_goals simp

theorem execStringOpen_only (dt rq s) : Answers (execStringOpen dt rq s) (Only [.free, .par, .hub, .seq, .lsw, .ctl, .thm, .log] (advance dt s)) := by
  refine ⟨_, rfl, mailbox_only (by simp) fun t u => ?_⟩
  simp

theorem execDscClose_only (dt rq s) : Answers (execDscClose dt rq s) (Only [.par, .hub, .chn, .husk, .seq, .lsw, .thm, .log] (advance dt s)) := by
  refine ⟨_, rfl, mailbox_only (by simp) fun t u => ?_⟩
  (try dsimp only); repeat' split
  all_goals simp

theorem execDscOpen_only (dt rq s) : Answers (execDscOpen dt rq s) (Only [.free, .par, .hub, .met, .seq, .lsw, .ctl, .thm, .log] (advance dt s)) := by
  refine ⟨_, rfl, mailbox_only (by simp) fun t u => ?_⟩
  (try dsimp only); repeat' split
  all_goals simp

theorem execSeqStatus_only (dt rq s) : Answers (execSeqStatus dt rq s) (Only [.par, .hub] (advance dt s)) := by
  exact ⟨_, rfl, readOp_only (by simp)⟩

theorem execJoinDwellComplete_only (dt str s) : Answers (execJoinDwellComplete dt str s) (Only [.hub, .seq, .lsw, .thm, .log] (advance dt s)) := by
  simp [execJoinDwellComplete]

theorem execKpOn_only (dt s) : Answers (execKpOn dt s) (Only [.hub, .seq, .lsw, .thm, .log] (advance dt s)) := by
  unfold execKpOn; (try dsimp only); repeat' split
  all_goals simp

theorem execJoinConfirmTimeout_only (dt s) : Answers (execJoinConfirmTimeout dt s) (Only [.free, .par, .hub, .seq, .lsw, .thm, .log] (advance dt s)) := by
  unfold execJoinConfirmTimeout; (try dsimp only); repeat' split
  all_goals simp

theorem execConfPendingCheck_only (dt str s) : Answers (execConfPendingCheck dt str s) (Only [.seq, .log] (advance dt s)) := by
  unfold execConfPendingCheck; (try dsimp only); repeat' split
  all_goals simp

theorem execJoinWaitExpiry_only (dt str s) : Answers (execJoinWaitExpiry dt str s) (Only [.hub, .seq, .lsw, .ctl, .thm, .log] (advance dt s)) := by
  unfold execJoinWaitExpiry; (try dsimp only); repeat' split
  all_goals simp

theorem execJoinSettleExpiry_only (dt s) : Answers (execJoinSettleExpiry dt s) (Only [.hub, .seq, .lsw, .thm, .log] (advance dt s)) := by
  simp [execJoinSettleExpiry]

theorem execWeldCurrentTest_only (dt pair s) : Answers (execWeldCurrentTest dt pair s) (Only [.free, .par, .hub, .met, .husk, .prt, .seq, .lsw, .ctl, .pos, .thm, .log] (advance dt s)) := by
  unfold execWeldCurrentTest; (try dsimp only); repeat' split
  all_goals simp

theorem execPrechargeProbeEnd_only (dt s) : Answers (execPrechargeProbeEnd dt s) (Only [.free, .par, .hub, .seq, .lsw, .ctl, .thm, .log] (advance dt s)) := by
  simp [execPrechargeProbeEnd]

theorem execMnConfirm_only (dt s) : Answers (execMnConfirm dt s) (Only [.free, .par, .hub, .seq, .lsw, .ctl, .thm, .log] (advance dt s)) := by
  simp [execMnConfirm]

theorem execPrechargeDone_only (dt s) : Answers (execPrechargeDone dt s) (Only [.free, .par, .hub, .seq, .lsw, .thm, .log] (advance dt s)) := by
  simp [execPrechargeDone]

theorem execPrechargeShortCheck_only (dt s) : Answers (execPrechargeShortCheck dt s) (Only [.free, .par, .hub, .seq, .lsw, .ctl, .thm, .log] (advance dt s)) := by
  unfold execPrechargeShortCheck; (try dsimp only); repeat' split
  all_goals simp

theorem execPrechargeTimeout_only (dt s) : Answers (execPrechargeTimeout dt s) (Only [.free, .par, .hub, .seq, .lsw, .ctl, .thm, .log] (advance dt s)) := by
  simp [execPrechargeTimeout]

theorem execPrechargeOvercurrent_only (dt s) : Answers (execPrechargeOvercurrent dt s) (Only [.free, .par, .hub, .seq, .lsw, .ctl, .thm, .log] (advance dt s)) := by
  simp [execPrechargeOvercurrent]

theorem execMpConfirm_only (dt s) : Answers (execMpConfirm dt s) (Only [.free, .par, .hub, .seq, .lsw, .ctl, .thm, .log] (advance dt s)) := by
  simp [execMpConfirm]

theorem execDscBrakeRelease_only (dt s) : Answers (execDscBrakeRelease dt s) (Only [.seq, .ctl] (advance dt s)) := by
  simp [execDscBrakeRelease]

theorem execDscCloseReached_only (dt s) : Answers (execDscCloseReached dt s) (Only [.seq, .ctl] (advance dt s)) := by
  simp [execDscCloseReached]

theorem execDscDmeOff_only (dt s) : Answers (execDscDmeOff dt s) (Only [.free, .par, .hub, .seq, .lsw, .ctl, .thm, .log] (advance dt s)) := by
  simp [execDscDmeOff]

theorem execDscCloseTimeout_only (dt s) : Answers (execDscCloseTimeout dt s) (Only [.free, .par, .hub, .seq, .lsw, .ctl, .thm, .log] (advance dt s)) := by
  simp [execDscCloseTimeout]

theorem execDscOpenTimeout_only (dt s) : Answers (execDscOpenTimeout dt s) (Only [.hub, .seq] (advance dt s)) := by
  simp [execDscOpenTimeout]

theorem execOpenCurrentWaitEnd_only (dt s) : Answers (execOpenCurrentWaitEnd dt s) (Only [.free, .par, .hub, .met, .seq, .lsw, .ctl, .thm, .log] (advance dt s)) := by
  simp [execOpenCurrentWaitEnd]

theorem execOpenStagger_only (dt s) : Answers (execOpenStagger dt s) (Only [.free, .par, .hub, .seq, .lsw, .thm, .log] (advance dt s)) := by
  unfold execOpenStagger; (try dsimp only); repeat' split
  all_goals simp

@[simp] theorem channelOff_only (qs : List Part) (s : State) (c : Chan) (each : Nat → State → State) (t : State)
    (k : ∀ n u, Only qs u (each n u)) (h : Part.lsw ∈ qs) : Only qs s (channelOff c each t) ↔ Only qs s t := by
  simp [channelOff, h, k]

theorem execLoadOn_only (dt rq s) : Answers (execLoadOn dt rq s) (Only [.par, .hub, .lsw, .thm, .log] (advance dt s)) := by
  refine ⟨_, rfl, mailbox_only (by simp) fun t u => ?_⟩
  simp

theorem execLoadOff_only (dt rq s) : Answers (execLoadOff dt rq s) (Only [.free, .par, .hub, .lsw, .thm, .log] (advance dt s)) := by
  refine ⟨_, rfl, mailbox_only (by simp) fun t u => ?_⟩
  simp

theorem execLoadClear_only (dt rq s) : Answers (execLoadClear dt rq s) (Only [.par, .hub, .lsw] (advance dt s)) := by
  refine ⟨_, rfl, mailbox_only (by simp) fun t u => ?_⟩
  simp

theorem execLoadStatus_only (dt rq s) : Answers (execLoadStatus dt rq s) (Only [.par, .hub] (advance dt s)) := by
  refine ⟨_, rfl, mailbox_only (by simp) fun t u => ?_⟩
  simp

@[simp] theorem recheck_only (qs : List Part) (s : State) (a0 t) (h : ∀ p ∈ ([.free, .par, .hub, .lsw, .thm, .log] : List Part), p ∈ qs) :
    Only qs s (recheck a0 t) ↔ Only qs s t := by
  refine Only.iff (ps := [.free, .par, .hub, .lsw, .thm, .log]) ?_ h
  simp [recheck]

theorem execLoadAdmissionCheck_only (dt meas s) : Answers (execLoadAdmissionCheck dt meas s) (Only [.free, .par, .hub, .lsw, .thm, .log] (advance dt s)) := by
  simp [execLoadAdmissionCheck]

theorem execLoadStaggerTimeout_only (dt load s) : Answers (execLoadStaggerTimeout dt load s) (Only [.free, .par, .hub, .lsw, .thm, .log] (advance dt s)) := by
  simp [execLoadStaggerTimeout]

theorem execLoadChannelStart_only (dt load s) : Answers (execLoadChannelStart dt load s) (Only [.hub, .lsw, .thm, .log] (advance dt s)) := by
  unfold execLoadChannelStart; (try dsimp only); repeat' split
  all_goals simp

theorem execLoadEnvelopeEnd_only (dt load s) : Answers (execLoadEnvelopeEnd dt load s) (Only [.hub, .lsw, .thm, .log] (advance dt s)) := by
  simp [execLoadEnvelopeEnd]

@[simp] theorem holdStep_only (qs : List Part) (s : State) (a0 t) (h : ∀ p ∈ ([.lsw, .log] : List Part), p ∈ qs) :
    Only qs s (holdStep a0 t) ↔ Only qs s t := by
  refine Only.iff (ps := [.lsw, .log]) ?_ h
  simp [holdStep]

theorem execHoldRegulation_only (dt meas s) : Answers (execHoldRegulation dt meas s) (Only [.lsw, .log] (advance dt s)) := by
  simp [execHoldRegulation]

theorem execChannelOvercurrent_only (dt chan s) : Answers (execChannelOvercurrent dt chan s) (Only [.free, .par, .hub, .seq, .lsw, .ctl, .thm, .log] (advance dt s)) := by
  simp [execChannelOvercurrent]

theorem execChannelThermalWarn_only (dt chan s) : Answers (execChannelThermalWarn dt chan s) (Only [.lsw, .log] (advance dt s)) := by
  simp [execChannelThermalWarn]

theorem execChannelThermalShutdown_only (dt chan s) : Answers (execChannelThermalShutdown dt chan s) (Only [.free, .par, .hub, .seq, .lsw, .ctl, .thm, .log] (advance dt s)) := by
  simp [execChannelThermalShutdown]

theorem execChannelThermalRestart_only (dt chan s) : Answers (execChannelThermalRestart dt chan s) (Only [.free, .par, .hub, .seq, .lsw, .ctl, .thm, .log] (advance dt s)) := by
  simp [execChannelThermalRestart]

theorem execLoadPhaseEnd_only (dt load s) : Answers (execLoadPhaseEnd dt load s) (Only [.lsw] (advance dt s)) := by
  simp [execLoadPhaseEnd]

theorem execLgPinGate_only (dt pin s) : Answers (execLgPinGate dt pin s) (Only [.free, .par, .hub, .seq, .lsw, .ctl, .thm, .log] (advance dt s)) := by
  simp [execLgPinGate]

theorem execLgPinPermit_only (dt pin s) : Answers (execLgPinPermit dt pin s) (Only [.free, .par, .hub, .seq, .lsw, .ctl, .thm, .log] (advance dt s)) := by
  simp [execLgPinPermit]

theorem execVloadOver_only (dt s) : Answers (execVloadOver dt s) (Only [.lsw, .log] (advance dt s)) := by
  simp [execVloadOver]

theorem execClampLockClear_only (dt s) : Answers (execClampLockClear dt s) (Only [.free, .par, .hub, .lsw, .thm, .log] (advance dt s)) := by
  simp [execClampLockClear]

theorem execM2304Excursion_only (dt load s) : Answers (execM2304Excursion dt load s) (Only [.lsw, .log] (advance dt s)) := by
  simp [execM2304Excursion]

theorem execLoadSwitchClockLoss_only (dt s) : Answers (execLoadSwitchClockLoss dt s) (Only [.free, .par, .hub, .seq, .lsw, .ctl, .thm, .log] (advance dt s)) := by
  simp [execLoadSwitchClockLoss]

theorem execThmStatus_only (dt rq s) : Answers (execThmStatus dt rq s) (Only [.par, .hub] (advance dt s)) := by
  exact ⟨_, rfl, readOp_only (by simp)⟩

theorem execModuleSensorRead_only (dt rd s) : Answers (execModuleSensorRead dt rd s) (Only [.free, .par, .hub, .met, .husk, .prt, .seq, .lsw, .ctl, .thm, .log] (advance dt s)) := by
  simp [execModuleSensorRead]

theorem execActuatorRetry_only (dt entry s) : Answers (execActuatorRetry dt entry s) (Only [.hub, .lsw, .thm, .log] (advance dt s)) := by
  unfold execActuatorRetry; (try dsimp only); repeat' split
  all_goals simp

@[simp] theorem posItems_only (qs : List Part) (s : State) (x : Txn) (act : Nat → State → Nat × State) (t : State)
    (k : ∀ n u, Only qs u (act n u).2) (h : ∀ p ∈ ([.par, .hub] : List Part), p ∈ qs) : Only qs s (posItems x act t) ↔ Only qs s t := by
  have e : ∀ (p : List Nat × State) (n : Nat), Only qs p.2 (if bit (num x.payload 0 1) n then
      (p.1 ++ [(act n p.2).1], (act n p.2).2) else (p.1 ++ [0xFF], p.2)).2 := by
    intro p n; split
    · exact k _ _
    · exact only_self _ _
  have e' := only_foldl_snd _ qs e
  have h2 : ∀ p ∈ ([.hub] : List Part), p ∈ qs := fun p hp => h p (by simp at hp; simp [hp])
  have h3 : ∀ p ∈ ([.par] : List Part), p ∈ qs := fun p hp => h p (by simp at hp; simp [hp])
  unfold posItems
  rw [complete_only _ _ _ _ _ _ h2]
  exact (e' _ _ _).trans (noteReserved_only _ _ _ _ _ h3)

theorem execPosArm_only (dt rq s) : Answers (execPosArm dt rq s) (Only [.par, .hub, .pos] (advance dt s)) := by
  refine ⟨_, rfl, mailbox_only (by simp) fun t u => ?_⟩
  simp

theorem execPosPreset_only (dt rq s) : Answers (execPosPreset dt rq s) (Only [.par, .hub, .pos] (advance dt s)) := by
  refine ⟨_, rfl, mailbox_only (by simp) fun t u => ?_⟩
  simp

theorem execPosStatus_only (dt rq s) : Answers (execPosStatus dt rq s) (Only [.par, .hub] (advance dt s)) := by
  refine ⟨_, rfl, mailbox_only (by simp) fun t u => ?_⟩
  simp

theorem execEndOpenActive_only (dt s) : Answers (execEndOpenActive dt s) (Only [.free, .par, .hub, .met, .husk, .seq, .lsw, .ctl, .pos, .thm, .log] (advance dt s)) := by
  simp [execEndOpenActive]

theorem execEndClosedActive_only (dt s) : Answers (execEndClosedActive dt s) (Only [.free, .par, .hub, .met, .husk, .seq, .lsw, .ctl, .pos, .thm, .log] (advance dt s)) := by
  simp [execEndClosedActive]

theorem execObserverSample_only (dt pf0 pf1 endOpen endClosed s) : Answers (execObserverSample dt pf0 pf1 endOpen endClosed s) (Only [.free, .pow, .par, .hub, .chn, .met, .husk, .seq, .lsw, .ctl, .pos, .thm, .log] (advance dt s)) := by
  simp [execObserverSample]

theorem execSpdValidExpiry_only (dt chan s) : Answers (execSpdValidExpiry dt chan s) (Only [.pos] (advance dt s)) := by
  simp [execSpdValidExpiry]

theorem execCmpPulseEnd_only (dt pin s) : Answers (execCmpPulseEnd dt pin s) (Only [.pos] (advance dt s)) := by
  unfold execCmpPulseEnd; (try dsimp only); repeat' split
  all_goals simp

theorem execIndexEdge_only (dt chan s) : Answers (execIndexEdge dt chan s) (Only [.pos, .log] (advance dt s)) := by
  simp [execIndexEdge]

theorem execTimedSpeedCrossing_only (dt chan up interval625 s) : Answers (execTimedSpeedCrossing dt chan up interval625 s) (Only [.pos] (advance dt s)) := by
  simp [execTimedSpeedCrossing]

theorem execLoopEnable_only (dt rq s) : Answers (execLoopEnable dt rq s) (Only [.par, .hub, .ctl] (advance dt s)) := by
  refine ⟨_, rfl, mailbox_only (by simp) fun t u => ?_⟩
  simp

theorem execLoopSet_only (dt rq s) : Answers (execLoopSet dt rq s) (Only [.par, .hub, .ctl] (advance dt s)) := by
  refine ⟨_, rfl, mailbox_only (by simp) fun t u => ?_⟩
  simp

theorem execLoopStatus_only (dt rq s) : Answers (execLoopStatus dt rq s) (Only [.par, .hub] (advance dt s)) := by
  exact ⟨_, rfl, readOp_only (by simp)⟩

theorem execTraceArm_only (dt rq s) : Answers (execTraceArm dt rq s) (Only [.par, .hub, .ctl, .xfer] (advance dt s)) := by
  refine ⟨_, rfl, mailbox_only (by simp) fun t u => ?_⟩
  simp

theorem execControlTick_only (dt ai aiMean s) : Answers (execControlTick dt ai aiMean s) (Only [.free, .pow, .par, .hub, .chn, .met, .husk, .seq, .lsw, .ctl, .pos, .thm, .log, .xfer] (advance dt s)) := by
  simp [execControlTick]

theorem execFfInvalidTimeout_only (dt loop s) : Answers (execFfInvalidTimeout dt loop s) (Only [.free, .par, .hub, .seq, .lsw, .ctl, .thm, .log, .xfer] (advance dt s)) := by
  simp [execFfInvalidTimeout]

theorem execBalancePlan_only (dt s) : Answers (execBalancePlan dt s) (Only [.chn] (advance dt s)) := by
  simp [execBalancePlan]

theorem execBalHoldExpiry_only (dt str s) : Answers (execBalHoldExpiry dt str s) (Only [.chn, .log] (advance dt s)) := by
  simp [execBalHoldExpiry]

theorem execHvStartCalDone_only (dt s) : Answers (execHvStartCalDone dt s) (Only [.met] (advance dt s)) := by
  simp [execHvStartCalDone]

theorem execMetRead_only (dt rq s) : Answers (execMetRead dt rq s) (Only [.par, .hub] (advance dt s)) := by
  exact ⟨_, rfl, readOp_only (by simp)⟩

theorem execCtrBase_only (dt rq s) : Answers (execCtrBase dt rq s) (Only [.par, .hub, .met] (advance dt s)) := by
  refine ⟨_, rfl, mailbox_only (by simp) fun t u => ?_⟩
  simp

theorem execCapTrigger_only (dt rq s) : Answers (execCapTrigger dt rq s) (Only [.par, .hub, .met, .ctl, .xfer] (advance dt s)) := by
  refine ⟨_, rfl, mailbox_only (by simp) fun t u => ?_⟩
  simp

theorem execCtrRead_only (dt rq s) : Answers (execCtrRead dt rq s) (Only [.par, .hub] (advance dt s)) := by
  exact ⟨_, rfl, readOp_only (by simp)⟩

theorem execInsRead_only (dt rq s) : Answers (execInsRead dt rq s) (Only [.par, .hub] (advance dt s)) := by
  exact ⟨_, rfl, readOp_only (by simp)⟩

theorem execRippleRead_only (dt rq s) : Answers (execRippleRead dt rq s) (Only [.par, .hub] (advance dt s)) := by
  refine ⟨_, rfl, mailbox_only (by simp) fun t u => ?_⟩
  simp

theorem execIrangeMismatch_only (dt s) : Answers (execIrangeMismatch dt s) (Only [.met, .log] (advance dt s)) := by
  unfold execIrangeMismatch; (try dsimp only); repeat' split
  all_goals simp

theorem execCalStepStart_only (dt s) : Answers (execCalStepStart dt s) (Only [.met] (advance dt s)) := by
  simp [execCalStepStart]

theorem execHandover_only (dt s) : Answers (execHandover dt s) (Only [.met, .log] (advance dt s)) := by
  unfold execHandover; (try dsimp only); repeat' split
  all_goals simp

theorem execCalStepRetry_only (dt s) : Answers (execCalStepRetry dt s) (Only [.met] (advance dt s)) := by
  simp [execCalStepRetry]

theorem execModulatorCalDone_only (dt inWindow s) : Answers (execModulatorCalDone dt inWindow s) (Only [.met, .ctl, .log] (advance dt s)) := by
  unfold execModulatorCalDone; (try dsimp only); repeat' split
  all_goals simp

theorem execModulatorFailure_only (dt modulator s) : Answers (execModulatorFailure dt modulator s) (Only [.met, .ctl, .log] (advance dt s)) := by
  unfold execModulatorFailure; (try dsimp only); repeat' split
  all_goals simp

theorem execInsHalfPeriodEnd_only (dt positive length begun s) : Answers (execInsHalfPeriodEnd dt positive length begun s) (Only [.free, .par, .hub, .met, .husk, .prt, .seq, .lsw, .ctl, .pos, .thm, .log] (advance dt s)) := by
  unfold execInsHalfPeriodEnd; (try dsimp only); repeat' split
  all_goals simp

theorem execPeCheck_only (dt loopMilliohm s) : Answers (execPeCheck dt loopMilliohm s) (Only [.met, .log] (advance dt s)) := by
  simp [execPeCheck]

theorem execRippleWindowEnd_only (dt first cycles s) : Answers (execRippleWindowEnd dt first cycles s) (Only [.met] (advance dt s)) := by
  simp [execRippleWindowEnd]

theorem execCaptureTrigger_only (dt source arrival s) : Answers (execCaptureTrigger dt source arrival s) (Only [.met, .ctl, .xfer] (advance dt s)) := by
  simp [execCaptureTrigger]

theorem execCaptureFreeze_only (dt s) : Answers (execCaptureFreeze dt s) (Only [.met, .log, .xfer] (advance dt s)) := by
  simp [execCaptureFreeze]

theorem execSamplingInstant_only (dt cv s) : Answers (execSamplingInstant dt cv s) (Only [.free, .par, .hub, .met, .imp, .husk, .seq, .lsw, .ctl, .pos, .thm, .log, .xfer] (advance dt s)) := by
  simp [execSamplingInstant]

theorem execStepConfirm_only (dt s) : Answers (execStepConfirm dt s) (Only [.imp] (advance dt s)) := by
  unfold execStepConfirm; (try dsimp only); repeat' split
  all_goals simp

theorem execResponseInstant_only (dt offset s) : Answers (execResponseInstant dt offset s) (Only [.chn, .imp] (advance dt s)) := by
  unfold execResponseInstant; (try dsimp only); repeat' split
  all_goals simp

theorem execStepClose_only (dt s) : Answers (execStepClose dt s) (Only [.est, .imp, .log] (advance dt s)) := by
  unfold execStepClose; (try dsimp only); repeat' split
  all_goals simp

theorem execImpedanceFit_only (dt s) : Answers (execImpedanceFit dt s) (Only [.free, .est, .imp] (advance dt s)) := by
  unfold execImpedanceFit; (try dsimp only); repeat' split
  all_goals simp

theorem execFitDeferExpiry_only (dt s) : Answers (execFitDeferExpiry dt s) (Only [.est] (advance dt s)) := by
  simp [execFitDeferExpiry]

theorem execRingPowerUp_only (dt ring run s) : Answers (execRingPowerUp dt ring run s) (Only [.free, .pow, .par, .hub, .chn, .met, .husk, .seq, .lsw, .ctl, .pos, .thm, .log] (advance dt s)) := by
  simp [execRingPowerUp]

theorem execRingEnumerate_only (dt rq runs s) : Answers (execRingEnumerate dt rq runs s) (Only [.free, .pow, .par, .hub, .chn, .met, .husk, .seq, .lsw, .ctl, .pos, .thm, .log] (advance dt s)) := by
  refine ⟨_, rfl, mailbox_only (by simp) fun t u => ?_⟩
  simp

theorem execRingRestore_only (dt rq s) : Answers (execRingRestore dt rq s) (Only [.par, .hub, .chn] (advance dt s)) := by
  refine ⟨_, rfl, mailbox_only (by simp) fun t u => ?_⟩
  simp

theorem execChnStatus_only (dt rq s) : Answers (execChnStatus dt rq s) (Only [.par, .hub] (advance dt s)) := by
  exact ⟨_, rfl, readOp_only (by simp)⟩

theorem execBleedHold_only (dt rq s) : Answers (execBleedHold dt rq s) (Only [.par, .hub, .chn] (advance dt s)) := by
  refine ⟨_, rfl, mailbox_only (by simp) fun t u => ?_⟩
  simp

theorem execCellRead_only (dt rq s) : Answers (execCellRead dt rq s) (Only [.par, .hub] (advance dt s)) := by
  refine ⟨_, rfl, mailbox_only (by simp) fun t u => ?_⟩
  simp

theorem execTempRead_only (dt rq s) : Answers (execTempRead dt rq s) (Only [.par, .hub] (advance dt s)) := by
  refine ⟨_, rfl, mailbox_only (by simp) fun t u => ?_⟩
  simp

theorem execStringRead_only (dt rq s) : Answers (execStringRead dt rq s) (Only [.par, .hub] (advance dt s)) := by
  refine ⟨_, rfl, mailbox_only (by simp) fun t u => ?_⟩
  simp

theorem execChainCycleStart_only (dt s) : Answers (execChainCycleStart dt s) (Only [.free, .par, .hub, .chn, .met, .est, .imp, .husk, .prt, .seq, .lsw, .ctl, .pos, .thm, .log] (advance dt s)) := by
  simp [execChainCycleStart]

theorem execStrobeLaunch_only (dt s) : Answers (execStrobeLaunch dt s) (Only [.free, .par, .hub, .chn, .met, .est, .imp, .husk, .seq, .lsw, .ctl, .pos, .thm, .log] (advance dt s)) := by
  simp [execStrobeLaunch]

theorem execBleedOffBroadcast_only (dt s) : Answers (execBleedOffBroadcast dt s) (Only [.chn, .est] (advance dt s)) := by
  simp [execBleedOffBroadcast]

theorem execBleedOffRepeat_only (dt ring s) : Answers (execBleedOffRepeat dt ring s) (Only [.chn] (advance dt s)) := by
  simp [execBleedOffRepeat]

theorem execBleedOnBroadcast_only (dt s) : Answers (execBleedOnBroadcast dt s) (Only [.chn, .est] (advance dt s)) := by
  simp [execBleedOnBroadcast]

theorem execReadStringLaunch_only (dt s) : Answers (execReadStringLaunch dt s) (Only [.free, .par, .hub, .chn, .met, .est, .imp, .husk, .prt, .seq, .lsw, .ctl, .pos, .thm, .log] (advance dt s)) := by
  simp [execReadStringLaunch]

theorem execCellFragmentLaunch_only (dt fragment s) : Answers (execCellFragmentLaunch dt fragment s) (Only [.free, .par, .hub, .chn, .met, .est, .imp, .husk, .seq, .lsw, .ctl, .pos, .thm, .log] (advance dt s)) := by
  simp [execCellFragmentLaunch]

theorem execReadTempsLaunch_only (dt s) : Answers (execReadTempsLaunch dt s) (Only [.free, .par, .hub, .chn, .met, .husk, .seq, .lsw, .ctl, .pos, .thm, .log] (advance dt s)) := by
  simp [execReadTempsLaunch]

theorem execReadCoarseLaunch_only (dt s) : Answers (execReadCoarseLaunch dt s) (Only [.chn] (advance dt s)) := by
  simp [execReadCoarseLaunch]

theorem execReadSsAuxLaunch_only (dt s) : Answers (execReadSsAuxLaunch dt s) (Only [.chn] (advance dt s)) := by
  simp [execReadSsAuxLaunch]

theorem execReadStatusLaunch_only (dt s) : Answers (execReadStatusLaunch dt s) (Only [.chn] (advance dt s)) := by
  simp [execReadStatusLaunch]

theorem execResponseTrainReceive_only (dt train s) : Answers (execResponseTrainReceive dt train s) (Only [.free, .par, .hub, .chn, .met, .est, .imp, .husk, .prt, .seq, .lsw, .ctl, .pos, .thm, .log] (advance dt s)) := by
  simp [execResponseTrainReceive]

theorem execAlarmToneDetect_only (dt ring rxEnd s) : Answers (execAlarmToneDetect dt ring rxEnd s) (Only [.free, .par, .hub, .chn, .met, .husk, .seq, .lsw, .ctl, .thm, .log] (advance dt s)) := by
  simp [execAlarmToneDetect]

theorem execCarrierLoss_only (dt ring rxEnd s) : Answers (execCarrierLoss dt ring rxEnd s) (Only [.free, .par, .hub, .chn, .met, .est, .imp, .husk, .seq, .lsw, .ctl, .pos, .thm, .log] (advance dt s)) := by
  simp [execCarrierLoss]

theorem execBreakNoticeReceive_only (dt ring rxEnd hop lostB s) : Answers (execBreakNoticeReceive dt ring rxEnd hop lostB s) (Only [.free, .par, .hub, .chn, .met, .est, .imp, .husk, .seq, .lsw, .ctl, .pos, .thm, .log] (advance dt s)) := by
  simp [execBreakNoticeReceive]

theorem execWrapRestore_only (dt ring s) : Answers (execWrapRestore dt ring s) (Only [.hub, .chn] (advance dt s)) := by
  simp [execWrapRestore]

theorem execRingServiceLoss_only (dt ring run s) : Answers (execRingServiceLoss dt ring run s) (Only [.free, .pow, .par, .hub, .chn, .met, .husk, .seq, .lsw, .ctl, .pos, .thm, .log] (advance dt s)) := by
  simp [execRingServiceLoss]

theorem execScanRateAnchor_only (dt s) : Answers (execScanRateAnchor dt s) (Only [.chn] (advance dt s)) := by
  unfold execScanRateAnchor; (try dsimp only); repeat' split
  all_goals simp

theorem execCalRunIssue_only (dt ring s) : Answers (execCalRunIssue dt ring s) (Only [.chn] (advance dt s)) := by
  unfold execCalRunIssue; (try dsimp only); repeat' split
  all_goals simp

theorem execCarrierReturn_only (dt ring s) : Answers (execCarrierReturn dt ring s) (Only [.chn] (advance dt s)) := by
  simp [execCarrierReturn]

theorem execEnumerationReplyTimeout_only (dt ring closing s) : Answers (execEnumerationReplyTimeout dt ring closing s) (Only [.hub, .chn, .husk, .seq, .log] (advance dt s)) := by
  simp [execEnumerationReplyTimeout]

@[simp] theorem refCell_only (qs : List Part) (s : State) (b : Bool) (a : Nat × State) (c : Nat)
    (h : Part.est ∈ qs) : Only qs s (refCell b a c).2 ↔ Only qs s a.2 := by
  unfold refCell
  repeat' split
  all_goals simp [h]
theorem execSnapRead_only (dt rq s) : Answers (execSnapRead dt rq s) (Only [.par, .hub, .xfer] (advance dt s)) := by
  refine ⟨_, rfl, mailbox_only (by simp) fun t u => ?_⟩
  (try dsimp only); repeat' split
  all_goals simp

theorem execSnapWrite_only (dt rq s) : Answers (execSnapWrite dt rq s) (Only [.free, .par, .hub, .est, .xfer] (advance dt s)) := by
  refine ⟨_, rfl, mailbox_only (by simp) fun t u => ?_⟩
  simp

theorem execEstRead_only (dt rq s) : Answers (execEstRead dt rq s) (Only [.par, .hub] (advance dt s)) := by
  refine ⟨_, rfl, mailbox_only (by simp) fun t u => ?_⟩
  simp

theorem execImpRefSet_only (dt rq s) : Answers (execImpRefSet dt rq s) (Only [.par, .hub, .est] (advance dt s)) := by
  refine ⟨_, rfl, mailbox_only (by simp) fun t u => ?_⟩
  simp

theorem execStringClear_only (dt rq s) : Answers (execStringClear dt rq s) (Only [.free, .par, .hub, .met, .est, .husk, .prt, .seq, .lsw, .ctl, .pos, .thm, .log] (advance dt s)) := by
  refine ⟨_, rfl, mailbox_only (by simp) fun t u => ?_⟩
  simp

theorem execScanEvaluation_only (dt s) : Answers (execScanEvaluation dt s) (Only [.free, .par, .hub, .chn, .met, .est, .imp, .husk, .prt, .seq, .lsw, .ctl, .pos, .thm, .log] (advance dt s)) := by
  simp [execScanEvaluation]

theorem execChainCycleEvaluation_only (dt s) : Answers (execChainCycleEvaluation dt s) (Only [.free, .par, .hub, .chn, .met, .est, .husk, .prt, .seq, .lsw, .ctl, .pos, .thm, .log] (advance dt s)) := by
  simp [execChainCycleEvaluation]

theorem execCellFilterPass_only (dt s) : Answers (execCellFilterPass dt s) (Only [.free, .chn, .est, .imp] (advance dt s)) := by
  simp [execCellFilterPass]

theorem execLimitCycle_only (dt s) : Answers (execLimitCycle dt s) (Only [.free, .par, .hub, .chn, .met, .est, .husk, .prt, .seq, .lsw, .ctl, .pos, .thm, .log] (advance dt s)) := by
  simp [execLimitCycle]

theorem execAnchorEnd_only (dt str s) : Answers (execAnchorEnd dt str s) (Only [.est, .log] (advance dt s)) := by
  unfold execAnchorEnd; (try dsimp only); repeat' split
  all_goals simp

theorem execCapacityUpdate_only (dt str s) : Answers (execCapacityUpdate dt str s) (Only [.free, .est, .log] (advance dt s)) := by
  unfold execCapacityUpdate; (try dsimp only); repeat' split
  all_goals simp

end Sys2Proof.Machine
end

