-- ==== Sys2Proof/Laws/CommandsHost.lean ====
section
/-!
SUPPORT. One lemma per command of the mailbox, the ports, the ledger, protection, power and the Pod:
it answers a next state, and beside the passing of time changes at most the listed parts.
-/
namespace Sys2Proof.Machine
open Sys2Proof

theorem execLogRead_only (dt rq s) : Answers (execLogRead dt rq s) (Only [.par, .hub] (advance dt s)) := by
  refine ⟨_, rfl, mailbox_only (by simp) fun t u => ?_⟩
  simp

theorem execLogAck_only (dt rq s) : Answers (execLogAck dt rq s) (Only [.par, .hub, .log] (advance dt s)) := by
  refine ⟨_, rfl, mailbox_only (by simp) fun t u => ?_⟩
  simp

theorem execCaptureRead_only (dt rq s) : Answers (execCaptureRead dt rq s) (Only [.par, .hub, .met] (advance dt s)) := by
  refine ⟨_, rfl, mailbox_only (by simp) fun t u => ?_⟩
  simp

theorem execTraceRead_only (dt rq s) : Answers (execTraceRead dt rq s) (Only [.par, .hub] (advance dt s)) := by
  refine ⟨_, rfl, mailbox_only (by simp) fun t u => ?_⟩
  simp

theorem execBufferRelease_only (dt rq s) : Answers (execBufferRelease dt rq s) (Only [.par, .hub, .met, .ctl] (advance dt s)) := by
  refine ⟨_, rfl, mailbox_only (by simp) fun t u => ?_⟩
  simp

theorem execTimeStatus_only (dt rq s) : Answers (execTimeStatus dt rq s) (Only [.par, .hub] (advance dt s)) := by
  exact ⟨_, rfl, readOp_only (by simp)⟩

theorem execPtpMessageReceive_only (dt msg s) : Answers (execPtpMessageReceive dt msg s) (Only [.log, .tb] (advance dt s)) := by
  simp [execPtpMessageReceive]

theorem execSyncSend_only (dt s) : Answers (execSyncSend dt s) (Only [.hub, .tb] (advance dt s)) := by
  simp [execSyncSend]

theorem execSyncReceive_only (dt link msg residence s) : Answers (execSyncReceive dt link msg residence s) (Only [.hub, .log, .tb] (advance dt s)) := by
  unfold execSyncReceive; (try dsimp only); repeat' split
  all_goals simp

theorem execRingDelayExchange_only (dt s) : Answers (execRingDelayExchange dt s) (Only [.hub, .tb] (advance dt s)) := by
  simp [execRingDelayExchange]

theorem execTimeSourceLoss_only (dt s) : Answers (execTimeSourceLoss dt s) (Only [.tb] (advance dt s)) := by
  simp [execTimeSourceLoss]

theorem execHoldoverExpiry_only (dt s) : Answers (execHoldoverExpiry dt s) (Only [.tb] (advance dt s)) := by
  simp [execHoldoverExpiry]

theorem execLedgerDrain_only (dt s) : Answers (execLedgerDrain dt s) (Only [.log] (advance dt s)) := by
  unfold execLedgerDrain; (try dsimp only); repeat' split
  all_goals simp

theorem execPrtStatus_only (dt rq s) : Answers (execPrtStatus dt rq s) (Only [.par, .hub] (advance dt s)) := by
  exact ⟨_, rfl, readOp_only (by simp)⟩

theorem execFltArm_only (dt rq s) : Answers (execFltArm dt rq s) (Only [.par, .hub, .husk] (advance dt s)) := by
  refine ⟨_, rfl, mailbox_only (by simp) fun t u => ?_⟩
  (try dsimp only); repeat' split
  all_goals simp

theorem execFltConfirm_only (dt rq s) : Answers (execFltConfirm dt rq s) (Only [.free, .par, .hub, .husk, .prt, .seq, .lsw, .ctl, .thm, .log] (advance dt s)) := by
  refine ⟨_, rfl, mailbox_only (by simp) fun t u => ?_⟩
  (try dsimp only); repeat' split
  all_goals simp

theorem execFltArmExpiry_only (dt s) : Answers (execFltArmExpiry dt s) (Only [.husk] (advance dt s)) := by
  unfold execFltArmExpiry; (try dsimp only); repeat' split
  all_goals simp

theorem execFltRstEdge_only (dt lowNs highNs s) : Answers (execFltRstEdge dt lowNs highNs s) (Only [.free, .par, .hub, .husk, .prt, .seq, .lsw, .ctl, .thm, .log] (advance dt s)) := by
  simp [execFltRstEdge]

theorem execPrtOpenReq_only (dt rq s) : Answers (execPrtOpenReq dt rq s) (Only [.free, .par, .hub, .met, .husk, .prt, .seq, .lsw, .ctl, .thm, .log] (advance dt s)) := by
  refine ⟨_, rfl, mailbox_only (by simp) fun t u => ?_⟩
  simp

theorem execG3OpenWaitExpiry_only (dt str s) : Answers (execG3OpenWaitExpiry dt str s) (Only [.free, .par, .hub, .met, .husk, .prt, .seq, .lsw, .ctl, .pos, .thm, .log] (advance dt s)) := by
  simp [execG3OpenWaitExpiry]

theorem execHuskSourceAssert_only (dt source strings s) : Answers (execHuskSourceAssert dt source strings s) (Only [.free, .par, .hub, .met, .husk, .seq, .lsw, .ctl, .pos, .thm, .log] (advance dt s)) := by
  simp [execHuskSourceAssert]

theorem execHuskDelayExpiry_only (dt source s) : Answers (execHuskDelayExpiry dt source s) (Only [.free, .par, .hub, .met, .husk, .seq, .lsw, .ctl, .thm, .log] (advance dt s)) := by
  simp [execHuskDelayExpiry]

theorem execHuskSourceRelease_only (dt source s) : Answers (execHuskSourceRelease dt source s) (Only [.free, .par, .hub, .husk, .seq, .lsw, .ctl, .pos, .thm, .log] (advance dt s)) := by
  simp [execHuskSourceRelease]

theorem execComparatorChannelTest_only (dt comparator chanB received s) : Answers (execComparatorChannelTest dt comparator chanB received s) (Only [.free, .par, .hub, .met, .husk, .seq, .lsw, .ctl, .thm, .log] (advance dt s)) := by
  simp [execComparatorChannelTest]

theorem execSysInfo_only (dt rq s) : Answers (execSysInfo dt rq s) (Only [.par, .hub] (advance dt s)) := by
  exact ⟨_, rfl, readOp_only (by simp)⟩

theorem execAuthBegin_only (dt rq s) : Answers (execAuthBegin dt rq s) (Only [.free, .par, .hub] (advance dt s)) := by
  refine ⟨_, rfl, mailbox_only (by simp) fun t u => ?_⟩
  simp

theorem execAuthProve_only (dt rq s) : Answers (execAuthProve dt rq s) (Only [.par, .hub, .husk] (advance dt s)) := by
  refine ⟨_, rfl, mailbox_only (by simp) fun t u => ?_⟩
  (try dsimp only); repeat' split
  all_goals simp

theorem execAuthEnd_only (dt rq s) : Answers (execAuthEnd dt rq s) (Only [.par, .hub, .husk] (advance dt s)) := by
  refine ⟨_, rfl, mailbox_only (by simp) fun t u => ?_⟩
  simp

theorem execPortStatus_only (dt rq s) : Answers (execPortStatus dt rq s) (Only [.par, .hub] (advance dt s)) := by
  exact ⟨_, rfl, readOp_only (by simp)⟩

theorem execLimitsGet_only (dt rq s) : Answers (execLimitsGet dt rq s) (Only [.par, .hub] (advance dt s)) := by
  exact ⟨_, rfl, readOp_only (by simp)⟩

theorem execCanSegmentReceive_only (dt port ext remote id data s) : Answers (execCanSegmentReceive dt port ext remote id data s) (Only [.par, .hub] (advance dt s)) := by
  unfold execCanSegmentReceive; (try dsimp only); repeat' split
  all_goals simp

theorem execSpiWrite_only (dt len data s) : Answers (execSpiWrite dt len data s) (Only [.free, .par, .hub] (advance dt s)) := by
  simp [execSpiWrite]

theorem execSpiRead_only (dt clocked s) : Answers (execSpiRead dt clocked s) (Only [.hub] (advance dt s)) := by
  simp [execSpiRead]

theorem execSpiStatus_only (dt s) : Answers (execSpiStatus dt s) (Only [.hub] (advance dt s)) := by
  simp [execSpiStatus]

theorem execIcmpEchoRequest_only (dt srcIp data s) : Answers (execIcmpEchoRequest dt srcIp data s) (Only [.hub] (advance dt s)) := by
  simp [execIcmpEchoRequest]

theorem execArpRequest_only (dt targetIp srcIp srcMac s) : Answers (execArpRequest dt targetIp srcIp srcMac s) (Only [.hub] (advance dt s)) := by
  simp [execArpRequest]

theorem execSiteRingFrame_only (dt link msg s) : Answers (execSiteRingFrame dt link msg s) (Only [.par, .hub] (advance dt s)) := by
  simp [execSiteRingFrame]

theorem execRingAssignReceive_only (dt link position side run source s) : Answers (execRingAssignReceive dt link position side run source s) (Only [.hub, .log] (advance dt s)) := by
  simp [execRingAssignReceive]

theorem execRingAssignTimeout_only (dt s) : Answers (execRingAssignTimeout dt s) (Only [.hub] (advance dt s)) := by
  simp [execRingAssignTimeout]

theorem execRingNoHead_only (dt s) : Answers (execRingNoHead dt s) (Only [.log] (advance dt s)) := by
  simp [execRingNoHead]

theorem execPortFailure_only (dt port s) : Answers (execPortFailure dt port s) (Only [.hub] (advance dt s)) := by
  simp [execPortFailure]

theorem execPortRecovery_only (dt port s) : Answers (execPortRecovery dt port s) (Only [.hub] (advance dt s)) := by
  simp [execPortRecovery]

theorem execSessionIdleTimeout_only (dt port session s) : Answers (execSessionIdleTimeout dt port session s) (Only [.hub, .husk] (advance dt s)) := by
  unfold execSessionIdleTimeout; (try dsimp only); repeat' split
  all_goals simp

theorem execAuthLockoutEnd_only (dt port s) : Answers (execAuthLockoutEnd dt port s) (Only [.hub] (advance dt s)) := by
  simp [execAuthLockoutEnd]

theorem execLimitsPeriodic_only (dt s) : Answers (execLimitsPeriodic dt s) (Only [.hub] (advance dt s)) := by
  simp [execLimitsPeriodic]

theorem execLimitsZeroRepeat_only (dt s) : Answers (execLimitsZeroRepeat dt s) (Only [.hub] (advance dt s)) := by
  simp [execLimitsZeroRepeat]

theorem execUdpDatagramReceive_only (dt srcIp srcPort dstPort plainIpv4 msg s) : Answers (execUdpDatagramReceive dt srcIp srcPort dstPort plainIpv4 msg s) (Only [.par, .hub] (advance dt s)) := by
  simp [execUdpDatagramReceive]

theorem execPtpDelayRequest_only (dt s) : Answers (execPtpDelayRequest dt s) (Only [.hub] (advance dt s)) := by
  simp [execPtpDelayRequest]

theorem execDhcpLeaseTimer_only (dt rebinding s) : Answers (execDhcpLeaseTimer dt rebinding s) (Only [.hub] (advance dt s)) := by
  simp [execDhcpLeaseTimer]

theorem execEthernetLinkChange_only (dt up s) : Answers (execEthernetLinkChange dt up s) (Only [.hub] (advance dt s)) := by
  simp [execEthernetLinkChange]

theorem execCanBusOff_only (dt port s) : Answers (execCanBusOff dt port s) (Only [.hub] (advance dt s)) := by
  unfold execCanBusOff; (try dsimp only); repeat' split
  all_goals simp

theorem execParamGet_only (dt rq s) : Answers (execParamGet dt rq s) (Only [.free, .par, .hub] (advance dt s)) := by
  refine ⟨_, rfl, mailbox_only (by simp) fun t u => ?_⟩
  simp

theorem execParamSet_only (dt rq s) : Answers (execParamSet dt rq s) (Only [.free, .pow, .par, .hub, .chn, .met, .husk, .seq, .lsw, .ctl, .pos, .thm, .log] (advance dt s)) := by
  refine ⟨_, rfl, mailbox_only (by simp) fun t u => ?_⟩
  simp

@[simp] theorem endCommit_only (qs : List Part) (s : State) (a0 a1 a2 t) (h : ∀ p ∈ ([.par, .hub] : List Part), p ∈ qs) :
    Only qs s (endCommit a0 a1 a2 t) ↔ Only qs s t := by
  refine Only.iff (ps := [.par, .hub]) ?_ h
  simp [endCommit]

theorem execParamCommit_only (dt rq s) : Answers (execParamCommit dt rq s) (Only [.free, .pow, .par, .hub, .chn, .met, .husk, .seq, .lsw, .ctl, .pos, .thm, .log] (advance dt s)) := by
  refine ⟨_, rfl, mailbox_only (by simp) fun t u => ?_⟩
  extract_lets mode gen m mask s1 inMask area
  have h1 : Only [.free, .pow, .par, .hub, .chn, .met, .husk, .seq, .lsw, .ctl, .pos, .thm, .log] u s1 := by simp [s1]
  clear_value s1 mode gen mask area
  repeat' split
  all_goals simp [h1]

theorem execParamHApply_only (dt id inst s) : Answers (execParamHApply dt id inst s) (Only [.free, .pow, .par, .hub, .chn, .met, .husk, .seq, .lsw, .ctl, .pos, .thm, .log] (advance dt s)) := by
  simp [execParamHApply]

theorem execParamBulkGet_only (dt rq s) : Answers (execParamBulkGet dt rq s) (Only [.par, .hub, .xfer] (advance dt s)) := by
  refine ⟨_, rfl, mailbox_only (by simp) fun t u => ?_⟩
  (try dsimp only); repeat' split
  all_goals simp

theorem execParamBulkSet_only (dt rq s) : Answers (execParamBulkSet dt rq s) (Only [.free, .pow, .par, .hub, .chn, .met, .husk, .seq, .lsw, .ctl, .pos, .thm, .log, .xfer] (advance dt s)) := by
  refine ⟨_, rfl, mailbox_only (by simp) fun t u => ?_⟩
  (try dsimp only); repeat' split
  all_goals simp

theorem execTransferTimeout_only (dt snapshot s) : Answers (execTransferTimeout dt snapshot s) (Only [.xfer] (advance dt s)) := by
  simp [execTransferTimeout]

theorem execImageReleaseTimeout_only (dt snapshot s) : Answers (execImageReleaseTimeout dt snapshot s) (Only [.xfer] (advance dt s)) := by
  simp [execImageReleaseTimeout]

theorem execRegisterWrite_only (dt id inst value s) : Answers (execRegisterWrite dt id inst value s) (Only [.free, .pow, .par, .hub, .chn, .met, .husk, .seq, .lsw, .ctl, .pos, .thm, .log] (advance dt s)) := by
  simp [execRegisterWrite]

theorem execAuxInQualified_only (dt s) : Answers (execAuxInQualified dt s) (Only [.pow, .pod, .par, .hub, .chn, .met, .est, .imp, .husk, .prt, .seq, .lsw, .ctl, .pos, .thm, .log, .tb, .xfer] (advance dt s)) := by
  unfold execAuxInQualified; (try dsimp only); repeat' split
  all_goals simp

theorem execRailEnableDelayExpiry_only (dt s) : Answers (execRailEnableDelayExpiry dt s) (Only [.pow] (advance dt s)) := by
  simp [execRailEnableDelayExpiry]

theorem execRailInWindow_only (dt rail s) : Answers (execRailInWindow dt rail s) (Only [.pow, .husk, .lsw] (advance dt s)) := by
  unfold execRailInWindow; (try dsimp only); repeat' split
  all_goals simp

theorem execRailWindowTimeout_only (dt rail s) : Answers (execRailWindowTimeout dt rail s) (Only [.pow, .pod, .par, .hub, .chn, .met, .est, .imp, .husk, .prt, .seq, .lsw, .ctl, .pos, .thm, .log, .tb, .xfer] (advance dt s)) := by
  simp [execRailWindowTimeout]

theorem execStartDone_only (dt s) : Answers (execStartDone dt s) (Only [.pow, .pod, .hub, .chn, .est, .husk, .seq, .log] (advance dt s)) := by
  unfold execStartDone
  extract_lets s1 s2 s3 h s4 p s5 e s6
  have h2 : Only [.pow, .pod, .hub, .chn, .est, .husk, .seq, .log] (advance dt s) s2 := by simp [s2, s1]
  have h3 : Only [.pow, .pod, .hub, .chn, .est, .husk, .seq, .log] (advance dt s) s3 := by simp [s3, h2]
  have h4 : Only [.pow, .pod, .hub, .chn, .est, .husk, .seq, .log] (advance dt s) s4 := by simp [s4, h, h3]
  have h5 : Only [.pow, .pod, .hub, .chn, .est, .husk, .seq, .log] (advance dt s) s5 := by simp [s5, p, h4]
  have h6 : Only [.pow, .pod, .hub, .chn, .est, .husk, .seq, .log] (advance dt s) s6 := by simp [s6, e, h5]
  clear_value s6
  simp only [answers_next]
  split
  · split
    · simp [h6]
    · simp [s1]
  · simp [s1]

theorem execStartWatchdogExpiry_only (dt s) : Answers (execStartWatchdogExpiry dt s) (Only [.pow, .pod, .par, .hub, .chn, .met, .est, .imp, .husk, .prt, .seq, .lsw, .ctl, .pos, .thm, .log, .tb, .xfer] (advance dt s)) := by
  unfold execStartWatchdogExpiry; (try dsimp only); repeat' split
  all_goals simp

theorem execStartRetry_only (dt s) : Answers (execStartRetry dt s) (Only [.pow, .pod, .par, .hub, .chn, .met, .est, .imp, .husk, .prt, .seq, .lsw, .ctl, .pos, .thm, .log, .tb, .xfer] (advance dt s)) := by
  unfold execStartRetry; (try dsimp only); repeat' split
  all_goals simp

theorem execAuxInLow_only (dt s) : Answers (execAuxInLow dt s) (Only [.free, .pow, .pod, .par, .hub, .chn, .met, .est, .imp, .husk, .prt, .seq, .lsw, .ctl, .pos, .thm, .log, .tb, .xfer] (advance dt s)) := by
  simp [execAuxInLow]

theorem execPdMainOpen_only (dt s) : Answers (execPdMainOpen dt s) (Only [.free, .pow, .par, .hub, .lsw, .ctl, .thm, .log] (advance dt s)) := by
  simp [execPdMainOpen]

theorem execPdStringOpen_only (dt s) : Answers (execPdStringOpen dt s) (Only [.free, .pow, .par, .hub, .seq, .lsw, .thm, .log] (advance dt s)) := by
  unfold execPdStringOpen; (try dsimp only); repeat' split
  all_goals simp

theorem execPdDisconnectorOff_only (dt s) : Answers (execPdDisconnectorOff dt s) (Only [.free, .par, .hub, .seq, .lsw, .ctl, .thm, .log] (advance dt s)) := by
  simp [execPdDisconnectorOff]

theorem execRetentionRecordCommit_only (dt wholeRecord s) : Answers (execRetentionRecordCommit dt wholeRecord s) (Only [.pow] (advance dt s)) := by
  simp [execRetentionRecordCommit]

theorem execPdRailsDown_only (dt s) : Answers (execPdRailsDown dt s) (Only [.pow, .pod, .par, .hub, .chn, .met, .est, .imp, .husk, .prt, .seq, .lsw, .ctl, .pos, .thm, .log, .tb, .xfer] (advance dt s)) := by
  unfold execPdRailsDown; (try dsimp only); repeat' split
  all_goals simp

theorem execAbortOff_only (dt rail s) : Answers (execAbortOff dt rail s) (Only [.pow, .pod, .par, .hub, .chn, .met, .est, .imp, .husk, .prt, .seq, .lsw, .ctl, .pos, .thm, .log, .tb, .xfer] (advance dt s)) := by
  unfold execAbortOff; (try dsimp only); repeat' split
  all_goals simp

theorem execBulbEntry_only (dt s) : Answers (execBulbEntry dt s) (Only [.pow] (advance dt s)) := by
  simp [execBulbEntry]

theorem execWake_only (dt wakeIn s) : Answers (execWake dt wakeIn s) (Only [.pow] (advance dt s)) := by
  simp [execWake]

theorem execWakeTimeout_only (dt s) : Answers (execWakeTimeout dt s) (Only [.pow] (advance dt s)) := by
  simp [execWakeTimeout]

theorem execThermalHardLimit_only (dt tsBaseA tsAon s) : Answers (execThermalHardLimit dt tsBaseA tsAon s) (Only [.free, .pow, .pod, .par, .hub, .chn, .met, .est, .imp, .husk, .prt, .seq, .lsw, .ctl, .pos, .thm, .log, .tb, .xfer] (advance dt s)) := by
  simp [execThermalHardLimit]

theorem execThermalRestart_only (dt tsBaseA tsAon s) : Answers (execThermalRestart dt tsBaseA tsAon s) (Only [.pow, .pod, .par, .hub, .chn, .met, .est, .imp, .husk, .prt, .seq, .lsw, .ctl, .pos, .thm, .log, .tb, .xfer] (advance dt s)) := by
  simp [execThermalRestart]

theorem execSupervisorRestart_only (dt s) : Answers (execSupervisorRestart dt s) (Only [.pow, .pod, .par, .hub, .chn, .met, .est, .imp, .husk, .prt, .seq, .lsw, .ctl, .pos, .thm, .log, .tb, .xfer] (advance dt s)) := by
  simp [execSupervisorRestart]

theorem execAuxWarnCrossing_only (dt auxIn10mV s) : Answers (execAuxWarnCrossing dt auxIn10mV s) (Only [.pow, .log] (advance dt s)) := by
  simp [execAuxWarnCrossing]

theorem execBattWarnCrossing_only (dt batt10mV s) : Answers (execBattWarnCrossing dt batt10mV s) (Only [.pow, .log] (advance dt s)) := by
  simp [execBattWarnCrossing]

theorem execPwrStatus_only (dt rq s) : Answers (execPwrStatus dt rq s) (Only [.par, .hub] (advance dt s)) := by
  exact ⟨_, rfl, readOp_only (by simp)⟩

theorem execBulbEnter_only (dt rq s) : Answers (execBulbEnter dt rq s) (Only [.free, .pow, .par, .hub, .chn, .met, .husk, .seq, .lsw, .ctl, .pos, .thm, .log] (advance dt s)) := by
  refine ⟨_, rfl, mailbox_only (by simp) fun t u => ?_⟩
  simp

theorem execRestart_only (dt rq s) : Answers (execRestart dt rq s) (Only [.free, .pow, .pod, .par, .hub, .chn, .met, .est, .imp, .husk, .prt, .seq, .lsw, .ctl, .pos, .thm, .log, .tb, .xfer] (advance dt s)) := by
  refine ⟨_, rfl, mailbox_only (by simp) fun t u => ?_⟩
  simp

theorem execAlwaysOnColdPowerUp_only (dt s) : Answers (execAlwaysOnColdPowerUp dt s) (Only [.free, .pow, .pod, .par, .hub, .chn, .met, .est, .imp, .husk, .prt, .seq, .lsw, .ctl, .pos, .thm, .log, .tb, .xfer, .epoch, .aonOn] (advance dt s)) := by
  unfold execAlwaysOnColdPowerUp; (try dsimp only); repeat' split
  all_goals simp

theorem execPllLock_only (dt inTolerance boot s) : Answers (execPllLock dt inTolerance boot s) (Only [.pow, .pod, .par, .hub, .chn, .met, .est, .imp, .husk, .prt, .seq, .lsw, .ctl, .pos, .thm, .log, .tb, .xfer] (advance dt s)) := by
  unfold execPllLock; (try dsimp only); repeat' split
  all_goals simp

theorem execResetStartBegin_only (dt boot s) : Answers (execResetStartBegin dt boot s) (Only [.pow, .pod, .par, .hub, .chn, .met, .est, .imp, .husk, .prt, .seq, .lsw, .ctl, .pos, .thm, .log, .tb, .xfer] (advance dt s)) := by
  unfold execResetStartBegin; (try dsimp only); repeat' split
  all_goals simp

theorem execMarchTestDone_only (dt sb0Ok othersOk s) : Answers (execMarchTestDone dt sb0Ok othersOk s) (Only [.pow, .pod, .par, .hub, .chn, .met, .est, .imp, .husk, .prt, .seq, .lsw, .ctl, .pos, .thm, .log, .tb, .xfer, .epoch] (advance dt s)) := by
  unfold execMarchTestDone; (try dsimp only); repeat' split
  all_goals simp

theorem execComparatorMismatch_only (dt group lane pc ctFail s) : Answers (execComparatorMismatch dt group lane pc ctFail s) (Only [.free, .pow, .pod, .par, .hub, .chn, .met, .est, .imp, .husk, .prt, .seq, .lsw, .ctl, .pos, .thm, .log, .tb, .xfer] (advance dt s)) := by
  simp [execComparatorMismatch]

theorem execWatchdogService_only (dt core key ctFail s) : Answers (execWatchdogService dt core key ctFail s) (Only [.free, .pow, .pod, .par, .hub, .chn, .met, .est, .imp, .husk, .prt, .seq, .lsw, .ctl, .pos, .thm, .log, .tb, .xfer] (advance dt s)) := by
  simp [execWatchdogService]

theorem execWatchdogFault_only (dt core ctFail s) : Answers (execWatchdogFault dt core ctFail s) (Only [.free, .pow, .pod, .par, .hub, .chn, .met, .est, .imp, .husk, .prt, .seq, .lsw, .ctl, .pos, .thm, .log, .tb, .xfer] (advance dt s)) := by
  simp [execWatchdogFault]

theorem execBusError_only (dt ctFail s) : Answers (execBusError dt ctFail s) (Only [.free, .pow, .pod, .par, .hub, .chn, .met, .est, .imp, .husk, .prt, .seq, .lsw, .ctl, .pos, .thm, .log, .tb, .xfer] (advance dt s)) := by
  simp [execBusError]

theorem execFirmwareException_only (dt recoverable ctFail s) : Answers (execFirmwareException dt recoverable ctFail s) (Only [.free, .pow, .pod, .par, .hub, .chn, .met, .est, .imp, .husk, .prt, .seq, .lsw, .ctl, .pos, .thm, .log, .tb, .xfer] (advance dt s)) := by
  simp [execFirmwareException]

theorem execShelledSelfTest_only (dt core pass ctFail s) : Answers (execShelledSelfTest dt core pass ctFail s) (Only [.free, .pow, .pod, .par, .hub, .chn, .met, .est, .imp, .husk, .prt, .seq, .lsw, .ctl, .pos, .thm, .log, .tb, .xfer] (advance dt s)) := by
  simp [execShelledSelfTest]

theorem execHeartbeatMissing_only (dt core ctFail s) : Answers (execHeartbeatMissing dt core ctFail s) (Only [.free, .pow, .pod, .par, .hub, .chn, .met, .est, .imp, .husk, .prt, .seq, .lsw, .ctl, .pos, .thm, .log, .tb, .xfer] (advance dt s)) := by
  simp [execHeartbeatMissing]

theorem execMailboxResume_only (dt lostProt lostGroups hwDiffer s) : Answers (execMailboxResume dt lostProt lostGroups hwDiffer s) (Only [.free, .pod, .par, .hub, .chn, .met, .est, .imp, .husk, .prt, .seq, .lsw, .ctl, .pos, .thm, .log, .xfer] (advance dt s)) := by
  unfold execMailboxResume
  extract_lets s1 s2 s3 s4 s5 s6 s7 s8 s9
  have h2 : Only [.free, .pod, .par, .hub, .chn, .met, .est, .imp, .husk, .prt, .seq, .lsw, .ctl, .pos, .thm, .log, .xfer] (advance dt s) s2 := by simp [s2, s1]
  clear_value s2
  have h3 : Only [.free, .pod, .par, .hub, .chn, .met, .est, .imp, .husk, .prt, .seq, .lsw, .ctl, .pos, .thm, .log, .xfer] (advance dt s) s3 := by simp [s3, h2]
  clear_value s3
  have h4 : Only [.free, .pod, .par, .hub, .chn, .met, .est, .imp, .husk, .prt, .seq, .lsw, .ctl, .pos, .thm, .log, .xfer] (advance dt s) s4 := by simp [s4, h3]
  clear_value s4
  have h5 : Only [.free, .pod, .par, .hub, .chn, .met, .est, .imp, .husk, .prt, .seq, .lsw, .ctl, .pos, .thm, .log, .xfer] (advance dt s) s5 := by simp [s5, h4]
  clear_value s5
  have h6 : Only [.free, .pod, .par, .hub, .chn, .met, .est, .imp, .husk, .prt, .seq, .lsw, .ctl, .pos, .thm, .log, .xfer] (advance dt s) s6 := by simp [s6, h5]
  clear_value s6
  have h7 : Only [.free, .pod, .par, .hub, .chn, .met, .est, .imp, .husk, .prt, .seq, .lsw, .ctl, .pos, .thm, .log, .xfer] (advance dt s) s7 := by unfold s7; split <;> simp [h6]
  clear_value s7
  have h8 : Only [.free, .pod, .par, .hub, .chn, .met, .est, .imp, .husk, .prt, .seq, .lsw, .ctl, .pos, .thm, .log, .xfer] (advance dt s) s8 := by simp [s8, h7]
  clear_value s8
  have h9 : Only [.free, .pod, .par, .hub, .chn, .met, .est, .imp, .husk, .prt, .seq, .lsw, .ctl, .pos, .thm, .log, .xfer] (advance dt s) s9 := by unfold s9; split <;> simp [h8]
  clear_value s9
  simp only [answers_next]
  repeat' split
  all_goals simp [h9, s1]

theorem execPodDeadTimeout_only (dt s) : Answers (execPodDeadTimeout dt s) (Only [.free, .par, .hub, .met, .husk, .seq, .lsw, .ctl, .thm, .log] (advance dt s)) := by
  simp [execPodDeadTimeout]

theorem execEccCorrected_only (dt bank addr s) : Answers (execEccCorrected dt bank addr s) (Only [.pod, .log] (advance dt s)) := by
  simp [execEccCorrected]

theorem execEccUncorrectable_only (dt site addr podAccess ctFail s) : Answers (execEccUncorrectable dt site addr podAccess ctFail s) (Only [.free, .pow, .pod, .par, .hub, .chn, .met, .est, .imp, .husk, .prt, .seq, .lsw, .ctl, .pos, .thm, .log, .tb, .xfer] (advance dt s)) := by
  unfold execEccUncorrectable; (try dsimp only); repeat' split
  all_goals simp

theorem execScrubPass_only (dt addr s) : Answers (execScrubPass dt addr s) (Only [.pod] (advance dt s)) := by
  simp [execScrubPass]

theorem execOtpProgramDone_only (dt readBackOk s) : Answers (execOtpProgramDone dt readBackOk s) (Only [.free, .pod, .hub, .otp] (advance dt s)) := by
  unfold execOtpProgramDone; (try dsimp only); repeat' split
  all_goals simp

theorem execPodStatus_only (dt rq s) : Answers (execPodStatus dt rq s) (Only [.par, .hub] (advance dt s)) := by
  exact ⟨_, rfl, readOp_only (by simp)⟩

theorem execPatchWrite_only (dt rq s) : Answers (execPatchWrite dt rq s) (Only [.pod, .par, .hub] (advance dt s)) := by
  refine ⟨_, rfl, mailbox_only (by simp) fun t u => ?_⟩
  simp

theorem execPatchVerify_only (dt rq s) : Answers (execPatchVerify dt rq s) (Only [.pod, .par, .hub] (advance dt s)) := by
  refine ⟨_, rfl, mailbox_only (by simp) fun t u => ?_⟩
  simp

theorem execPatchApply_only (dt rq s) : Answers (execPatchApply dt rq s) (Only [.free, .pow, .pod, .par, .hub, .chn, .met, .est, .imp, .husk, .prt, .seq, .lsw, .ctl, .pos, .thm, .log, .tb, .xfer] (advance dt s)) := by
  refine ⟨_, rfl, mailbox_only (by simp) fun t u => ?_⟩
  simp

theorem execPatchDiscard_only (dt rq s) : Answers (execPatchDiscard dt rq s) (Only [.pod, .par, .hub] (advance dt s)) := by
  refine ⟨_, rfl, mailbox_only (by simp) fun t u => ?_⟩
  simp

theorem execOtpRead_only (dt rq s) : Answers (execOtpRead dt rq s) (Only [.par, .hub] (advance dt s)) := by
  refine ⟨_, rfl, mailbox_only (by simp) fun t u => ?_⟩
  simp

theorem execOtpProgram_only (dt rq s) : Answers (execOtpProgram dt rq s) (Only [.pod, .par, .hub] (advance dt s)) := by
  refine ⟨_, rfl, mailbox_only (by simp) fun t u => ?_⟩
  (try dsimp only); repeat' split
  all_goals simp

end Sys2Proof.Machine
end

