-- ==== Sys2Proof/Laws/State.lean ====
section
/-!
SUPPORT. Small lemmas that no proof need unfold past: reading the state after time has passed, after a unit has been changed,
and reading a sparse map after a write.
-/
namespace Sys2Proof.Machine
open Sys2Proof

/-! ### Sparse maps -/

@[simp] theorem mfind_mput_self {α : Type} (m : SMap α) (k : Nat) (v : α) : mfind (mput m k v) k = some v := by
  induction m with
  | nil => simp [mput, mfind]
  | cons e m ih =>
    obtain ⟨k', v'⟩ := e
    simp only [mput]
    split
    · simp [mfind]
    · split
      · simp [mfind]
      · rename_i h1 h2
        have : ¬ k' = k := fun e => h2 e.symm
        simp [mfind, this, ih]

theorem mfind_mput_other {α : Type} (m : SMap α) {j k : Nat} (v : α) (h : j ≠ k) : mfind (mput m k v) j = mfind m j := by
  have h' : ¬ k = j := fun e => h e.symm
  induction m with
  | nil => simp [mput, mfind, h']
  | cons e m ih =>
    obtain ⟨k', v'⟩ := e
    simp only [mput]
    split
    · simp [mfind, h']
    · split
      · rename_i h1 h2
        have : ¬ k' = j := fun e => h' (h2.trans e)
        simp [mfind, h', this]
      · simp only [mfind, ih]

@[simp] theorem mget_mput_self {α : Type} (d : α) (m : SMap α) (k : Nat) (v : α) : mget d (mput m k v) k = v := by
  simp [mget]

theorem mget_mput_other {α : Type} (d : α) (m : SMap α) {j k : Nat} (v : α) (h : j ≠ k) : mget d (mput m k v) j = mget d m j := by
  simp [mget, mfind_mput_other m v h]

@[simp] theorem mget_mmod_self {α : Type} (d : α) (m : SMap α) (k : Nat) (f : α → α) : mget d (mmod d m k f) k = f (mget d m k) := by
  simp [mmod]

theorem mget_mmod_other {α : Type} (d : α) (m : SMap α) {j k : Nat} (f : α → α) (h : j ≠ k) :
    mget d (mmod d m k f) j = mget d m j := mget_mput_other d m _ h

@[simp] theorem mget_nil {α : Type} (d : α) (k : Nat) : mget d ([] : SMap α) k = d := rfl

/-! ### After time has passed (log 3) -/

@[simp] theorem advance_phys (dt : Nat) (s : State) : (advance dt s).phys = s.phys + dt := rfl
@[simp] theorem advance_zero_phys (s : State) : (advance 0 s).phys = s.phys := rfl
@[simp] theorem advance_free (dt : Nat) (s : State) : (advance dt s).free = s.free := rfl
@[simp] theorem advance_pod (dt : Nat) (s : State) : (advance dt s).pod = s.pod := rfl
@[simp] theorem advance_par (dt : Nat) (s : State) : (advance dt s).par = s.par := rfl
@[simp] theorem advance_hub (dt : Nat) (s : State) : (advance dt s).hub = s.hub := rfl
@[simp] theorem advance_chn (dt : Nat) (s : State) : (advance dt s).chn = s.chn := rfl
@[simp] theorem advance_met (dt : Nat) (s : State) : (advance dt s).met = s.met := rfl
@[simp] theorem advance_est (dt : Nat) (s : State) : (advance dt s).est = s.est := rfl
@[simp] theorem advance_imp (dt : Nat) (s : State) : (advance dt s).imp = s.imp := rfl
@[simp] theorem advance_husk (dt : Nat) (s : State) : (advance dt s).husk = s.husk := rfl
@[simp] theorem advance_prt (dt : Nat) (s : State) : (advance dt s).prt = s.prt := rfl
@[simp] theorem advance_seq (dt : Nat) (s : State) : (advance dt s).seq = s.seq := rfl
@[simp] theorem advance_lsw (dt : Nat) (s : State) : (advance dt s).lsw = s.lsw := rfl
@[simp] theorem advance_ctl (dt : Nat) (s : State) : (advance dt s).ctl = s.ctl := rfl
@[simp] theorem advance_pos (dt : Nat) (s : State) : (advance dt s).pos = s.pos := rfl
@[simp] theorem advance_thm (dt : Nat) (s : State) : (advance dt s).thm = s.thm := rfl
@[simp] theorem advance_log (dt : Nat) (s : State) : (advance dt s).log = s.log := rfl
@[simp] theorem advance_xfer (dt : Nat) (s : State) : (advance dt s).xfer = s.xfer := rfl
@[simp] theorem advance_pending (dt : Nat) (s : State) : (advance dt s).pending = s.pending := rfl
@[simp] theorem advance_pow_phase (dt : Nat) (s : State) : (advance dt s).pow.phase = s.pow.phase := by
  simp only [advance, Power.after]; split <;> rfl
@[simp] theorem advance_pow_kind (dt : Nat) (s : State) : (advance dt s).pow.kind = s.pow.kind := by
  simp only [advance, Power.after]; split <;> rfl
@[simp] theorem advance_pow_aonOn (dt : Nat) (s : State) : (advance dt s).pow.aonOn = s.pow.aonOn := by
  simp only [advance, Power.after]; split <;> rfl
@[simp] theorem advance_pow_aonClock (dt : Nat) (s : State) : (advance dt s).pow.aonClock = s.pow.aonClock := by
  simp only [advance, Power.after]; split <;> rfl
@[simp] theorem advance_pow_epoch (dt : Nat) (s : State) : (advance dt s).pow.epoch = s.pow.epoch := by
  simp only [advance, Power.after]; split <;> rfl
@[simp] theorem advance_pow_epochAt (dt : Nat) (s : State) : (advance dt s).pow.epochAt = s.pow.epochAt := by
  simp only [advance, Power.after]; split <;> rfl
@[simp] theorem advance_pow_history (dt : Nat) (s : State) : (advance dt s).pow.history = s.pow.history := by
  simp only [advance, Power.after]; split <;> rfl
@[simp] theorem advance_pow_retWord (dt : Nat) (s : State) : (advance dt s).pow.retWord = s.pow.retWord := by
  simp only [advance, Power.after]; split <;> rfl
@[simp] theorem advance_pow_retRecord (dt : Nat) (s : State) : (advance dt s).pow.retRecord = s.pow.retRecord := by
  simp only [advance, Power.after]; split <;> rfl
@[simp] theorem advance_pow_wakes (dt : Nat) (s : State) : (advance dt s).pow.wakes = s.pow.wakes := by
  simp only [advance, Power.after]; split <;> rfl
@[simp] theorem advance_pow_wakeSrc (dt : Nat) (s : State) : (advance dt s).pow.wakeSrc = s.pow.wakeSrc := by
  simp only [advance, Power.after]; split <;> rfl
@[simp] theorem advance_pow_wakePol (dt : Nat) (s : State) : (advance dt s).pow.wakePol = s.pow.wakePol := by
  simp only [advance, Power.after]; split <;> rfl
@[simp] theorem advance_pow_auxOk (dt : Nat) (s : State) : (advance dt s).pow.auxOk = s.pow.auxOk := by
  simp only [advance, Power.after]; split <;> rfl
@[simp] theorem advance_pow_auxIn (dt : Nat) (s : State) : (advance dt s).pow.auxIn = s.pow.auxIn := by
  simp only [advance, Power.after]; split <;> rfl
@[simp] theorem advance_pow_battAux (dt : Nat) (s : State) : (advance dt s).pow.battAux = s.pow.battAux := by
  simp only [advance, Power.after]; split <;> rfl
@[simp] theorem advance_pow_auxWarn (dt : Nat) (s : State) : (advance dt s).pow.auxWarn = s.pow.auxWarn := by
  simp only [advance, Power.after]; split <;> rfl
@[simp] theorem advance_pow_battWarn (dt : Nat) (s : State) : (advance dt s).pow.battWarn = s.pow.battWarn := by
  simp only [advance, Power.after]; split <;> rfl
@[simp] theorem advance_pow_rails (dt : Nat) (s : State) : (advance dt s).pow.rails = s.pow.rails := by
  simp only [advance, Power.after]; split <;> rfl
@[simp] theorem advance_pow_railWait (dt : Nat) (s : State) : (advance dt s).pow.railWait = s.pow.railWait := by
  simp only [advance, Power.after]; split <;> rfl
@[simp] theorem advance_pow_railNext (dt : Nat) (s : State) : (advance dt s).pow.railNext = s.pow.railNext := by
  simp only [advance, Power.after]; split <;> rfl
@[simp] theorem advance_pow_cress (dt : Nat) (s : State) : (advance dt s).pow.cress = s.pow.cress := by
  simp only [advance, Power.after]; split <;> rfl
@[simp] theorem advance_pow_endCode (dt : Nat) (s : State) : (advance dt s).pow.endCode = s.pow.endCode := by
  simp only [advance, Power.after]; split <;> rfl
@[simp] theorem advance_pow_endReason (dt : Nat) (s : State) : (advance dt s).pow.endReason = s.pow.endReason := by
  simp only [advance, Power.after]; split <;> rfl
@[simp] theorem advance_pow_pdStep (dt : Nat) (s : State) : (advance dt s).pow.pdStep = s.pow.pdStep := by
  simp only [advance, Power.after]; split <;> rfl
@[simp] theorem advance_pow_pdCause (dt : Nat) (s : State) : (advance dt s).pow.pdCause = s.pow.pdCause := by
  simp only [advance, Power.after]; split <;> rfl
@[simp] theorem advance_pow_pdSkip4 (dt : Nat) (s : State) : (advance dt s).pow.pdSkip4 = s.pow.pdSkip4 := by
  simp only [advance, Power.after]; split <;> rfl
@[simp] theorem advance_pow_pdDue (dt : Nat) (s : State) : (advance dt s).pow.pdDue = s.pow.pdDue := by
  simp only [advance, Power.after]; split <;> rfl
@[simp] theorem advance_pow_pdTime (dt : Nat) (s : State) : (advance dt s).pow.pdTime = s.pow.pdTime := by
  simp only [advance, Power.after]; split <;> rfl
@[simp] theorem advance_pow_pdPhys (dt : Nat) (s : State) : (advance dt s).pow.pdPhys = s.pow.pdPhys := by
  simp only [advance, Power.after]; split <;> rfl
@[simp] theorem advance_pow_pdStrings (dt : Nat) (s : State) : (advance dt s).pow.pdStrings = s.pow.pdStrings := by
  simp only [advance, Power.after]; split <;> rfl
@[simp] theorem advance_pow_startWd (dt : Nat) (s : State) : (advance dt s).pow.startWd = s.pow.startWd := by
  simp only [advance, Power.after]; split <;> rfl
@[simp] theorem advance_pow_restartOk (dt : Nat) (s : State) : (advance dt s).pow.restartOk = s.pow.restartOk := by
  simp only [advance, Power.after]; split <;> rfl
@[simp] theorem advance_pow_phaseAt (dt : Nat) (s : State) : (advance dt s).pow.phaseAt = s.pow.phaseAt := by
  simp only [advance, Power.after]; split <;> rfl
@[simp] theorem advance_pow_railAt (dt : Nat) (s : State) : (advance dt s).pow.railAt = s.pow.railAt := by
  simp only [advance, Power.after]; split <;> rfl
@[simp] theorem advance_pow_podAt (dt : Nat) (s : State) : (advance dt s).pow.podAt = s.pow.podAt := by
  simp only [advance, Power.after]; split <;> rfl
@[simp] theorem advance_pow_pdKeep (dt : Nat) (s : State) : (advance dt s).pow.pdKeep = s.pow.pdKeep := by
  simp only [advance, Power.after]; split <;> rfl
@[simp] theorem advance_tb_addend (dt : Nat) (s : State) : (advance dt s).tb.addend = s.tb.addend := by
  simp only [advance, Timebase.after]; split <;> rfl
@[simp] theorem advance_tb_run (dt : Nat) (s : State) : (advance dt s).tb.run = s.tb.run := by
  simp only [advance, Timebase.after]; split <;> rfl
@[simp] theorem advance_tb_tai (dt : Nat) (s : State) : (advance dt s).tb.tai = s.tb.tai := by
  simp only [advance, Timebase.after]; split <;> rfl
@[simp] theorem advance_tb_state (dt : Nat) (s : State) : (advance dt s).tb.state = s.tb.state := by
  simp only [advance, Timebase.after]; split <;> rfl
@[simp] theorem advance_tb_source (dt : Nat) (s : State) : (advance dt s).tb.source = s.tb.source := by
  simp only [advance, Timebase.after]; split <;> rfl
@[simp] theorem advance_tb_steps (dt : Nat) (s : State) : (advance dt s).tb.steps = s.tb.steps := by
  simp only [advance, Timebase.after]; split <;> rfl
@[simp] theorem advance_tb_offset (dt : Nat) (s : State) : (advance dt s).tb.offset = s.tb.offset := by
  simp only [advance, Timebase.after]; split <;> rfl
@[simp] theorem advance_tb_rate (dt : Nat) (s : State) : (advance dt s).tb.rate = s.tb.rate := by
  simp only [advance, Timebase.after]; split <;> rfl
@[simp] theorem advance_tb_integ (dt : Nat) (s : State) : (advance dt s).tb.integ = s.tb.integ := by
  simp only [advance, Timebase.after]; split <;> rfl
@[simp] theorem advance_tb_ptpGood (dt : Nat) (s : State) : (advance dt s).tb.ptpGood = s.tb.ptpGood := by
  simp only [advance, Timebase.after]; split <;> rfl
@[simp] theorem advance_tb_ringGood (dt : Nat) (s : State) : (advance dt s).tb.ringGood = s.tb.ringGood := by
  simp only [advance, Timebase.after]; split <;> rfl
@[simp] theorem advance_tb_ptpRef (dt : Nat) (s : State) : (advance dt s).tb.ptpRef = s.tb.ptpRef := by
  simp only [advance, Timebase.after]; split <;> rfl
@[simp] theorem advance_tb_ringRef (dt : Nat) (s : State) : (advance dt s).tb.ringRef = s.tb.ringRef := by
  simp only [advance, Timebase.after]; split <;> rfl
@[simp] theorem advance_tb_holdAt (dt : Nat) (s : State) : (advance dt s).tb.holdAt = s.tb.holdAt := by
  simp only [advance, Timebase.after]; split <;> rfl
@[simp] theorem advance_tb_master (dt : Nat) (s : State) : (advance dt s).tb.master = s.tb.master := by
  simp only [advance, Timebase.after]; split <;> rfl
@[simp] theorem advance_tb_path (dt : Nat) (s : State) : (advance dt s).tb.path = s.tb.path := by
  simp only [advance, Timebase.after]; split <;> rfl
@[simp] theorem advance_tb_degraded (dt : Nat) (s : State) : (advance dt s).tb.degraded = s.tb.degraded := by
  simp only [advance, Timebase.after]; split <;> rfl
@[simp] theorem advance_tb_syncNum (dt : Nat) (s : State) : (advance dt s).tb.syncNum = s.tb.syncNum := by
  simp only [advance, Timebase.after]; split <;> rfl
@[simp] theorem advance_tb_sendNum (dt : Nat) (s : State) : (advance dt s).tb.sendNum = s.tb.sendNum := by
  simp only [advance, Timebase.after]; split <;> rfl
@[simp] theorem advance_tb_sendAt (dt : Nat) (s : State) : (advance dt s).tb.sendAt = s.tb.sendAt := by
  simp only [advance, Timebase.after]; split <;> rfl
@[simp] theorem advance_tb_xchAt (dt : Nat) (s : State) : (advance dt s).tb.xchAt = s.tb.xchAt := by
  simp only [advance, Timebase.after]; split <;> rfl
@[simp] theorem advance_tb_syncAt (dt : Nat) (s : State) : (advance dt s).tb.syncAt = s.tb.syncAt := by
  simp only [advance, Timebase.after]; split <;> rfl
@[simp] theorem advance_tb_xchNum (dt : Nat) (s : State) : (advance dt s).tb.xchNum = s.tb.xchNum := by
  simp only [advance, Timebase.after]; split <;> rfl
@[simp] theorem advance_tb_xchT1 (dt : Nat) (s : State) : (advance dt s).tb.xchT1 = s.tb.xchT1 := by
  simp only [advance, Timebase.after]; split <;> rfl
@[simp] theorem advance_tb_delays (dt : Nat) (s : State) : (advance dt s).tb.delays = s.tb.delays := by
  simp only [advance, Timebase.after]; split <;> rfl

/-! ### After a unit was changed -/

@[simp] theorem withCtl_phys (s : State) (f : Control → Control) : (withCtl s f).phys = s.phys := rfl
@[simp] theorem withCtl_free (s : State) (f : Control → Control) : (withCtl s f).free = s.free := rfl
@[simp] theorem withCtl_pow (s : State) (f : Control → Control) : (withCtl s f).pow = s.pow := rfl
@[simp] theorem withCtl_pod (s : State) (f : Control → Control) : (withCtl s f).pod = s.pod := rfl
@[simp] theorem withCtl_par (s : State) (f : Control → Control) : (withCtl s f).par = s.par := rfl
@[simp] theorem withCtl_hub (s : State) (f : Control → Control) : (withCtl s f).hub = s.hub := rfl
@[simp] theorem withCtl_chn (s : State) (f : Control → Control) : (withCtl s f).chn = s.chn := rfl
@[simp] theorem withCtl_met (s : State) (f : Control → Control) : (withCtl s f).met = s.met := rfl
@[simp] theorem withCtl_est (s : State) (f : Control → Control) : (withCtl s f).est = s.est := rfl
@[simp] theorem withCtl_imp (s : State) (f : Control → Control) : (withCtl s f).imp = s.imp := rfl
@[simp] theorem withCtl_husk (s : State) (f : Control → Control) : (withCtl s f).husk = s.husk := rfl
@[simp] theorem withCtl_prt (s : State) (f : Control → Control) : (withCtl s f).prt = s.prt := rfl
@[simp] theorem withCtl_seq (s : State) (f : Control → Control) : (withCtl s f).seq = s.seq := rfl
@[simp] theorem withCtl_lsw (s : State) (f : Control → Control) : (withCtl s f).lsw = s.lsw := rfl
@[simp] theorem withCtl_ctl (s : State) (f : Control → Control) : (withCtl s f).ctl = f s.ctl := rfl
@[simp] theorem withCtl_pos (s : State) (f : Control → Control) : (withCtl s f).pos = s.pos := rfl
@[simp] theorem withCtl_thm (s : State) (f : Control → Control) : (withCtl s f).thm = s.thm := rfl
@[simp] theorem withCtl_log (s : State) (f : Control → Control) : (withCtl s f).log = s.log := rfl
@[simp] theorem withCtl_tb (s : State) (f : Control → Control) : (withCtl s f).tb = s.tb := rfl
@[simp] theorem withCtl_xfer (s : State) (f : Control → Control) : (withCtl s f).xfer = s.xfer := rfl
@[simp] theorem withCtl_pending (s : State) (f : Control → Control) : (withCtl s f).pending = s.pending := rfl

@[simp] theorem withPrt_phys (s : State) (f : Grades → Grades) : (withPrt s f).phys = s.phys := rfl
@[simp] theorem withPrt_free (s : State) (f : Grades → Grades) : (withPrt s f).free = s.free := rfl
@[simp] theorem withPrt_pow (s : State) (f : Grades → Grades) : (withPrt s f).pow = s.pow := rfl
@[simp] theorem withPrt_pod (s : State) (f : Grades → Grades) : (withPrt s f).pod = s.pod := rfl
@[simp] theorem withPrt_par (s : State) (f : Grades → Grades) : (withPrt s f).par = s.par := rfl
@[simp] theorem withPrt_hub (s : State) (f : Grades → Grades) : (withPrt s f).hub = s.hub := rfl
@[simp] theorem withPrt_chn (s : State) (f : Grades → Grades) : (withPrt s f).chn = s.chn := rfl
@[simp] theorem withPrt_met (s : State) (f : Grades → Grades) : (withPrt s f).met = s.met := rfl
@[simp] theorem withPrt_est (s : State) (f : Grades → Grades) : (withPrt s f).est = s.est := rfl
@[simp] theorem withPrt_imp (s : State) (f : Grades → Grades) : (withPrt s f).imp = s.imp := rfl
@[simp] theorem withPrt_husk (s : State) (f : Grades → Grades) : (withPrt s f).husk = s.husk := rfl
@[simp] theorem withPrt_prt (s : State) (f : Grades → Grades) : (withPrt s f).prt = f s.prt := rfl
@[simp] theorem withPrt_seq (s : State) (f : Grades → Grades) : (withPrt s f).seq = s.seq := rfl
@[simp] theorem withPrt_lsw (s : State) (f : Grades → Grades) : (withPrt s f).lsw = s.lsw := rfl
@[simp] theorem withPrt_ctl (s : State) (f : Grades → Grades) : (withPrt s f).ctl = s.ctl := rfl
@[simp] theorem withPrt_pos (s : State) (f : Grades → Grades) : (withPrt s f).pos = s.pos := rfl
@[simp] theorem withPrt_thm (s : State) (f : Grades → Grades) : (withPrt s f).thm = s.thm := rfl
@[simp] theorem withPrt_log (s : State) (f : Grades → Grades) : (withPrt s f).log = s.log := rfl
@[simp] theorem withPrt_tb (s : State) (f : Grades → Grades) : (withPrt s f).tb = s.tb := rfl
@[simp] theorem withPrt_xfer (s : State) (f : Grades → Grades) : (withPrt s f).xfer = s.xfer := rfl
@[simp] theorem withPrt_pending (s : State) (f : Grades → Grades) : (withPrt s f).pending = s.pending := rfl

@[simp] theorem withPow_phys (s : State) (f : Power → Power) : (withPow s f).phys = s.phys := rfl
@[simp] theorem withPow_free (s : State) (f : Power → Power) : (withPow s f).free = s.free := rfl
@[simp] theorem withPow_pow (s : State) (f : Power → Power) : (withPow s f).pow = f s.pow := rfl
@[simp] theorem withPow_pod (s : State) (f : Power → Power) : (withPow s f).pod = s.pod := rfl
@[simp] theorem withPow_par (s : State) (f : Power → Power) : (withPow s f).par = s.par := rfl
@[simp] theorem withPow_hub (s : State) (f : Power → Power) : (withPow s f).hub = s.hub := rfl
@[simp] theorem withPow_chn (s : State) (f : Power → Power) : (withPow s f).chn = s.chn := rfl
@[simp] theorem withPow_met (s : State) (f : Power → Power) : (withPow s f).met = s.met := rfl
@[simp] theorem withPow_est (s : State) (f : Power → Power) : (withPow s f).est = s.est := rfl
@[simp] theorem withPow_imp (s : State) (f : Power → Power) : (withPow s f).imp = s.imp := rfl
@[simp] theorem withPow_husk (s : State) (f : Power → Power) : (withPow s f).husk = s.husk := rfl
@[simp] theorem withPow_prt (s : State) (f : Power → Power) : (withPow s f).prt = s.prt := rfl
@[simp] theorem withPow_seq (s : State) (f : Power → Power) : (withPow s f).seq = s.seq := rfl
@[simp] theorem withPow_lsw (s : State) (f : Power → Power) : (withPow s f).lsw = s.lsw := rfl
@[simp] theorem withPow_ctl (s : State) (f : Power → Power) : (withPow s f).ctl = s.ctl := rfl
@[simp] theorem withPow_pos (s : State) (f : Power → Power) : (withPow s f).pos = s.pos := rfl
@[simp] theorem withPow_thm (s : State) (f : Power → Power) : (withPow s f).thm = s.thm := rfl
@[simp] theorem withPow_log (s : State) (f : Power → Power) : (withPow s f).log = s.log := rfl
@[simp] theorem withPow_tb (s : State) (f : Power → Power) : (withPow s f).tb = s.tb := rfl
@[simp] theorem withPow_xfer (s : State) (f : Power → Power) : (withPow s f).xfer = s.xfer := rfl
@[simp] theorem withPow_pending (s : State) (f : Power → Power) : (withPow s f).pending = s.pending := rfl

@[simp] theorem withEst_phys (s : State) (f : Est → Est) : (withEst s f).phys = s.phys := rfl
@[simp] theorem withEst_free (s : State) (f : Est → Est) : (withEst s f).free = s.free := rfl
@[simp] theorem withEst_pow (s : State) (f : Est → Est) : (withEst s f).pow = s.pow := rfl
@[simp] theorem withEst_pod (s : State) (f : Est → Est) : (withEst s f).pod = s.pod := rfl
@[simp] theorem withEst_par (s : State) (f : Est → Est) : (withEst s f).par = s.par := rfl
@[simp] theorem withEst_hub (s : State) (f : Est → Est) : (withEst s f).hub = s.hub := rfl
@[simp] theorem withEst_chn (s : State) (f : Est → Est) : (withEst s f).chn = s.chn := rfl
@[simp] theorem withEst_met (s : State) (f : Est → Est) : (withEst s f).met = s.met := rfl
@[simp] theorem withEst_est (s : State) (f : Est → Est) : (withEst s f).est = f s.est := rfl
@[simp] theorem withEst_imp (s : State) (f : Est → Est) : (withEst s f).imp = s.imp := rfl
@[simp] theorem withEst_husk (s : State) (f : Est → Est) : (withEst s f).husk = s.husk := rfl
@[simp] theorem withEst_prt (s : State) (f : Est → Est) : (withEst s f).prt = s.prt := rfl
@[simp] theorem withEst_seq (s : State) (f : Est → Est) : (withEst s f).seq = s.seq := rfl
@[simp] theorem withEst_lsw (s : State) (f : Est → Est) : (withEst s f).lsw = s.lsw := rfl
@[simp] theorem withEst_ctl (s : State) (f : Est → Est) : (withEst s f).ctl = s.ctl := rfl
@[simp] theorem withEst_pos (s : State) (f : Est → Est) : (withEst s f).pos = s.pos := rfl
@[simp] theorem withEst_thm (s : State) (f : Est → Est) : (withEst s f).thm = s.thm := rfl
@[simp] theorem withEst_log (s : State) (f : Est → Est) : (withEst s f).log = s.log := rfl
@[simp] theorem withEst_tb (s : State) (f : Est → Est) : (withEst s f).tb = s.tb := rfl
@[simp] theorem withEst_xfer (s : State) (f : Est → Est) : (withEst s f).xfer = s.xfer := rfl
@[simp] theorem withEst_pending (s : State) (f : Est → Est) : (withEst s f).pending = s.pending := rfl

@[simp] theorem withImp_phys (s : State) (f : Imp → Imp) : (withImp s f).phys = s.phys := rfl
@[simp] theorem withImp_free (s : State) (f : Imp → Imp) : (withImp s f).free = s.free := rfl
@[simp] theorem withImp_pow (s : State) (f : Imp → Imp) : (withImp s f).pow = s.pow := rfl
@[simp] theorem withImp_pod (s : State) (f : Imp → Imp) : (withImp s f).pod = s.pod := rfl
@[simp] theorem withImp_par (s : State) (f : Imp → Imp) : (withImp s f).par = s.par := rfl
@[simp] theorem withImp_hub (s : State) (f : Imp → Imp) : (withImp s f).hub = s.hub := rfl
@[simp] theorem withImp_chn (s : State) (f : Imp → Imp) : (withImp s f).chn = s.chn := rfl
@[simp] theorem withImp_met (s : State) (f : Imp → Imp) : (withImp s f).met = s.met := rfl
@[simp] theorem withImp_est (s : State) (f : Imp → Imp) : (withImp s f).est = s.est := rfl
@[simp] theorem withImp_imp (s : State) (f : Imp → Imp) : (withImp s f).imp = f s.imp := rfl
@[simp] theorem withImp_husk (s : State) (f : Imp → Imp) : (withImp s f).husk = s.husk := rfl
@[simp] theorem withImp_prt (s : State) (f : Imp → Imp) : (withImp s f).prt = s.prt := rfl
@[simp] theorem withImp_seq (s : State) (f : Imp → Imp) : (withImp s f).seq = s.seq := rfl
@[simp] theorem withImp_lsw (s : State) (f : Imp → Imp) : (withImp s f).lsw = s.lsw := rfl
@[simp] theorem withImp_ctl (s : State) (f : Imp → Imp) : (withImp s f).ctl = s.ctl := rfl
@[simp] theorem withImp_pos (s : State) (f : Imp → Imp) : (withImp s f).pos = s.pos := rfl
@[simp] theorem withImp_thm (s : State) (f : Imp → Imp) : (withImp s f).thm = s.thm := rfl
@[simp] theorem withImp_log (s : State) (f : Imp → Imp) : (withImp s f).log = s.log := rfl
@[simp] theorem withImp_tb (s : State) (f : Imp → Imp) : (withImp s f).tb = s.tb := rfl
@[simp] theorem withImp_xfer (s : State) (f : Imp → Imp) : (withImp s f).xfer = s.xfer := rfl
@[simp] theorem withImp_pending (s : State) (f : Imp → Imp) : (withImp s f).pending = s.pending := rfl

@[simp] theorem withThm_phys (s : State) (f : Thermal → Thermal) : (withThm s f).phys = s.phys := rfl
@[simp] theorem withThm_free (s : State) (f : Thermal → Thermal) : (withThm s f).free = s.free := rfl
@[simp] theorem withThm_pow (s : State) (f : Thermal → Thermal) : (withThm s f).pow = s.pow := rfl
@[simp] theorem withThm_pod (s : State) (f : Thermal → Thermal) : (withThm s f).pod = s.pod := rfl
@[simp] theorem withThm_par (s : State) (f : Thermal → Thermal) : (withThm s f).par = s.par := rfl
@[simp] theorem withThm_hub (s : State) (f : Thermal → Thermal) : (withThm s f).hub = s.hub := rfl
@[simp] theorem withThm_chn (s : State) (f : Thermal → Thermal) : (withThm s f).chn = s.chn := rfl
@[simp] theorem withThm_met (s : State) (f : Thermal → Thermal) : (withThm s f).met = s.met := rfl
@[simp] theorem withThm_est (s : State) (f : Thermal → Thermal) : (withThm s f).est = s.est := rfl
@[simp] theorem withThm_imp (s : State) (f : Thermal → Thermal) : (withThm s f).imp = s.imp := rfl
@[simp] theorem withThm_husk (s : State) (f : Thermal → Thermal) : (withThm s f).husk = s.husk := rfl
@[simp] theorem withThm_prt (s : State) (f : Thermal → Thermal) : (withThm s f).prt = s.prt := rfl
@[simp] theorem withThm_seq (s : State) (f : Thermal → Thermal) : (withThm s f).seq = s.seq := rfl
@[simp] theorem withThm_lsw (s : State) (f : Thermal → Thermal) : (withThm s f).lsw = s.lsw := rfl
@[simp] theorem withThm_ctl (s : State) (f : Thermal → Thermal) : (withThm s f).ctl = s.ctl := rfl
@[simp] theorem withThm_pos (s : State) (f : Thermal → Thermal) : (withThm s f).pos = s.pos := rfl
@[simp] theorem withThm_thm (s : State) (f : Thermal → Thermal) : (withThm s f).thm = f s.thm := rfl
@[simp] theorem withThm_log (s : State) (f : Thermal → Thermal) : (withThm s f).log = s.log := rfl
@[simp] theorem withThm_tb (s : State) (f : Thermal → Thermal) : (withThm s f).tb = s.tb := rfl
@[simp] theorem withThm_xfer (s : State) (f : Thermal → Thermal) : (withThm s f).xfer = s.xfer := rfl
@[simp] theorem withThm_pending (s : State) (f : Thermal → Thermal) : (withThm s f).pending = s.pending := rfl

@[simp] theorem withPos_phys (s : State) (f : Position → Position) : (withPos s f).phys = s.phys := rfl
@[simp] theorem withPos_free (s : State) (f : Position → Position) : (withPos s f).free = s.free := rfl
@[simp] theorem withPos_pow (s : State) (f : Position → Position) : (withPos s f).pow = s.pow := rfl
@[simp] theorem withPos_pod (s : State) (f : Position → Position) : (withPos s f).pod = s.pod := rfl
@[simp] theorem withPos_par (s : State) (f : Position → Position) : (withPos s f).par = s.par := rfl
@[simp] theorem withPos_hub (s : State) (f : Position → Position) : (withPos s f).hub = s.hub := rfl
@[simp] theorem withPos_chn (s : State) (f : Position → Position) : (withPos s f).chn = s.chn := rfl
@[simp] theorem withPos_met (s : State) (f : Position → Position) : (withPos s f).met = s.met := rfl
@[simp] theorem withPos_est (s : State) (f : Position → Position) : (withPos s f).est = s.est := rfl
@[simp] theorem withPos_imp (s : State) (f : Position → Position) : (withPos s f).imp = s.imp := rfl
@[simp] theorem withPos_husk (s : State) (f : Position → Position) : (withPos s f).husk = s.husk := rfl
@[simp] theorem withPos_prt (s : State) (f : Position → Position) : (withPos s f).prt = s.prt := rfl
@[simp] theorem withPos_seq (s : State) (f : Position → Position) : (withPos s f).seq = s.seq := rfl
@[simp] theorem withPos_lsw (s : State) (f : Position → Position) : (withPos s f).lsw = s.lsw := rfl
@[simp] theorem withPos_ctl (s : State) (f : Position → Position) : (withPos s f).ctl = s.ctl := rfl
@[simp] theorem withPos_pos (s : State) (f : Position → Position) : (withPos s f).pos = f s.pos := rfl
@[simp] theorem withPos_thm (s : State) (f : Position → Position) : (withPos s f).thm = s.thm := rfl
@[simp] theorem withPos_log (s : State) (f : Position → Position) : (withPos s f).log = s.log := rfl
@[simp] theorem withPos_tb (s : State) (f : Position → Position) : (withPos s f).tb = s.tb := rfl
@[simp] theorem withPos_xfer (s : State) (f : Position → Position) : (withPos s f).xfer = s.xfer := rfl
@[simp] theorem withPos_pending (s : State) (f : Position → Position) : (withPos s f).pending = s.pending := rfl

@[simp] theorem withMet_phys (s : State) (f : Metrology → Metrology) : (withMet s f).phys = s.phys := rfl
@[simp] theorem withMet_free (s : State) (f : Metrology → Metrology) : (withMet s f).free = s.free := rfl
@[simp] theorem withMet_pow (s : State) (f : Metrology → Metrology) : (withMet s f).pow = s.pow := rfl
@[simp] theorem withMet_pod (s : State) (f : Metrology → Metrology) : (withMet s f).pod = s.pod := rfl
@[simp] theorem withMet_par (s : State) (f : Metrology → Metrology) : (withMet s f).par = s.par := rfl
@[simp] theorem withMet_hub (s : State) (f : Metrology → Metrology) : (withMet s f).hub = s.hub := rfl
@[simp] theorem withMet_chn (s : State) (f : Metrology → Metrology) : (withMet s f).chn = s.chn := rfl
@[simp] theorem withMet_met (s : State) (f : Metrology → Metrology) : (withMet s f).met = f s.met := rfl
@[simp] theorem withMet_est (s : State) (f : Metrology → Metrology) : (withMet s f).est = s.est := rfl
@[simp] theorem withMet_imp (s : State) (f : Metrology → Metrology) : (withMet s f).imp = s.imp := rfl
@[simp] theorem withMet_husk (s : State) (f : Metrology → Metrology) : (withMet s f).husk = s.husk := rfl
@[simp] theorem withMet_prt (s : State) (f : Metrology → Metrology) : (withMet s f).prt = s.prt := rfl
@[simp] theorem withMet_seq (s : State) (f : Metrology → Metrology) : (withMet s f).seq = s.seq := rfl
@[simp] theorem withMet_lsw (s : State) (f : Metrology → Metrology) : (withMet s f).lsw = s.lsw := rfl
@[simp] theorem withMet_ctl (s : State) (f : Metrology → Metrology) : (withMet s f).ctl = s.ctl := rfl
@[simp] theorem withMet_pos (s : State) (f : Metrology → Metrology) : (withMet s f).pos = s.pos := rfl
@[simp] theorem withMet_thm (s : State) (f : Metrology → Metrology) : (withMet s f).thm = s.thm := rfl
@[simp] theorem withMet_log (s : State) (f : Metrology → Metrology) : (withMet s f).log = s.log := rfl
@[simp] theorem withMet_tb (s : State) (f : Metrology → Metrology) : (withMet s f).tb = s.tb := rfl
@[simp] theorem withMet_xfer (s : State) (f : Metrology → Metrology) : (withMet s f).xfer = s.xfer := rfl
@[simp] theorem withMet_pending (s : State) (f : Metrology → Metrology) : (withMet s f).pending = s.pending := rfl

@[simp] theorem withHub_phys (s : State) (f : Hub → Hub) : (withHub s f).phys = s.phys := rfl
@[simp] theorem withHub_free (s : State) (f : Hub → Hub) : (withHub s f).free = s.free := rfl
@[simp] theorem withHub_pow (s : State) (f : Hub → Hub) : (withHub s f).pow = s.pow := rfl
@[simp] theorem withHub_pod (s : State) (f : Hub → Hub) : (withHub s f).pod = s.pod := rfl
@[simp] theorem withHub_par (s : State) (f : Hub → Hub) : (withHub s f).par = s.par := rfl
@[simp] theorem withHub_hub (s : State) (f : Hub → Hub) : (withHub s f).hub = f s.hub := rfl
@[simp] theorem withHub_chn (s : State) (f : Hub → Hub) : (withHub s f).chn = s.chn := rfl
@[simp] theorem withHub_met (s : State) (f : Hub → Hub) : (withHub s f).met = s.met := rfl
@[simp] theorem withHub_est (s : State) (f : Hub → Hub) : (withHub s f).est = s.est := rfl
@[simp] theorem withHub_imp (s : State) (f : Hub → Hub) : (withHub s f).imp = s.imp := rfl
@[simp] theorem withHub_husk (s : State) (f : Hub → Hub) : (withHub s f).husk = s.husk := rfl
@[simp] theorem withHub_prt (s : State) (f : Hub → Hub) : (withHub s f).prt = s.prt := rfl
@[simp] theorem withHub_seq (s : State) (f : Hub → Hub) : (withHub s f).seq = s.seq := rfl
@[simp] theorem withHub_lsw (s : State) (f : Hub → Hub) : (withHub s f).lsw = s.lsw := rfl
@[simp] theorem withHub_ctl (s : State) (f : Hub → Hub) : (withHub s f).ctl = s.ctl := rfl
@[simp] theorem withHub_pos (s : State) (f : Hub → Hub) : (withHub s f).pos = s.pos := rfl
@[simp] theorem withHub_thm (s : State) (f : Hub → Hub) : (withHub s f).thm = s.thm := rfl
@[simp] theorem withHub_log (s : State) (f : Hub → Hub) : (withHub s f).log = s.log := rfl
@[simp] theorem withHub_tb (s : State) (f : Hub → Hub) : (withHub s f).tb = s.tb := rfl
@[simp] theorem withHub_xfer (s : State) (f : Hub → Hub) : (withHub s f).xfer = s.xfer := rfl
@[simp] theorem withHub_pending (s : State) (f : Hub → Hub) : (withHub s f).pending = s.pending := rfl

@[simp] theorem withLsw_phys (s : State) (f : LoadArray → LoadArray) : (withLsw s f).phys = s.phys := rfl
@[simp] theorem withLsw_free (s : State) (f : LoadArray → LoadArray) : (withLsw s f).free = s.free := rfl
@[simp] theorem withLsw_pow (s : State) (f : LoadArray → LoadArray) : (withLsw s f).pow = s.pow := rfl
@[simp] theorem withLsw_pod (s : State) (f : LoadArray → LoadArray) : (withLsw s f).pod = s.pod := rfl
@[simp] theorem withLsw_par (s : State) (f : LoadArray → LoadArray) : (withLsw s f).par = s.par := rfl
@[simp] theorem withLsw_hub (s : State) (f : LoadArray → LoadArray) : (withLsw s f).hub = s.hub := rfl
@[simp] theorem withLsw_chn (s : State) (f : LoadArray → LoadArray) : (withLsw s f).chn = s.chn := rfl
@[simp] theorem withLsw_met (s : State) (f : LoadArray → LoadArray) : (withLsw s f).met = s.met := rfl
@[simp] theorem withLsw_est (s : State) (f : LoadArray → LoadArray) : (withLsw s f).est = s.est := rfl
@[simp] theorem withLsw_imp (s : State) (f : LoadArray → LoadArray) : (withLsw s f).imp = s.imp := rfl
@[simp] theorem withLsw_husk (s : State) (f : LoadArray → LoadArray) : (withLsw s f).husk = s.husk := rfl
@[simp] theorem withLsw_prt (s : State) (f : LoadArray → LoadArray) : (withLsw s f).prt = s.prt := rfl
@[simp] theorem withLsw_seq (s : State) (f : LoadArray → LoadArray) : (withLsw s f).seq = s.seq := rfl
@[simp] theorem withLsw_lsw (s : State) (f : LoadArray → LoadArray) : (withLsw s f).lsw = f s.lsw := rfl
@[simp] theorem withLsw_ctl (s : State) (f : LoadArray → LoadArray) : (withLsw s f).ctl = s.ctl := rfl
@[simp] theorem withLsw_pos (s : State) (f : LoadArray → LoadArray) : (withLsw s f).pos = s.pos := rfl
@[simp] theorem withLsw_thm (s : State) (f : LoadArray → LoadArray) : (withLsw s f).thm = s.thm := rfl
@[simp] theorem withLsw_log (s : State) (f : LoadArray → LoadArray) : (withLsw s f).log = s.log := rfl
@[simp] theorem withLsw_tb (s : State) (f : LoadArray → LoadArray) : (withLsw s f).tb = s.tb := rfl
@[simp] theorem withLsw_xfer (s : State) (f : LoadArray → LoadArray) : (withLsw s f).xfer = s.xfer := rfl
@[simp] theorem withLsw_pending (s : State) (f : LoadArray → LoadArray) : (withLsw s f).pending = s.pending := rfl

@[simp] theorem withPod_phys (s : State) (f : Pod → Pod) : (withPod s f).phys = s.phys := rfl
@[simp] theorem withPod_free (s : State) (f : Pod → Pod) : (withPod s f).free = s.free := rfl
@[simp] theorem withPod_pow (s : State) (f : Pod → Pod) : (withPod s f).pow = s.pow := rfl
@[simp] theorem withPod_pod (s : State) (f : Pod → Pod) : (withPod s f).pod = f s.pod := rfl
@[simp] theorem withPod_par (s : State) (f : Pod → Pod) : (withPod s f).par = s.par := rfl
@[simp] theorem withPod_hub (s : State) (f : Pod → Pod) : (withPod s f).hub = s.hub := rfl
@[simp] theorem withPod_chn (s : State) (f : Pod → Pod) : (withPod s f).chn = s.chn := rfl
@[simp] theorem withPod_met (s : State) (f : Pod → Pod) : (withPod s f).met = s.met := rfl
@[simp] theorem withPod_est (s : State) (f : Pod → Pod) : (withPod s f).est = s.est := rfl
@[simp] theorem withPod_imp (s : State) (f : Pod → Pod) : (withPod s f).imp = s.imp := rfl
@[simp] theorem withPod_husk (s : State) (f : Pod → Pod) : (withPod s f).husk = s.husk := rfl
@[simp] theorem withPod_prt (s : State) (f : Pod → Pod) : (withPod s f).prt = s.prt := rfl
@[simp] theorem withPod_seq (s : State) (f : Pod → Pod) : (withPod s f).seq = s.seq := rfl
@[simp] theorem withPod_lsw (s : State) (f : Pod → Pod) : (withPod s f).lsw = s.lsw := rfl
@[simp] theorem withPod_ctl (s : State) (f : Pod → Pod) : (withPod s f).ctl = s.ctl := rfl
@[simp] theorem withPod_pos (s : State) (f : Pod → Pod) : (withPod s f).pos = s.pos := rfl
@[simp] theorem withPod_thm (s : State) (f : Pod → Pod) : (withPod s f).thm = s.thm := rfl
@[simp] theorem withPod_log (s : State) (f : Pod → Pod) : (withPod s f).log = s.log := rfl
@[simp] theorem withPod_tb (s : State) (f : Pod → Pod) : (withPod s f).tb = s.tb := rfl
@[simp] theorem withPod_xfer (s : State) (f : Pod → Pod) : (withPod s f).xfer = s.xfer := rfl
@[simp] theorem withPod_pending (s : State) (f : Pod → Pod) : (withPod s f).pending = s.pending := rfl

@[simp] theorem withChn_phys (s : State) (f : Chain → Chain) : (withChn s f).phys = s.phys := rfl
@[simp] theorem withChn_free (s : State) (f : Chain → Chain) : (withChn s f).free = s.free := rfl
@[simp] theorem withChn_pow (s : State) (f : Chain → Chain) : (withChn s f).pow = s.pow := rfl
@[simp] theorem withChn_pod (s : State) (f : Chain → Chain) : (withChn s f).pod = s.pod := rfl
@[simp] theorem withChn_par (s : State) (f : Chain → Chain) : (withChn s f).par = s.par := rfl
@[simp] theorem withChn_hub (s : State) (f : Chain → Chain) : (withChn s f).hub = s.hub := rfl
@[simp] theorem withChn_chn (s : State) (f : Chain → Chain) : (withChn s f).chn = f s.chn := rfl
@[simp] theorem withChn_met (s : State) (f : Chain → Chain) : (withChn s f).met = s.met := rfl
@[simp] theorem withChn_est (s : State) (f : Chain → Chain) : (withChn s f).est = s.est := rfl
@[simp] theorem withChn_imp (s : State) (f : Chain → Chain) : (withChn s f).imp = s.imp := rfl
@[simp] theorem withChn_husk (s : State) (f : Chain → Chain) : (withChn s f).husk = s.husk := rfl
@[simp] theorem withChn_prt (s : State) (f : Chain → Chain) : (withChn s f).prt = s.prt := rfl
@[simp] theorem withChn_seq (s : State) (f : Chain → Chain) : (withChn s f).seq = s.seq := rfl
@[simp] theorem withChn_lsw (s : State) (f : Chain → Chain) : (withChn s f).lsw = s.lsw := rfl
@[simp] theorem withChn_ctl (s : State) (f : Chain → Chain) : (withChn s f).ctl = s.ctl := rfl
@[simp] theorem withChn_pos (s : State) (f : Chain → Chain) : (withChn s f).pos = s.pos := rfl
@[simp] theorem withChn_thm (s : State) (f : Chain → Chain) : (withChn s f).thm = s.thm := rfl
@[simp] theorem withChn_log (s : State) (f : Chain → Chain) : (withChn s f).log = s.log := rfl
@[simp] theorem withChn_tb (s : State) (f : Chain → Chain) : (withChn s f).tb = s.tb := rfl
@[simp] theorem withChn_xfer (s : State) (f : Chain → Chain) : (withChn s f).xfer = s.xfer := rfl
@[simp] theorem withChn_pending (s : State) (f : Chain → Chain) : (withChn s f).pending = s.pending := rfl

@[simp] theorem withTb_phys (s : State) (f : Timebase → Timebase) : (withTb s f).phys = s.phys := rfl
@[simp] theorem withTb_free (s : State) (f : Timebase → Timebase) : (withTb s f).free = s.free := rfl
@[simp] theorem withTb_pow (s : State) (f : Timebase → Timebase) : (withTb s f).pow = s.pow := rfl
@[simp] theorem withTb_pod (s : State) (f : Timebase → Timebase) : (withTb s f).pod = s.pod := rfl
@[simp] theorem withTb_par (s : State) (f : Timebase → Timebase) : (withTb s f).par = s.par := rfl
@[simp] theorem withTb_hub (s : State) (f : Timebase → Timebase) : (withTb s f).hub = s.hub := rfl
@[simp] theorem withTb_chn (s : State) (f : Timebase → Timebase) : (withTb s f).chn = s.chn := rfl
@[simp] theorem withTb_met (s : State) (f : Timebase → Timebase) : (withTb s f).met = s.met := rfl
@[simp] theorem withTb_est (s : State) (f : Timebase → Timebase) : (withTb s f).est = s.est := rfl
@[simp] theorem withTb_imp (s : State) (f : Timebase → Timebase) : (withTb s f).imp = s.imp := rfl
@[simp] theorem withTb_husk (s : State) (f : Timebase → Timebase) : (withTb s f).husk = s.husk := rfl
@[simp] theorem withTb_prt (s : State) (f : Timebase → Timebase) : (withTb s f).prt = s.prt := rfl
@[simp] theorem withTb_seq (s : State) (f : Timebase → Timebase) : (withTb s f).seq = s.seq := rfl
@[simp] theorem withTb_lsw (s : State) (f : Timebase → Timebase) : (withTb s f).lsw = s.lsw := rfl
@[simp] theorem withTb_ctl (s : State) (f : Timebase → Timebase) : (withTb s f).ctl = s.ctl := rfl
@[simp] theorem withTb_pos (s : State) (f : Timebase → Timebase) : (withTb s f).pos = s.pos := rfl
@[simp] theorem withTb_thm (s : State) (f : Timebase → Timebase) : (withTb s f).thm = s.thm := rfl
@[simp] theorem withTb_log (s : State) (f : Timebase → Timebase) : (withTb s f).log = s.log := rfl
@[simp] theorem withTb_tb (s : State) (f : Timebase → Timebase) : (withTb s f).tb = f s.tb := rfl
@[simp] theorem withTb_xfer (s : State) (f : Timebase → Timebase) : (withTb s f).xfer = s.xfer := rfl
@[simp] theorem withTb_pending (s : State) (f : Timebase → Timebase) : (withTb s f).pending = s.pending := rfl

/-! ### Reading back an instance that was changed -/

@[simp] theorem portOf_modPort (p : Port) (f : PortState → PortState) (s : State) : portOf (modPort p f s) p = f (portOf s p) := by
  simp [portOf, modPort]

@[simp] theorem tripOf_modTrip (n : Nat) (f : Trip → Trip) (s : State) : tripOf (modTrip n f s) n = f (tripOf s n) := by
  simp [tripOf, modTrip]

@[simp] theorem loadOf_modLoad (n : Nat) (f : Load → Load) (s : State) : loadOf (modLoad n f s) n = f (loadOf s n) := by
  simp [loadOf, modLoad]

@[simp] theorem strOf_modStr (j : Nat) (f : StrSeq → StrSeq) (s : State) : strOf (modStr j f s) j = f (strOf s j) := by
  simp [strOf, modStr]

@[simp] theorem loopOf_modLoop (k : Nat) (f : Loop → Loop) (s : State) : loopOf (modLoop k f s) k = f (loopOf s k) := by
  simp [loopOf, modLoop]

@[simp] theorem chanAt_modPos (ch : Nat) (f : PosChan → PosChan) (s : State) : chanAt (modPos ch f s) ch = f (chanAt s ch) := by
  simp [chanAt, modPos]

@[simp] theorem cellOf_modCell (c : Nat) (f : CellSample → CellSample) (s : State) : cellOf (modCell c f s) c = f (cellOf s c) := by
  simp [cellOf, modCell]

@[simp] theorem chanOf_modChan (c : Chan) (f : Channel → Channel) (s : State) : chanOf (modChan c f s) c = f (chanOf s c) := by
  cases c <;> simp [chanOf, modChan, modHs, modLs, hsOf, lsOf]

end Sys2Proof.Machine
end

