-- ==== Sys2Proof/Laws/Memory.lean ====
section
/-!
SUPPORT. The memories of OTP and of the patch region: a read after a write, and that every operation keeps the canonical form.
-/
namespace Sys2Proof.Machine
open Sys2Proof

/-- Keys strictly rising, as a chain. -/
theorem mrising_cons {a : Nat} {l : List Nat} : mrising (a :: l) = true ↔ (∀ b ∈ l, a < b) ∧ mrising l = true := by
  induction l generalizing a with
  | nil => simp [mrising]
  | cons b l ih =>
    simp only [mrising, Bool.and_eq_true, decide_eq_true_eq]
    constructor
    · rintro ⟨h, k⟩
      refine ⟨?_, k⟩
      intro c hc
      rcases List.mem_cons.mp hc with rfl | hc
      · exact h
      · exact Nat.lt_trans h ((ih.mp k).1 c hc)
    · rintro ⟨h, k⟩
      exact ⟨h b (List.mem_cons_self ..), k⟩

theorem mem_keys_mput {α : Type} {m : SMap α} {k j : Nat} {v : α} (h : j ∈ mkeys (mput m k v)) : j = k ∨ j ∈ mkeys m := by
  induction m with
  | nil => simp [mput, mkeys] at h; exact Or.inl h
  | cons e m ih =>
    obtain ⟨a, b⟩ := e
    simp only [mput] at h
    split at h
    · simpa [mkeys] using h
    · split at h
      · rename_i h1; subst h1; simp only [mkeys, List.map_cons, List.mem_cons] at h ⊢; exact h.elim Or.inl fun x => Or.inr (Or.inr x)
      · simp only [mkeys, List.map_cons, List.mem_cons] at h ⊢
        rcases h with h | h
        · exact Or.inr (Or.inl h)
        · rcases ih h with h | h
          · exact Or.inl h
          · exact Or.inr (Or.inr h)

theorem mem_keys_mdel {α : Type} {m : SMap α} {k j : Nat} (h : j ∈ mkeys (mdel m k)) : j ∈ mkeys m := by
  induction m with
  | nil => simp [mdel, mkeys] at h
  | cons e m ih =>
    obtain ⟨a, b⟩ := e
    simp only [mdel] at h
    split at h
    · simp [mkeys] at h ⊢; exact Or.inr h
    · simp only [mkeys, List.map_cons, List.mem_cons] at h ⊢
      exact h.imp id ih

theorem mput_wf {α : Type} (m : SMap α) (k : Nat) (v : α) (h : mwf m = true) : mwf (mput m k v) = true := by
  induction m with
  | nil => rfl
  | cons e m ih =>
    obtain ⟨a, b⟩ := e
    have h' : mrising (a :: mkeys m) = true := h
    rw [mrising_cons] at h'
    simp only [mput]
    split
    · rename_i h1
      show mrising (k :: a :: mkeys m) = true
      simp only [mrising_cons]
      refine ⟨?_, h'⟩
      intro c hc
      rcases List.mem_cons.mp hc with rfl | hc
      · exact h1
      · exact Nat.lt_trans h1 (h'.1 c hc)
    · split
      · rename_i h1; subst h1
        show mrising (k :: mkeys m) = true
        rw [mrising_cons]; exact h'
      · rename_i h1 h2
        show mrising (a :: mkeys (mput m k v)) = true
        rw [mrising_cons]
        refine ⟨?_, ih h'.2⟩
        intro c hc
        rcases mem_keys_mput hc with rfl | hc
        · omega
        · exact h'.1 c hc

theorem mdel_wf {α : Type} (m : SMap α) (k : Nat) (h : mwf m = true) : mwf (mdel m k) = true := by
  induction m with
  | nil => rfl
  | cons e m ih =>
    obtain ⟨a, b⟩ := e
    have h' : mrising (a :: mkeys m) = true := h
    rw [mrising_cons] at h'
    simp only [mdel]
    split
    · exact h'.2
    · show mrising (a :: mkeys (mdel m k)) = true
      rw [mrising_cons]
      exact ⟨fun c hc => h'.1 c (mem_keys_mdel hc), ih h'.2⟩

theorem mfind_none {α : Type} (m : SMap α) (k : Nat) (h : k ∉ mkeys m) : mfind m k = none := by
  induction m with
  | nil => rfl
  | cons e m ih =>
    obtain ⟨a, b⟩ := e
    simp only [mkeys, List.map_cons, List.mem_cons, not_or] at h
    simp only [mfind]
    rw [if_neg (fun e => h.1 e.symm)]
    exact ih h.2

theorem mfind_mdel_self {α : Type} (m : SMap α) (k : Nat) (h : mwf m = true) : mfind (mdel m k) k = none := by
  induction m with
  | nil => rfl
  | cons e m ih =>
    obtain ⟨a, b⟩ := e
    have h' : mrising (a :: mkeys m) = true := h
    rw [mrising_cons] at h'
    simp only [mdel]
    split
    · rename_i h1; subst h1
      exact mfind_none _ _ fun hk => Nat.lt_irrefl _ (h'.1 _ hk)
    · rename_i h1
      simp only [mfind]; rw [if_neg h1]; exact ih h'.2

theorem mfind_mdel_other {α : Type} (m : SMap α) {k j : Nat} (hj : j ≠ k) : mfind (mdel m k) j = mfind m j := by
  induction m with
  | nil => rfl
  | cons e m ih =>
    obtain ⟨a, b⟩ := e
    simp only [mdel]
    split
    · rename_i h1; subst h1
      simp only [mfind]; rw [if_neg (fun e => hj e.symm)]
    · simp only [mfind, ih]

theorem mem_mput {α : Type} {m : SMap α} {k : Nat} {v : α} {e : Nat × α} (h : e ∈ mput m k v) : e = (k, v) ∨ e ∈ m := by
  induction m with
  | nil => simp [mput] at h; exact Or.inl h
  | cons a m ih =>
    obtain ⟨a, b⟩ := a
    simp only [mput] at h
    split at h
    · simpa using h
    · split at h
      · simp at h ⊢; exact h.imp id Or.inr
      · simp only [List.mem_cons] at h ⊢
        rcases h with h | h
        · exact Or.inr (Or.inl h)
        · exact (ih h).imp id Or.inr

theorem mem_mdel {α : Type} {m : SMap α} {k : Nat} {e : Nat × α} (h : e ∈ mdel m k) : e ∈ m := by
  induction m with
  | nil => simp [mdel] at h
  | cons a m ih =>
    obtain ⟨a, b⟩ := a
    simp only [mdel] at h
    split at h
    · exact List.mem_cons_of_mem _ h
    · simp only [List.mem_cons] at h ⊢
      exact h.imp id ih

/-! ### Bytes -/

theorem cellWrite_wf (m : List Host.Cell) (a : Nat) (b : Byte) (h : Memory.wf m = true) : Memory.wf (cellWrite m a b) = true := by
  unfold Memory.wf at *
  rw [Bool.and_eq_true, List.all_eq_true] at *
  unfold cellWrite
  split
  · exact ⟨mdel_wf m a h.1, fun x hx => h.2 x (mem_mdel hx)⟩
  · rename_i hb
    refine ⟨mput_wf m a b h.1, ?_⟩
    intro x hx
    rcases mem_mput hx with rfl | hx
    · simpa using hb
    · exact h.2 x hx

theorem cellRead_write_self (m : List Host.Cell) (a : Nat) (b : Byte) (h : Memory.wf m = true) : cellRead (cellWrite m a b) a = b := by
  unfold Memory.wf at h
  rw [Bool.and_eq_true] at h
  unfold cellRead cellWrite
  split
  · rename_i hb; unfold mget; rw [mfind_mdel_self m a h.1, hb]; rfl
  · simp

theorem cellRead_write_other (m : List Host.Cell) {a c : Nat} (b : Byte) (h : c ≠ a) : cellRead (cellWrite m a b) c = cellRead m c := by
  unfold cellRead cellWrite
  split
  · unfold mget; rw [mfind_mdel_other m h]
  · exact mget_mput_other _ _ _ h

/-- Every write of bytes keeps the canonical form. -/
theorem cellWrites_wf (bs : Bytes) (m : List Host.Cell) (a : Nat) (h : Memory.wf m = true) : Memory.wf (cellWrites m a bs) = true := by
  induction bs generalizing m a with
  | nil => exact h
  | cons b bs ih => exact ih _ _ (cellWrite_wf m a b h)

theorem cellWrites_outside (bs : Bytes) (m : List Host.Cell) (a c : Nat) (h : c < a ∨ a + bs.length ≤ c) :
    cellRead (cellWrites m a bs) c = cellRead m c := by
  induction bs generalizing m a with
  | nil => rfl
  | cons b bs ih =>
    simp only [List.length_cons] at h
    simp only [cellWrites]
    rw [ih _ _ (by omega), cellRead_write_other _ _ (by omega)]

/-- Bytes written read back. -/
theorem cellWrites_read (bs : Bytes) (m : List Host.Cell) (a i : Nat) (h : Memory.wf m = true) (hi : i < bs.length) :
    cellRead (cellWrites m a bs) (a + i) = bs.getD i 0 := by
  induction bs generalizing m a i with
  | nil => simp at hi
  | cons b bs ih =>
    simp only [cellWrites]
    cases i with
    | zero => rw [cellWrites_outside _ _ _ _ (by omega)]; simpa using cellRead_write_self m a b h
    | succ i =>
      have := ih (cellWrite m a b) (a + 1) i (cellWrite_wf m a b h) (by simpa using hi)
      rw [show a + (i + 1) = a + 1 + i by omega, this]; simp

/-- Programming antifuses keeps the canonical form. -/
theorem otpSet_wf (bs : Bytes) (m : List Host.Cell) (a : Nat) (h : Memory.wf m = true) : Memory.wf (otpSet m a bs) = true := by
  induction bs generalizing m a with
  | nil => exact h
  | cons b bs ih => exact ih _ _ (cellWrite_wf m a _ h)

/-- Programming antifuses clears none. -/
theorem otpSet_keeps (bs : Bytes) (m : List Host.Cell) (a c : Nat) (h : Memory.wf m = true) :
    cellRead m c &&& cellRead (otpSet m a bs) c = cellRead m c := by
  induction bs generalizing m a with
  | nil => exact BitVec.and_self
  | cons b bs ih =>
    have k := ih (cellWrite m a (cellRead m a ||| b)) (a + 1) (cellWrite_wf m a _ h)
    by_cases hc : c = a
    · subst hc
      rw [cellRead_write_self m c _ h] at k
      simp only [otpSet]
      generalize cellRead (otpSet (cellWrite m c (cellRead m c ||| b)) (c + 1) bs) c = y at *
      ext i hi
      have := congrArg (fun z => z.getLsbD i) k
      simp only [BitVec.getLsbD_and, BitVec.getLsbD_or] at this
      simp only [← BitVec.getLsbD_eq_getElem, BitVec.getLsbD_and]
      cases h1 : (cellRead m c).getLsbD i <;> simp_all
    · rw [cellRead_write_other m _ hc] at k
      exact k

theorem reset_memory_wf : Memory.wf State.reset.pod.otp = true ∧ Memory.wf State.reset.pod.region = true := ⟨rfl, rfl⟩

end Sys2Proof.Machine
end

