-- ==== Sys2Proof/WellFormed.lean ====
section
/-!
DEFINITION. Which commands are well formed: every operand within the range its own chapter gives it. Lengths and codes that
the module itself judges (an opcode's payload, a bad CRC, an unknown port number) are no matter of form.
-/
namespace Sys2Proof

/-- Keys strictly rising. -/
def keysRise : List Nat → Bool
  | [] => true
  | [_] => true
  | a :: b :: l => decide (a < b) && keysRise (b :: l)

/-- A sparse map in its canonical form. -/
def smapWf {α : Type} (m : SMap α) : Bool := keysRise (m.map (·.1))

/-- A request's header fields within their widths, and a trailer of 8 bytes exactly where TRL flags one (Table 15.5). -/
def Request.wf (r : Request) : Bool :=
  decide (r.tag < 1024) && decide (r.tc < 4) && decide (r.epoch < 65536) && decide (r.addr < 256) && decide (r.seq < 65536)
  && decide (r.crc < 65536) && decide (r.payload.length < 65536) && r.trailer.length == (if r.trl then 8 else 0)
  && decide (r.res < 256)

/-- Parts, groups and lanes of a comparator test (Table 14.5 packs them into bytes). -/
def CtFail.wf (c : CtFail) : Bool := decide (c.part < 256) && decide (c.group < 256) && decide (c.lane < 256)

/-- Boot checks whose failing part, where there is one, is well formed. -/
def BootChecks.wf (b : BootChecks) : Bool := b.ctFail.all CtFail.wf

/-- A found node: its UID of four words, a node type, and 16-bit measurements (Table 02.5). -/
def FoundNode.wf (f : FoundNode) : Bool :=
  f.uid.length == 4 && (f.nodeType == 1 || f.nodeType == 2) && decide (f.rev < 65536) && decide (f.tLoop < 65536)
  && decide (f.repFwd < 65536) && decide (f.repRev < 65536) && decide (f.refNom < 65536)

/-- An enumeration that meets at most 64 nodes, or more of them. -/
def EnumRun.wf (e : EnumRun) : Bool := e.nodes.all FoundNode.wf && decide (e.nodes.length ≤ 64)

/-- A segment of at most 63 payload words (Table 02.3). -/
def Segment.wf (g : Segment) : Bool := decide (g.data.length ≤ 63)

/-- A train of a ring, with at most 63 master words and one segment per node (Tables 02.2 and 02.3). -/
def Train.wf (t : Train) : Bool :=
  decide (t.ring < 8) && decide (t.payload.length ≤ 63) && decide (t.segs.length ≤ 64) && t.segs.all Segment.wf

/-- Ten wideband values of a sampling instant (R144). -/
def Conversions.wf (c : Conversions) : Bool := decide (c.wide.length ≤ 10)

/-- A PTP clock identity of 64 bits. -/
def PtpSync.wf (m : PtpSync) : Bool := decide (m.clockId < 2 ^ 64)

/-- Fields of a SYNC notice within their widths (Table 17.1). -/
def SyncMsg.wf (m : SyncMsg) : Bool := decide (m.kind < 256) && decide (m.quality < 256) && decide (m.number < 65536)

/-- One of the 40 low-side or 12 high-side channels (Table 09.1). -/
def Chan.wf : Chan → Bool
  | .hs n => decide (n < 12)
  | .ls n => decide (n < 40)

/-- A string of the block, or the main pair. -/
def Pair.wf : Pair → Bool
  | .string j => decide (j < 16)
  | .main => true

/-- Measurements of channels in canonical form. -/
def LoadMeas.wf (m : LoadMeas) : Bool := smapWf m.amps && smapWf m.junct

/-- A 16-bit temperature code. -/
def tempCode (x : Int) : Bool := decide (-32768 ≤ x) && decide (x ≤ 32767)

/-- Readings that are temperature codes. -/
def ModSensors.wf (m : ModSensors) : Bool := [m.die, m.hv, m.aon, m.baseA, m.baseB].all fun x => x.all tempCode

/-- The command is well formed. -/
def Instr.wf : Instr → Bool
  -- power, start, Bulb and power-down (chapter 14)
  | .auxInQualified _ => true
  | .railEnableDelayExpiry _ => true
  | .railInWindow _ rail => decide (1 ≤ rail ∧ rail ≤ 15)
  | .railWindowTimeout _ rail => decide (1 ≤ rail ∧ rail ≤ 15)
  | .marchTestDone _ _ _ => true
  | .ringPowerUp _ ring run => decide (ring < 8) && run.wf
  | .startDone _ => true
  | .hvStartCalDone _ => true
  | .startWatchdogExpiry _ => true
  | .startRetry _ => true
  | .auxInLow _ => true
  | .pdMainOpen _ => true
  | .pdStringOpen _ => true
  | .pdDisconnectorOff _ => true
  | .retentionRecordCommit _ _ => true
  | .pdRailsDown _ => true
  | .abortOff _ rail => decide (1 ≤ rail ∧ rail ≤ 15)
  | .bulbEntry _ => true
  | .wake _ _ => true
  | .wakeTimeout _ => true
  | .thermalHardLimit _ tsBaseA tsAon => tempCode tsBaseA && tempCode tsAon
  | .thermalRestart _ tsBaseA tsAon => tempCode tsBaseA && tempCode tsAon
  | .supervisorRestart _ => true
  | .auxWarnCrossing _ auxIn10mV => decide (auxIn10mV < 65536)
  | .battWarnCrossing _ batt10mV => decide (batt10mV < 65536)
  -- Pod and memory (chapter 13)
  | .comparatorMismatch _ _ _ _ ctFail => (ctFail.all CtFail.wf)
  | .watchdogService _ core key ctFail => decide (core < 4) && decide (key < 65536) && (ctFail.all CtFail.wf)
  | .watchdogFault _ core ctFail => decide (core < 4) && (ctFail.all CtFail.wf)
  | .busError _ ctFail => (ctFail.all CtFail.wf)
  | .firmwareException _ _ ctFail => (ctFail.all CtFail.wf)
  | .shelledSelfTest _ core _ ctFail => decide (core < 4) && (ctFail.all CtFail.wf)
  | .heartbeatMissing _ core ctFail => decide (core < 4) && (ctFail.all CtFail.wf)
  | .mailboxResume _ _ _ _ => true
  | .podDeadTimeout _ => true
  | .eccCorrected _ bank _ => decide (bank < 4)
  | .eccUncorrectable _ _ _ _ ctFail => (ctFail.all CtFail.wf)
  | .scrubPass _ _ => true
  | .otpProgramDone _ _ => true
  -- mailbox commands
  | .sysInfo _ rq => rq.wf
  | .paramGet _ rq => rq.wf
  | .paramSet _ rq => rq.wf
  | .paramCommit _ rq => rq.wf
  | .paramHApply _ id inst => decide (id < 65536) && decide (inst < 65536)
  | .paramBulkGet _ rq => rq.wf
  | .paramBulkSet _ rq => rq.wf
  | .snapRead _ rq => rq.wf
  | .snapWrite _ rq => rq.wf
  | .transferTimeout _ _ => true
  | .imageReleaseTimeout _ _ => true
  | .pwrStatus _ rq => rq.wf
  | .bulbEnter _ rq => rq.wf
  | .restart _ rq => rq.wf
  | .podStatus _ rq => rq.wf
  | .patchWrite _ rq => rq.wf
  | .patchVerify _ rq => rq.wf
  | .patchApply _ rq => rq.wf
  | .patchDiscard _ rq => rq.wf
  | .otpRead _ rq => rq.wf
  | .otpProgram _ rq => rq.wf
  | .authBegin _ rq => rq.wf
  | .authProve _ rq => rq.wf
  | .authEnd _ rq => rq.wf
  | .portStatus _ rq => rq.wf
  | .ringEnumerate _ rq runs => rq.wf && smapWf runs && runs.all fun e => decide (e.1 < 8) && e.2.wf
  | .ringRestore _ rq => rq.wf
  | .chnStatus _ rq => rq.wf
  | .bleedHold _ rq => rq.wf
  | .cellRead _ rq => rq.wf
  | .tempRead _ rq => rq.wf
  | .stringRead _ rq => rq.wf
  | .metRead _ rq => rq.wf
  | .ctrBase _ rq => rq.wf
  | .capTrigger _ rq => rq.wf
  | .ctrRead _ rq => rq.wf
  | .insRead _ rq => rq.wf
  | .rippleRead _ rq => rq.wf
  | .limitsGet _ rq => rq.wf
  | .estRead _ rq => rq.wf
  | .impRefSet _ rq => rq.wf
  | .prtStatus _ rq => rq.wf
  | .fltArm _ rq => rq.wf
  | .fltConfirm _ rq => rq.wf
  | .fltArmExpiry _ => true
  | .fltRstEdge _ _ _ => true
  | .prtOpenReq _ rq => rq.wf
  | .blockClose _ rq => rq.wf
  | .blockOpen _ rq => rq.wf
  | .stringJoin _ rq => rq.wf
  | .stringOpen _ rq => rq.wf
  | .stringClear _ rq => rq.wf
  | .dscClose _ rq => rq.wf
  | .dscOpen _ rq => rq.wf
  | .seqStatus _ rq => rq.wf
  | .loadOn _ rq => rq.wf
  | .loadOff _ rq => rq.wf
  | .loadClear _ rq => rq.wf
  | .loadStatus _ rq => rq.wf
  | .loopEnable _ rq => rq.wf
  | .loopSet _ rq => rq.wf
  | .loopStatus _ rq => rq.wf
  | .traceArm _ rq => rq.wf
  | .posArm _ rq => rq.wf
  | .posPreset _ rq => rq.wf
  | .posStatus _ rq => rq.wf
  | .thmStatus _ rq => rq.wf
  | .logRead _ rq => rq.wf
  | .logAck _ rq => rq.wf
  | .captureRead _ rq => rq.wf
  | .traceRead _ rq => rq.wf
  | .bufferRelease _ rq => rq.wf
  | .timeStatus _ rq => rq.wf
  -- port traffic (chapter 15)
  | .canSegmentReceive _ port ext _ id data => (port == .A || port == .B) && decide (id < if ext then 2 ^ 29 else 2 ^ 11) && decide (data.length ≤ 64)
  | .spiWrite _ _ _ => true
  | .spiRead _ _ => true
  | .spiStatus _ => true
  | .icmpEchoRequest _ srcIp _ => decide (srcIp < 2 ^ 32)
  | .arpRequest _ targetIp srcIp srcMac => decide (targetIp < 2 ^ 32) && decide (srcIp < 2 ^ 32) && decide (srcMac < 2 ^ 48)
  | .siteRingFrame _ _ _ => true
  | .ringAssignReceive _ _ position side run source => decide (position < 256) && decide (side < 256) && decide (run < 256) && decide (source < 256)
  | .ringAssignTimeout _ => true
  | .ringNoHead _ => true
  | .portFailure _ _ => true
  | .portRecovery _ _ => true
  | .sessionIdleTimeout _ port session => (port == .E || port == .B) && decide (session < 8)
  | .authLockoutEnd _ port => (port == .E || port == .B)
  | .limitsPeriodic _ => true
  | .limitsZeroRepeat _ => true
  | .ptpMessageReceive _ msg => msg.wf
  | .syncSend _ => true
  | .syncReceive _ _ msg _ => msg.wf
  | .ringDelayExchange _ => true
  | .timeSourceLoss _ => true
  | .holdoverExpiry _ => true
  | .ledgerDrain _ => true
  -- chain rings (chapters 2 and 3)
  | .chainCycleStart _ => true
  | .strobeLaunch _ => true
  | .bleedOffBroadcast _ => true
  | .bleedOffRepeat _ ring => decide (ring < 8)
  | .bleedOnBroadcast _ => true
  | .readStringLaunch _ => true
  | .cellFragmentLaunch _ fragment => decide (fragment < 3)
  | .readTempsLaunch _ => true
  | .readCoarseLaunch _ => true
  | .readSsAuxLaunch _ => true
  | .readStatusLaunch _ => true
  | .responseTrainReceive _ train => train.wf
  | .alarmToneDetect _ ring _ => decide (ring < 8)
  | .carrierLoss _ ring _ => decide (ring < 8)
  | .breakNoticeReceive _ ring _ hop _ => decide (ring < 8) && decide (hop < 64)
  | .wrapRestore _ ring => decide (ring < 8)
  | .ringServiceLoss _ ring run => decide (ring < 8) && run.wf
  | .scanRateAnchor _ => true
  | .calRunIssue _ ring => decide (ring < 8)
  | .scanEvaluation _ => true
  | .chainCycleEvaluation _ => true
  | .g3OpenWaitExpiry _ str => decide (str < 16)
  | .balancePlan _ => true
  | .balHoldExpiry _ str => decide (str < 16)
  -- metrology (chapter 4)
  | .samplingInstant _ cv => cv.wf
  | .irangeMismatch _ => true
  | .calStepStart _ => true
  | .handover _ => true
  | .calStepRetry _ => true
  | .modulatorCalDone _ _ => true
  | .modulatorFailure _ modulator => decide (modulator < 6)
  | .insHalfPeriodEnd _ _ _ _ => true
  | .peCheck _ _ => true
  | .rippleWindowEnd _ first cycles => decide (first < 2 ^ 32) && (cycles == 20 || cycles == 24)
  | .captureTrigger _ source arrival => decide (source < 8) && decide (arrival < 1280)
  | .captureFreeze _ => true
  -- estimation (chapter 5) and impedance (chapter 6)
  | .cellFilterPass _ => true
  | .limitCycle _ => true
  | .anchorEnd _ str => decide (str < 16)
  | .capacityUpdate _ str => decide (str < 16)
  | .stepConfirm _ => true
  | .responseInstant _ offset => decide (offset < 4)
  | .stepClose _ => true
  | .impedanceFit _ => true
  | .fitDeferExpiry _ => true
  -- Husk (chapter 7)
  | .huskSourceAssert _ source _ => decide (source < 27)
  | .huskDelayExpiry _ source => decide (source < 27)
  | .huskSourceRelease _ source => decide (source < 27)
  | .comparatorChannelTest _ comparator _ _ => decide (comparator < 4)
  -- sequencing (chapter 8)
  | .joinDwellComplete _ str => decide (str < 16)
  | .kpOn _ => true
  | .joinConfirmTimeout _ => true
  | .confPendingCheck _ str => decide (str < 16)
  | .joinWaitExpiry _ str => decide (str < 16)
  | .joinSettleExpiry _ => true
  | .weldCurrentTest _ pair => pair.wf
  | .prechargeProbeEnd _ => true
  | .mnConfirm _ => true
  | .prechargeDone _ => true
  | .prechargeShortCheck _ => true
  | .prechargeTimeout _ => true
  | .prechargeOvercurrent _ => true
  | .mpConfirm _ => true
  | .dscBrakeRelease _ => true
  | .dscCloseReached _ => true
  | .dscDmeOff _ => true
  | .dscCloseTimeout _ => true
  | .dscOpenTimeout _ => true
  | .endOpenActive _ => true
  | .endClosedActive _ => true
  | .openCurrentWaitEnd _ => true
  | .openStagger _ => true
  -- load switch array (chapter 9)
  | .loadAdmissionCheck _ meas => meas.wf
  | .loadStaggerTimeout _ load => decide (load < 48)
  | .loadChannelStart _ load => decide (load < 48)
  | .loadEnvelopeEnd _ load => decide (load < 48)
  | .holdRegulation _ meas => meas.wf
  | .channelOvercurrent _ chan => chan.wf
  | .channelThermalWarn _ chan => chan.wf
  | .channelThermalShutdown _ chan => chan.wf
  | .channelThermalRestart _ chan => chan.wf
  | .loadPhaseEnd _ load => decide (load < 48)
  | .lgPinGate _ pin => decide (pin < 4)
  | .lgPinPermit _ pin => decide (pin < 4)
  | .vloadOver _ => true
  | .clampLockClear _ => true
  | .m2304Excursion _ load => decide (load < 48)
  -- control engine (chapter 10)
  | .controlTick _ ai aiMean => decide (ai.length ≤ 8) && decide (aiMean.length ≤ 8)
  | .ffInvalidTimeout _ loop => decide (loop < 8)
  -- position (chapter 11)
  | .observerSample _ _ _ _ _ => true
  | .spdValidExpiry _ chan => decide (chan < 2)
  | .cmpPulseEnd _ pin => decide (pin < 8)
  | .indexEdge _ chan => decide (chan < 2)
  | .timedSpeedCrossing _ chan _ _ => decide (chan < 2)
  -- thermal (chapter 12)
  | .moduleSensorRead _ rd => rd.wf
  | .actuatorRetry _ entry => decide (entry < 16)
  -- the rest of the table
  | .registerWrite _ id inst _ => decide (id < 65536) && decide (inst < 65536)
  | .udpDatagramReceive _ srcIp srcPort dstPort _ _ => decide (srcIp < 2 ^ 32) && decide (srcPort < 65536) && decide (dstPort < 65536)
  | .carrierReturn _ ring => decide (ring < 8)
  | .alwaysOnColdPowerUp _ => true
  | .pllLock _ _ boot => boot.wf
  | .resetStartBegin _ boot => boot.wf
  | .enumerationReplyTimeout _ ring _ => decide (ring < 8)
  | .ptpDelayRequest _ => true
  | .dhcpLeaseTimer _ _ => true
  | .ethernetLinkChange _ _ => true
  | .canBusOff _ port => (port == .A || port == .B)
  | .loadSwitchClockLoss _ => true

end Sys2Proof
end

