-- ==== Sys2Proof/Tests/Slice0.lean ====
section
/-!
SUPPORT. Tests: ill-formed commands that the check refuses, the manual's worked examples, and for every statement a state and operands that
meet its hypotheses. Proofs are checked one at a time: each waits for all that stands before it, and too many waiting at once
need more threads than the check's memory allows.
-/
set_option Elab.async false

namespace Sys2Proof.Tests
open Sys2Proof Sys2Proof.Machine

/-! ### Well-formedness: an ill-formed command for each check, refused -/

/-- A well-formed request, and the ill-formed ones: one field of it out of its width at a time. -/
def rq0 : Request :=
  { port := .E, tag := 5, tc := 1, trl := false, epoch := 0, addr := 0, seq := 0, crc := 0, payload := [], trailer := [] }

theorem test_wf_request : (Instr.sysInfo 0 rq0).wf = true ∧
    ([{ rq0 with tag := 1024 }, { rq0 with tc := 4 }, { rq0 with epoch := 65536 }, { rq0 with addr := 256 }, { rq0 with seq := 65536 },
      { rq0 with crc := 65536 }, { rq0 with trl := true }, { rq0 with trailer := [0] }].all fun r => !(Instr.sysInfo 0 r).wf) = true := by
  decide

theorem test_wf_request_length (bs : Bytes) (h : 65536 ≤ bs.length) : (Instr.sysInfo 0 { rq0 with payload := bs }).wf = false := by
  have k : ¬ bs.length < 65536 := by omega
  simp [Instr.wf, Request.wf, k]

theorem test_wf_power : ([.railInWindow 0 0, .railInWindow 0 16, .railWindowTimeout 0 0, .abortOff 0 16, .thermalHardLimit 0 32768 0,
    .thermalHardLimit 0 0 (-32769), .thermalRestart 0 40000 0, .auxWarnCrossing 0 65536, .battWarnCrossing 0 65536,
    .pllLock 0 true { bootPort := true, bootCfg := .low, peerHead := false, bootRomOk := true, ctFail := some ⟨256, 0, 0⟩, digestOk := true },
    .resetStartBegin 0 { bootPort := true, bootCfg := .low, peerHead := false, bootRomOk := true, ctFail := some ⟨0, 0, 256⟩, digestOk := true }].all
    fun i : Instr => !i.wf) = true := by decide

theorem test_wf_pod : ([.comparatorMismatch 0 0 0 0 (some ⟨256, 0, 0⟩), .comparatorMismatch 0 0 0 0 (some ⟨0, 256, 0⟩), .busError 0 (some ⟨0, 0, 256⟩),
    .watchdogService 0 4 0 none, .watchdogService 0 0 65536 none, .watchdogFault 0 4 none, .firmwareException 0 true (some ⟨256, 0, 0⟩),
    .shelledSelfTest 0 4 true none, .heartbeatMissing 0 4 none, .eccCorrected 0 4 0, .eccUncorrectable 0 .sb0 0 true (some ⟨256, 0, 0⟩)].all
    fun i : Instr => !i.wf) = true := by decide

/-- A node as found, for the checks of an enumeration. -/
def node0 : FoundNode :=
  { uid := [1, 2, 3, 4], nodeType := 1, rev := 0, rttA := 0, rttB := 0, tLoop := 0, repFwd := 0, repRev := 0, refNom := 0, asgMiss := 0, dlyMiss := 0, alarmMiss := 0, scanMiss := 0 }

/-- A ring closed behind one node. -/
def run0 : EnumRun := { nodes := [node0], more := false, closed := true, tAB := 0 }

theorem test_wf_enumeration : run0.wf = true ∧ ([{ node0 with uid := [] }, { node0 with nodeType := 3 }, { node0 with rev := 65536 },
    { node0 with tLoop := 65536 }, { node0 with repFwd := 65536 }, { node0 with repRev := 65536 }, { node0 with refNom := 65536 }].all
    fun f => !(Instr.ringPowerUp 0 0 { run0 with nodes := [f] }).wf) = true ∧
    ([.ringPowerUp 0 8 run0, .ringPowerUp 0 0 { run0 with nodes := List.replicate 65 node0 }, .ringServiceLoss 0 8 run0,
      .ringEnumerate 0 rq0 [(1, run0), (0, run0)], .ringEnumerate 0 rq0 [(8, run0)]].all fun i : Instr => !i.wf) = true := by decide

theorem test_wf_ports : ([.paramHApply 0 65536 0, .paramHApply 0 0 65536, .registerWrite 0 65536 0 0, .registerWrite 0 0 65536 0,
    .canSegmentReceive 0 .E false false 0 [], .canSegmentReceive 0 .A false false 2048 [], .canSegmentReceive 0 .A true false 536870912 [],
    .canSegmentReceive 0 .A false false 0 (List.replicate 65 0), .icmpEchoRequest 0 4294967296 [], .arpRequest 0 4294967296 0 0,
    .arpRequest 0 0 4294967296 0, .arpRequest 0 0 0 281474976710656, .ringAssignReceive 0 .up 256 0 0 0, .ringAssignReceive 0 .up 0 256 0 0,
    .ringAssignReceive 0 .up 0 0 256 0, .ringAssignReceive 0 .up 0 0 0 256, .sessionIdleTimeout 0 .A 1, .sessionIdleTimeout 0 .E 8,
    .authLockoutEnd 0 .S, .canBusOff 0 .E, .udpDatagramReceive 0 4294967296 0 0 true [], .udpDatagramReceive 0 0 65536 0 true [],
    .udpDatagramReceive 0 0 0 65536 true []].all fun i : Instr => !i.wf) = true := by decide

theorem test_wf_time : ([.ptpMessageReceive 0 ⟨0, 0, 2 ^ 64, 0⟩, .syncReceive 0 .up ⟨256, 0, 0, 0, 0⟩ 0, .syncReceive 0 .up ⟨0, 256, 0, 0, 0⟩ 0,
    .syncReceive 0 .up ⟨0, 0, 65536, 0, 0⟩ 0].all fun i : Instr => !i.wf) = true := by decide

theorem test_wf_chain : ([.bleedOffRepeat 0 8, .cellFragmentLaunch 0 3, .responseTrainReceive 0 ⟨8, .endA, 0, [], 0, [], none⟩,
    .responseTrainReceive 0 ⟨0, .endA, 0, List.replicate 64 0, 0, [], none⟩, .responseTrainReceive 0 ⟨0, .endA, 0, [], 0, List.replicate 65 ⟨0, [], 0⟩, none⟩,
    .responseTrainReceive 0 ⟨0, .endA, 0, [], 0, [⟨0, List.replicate 64 0, 0⟩], none⟩, .alarmToneDetect 0 8 .endA, .carrierLoss 0 8 .endA,
    .breakNoticeReceive 0 8 .endA 0 true, .breakNoticeReceive 0 0 .endA 64 true, .wrapRestore 0 8, .calRunIssue 0 8, .carrierReturn 0 8,
    .enumerationReplyTimeout 0 8 true].all fun i : Instr => !i.wf) = true := by decide

theorem test_wf_field : ([.g3OpenWaitExpiry 0 16, .balHoldExpiry 0 16, .modulatorFailure 0 6, .captureTrigger 0 8 0, .captureTrigger 0 0 1280, .rippleWindowEnd 0 4294967296 20,
    .rippleWindowEnd 0 0 21,
    .anchorEnd 0 16, .capacityUpdate 0 16, .responseInstant 0 4, .huskSourceAssert 0 27 0, .huskDelayExpiry 0 27, .huskSourceRelease 0 27,
    .comparatorChannelTest 0 4 true true, .joinDwellComplete 0 16, .confPendingCheck 0 16, .joinWaitExpiry 0 16, .weldCurrentTest 0 (.string 16),
    .loadStaggerTimeout 0 48, .loadChannelStart 0 48, .loadEnvelopeEnd 0 48, .channelOvercurrent 0 (.hs 12), .channelThermalWarn 0 (.ls 40),
    .channelThermalShutdown 0 (.hs 12), .channelThermalRestart 0 (.ls 40), .loadPhaseEnd 0 48, .lgPinGate 0 4, .lgPinPermit 0 4, .m2304Excursion 0 48,
    .ffInvalidTimeout 0 8, .spdValidExpiry 0 2, .cmpPulseEnd 0 8, .indexEdge 0 2, .actuatorRetry 0 16,
    .loadAdmissionCheck 0 ⟨0, [(1, 0), (0, 0)], []⟩, .holdRegulation 0 ⟨0, [], [(1, 0), (1, 0)]⟩,
    .moduleSensorRead 0 ⟨some 32768, none, none, none, none⟩, .moduleSensorRead 0 ⟨none, some (-32769), none, none, none⟩,
    .controlTick 0 (List.replicate 9 0) [], .controlTick 0 [] (List.replicate 9 0),
    .samplingInstant 0 ⟨none, none, none, none, none, none, List.replicate 11 0⟩].all fun i : Instr => !i.wf) = true := by decide

/-! ### States for the witnesses -/

/-- The module in Normal with its firmware running. -/
def up : State := { pow := { phase := .normal, aonOn := true, auxOk := true, rails := 0x7F }, pod := { running := true } }

/-- A transaction of Port E with a payload. -/
def txn (op : Nat) (payload : Bytes) : Txn :=
  { port := .E, tag := 5, opcode := op, cls := 1, reserved := false, crc := 0, session := 0, seq := 0, role := 2, payload, served := false
    items := [], waiting := [] }

/-- A state with that transaction entered. -/
def hosted (s : State) (op : Nat) (payload : Bytes) : State := { s with hub := { s.hub with txns := [txn op payload] } }

theorem hosted_stands (s : State) (op : Nat) (payload : Bytes) (h : serving s = true) (hp : portPowered s .E = true)
    (hf : (portOf s .E).failed = false) (hl : (reqSize op).all (· == payload.length) = true) :
    Stands (hosted s op payload) rq0 op (txn op payload) := by
  refine ⟨?_, h, hp, hf, (fun e => nomatch e), rfl, ?_⟩
  · simp [entered, hosted, txn, rq0]
  · intro n hn
    simp only [hn, Option.all_some, beq_iff_eq] at hl
    exact hl.symm

theorem up_serves : serving up = true ∧ portPowered up .E = true ∧ (portOf up .E).failed = false ∧ podUp up = true := by decide

/-- The module in Normal with a command's transaction entered. -/
theorem up_stands (op : Nat) (payload : Bytes) (hl : (reqSize op).all (· == payload.length) = true) :
    Stands (hosted up op payload) rq0 op (txn op payload) :=
  hosted_stands up op payload up_serves.1 up_serves.2.1 up_serves.2.2.1 hl


/-! ### Witnesses: start, power-down and the Pod -/

/-- A state in a phase, its start begun for a reason, its time at 100 s. -/
def at_ (p : Phase) (k : StartKind) : State := { phys := 100 * secNs, pow := { phase := p, kind := k, aonOn := true, epoch := 7 } }

/-- What passing boot checks find. -/
def boots : BootChecks := { bootPort := true, bootCfg := .low, peerHead := false, bootRomOk := true, ctFail := none, digestOk := true }

theorem witness_StepTakesTheFrontCommand : State.reset.pending = [] := rfl

theorem witness_StepsOnlySetOtpBits : Memory.wf State.reset.pod.otp = true ∧ step State.reset = .next State.reset ∧
    ∀ dt ok, Instr.scrubPass 0 0 ≠ .otpProgramDone dt ok := ⟨rfl, rfl, fun _ _ h => nomatch h⟩

theorem witness_StepsKeepTheEpochNonzero : (State.reset.pow.aonOn = true → 1 ≤ State.reset.pow.epoch ∧ State.reset.pow.epoch ≤ 0xFFFF) ∧
    step State.reset = .next State.reset ∧ (at_ .march .cold).pow.phase = .march ∧ (at_ .march .cold).pod.badBanks = [] ∧ (at_ .bulb .cold).pow.phase = .bulb ∧
    (∀ dt, Instr.scrubPass 0 0 ≠ .alwaysOnColdPowerUp dt) :=
  ⟨by decide, rfl, rfl, rfl, rfl, fun _ h => nomatch h⟩

theorem witness_LogAckMovesThePointer : Stands (hosted up 0xF002 [0, 0, 0, 0]) rq0 0xF002 (txn 0xF002 [0, 0, 0, 0]) ∧ (txn 0xF002 [0, 0, 0, 0]).payload.length = 4 :=
  ⟨up_stands _ _ (by decide), rfl⟩

theorem witness_HuskStatusWords : Stands (hosted up 0x9001 []) rq0 0x9001 (txn 0x9001 []) := up_stands _ _ (by decide)

theorem witness_MessagesCarryTheirCrc : (([] : Bytes).length < 65536) ∧ (List.replicate 8 (0 : Byte)).length = 8 := by decide

theorem witness_RailsComeUpInOrder :
    ((at_ .off .cold).pow.aonOn = true ∧ (at_ .off .cold).pow.endReason ≠ 0x22) ∧
    ({ at_ .bulbWake .cold with pow := { (at_ .bulbWake .cold).pow with phaseAt := 41 * secNs } } : State).phys - 41 * secNs < 60 * secNs ∧
    (let s : State := { at_ .rails .cold with pow := { (at_ .rails .cold).pow with railNext := 7, railAt := 99 * secNs } }
     s.pow.railNext ≠ 0 ∧ 2 * msNs ≤ s.phys + 0 - s.pow.railAt) ∧
    (∀ r ∈ [1, 7], 1 ≤ r ∧ r ≤ 7 ∧ ({ at_ .rails .cold with pow := { (at_ .rails .cold).pow with railWait := r } } : State).pow.railWait = r) := by
  decide

theorem witness_StartReachesNormal :
    ((at_ .pll .cold).pow.phase = .pll ∧ boots.bootRomOk = true ∧ boots.ctFail = none ∧ boots.digestOk = true) ∧
    ((at_ .resetWait .reset).pow.phase = .resetWait ∧ 10 * msNs ≤ (at_ .resetWait .reset).phys + 0 - (at_ .resetWait .reset).pow.phaseAt) ∧
    (at_ .march .cold).pow.kind ≠ .cress ∧ (at_ .march .cold).pod.badBanks = [] ∧ (at_ .march .cress).pow.kind = .cress ∧
    (0 ∉ ({ at_ .march .cress with pod := { badBanks := [1] } } : State).pod.badBanks) ∧ (({ at_ .late .cold with pow := { (at_ .late .cold).pow with rails := 0x7F } } : State).pow.rails &&& 0x7F = 0x7F) ∧
    ((at_ .retry .cold).pow.phase = .retry ∧ 2 * secNs ≤ (at_ .retry .cold).phys + 0 - (at_ .retry .cold).pow.phaseAt) := by decide

theorem witness_FailedStartsAreCounted :
    (let s : State := { at_ .rails .cold with pow := { (at_ .rails .cold).pow with railWait := 1, railAt := 99 * secNs } }
     s.pow.railWait ≠ 0 ∧ s.pow.railWait = 1 ∧ 5 * msNs ≤ s.phys + 0 - s.pow.railAt) ∧
    (∀ p ∈ [Phase.rails, .pll, .march, .late, .normal], railUp { at_ p .cold with pow := { (at_ p .cold).pow with rails := 0x7F } } 7 = true) ∧
    (at_ .pll .cold).pow.phase = .pll ∧ ((at_ .march .cold).pow.phase = .march ∧ (at_ .march .cold).pow.kind ≠ .cress) ∧
    (let s : State := { at_ .late .cold with pow := { (at_ .late .cold).pow with startWd := true, podAt := 97 * secNs } }
     s.pow.startWd = true ∧ 3 * secNs ≤ s.phys + 0 - s.pow.podAt) ∧
    ({ at_ .march .cold with pod := { badBanks := [0] } } : State).pod.badBanks ≠ [] ∧
    (at_ .normal .cold).pow.auxOk = false := by decide

/-- A power-down in its step 4 in which the load of one role is on; role 0 for none. -/
def downs (role : Nat) : State :=
  { phys := 100 * secNs, pow := { phase := .powerDown, pdStep := 4, aonOn := true }, seq := { roles := [(0, (role : Int))] },
    lsw := { loads := [(0, { state := if role = 0 then .off else .on })], defs := [(0, 0x80000000)] } }

theorem witness_PowerDownRunsItsSteps :
    (at_ .normal .cold).pow.phase = .normal ∧
    (let s := downs 3; step4Runs s = true ∧ pdWaitOver (advance 0 s) = true ∧ s.pow.pdDue ≤ s.phys + 0 ∧ roleActive s 3 0 = true) ∧
    (let s := downs 4; roleActive s 3 0 = false ∧ roleActive s 5 0 = false ∧ roleActive s 6 0 = false ∧ roleActive s 4 0 = true) ∧
    (let s := downs 1; step4Runs s = true ∧ (∀ r ∈ [3, 4, 5, 6], roleActive s r 0 = false) ∧ closedStrings s = [0]) ∧
    (let s := downs 0; step4Runs s = true ∧ contactorsOff s = true) ∧
    (let s := downs 0; s.pow.pdStep < 5 ∧ step4Done s = true) ∧
    (let p := { (at_ .powerDown .cold).pow with pdStep := 5, endReason := 0x21 }; p.phase = .powerDown ∧ p.pdStep = 5 ∧ p.endReason = 0x21 ∧ p.auxOk = false) := by
  decide +kernel

theorem witness_BulbThermalAndSupervisor :
    (let p := { (at_ .off .cold).pow with endReason := 0x22 }; p.phase = .off ∧ p.endReason = 0x22) ∧
    (∀ w, bit { (at_ .bulb .cold).pow with wakeSrc := 3 }.wakeSrc (b2n w) = true) ∧
    ((at_ .bulbWake .cold).pow.phase = .bulbWake ∧ 60 * secNs ≤ (at_ .bulbWake .cold).phys + 0 - (at_ .bulbWake .cold).pow.phaseAt) ∧
    (let p := { (at_ .thermal .cold).pow with restartOk := some (40 * secNs), auxOk := true }; p.phase = .thermal ∧ p.restartOk = some (40 * secNs) ∧
      60 * secNs ≤ (at_ .thermal .cold).phys + 0 - 40 * secNs ∧ p.auxOk = true) ∧
    ({ up.pod with heldReset := true }.heldReset = true ∧ up.pow.phase = .normal) ∧
    (let s : State := { up with phys := 100 * secNs, pod := { warm := true }, husk := { trips := [(21, { asserted := true, since := 99 * secNs })] } }
     s.pow.phase = .normal ∧ (tripOf s 21).asserted = true ∧ s.pod.warm = true ∧ 100 * msNs ≤ s.phys + 0 - (tripOf s 21).since) ∧ level up = 2 := by
  decide +kernel

/-- The module in Normal, its cores running in Shelled mode or not, with a bank's counters. -/
def cores (shelled : Bool) : State := { up with phys := 100 * secNs, pod := { running := true, shelled, wdOff := false } }

theorem witness_PodFaultsWarmRestart :
    (∀ b, podRuns (cores b) = true ∧ (cores b).pod.shelled = b ∧ (cores b).pod.wdOff = false ∧ (cores b).pow.phase ≠ .late) ∧
    RestartsLeft 0 (cores false) ∧ RestartsLeft 0 (cores true) ∧
    wdTime (cores false) < (cores false).phys + 0 - mget 0 (cores false).pod.wdLast (wdInstance (cores false) 0) ∧
    (let s : State := { cores false with pod := { (cores false).pod with wdLast := [(0, 100 * secNs - wdTime up)] } }
     wdTime s ≤ 4 * (s.phys - mget 0 s.pod.wdLast (wdInstance s 0)) ∧ s.phys - mget 0 s.pod.wdLast (wdInstance s 0) ≤ wdTime s) := by
  unfold RestartsLeft
  decide +kernel

theorem witness_PodRecoversAndKeepsMemory :
    (let s : State := { up with phys := secNs, pod := { running := true, warm := true }, husk := { armed := true, heldRel := false } }
     s.pod.warm = true ∧ s.pod.heldReset = false ∧ 5 * msNs ≤ s.phys + 0 - s.pod.haltAt ∧ canAssert s 21 = true) ∧
    podRuns (cores false) = true ∧ (mget {} (cores false).pod.banks 2).ueTimes.length < 16 ∧
    (∀ a ∈ [0, scrubWords - 1], a < scrubWords ∧ (cores false).pod.scrubAddr ≤ a) ∧
    ({ up.pod with otpJobs := [{ field := 0, data := [], port := .E, tag := 5 }] }.otpJobs = [{ field := 0, data := [], port := .E, tag := 5 }]) := by
  decide +kernel

/-! ### Witnesses: the host's commands and ports -/

/-- A transaction entered in a state whose port serves it. -/
theorem stands_of (s : State) (op : Nat) (payload : Bytes)
    (h : (serving s && portPowered s .E && !(portOf s .E).failed && (reqSize op).all (· == payload.length)) = true) :
    Stands (hosted s op payload) rq0 op (txn op payload) := by
  simp only [Bool.and_eq_true, Bool.not_eq_true'] at h
  exact hosted_stands s op payload h.1.1.1 h.1.1.2 h.1.2 h.2

theorem witness_StatusCommandsReadTheirWords : ∀ e ∈ ([(0x0001, []), (0x1001, []), (0x2001, []), (0x3004, []), (0x4003, []), (0x6001, []), (0x6004, []),
    (0x6005, []), (0x7001, []), (0x9001, []), (0xA008, []), (0xC003, [0x81]), (0xE001, []), (0xF006, [])] : List (Nat × Bytes)),
    Stands (hosted up e.1 e.2) rq0 e.1 (txn e.1 e.2) := fun e he => stands_of _ _ _ (by
  revert e; decide +kernel)

theorem witness_RangeReadsAnswerTheirItems : ∀ e ∈ ([(0x5001, [0, 0, 1, 0]), (0x5001, [255, 35, 1, 0]), (0x5002, [255, 15, 1, 0]), (0x5003, [1, 0]),
    (0x7002, [2, 0, 0, 0, 1, 0]), (0xB004, [0, 0, 0, 0, 0, 128, 0, 0]), (0xD003, [3]), (0x2006, [0xFF, 0x1F, 0, 0, 1, 0, 0, 0]),
    (0x2006, [0xFF, 0x1F, 0, 0, 2, 0, 0, 0])] : List (Nat × Bytes)), Stands (hosted up e.1 e.2) rq0 e.1 (txn e.1 e.2) := fun e he =>
  stands_of _ _ _ (by revert e; decide +kernel)

/-- Normal with a contactor of a role on: its load 0 is active. -/
def loaded (role : Nat) : State :=
  { up with seq := { roles := [(0, (role : Int))] }, lsw := { loads := [(0, { state := .on })], defs := [(0, 0x80000000)] } }

/-- The eight bytes of OTP that a secret and its check word need. -/
def keyed : State :=
  let x : List Host.Cell := [(0x1100, 1)]
  let c := crc32 (1 :: List.replicate 31 (0 : Byte))
  { up with pod := { running := true, otp := cellWrites x 0x1120 (le 4 c) } }

theorem witness_PowerAndPatchCommands :
    (∀ e ∈ ([(0x1002, []), (0x1003, []), (0x2002, [0, 0, 0, 0, 1]), (0x2003, []), (0x2004, []), (0x2005, [])] : List (Nat × Bytes)),
      Stands (hosted up e.1 e.2) rq0 e.1 (txn e.1 e.2)) ∧
    Stands (hosted up 0x2007 [3, 1]) rq0 0x2007 (txn 0x2007 [3, 1]) ∧
    up.pow.phase = .normal ∧ contactorsOff up = true ∧ contactorsOff (loaded 3) = false ∧ sequenceRuns up = false ∧ noService up = true ∧
      roleActive up 3 0 = false ∧ roleActive up 4 0 = false ∧ otpRefusal up 0 [] = none :=
  ⟨fun e he => stands_of _ _ _ (by revert e; decide +kernel), stands_of _ _ _ (by decide +kernel), by decide +kernel⟩

/-- A session begun on Port E. -/
def session1 : Session := { num := 1, role := 2, opened := false, hostN := [], modN := [], key := [], lastSeq := none, used := 0 }

theorem witness_SessionsOpenAndClose :
    Stands (hosted keyed 0x3001 (List.replicate 20 0)) rq0 0x3001 (txn 0x3001 (List.replicate 20 0)) ∧ secretSet keyed = true ∧ secretSet up = false ∧
    lockedOut (advance 0 keyed) .E = false ∧
    (let s := modPort .E (fun p => { p with sessions := [{ session1 with num := 0 }] }) keyed
     Stands (hosted s 0x3002 (List.replicate 32 0)) rq0 0x3002 (txn 0x3002 (List.replicate 32 0)) ∧ sessionOf s .E 0 = some { session1 with num := 0 }) ∧
    Stands (hosted keyed 0x3003 []) rq0 0x3003 (txn 0x3003 []) ∧
    (let s := modPort .E (fun p => { p with sessions := [session1] }) { keyed with phys := 3600 * secNs }
     sessionOf s .E 1 = some session1 ∧ (portOf s .E).downAt = none ∧ p0 s pHostSessionIdleT * secNs ≤ s.phys + 0 - session1.used) :=
  ⟨stands_of _ _ _ (by decide +kernel), by decide +kernel, by decide +kernel, by decide +kernel,
    ⟨stands_of _ _ _ (by decide +kernel), by decide +kernel⟩, stands_of _ _ _ (by decide +kernel), by decide +kernel⟩

/-- Normal with every port enabled, on a site ring at a position. -/
def ringed (position : Nat) : State :=
  { up with par := { applied := [(pk pHostPortEnable 0, 0x1F)] }, hub := { position } }

/-- Normal under applied values. -/
def given (l : SMap Int) : State := { up with par := { applied := l } }

theorem witness_PortsReceiveAndClockOut :
    (∀ p ∈ [Port.A, .B, .S], portPowered (ringed 0) p = true) ∧ canIdFits (ringed 0) .A false (pn up pHostCanNode 0) = true ∧
    ((ringed 0).phys + 0 < { (ringed 0).hub with spiFree := 1 }.spiFree) ∧ (ringed 0).hub.spiFree ≤ (ringed 0).phys + 0 ∧
    (p0 up pHostUdpPort = p0 up pHostUdpPort) ∧ ([] : Bytes).length = 0 := by
  decide +kernel

theorem witness_LinksAnswerFailAndRecover :
    portPowered up .E = true ∧ (portPowered (given [(pk pHostIpMode 0, 1)]) .E = true ∧ p0 (given [(pk pHostIpMode 0, 1)]) pHostIpMode = 1) ∧
    (portPowered (given [(pk pHostPtpEnable 0, 1)]) .E = true ∧ p0 (given [(pk pHostPtpEnable 0, 1)]) pHostPtpEnable = 1) ∧
    portPowered (ringed 0) .A = true ∧ portPowered (ringed 0) .B = true ∧
    (let s := modPort .E (fun q => { q with failed := true }) up
     (portOf s .E).failed = true ∧ portPowered s .E = true ∧ noOrigin s .E = false ∧ ∀ m ∈ (portOf s .E).held, m.port = .E) := by
  decide +kernel

theorem witness_SiteRingAndLimits :
    (portPowered (ringed 3) .P = true ∧ (ringed 3).hub.position ≠ 0xFF ∧ num (List.replicate 12 0 ++ [3] : Bytes) 12 1 = 3 ∧
      num (List.replicate 11 0 ++ [3, 4] : Bytes) 11 1 = 3 ∧ num (List.replicate 11 0 ++ [3, 4] : Bytes) 12 1 ≠ 3) ∧
    (portPowered (ringed 0xFF) .P = true ∧ (ringed 0xFF).hub.position = 0xFF ∧ (ringed 0xFF).pod.peerHead = false ∧ (ringed 0xFF).hub.assigned = false) ∧
    (let s : State := { ringed 3 with hub := { position := 3, assigned := true, run := 1 } }
     s.pod.peerHead = false ∧ s.hub.assigned = true ∧ s.hub.run = 1 ∧ s.hub.position ≠ 0xFF ∧ portPowered s .P = true) ∧
    (positionTaken (advance 0 (ringed 0xFF)) 1 4 = false ∧ positionTaken (advance 0 { ringed 0xFF with hub := { heard := [(4, 0)] } }) 1 4 = true) ∧
    (let s : State := { ringed 0 with phys := secNs, pod := { running := true, peerHead := true }, hub := { position := 0, assigning := true } }
     s.pod.peerHead = true ∧ s.hub.assigning = true ∧ 10 * msNs ≤ s.phys + 0 - s.hub.assignAt ∧ s.hub.txns = [] ∧ portPowered s .P = true) ∧
    (let s : State := { ringed 0xFF with phys := 2 * secNs }
     portPowered s .P = true ∧ s.pow.phase = .normal ∧ s.hub.assigned = false ∧ 2 * secNs ≤ s.phys + 0 - s.pow.phaseAt) ∧
    (∀ n ∈ [0, 100 * msNs], dueAfter (advance 0 up) n none = true) ∧
    podUp up = true ∧ level up = 2 ∧ (let s : State := { up with pow := { up.pow with phase := .powerDown, pdStep := 4 } }; level s = 2 ∧ zeroFlags s ≠ 0) ∧ noticeGoes (ringed 0) .A = true := by
  decide +kernel

/-- A module at the head of its ring, its timebase as given. -/
def headed (position : Nat) (tb : Timebase) : State :=
  { ringed position with pod := { running := true, peerHead := true }, tb }

theorem witness_TimebaseIsDisciplined :
    (let s : State := { given [(pk pHostPtpEnable 0, 1), (pk pLogTimeSrc 0, 1)] with tb := { run := true, ptpGood := 15 } }
     podUp s = true ∧ portPowered s .E = true ∧ p0 s pHostPtpEnable = 1 ∧ p0 s pLogTimeSrc = 1 ∧ s.tb.tai = false ∧ s.tb.ptpGood = 15 ∧
      (⟨5, 0, 1, 0⟩ : PtpSync).domain = p0 s pHostPtpDomain ∧ ((⟨5, 0, 1, 0⟩ : PtpSync).offset - s.tb.ptpRef).natAbs ≤ p0 s pLogLockThresh) ∧
    (let s : State := { given [(pk pHostPtpEnable 0, 1), (pk pLogTimeSrc 0, 1)] with tb := { run := true, tai := true, ptpGood := 16 } }
     podUp s = true ∧ s.tb.tai = true ∧ s.tb.ptpGood = 16 ∧ (⟨-5, 0, 1, 0⟩ : PtpSync).offset.natAbs ≤ p0 s pLogLockThresh ∧
      (⟨-5, 0, 1, 0⟩ : PtpSync).offset.natAbs ≤ p0 s pLogStepThresh * 1000) ∧
    (let s := headed 0 { run := true, tai := true }; onRing s = true ∧ s.pod.peerHead = true ∧ s.hub.position = 0 ∧ s.tb.tai = true ∧
      dueAfter (advance 0 s) (p0 s pLogSyncPeriod * msNs) s.tb.sendAt = true) ∧
    (let s := headed 0xFF { run := true }; podUp s = true ∧ portPowered s .P = true ∧ s.tb.syncNum ≠ some 1 ∧ s.hub.position = 0xFF) ∧
    (let s := headed 31 { run := true, xchT1 := some 3, xchNum := 4, source := 1 }
     onRing s = true ∧ podUp s = true ∧ portPowered s .P = true ∧ s.tb.xchT1 = some 3 ∧ s.tb.xchNum = 4 ∧ s.tb.source ≠ 0 ∧ s.tb.source ≠ 2 ∧
       dueAfter (advance 0 s) (p0 s pLogRingDlyPeriod * secNs) s.tb.xchAt = true) ∧
    (let s : State := { up with phys := 100000000 * secNs, tb := { state := .holdover, holdAt := some 0 } }
     s.tb.state = .holdover ∧ s.tb.holdAt = some 0 ∧ p0 s pLogHoldoverT * secNs ≤ s.phys + 0 - 0) := by
  decide +kernel

/-- A state whose ledger FIFO holds one event of a class. -/
def logged (cls : Nat) : State := { up with log := { fifo := [{ newEvent up 0x0101 0 0xFF 0 [] with cls }] } }

theorem witness_LedgerAndBuffers :
    (serving (logged 0) = true ∧ ((logged 0).log.fifo.find? (·.cls = 0)).isSome = true ∧
      (makeRoom (p0 (logged 0) pLogPolicy == 1) (p0 (logged 0) pLogHoldReserve) 0 false (logged 0).log).isSome = true) ∧
    (serving (logged 1) = true ∧ ((logged 1).log.fifo.find? (·.cls = 0)).isSome = false ∧ (logged 1).log.fifo.length = 1 ∧ (logged 1).log.dropAt = none ∧
      (makeRoom (p0 (logged 1) pLogPolicy == 1) (p0 (logged 1) pLogHoldReserve) 1 false (logged 1).log).isSome = true) ∧
    (∀ e ∈ ([(0xF001, [0, 0, 1, 0, 0, 0, 0, 0]), (0xF001, [1, 0, 1, 0, 0, 0, 0, 0]), (0xF002, [0, 0, 0, 0]), (0xF003, 0 :: List.replicate 11 0),
      (0xF004, 1 :: List.replicate 11 0), (0xF004, 4 :: List.replicate 11 0), (0xF005, [1, 0]), (0xC004, [1])] : List (Nat × Bytes)),
      Stands (hosted up e.1 e.2) rq0 e.1 (txn e.1 e.2)) ∧
    later 32 0 up.log.seq = false ∧
    (let s : State := { given [(pk pMetCapTrig 0, 0xFF)] with met := { cap := { state := .armed } } }
     Stands (hosted s 0x6003 []) rq0 0x6003 (txn 0x6003 []) ∧ bit (p0 s pMetCapTrig) 0 = true ∧ bit (p0 s pMetCapTrig) 7 = true ∧ s.met.cap.state = .armed) ∧
    ({ up.met with cap := { state := .filling } }.cap.state = .filling ∧ { up.met with cap := { state := .filling } }.cap.post = 0) := by
  refine ⟨by decide +kernel, by decide +kernel, fun e he => stands_of _ _ _ (by revert e; decide +kernel), by decide +kernel,
    ⟨stands_of _ _ _ (by decide +kernel), by decide +kernel⟩, rfl, rfl⟩

/-! ### Witnesses: metrology, parameters and the chain -/

/-- Normal with its HV section powered and metrology as given. -/
def metered (met : Metrology) : State := { up with phys := 100 * secNs, met }

theorem window_of (w : List (Option Int)) (h : w.length = 6400) : windowFits { ripple := [(0, { win := w })] } = true := by
  simp [windowFits, mget, mfind, h]

/-- A window of 6,400 samples of VB ends, under MET.RIPPLE_SRC. -/
theorem witness_window : ∃ m : Metrology, windowFits m = true ∧ sequencing (metered m) = true ∧ hvPowered (metered m) = true :=
  ⟨{ ripple := [(0, { win := List.replicate 6400 none })] }, window_of _ List.length_replicate, by decide, by decide⟩

theorem witness_MetrologyKeepsItsRoles :
    (sequencing (metered {}) = true ∧ hvPowered (metered {}) = true ∧ (metered {}).met.ready = false) ∧
    ((64001 : Int).natAbs > 64000 ∧ ({ diffMean := some 64001 } : Metrology).ilOnly = false) ∧
    (let s := metered { ready := true, spareOk := true }
     s.met.ready = true ∧ s.met.calPhase = .idle ∧ s.met.spare.isSome = true ∧ s.met.spareOk = true ∧ capHolds s = false ∧
       (List.range 5).find? (fun r => servingOf s.met r == 4) = some 4 ∧ 4 ∉ s.met.failed ∧ s.met.calMod ≠ some 4 ∧ sequencing s = true ∧ hvPowered s = true ∧
       s.met.spare = some 5) ∧
    (({ calPhase := .overlap, calN := 64, pairs := 48 } : Metrology).spare = some 5) ∧
    (let s := metered { calPhase := .abandoned, abandAt := 99 * secNs }; 200 * msNs ≤ s.phys + 0 - s.met.abandAt ∧ capHolds s = false) ∧
    (({ calMod := some 3 } : Metrology).calMod = some 3 ∧ capHolds (metered { calMod := some 3 }) = false) ∧
    (let s : State := { given [(pk pMetInsMode 0, 1), (pk pMetPeCheck 0, 1), (pk pMetRippleSrc 0, 3)] with
        phys := 100 * secNs, met := { ready := true, ins := { length := 5, tailN := 1 } } }
     p0 s pMetInsMode ≠ 0 ∧ s.met.ins.length ≠ 0 ∧ s.met.ins.length * secNs ≤ s.phys + 0 - s.met.ins.startAt ∧ s.met.ins.length < p0 s pMetInsTmax ∧
       s.met.ins.tailN ≠ 0 ∧ p0 s pMetPeCheck ≠ 0 ∧ sequencing s = true ∧ hvPowered s = true ∧ s.met.ins.peAt = none ∧ bit (p0 s pMetRippleSrc) 0 = true ∧ bit (p0 s pMetRippleSrc) 1 = true) ∧
    Stands (hosted up 0x6006 [1, 0]) rq0 0x6006 (txn 0x6006 [1, 0]) ∧
    Stands (hosted up 0x6002 (List.replicate 24 0)) rq0 0x6002 (txn 0x6002 (List.replicate 24 0)) ∧ up.met.baseMiss = true ∧ up.met.base = none ∧
    (let s := metered { begun := true, sidx := 0xFFFFFFFF }; s.met.begun = true ∧ s.met.sidx = 0xFFFFFFFF) := by
  refine ⟨by decide +kernel, by decide +kernel, by decide +kernel, by decide +kernel, by decide +kernel, by decide +kernel, by decide +kernel,
    stands_of _ _ _ (by decide +kernel), stands_of _ _ _ (by decide +kernel), rfl, rfl, rfl, rfl⟩

/-- A transfer of Port A under way since 0. -/
def moved : Transfer := { port := .A, session := 0, total := 100, data := [0], lastAt := 0 }

theorem witness_ParametersAreWrittenByClass :
    (podUp up = true ∧ up.par.held = [] ∧ (paramRow pLogClassMax).any (·.clamp == .nearest) = true ∧ pLogClassMax / 4096 = 15) ∧
    ((paramRow pPosCmpPosA).any (fun r => r.cls == 1 && r.kind != 1 && r.kind != 3 && decide (0 < kindCount r.kind pPosCmpPosA) && r.clamp == .nearest) = true ∧
      heldNow up pPosCmpPosA 0 = false) ∧
    (∀ e ∈ ([(0x0002, [0, 0, 1, 0, 1, 0, 0, 0]), (0x0002, [2, 0, 0, 0]), (0x0003, [1, 0, 0, 0, 1, 0, 0, 0, 0, 0, 0, 0]), (0x0004, [1, 0, 0, 0, 0, 0]),
      (0x0004, [3, 0, 0, 0, 0, 0]), (0x0005, List.replicate 12 0), (0x0006, List.replicate 12 0), (0x7003, List.replicate 12 0),
      (0x7004, List.replicate 12 0 ++ [0])] : List (Nat × Bytes)), Stands (hosted up e.1 e.2) rq0 e.1 (txn e.1 e.2)) ∧
    (inNormal up = true ∧ (mfind [(pk pPosLines 1, (5 : Int))] (pk pPosLines 1)).isSome = true ∧ paramClass pPosLines = 2) ∧
    (let s : State := { up with phys := 60 * secNs, xfer := { cfgWrite := some moved, snapWrite := some moved } }
     s.xfer.cfgWrite = some moved ∧ s.xfer.snapWrite = some moved ∧ moved.port ≠ .E ∧ 60 * secNs ≤ s.phys + 0 - moved.lastAt) ∧
    (let m : Image := { data := [], freeze := 1, lastAt := 0 }
     let s : State := { up with phys := 60 * secNs, xfer := { cfgImage := some m, snapImage := some m } }
     s.xfer.cfgImage = some m ∧ s.xfer.snapImage = some m ∧ 60 * secNs ≤ s.phys + 0 - m.lastAt) := by
  refine ⟨by decide +kernel, by decide +kernel, fun e he => stands_of _ _ _ (by revert e; decide +kernel), by decide +kernel, by decide +kernel,
    by decide +kernel⟩

/-- Normal with ring 0 enabled and in a state of service. -/
def strung (g : Ring) : State :=
  { given [(pk pChnRingEnable 0, 0x81)] with phys := 100 * secNs, chn := { rings := [(0, g)], started := true } }

theorem witness_RingsAreEnumeratedAndWrapped :
    up.par.staged = [] ∧ (run0.more = false ∧ run0.nodes.length ≤ 64 ∧ run0.closed = true ∧
      ∀ e ∈ (List.range 64).zip run0.nodes, e.2.asgMiss ≤ p0 up pChnRetryMax ∧ e.2.dlyMiss ≤ p0 up pChnRetryMax) ∧
    (∀ f ∈ [{ node0 with asgMiss := 4 }, { node0 with dlyMiss := 4 }], p0 up pChnRetryMax < f.asgMiss ∨ p0 up pChnRetryMax < f.dlyMiss) ∧
    ((strung {}).pow.phase = .normal ∧ (unpoweredRings (strung {})).head? = some 0 ∧ ringPowerDue (advance 0 (strung {})) = true) ∧
    (let s := strung { service := .notServed, lostAt := some 0 }
     sequencing s = true ∧ (ringAt s 0).service = .notServed ∧ passed (advance 0 s) (ringAt s 0).lostAt (500 * msNs) = true) ∧
    (ringAt (strung { service := .enumerating }) 0).service = .enumerating ∧ bit (p0 (strung {}) pChnRingEnable) 0 = true ∧
    bit (p0 (strung {}) pChnRingEnable) 7 = true ∧
    (let s := strung { service := .served, found := 2 }
     ringServed s 0 = true ∧ 0 < (ringAt s 0).found ∧ (ringAt s 0).cutA = none ∧ (ringAt s 0).cutB = none) ∧
    (let s : State := { strung { service := .wrapped, cleanAt := some 0 } with par := { applied := [(pk pChnRingEnable 0, 0x81), (pk pChnWrapRestore 0, 1)] } }
     (ringAt s 0).service = .wrapped ∧ p0 s pChnWrapRestore = 1 ∧ passed (advance 0 s) (ringAt s 0).cleanAt (10 * secNs) = true ∧
       (ringAt s 0).cleanAt.isSome = true ∧ s.chn.cellNow = false ∧ cycleNs (advance 0 s) ≤ slotEnd) ∧
    (({ service := .wrapped, found := 2, cutA := some 1, cutB := none } : Ring).endsA = 1 ∧ (ringAt (strung { service := .wrapped, clearing := [5] }) (ringOf 5)).clearing = [hopOf 5]) ∧
    (∀ e ∈ ([(0x4004, [1]), (0x4002, [1]), (0x4002, [128]), (0x4001, [128, 0])] : List (Nat × Bytes)),
      Stands (hosted (strung { service := .notServed }) e.1 e.2) rq0 e.1 (txn e.1 e.2)) ∧ (ringAt (strung { service := .notServed }) 0).service ≠ .unpowered := by
  refine ⟨rfl, by decide +kernel, by decide +kernel, by decide +kernel, by decide +kernel, by decide +kernel, by decide +kernel, by decide +kernel,
    by decide +kernel, by decide +kernel, by decide +kernel, fun e he => stands_of _ _ _ (by revert e; decide +kernel), by decide +kernel⟩

/-- Normal with a served ring 0 of one live cell node. -/
def noded (f : Chain → Chain) : State :=
  { up with phys := 100 * secNs,
            chn := f { rings := [(0, { service := .served, found := 1 })], nodes := [(0, { type := 1 })], started := true, scanHeld := true } }

theorem witness_ChainCycleSendsItsFrames :
    (let s := noded id
     sequencing s = true ∧ s.chn.pend = [] ∧ s.chn.scanHeld = true ∧ s.chn.started = true ∧ s.chn.cellNow = false ∧ deadNodes s 1 = [] ∧ deadNodes s 2 = [] ∧
       rateDue (advance 0 s) s.chn.auxAt (p0 s pAcqSsauxRate) = true ∧ rateDue (advance 0 s) s.chn.coarseAt (p0 s pAcqCoarseRate) = true ∧
       rateDue (advance 0 s) s.chn.statAt 1 = true ∧ (servedRings s).filter (fun r => (ringAt s r).tone) = [] ∧ ringServed s 0 = true ∧
       (mkeys s.chn.nodes).filter (fun a => !nodeLive s a) = [] ∧ cycleDue { s with met := { s.met with begun := true } } = true ∧
       strobeDue { s with met := { s.met with begun := true, sidx := 3 } } = true) ∧
    (let s := noded fun c => { c with strobed := true, cellNow := true, onOut := true, rings := [(0, { service := .served, found := 1, tone := true, offWait := [(true, 0)] })] }
     strobeNext s.chn = false ∧ s.chn.onOut = true ∧ (servedRings s).filter (fun r => (ringAt s r).tone) ≠ [] ∧ (ringAt s 0).offAgain = false ∧
       (ringAt s 0).offWait ≠ [] ∧ calNext (advance 0 s) 0 = some (0, 0, true) ∧ ringOf 0 = 0 ∧ (nodeOf s 0).type = 1 ∧
       (s.chn.pend.any fun p => p.ring == 0 && p.opc == 0x38) = false) ∧
    (let s := noded fun c => { c with strobed := true, cellNow := true }; sequencing s = true ∧ s.chn.strobed = true ∧ s.chn.cellNow = true ∧ s.chn.onOut = false ∧ s.chn.strOut = false) ∧
    (noded fun c => { c with started := false }).chn.started = false ∧
    (let s := noded fun c => { c with insertAt := some 1, tempDue := true }
     strobeNext s.chn = true ∧ s.chn.offOut = false ∧ s.chn.tempDue = true ∧ s.chn.cellNow = false ∧ s.chn.since ≠ 1) ∧
    (let s := noded fun c => { c with scanHeld := false, strobed := true }; fragmentDue s.chn 0 = true ∧ 0 + 1 < s.chn.frags) ∧
    (let s := noded fun c => { c with pending := some (20, 0), cycle := 5 }
     s.chn.pending = some (20, 0) ∧ s.chn.started = true ∧ (s.chn.cycle + 32768 - 0) % 32768 < 16384) ∧
    (let p : Pend := { ring := 0, bc := true, dir := true, hop := 0, opc := 0x22, tag := 0, data := [], hdr := 0x220000, tries := 0, sidx := 0 }
     let s := noded fun c => { c with pend := [p] }
     let t : Train := { ring := 0, rxEnd := .endB, hdr := 0x220000, payload := [], crc := 0, segs := [], tAB8 := none }
     pendOf s t = some p ∧ expected s p = [0]) := by
  decide +kernel

theorem witness_ScansAndCyclesAreEvaluated :
    podUp up = true ∧ (({} : Cond).entered = false) ∧ (({ entered := true } : Cond).entered = true) ∧
    (let s : State := { up with phys := 100 * secNs, prt := { g3wait := [(15, (0, none))] } }
     mfind s.prt.g3wait 15 = some (0, none) ∧ p0 s pPrtOpenWaitT * msNs ≤ s.phys + 0 - 0) ∧ condIn up .loss 0 = false := by
  decide +kernel

/-! ### Witnesses: balancing, estimation, impedance and the Husk -/

theorem witness_BalancingPlansAndHolds :
    podUp up = true ∧ (let s := noded id; nodeLive s 0 = true ∧ heldPlan (nodeOf s 0) = heldPlan (nodeOf s 0) ∧ [1] ≠ heldPlan (nodeOf s 0)) ∧
    (let s := noded fun c => { c with
        balance := [(3, { heldAt := some 0 })], nodes := [(0, { type := 1, plan := [1], left := [1], failed := false })] }
     nodeLive s 0 = true ∧ eligible s 3 0 = false ∧ (∃ b ∈ heldPlan (nodeOf s 0), b ≠ 0) ∧ (∃ b ∈ (nodeOf s 0).left, b ≠ 0) ∧ (∀ p ∈ s.chn.pend, p.opc ≠ 0x13) ∧ (balOf s 3).heldAt = some 0 ∧ (balOf s 3).stale = false) := by
  decide +kernel

/-- A cell's estimates. -/
def est0 : CellEst :=
  { soc := 0, vpa := 0, vpb := 0, p11 := 0, p12 := 0, p13 := 0, p22 := 0, p23 := 0, p33 := 0, cap := 100, capVar := 0, dflt := true, rAt := 0, cAt := 0
    socRep := 0 }

/-- Normal with string 0 of one cell node, its cell 0 estimated. -/
def estimated (e : CellEst) (l : Learn) : State :=
  { noded id with est := { cells := [(0, e)], learn := [(0, l)], backlog := [{ str := 0, charge := 0, cells := [], all := [] }] } }

theorem witness_EstimationPassesRun :
    arrayUp up = true ∧ podUp up = true ∧ ({ up.est with scanDue := [{ idx := 9, regular := true, cells := [], bled := [], strs := [], subs := [], sums := [], bus := none }] }.scanDue.getLast?.isSome = true) ∧ (learnOf (estimated est0 { restOver := some 7 }) 0).restOver = some 7 ∧
    (estimated est0 {}).est.backlog.find? (·.str == 0) = some { str := 0, charge := 0, cells := [], all := [] } ∧
    (0 ≤ est0.cap) ∧
    Stands (hosted (estimated est0 {}) 0x8001 [0, 0, 1, 0, 1]) rq0 0x8001 (txn 0x8001 [0, 0, 1, 0, 1]) ∧
    mfind (estimated est0 {}).est.cells 0 = some est0 := by
  refine ⟨by decide +kernel, by decide +kernel, rfl, rfl, rfl, by decide +kernel, stands_of _ _ _ (by decide +kernel), rfl⟩

/-- A step under way. -/
def step0 : Step := { trig := 0, iq := 0 }

theorem witness_ImpedanceStepsAreTakenAndFitted :
    (let s : State := { up with met := { sidx := 32 }, imp := { open_ := some step0 } }
     s.imp.open_ = some step0 ∧ step0.confirmed = false ∧ 32 ≤ idxDiff s.met.sidx step0.trig) ∧
    (let k := { step0 with confirmed := true }; planned up 3 k = some k ∧ k.failed = false ∧ k.ended = none ∧ mfind k.insts 3 = none ∧ up.chn.insertAt = none) ∧
    (let s : State := { up with imp := { closing := some step0, open_ := some step0 } }; s.imp.closing = some step0) ∧
    closable { step0 with confirmed := true, failed := true } = true ∧
    (let k := { step0 with strs := [(0, (0, 0))], hits := [0x120000] }; 0x120000 ∈ k.hits ∧ concerns up k 0x120000 = true) ∧
    arrayUp up = true := by
  decide +kernel

/-- Normal with the Husk armed and source trips as given. -/
def armed (trips : SMap Trip) : State := { up with phys := 100 * secNs, husk := { armed := true, heldRel := false, trips } }

theorem witness_HuskTripsLatchAndReset :
    canAssert up 0 = false ∧ (∀ c ∈ [0, 15, 26], canAssert (armed []) c = true ∧ (tripOf (armed []) c).asserted = false) ∧
    (sourceAction (armed []) 0 ≠ 0 ∧ (tripOf (armed [(0, { asserted := true, delaying := true })]) 0).delaying = true) ∧
    (podUp (armed []) = true ∧ (armed []).pod.shelled = false ∧ (armed []).husk.armed = true ∧ (armed []).husk.estop = false) ∧
    (∀ e ∈ ([(0x9002, []), (0x9003, []), (0x9004, [])] : List (Nat × Bytes)), Stands (hosted (armed []) e.1 e.2) rq0 e.1 (txn e.1 e.2)) ∧
    (let a : Arm := { port := .E, session := 0, latch := 0, time := 100 * secNs }
     armMine (txn 0x9003 []) a = true ∧ (armed []).phys + 0 - a.time ≤ armWindow ∧ latchWord (armed []) &&& (a.latch ^^^ 0xFFFFFFFF) = 0) ∧
    (let s : State := { armed [] with husk := { (armed []).husk with chgLine := some 0 } }
     lineStands (advance 0 s) s.husk.chgLine = true ∧ lineStands (advance 0 s) s.husk.disLine = false ∧ sldHolds s (-1000000) = true ∧ sldHolds s 0 = false) ∧
    bit (8 : BitVec 16).toNat 3 = true ∧ msNs ≤ msNs := by
  refine ⟨by decide +kernel, by decide +kernel, by decide +kernel, by decide +kernel, fun e he => stands_of _ _ _ (by revert e; decide +kernel),
    by decide +kernel, by decide +kernel, by decide, Nat.le_refl _⟩

/-! ### Witnesses: sequencing -/

/-- A join of a string requested at 0. -/
def join0 (j : Nat) : Join :=
  { str := j, report := false, reqAt := 0, setNum := none, window := none, lead := false, dwellAt := some 0, dwellOk := false, knAt := none, kpAt := none,
    hinder := none, sidx := 0, par := [] }

/-- Normal at 10,000 s, SAFE_OK holding, with sequencing as given; VB, VL and string 3 are measured. -/
def ordered (q : Seq) : State :=
  { given [(pk pChnRingEnable 0, 0)] with
            phys := 10000 * secNs, husk := { armed := true, heldRel := false }, seq := q
            met := { vb := { value := 100000, flags := 0 }, vl := { value := 100000, flags := 0 }, cur := { value := 100000, flags := 0 } }
            chn := { strings := [(3, { current := some 100000, vstr := some 6250 })] } }

/-- Sequencing configured for strings, block, pre-charge and disconnector. -/
def seq0 : Seq := { cfgStr := 0, cfgBlk := false, cfgPc := false, cfgDsc := false }

theorem witness_StringsJoinTheBus :
    Stands (hosted (ordered seq0) 0xA003 [8, 0]) rq0 0xA003 (txn 0xA003 [8, 0]) ∧
    (inService (ordered seq0) 3 = false ∧ joinOf (ordered seq0) 3 = none ∧ joinState (ordered seq0) 3 = none) ∧
    (isJoined (ordered { seq0 with strs := [(3, { inService := true })] }) 3 = true ∧ isJoined (ordered { seq0 with strs := [(3, { joined := true })] }) 3 = true) ∧
    (let s := ordered { seq0 with strs := [(4, { inService := true })] }
     isJoined s 3 = false ∧ joinOf s 3 = none ∧ joinState s 3 = none ∧ liveUnserved s (seqPars s) = false ∧ s.par.pendingRole = false) ∧
    (let s := ordered { seq0 with joins := [{ join0 3 with dwellOk := true }], strs := [(3, { auxFresh := true })] }
     nextJoin s = some 3 ∧ nextJoin (advance 0 s) = some 3 ∧ s.seq.settleTo ≤ s.phys + 0 ∧ joinState (advance 0 s) 3 = none ∧ joinData (advance 0 s) 3 = none ∧
       ∀ k ∈ s.seq.joins, k.knAt = none) ∧
    (let s := ordered { seq0 with joins := [join0 3] }
     keptN (join0 3).par pSeqJoinDwell * msNs ≤ s.phys + 0 - 0 ∧ s.seq.joins = [join0 3] ∧ (join0 3).hinder = none ∧ joinOf s 3 = some (join0 3) ∧
       s.seq.step ≠ .closeJoin ∧ keptN (join0 3).par pSeqJoinWaitT * secNs ≤ s.phys + 0 - (join0 3).reqAt) ∧
    (let k := { join0 3 with knAt := some 0 }; [k].find? (fun k => k.knAt.isSome && k.kpAt.isNone) = some k) ∧
    (let k := { join0 3 with knAt := some 0, kpAt := some 0 }; [k].find? (·.kpAt.isSome) = some k) ∧
    (let s := ordered { seq0 with strs := [(3, { inService := true, confPend := true, confAt := some 0, iTest := true })], mainTest := true }
     (strOf s 3).confPend = true ∧ (strOf s 3).confAt = some 0 ∧ p0 s pSeqKConfirmT * msNs ≤ s.phys + 0 - 0 ∧ iNow s = some 100000 ∧
       (strSample s 3).current = some 100000 ∧ (strOf s 3).iTest = true ∧ keptN s.seq.openPar pSeqWeldT * msNs ≤ s.phys + 0 - (strOf s 3).offAt ∧
       keptN s.seq.openPar pSeqWeldI * 1000 < (100000 : Int).natAbs ∧ s.seq.step = .none ∧ s.seq.mainTest = true ∧
       keptN s.seq.openPar pSeqWeldT * msNs ≤ s.phys + 0 - s.seq.mainOffAt) ∧
    (let s := ordered { seq0 with step := .closeJoin }
     joinOf s 3 = none ∧ s.seq.step = .closeJoin ∧ keptN s.seq.par pSeqJoinWaitT * secNs ≤ s.phys + 0 - s.seq.joinAt ∧
       (serviceList s).length < keptN s.seq.par pSeqMinStrings) := by
  refine ⟨stands_of _ _ _ (by decide +kernel), by decide +kernel, by decide +kernel, by decide +kernel, by decide +kernel, by decide +kernel,
    by decide +kernel, by decide +kernel, by decide +kernel, by decide +kernel⟩

theorem witness_BlockClosesThroughPrecharge :
    Stands (hosted (ordered seq0) 0xA001 [8, 0]) rq0 0xA001 (txn 0xA001 [8, 0]) ∧
    (closeRefusal (ordered seq0) = none ∧ (ordered seq0).seq.closed = false ∧ p0 (ordered seq0) pSeqDscMode ≠ 1 ∧
      (serviceList (ordered seq0)).length < keptN (seqPars (ordered seq0)) pSeqMinStrings) ∧
    closeRefusal (ordered {}) = some 0x10 ∧
    (let s := ordered { seq0 with step := .pcProbe, pathAt := some 0 }; keptN s.seq.par pSeqPcProbeT * msNs ≤ s.phys + 0 - 0) ∧
    (let s := ordered { seq0 with step := .pcMn, rampAt := some 0, mnAt := some 0, doneAt := some 0, pathAt := some 0 }
     ramping s = true ∧ doneWindow s = true ∧ keptN s.seq.par pSeqPcDoneT * msNs ≤ s.phys + 0 - 0 ∧ pcMode s ≠ 2 ∧ s.seq.shortDone = false ∧
       keptN s.seq.par pSeqPcShortT * msNs ≤ s.phys + 0 - 0 ∧ vlNow s = some 100000 ∧ keptN s.seq.par pSeqPcTmax * 100 * msNs ≤ s.phys + 0 - 0) ∧
    (let s := ordered { seq0 with step := .pcRamp, par := [(pk pSeqPcMode 0, 1)] }; ramping s = true ∧ pcMode s = 1) ∧
    ({ seq0 with step := .pcMp, mpAt := some 0 }.mpAt = some 0) := by
  refine ⟨stands_of _ _ _ (by decide +kernel), by decide +kernel, by decide +kernel, by decide +kernel, by decide +kernel, by decide +kernel, rfl⟩

/-- Normal with a motor-driven disconnector. -/
def driven (q : Seq) : State := { ordered q with par := { applied := [(pk pChnRingEnable 0, 0), (pk pSeqDscMode 0, 1)] } }

theorem witness_DisconnectorIsDriven :
    Stands (hosted (driven seq0) 0xA006 []) rq0 0xA006 (txn 0xA006 []) ∧ Stands (hosted (driven seq0) 0xA007 []) rq0 0xA007 (txn 0xA007 []) ∧
    (let s : State := { driven { seq0 with endOpen := true } with pos := { chans := [(0, { lock := .locked, ref := true })] } }
     dscCloseCheck s = none ∧ blockBusy s = false ∧ s.seq.step = .none ∧ p0 s pSeqDscMode = 1 ∧ s.seq.cfgDsc = false ∧ roleActive s 3 0 = false ∧
       roleActive s 4 0 = false ∧ sequencing s = true ∧ s.seq.endClosed = false) ∧
    (let s := driven { seq0 with dscStep := .dscDrive }; effectOn (advance 0 s) 5 = false ∧ 50 * msNs ≤ s.phys + 0 - s.seq.dscAt ∧
      keptN s.seq.par pSeqDscCloseT * 100 * msNs ≤ s.phys + 0 - s.seq.dscFrom) ∧
    (let q := { seq0 with dscStep := .dscMove, endClosed := true }; q.dscStep = .dscMove ∧ q.endClosed = true) ∧
    (let s := driven { seq0 with dscStep := .dscStop }; s.seq.step ≠ .closeDsc ∧ 100 * msNs ≤ s.phys + 0 - s.seq.dscAt) ∧
    (let s := driven { seq0 with dscStep := .openDsc }; keptN s.seq.openPar pSeqDscOpenT * msNs ≤ s.phys + 0 - s.seq.dscAt) := by
  refine ⟨stands_of _ _ _ (by decide +kernel), stands_of _ _ _ (by decide +kernel), by decide +kernel, by decide +kernel, by decide +kernel,
    by decide +kernel, by decide +kernel⟩

theorem witness_OpeningsAndClears :
    (∀ e ∈ ([(0xA002, [1]), (0xA004, [8, 0]), (0xA005, [8, 0, 4, 0]), (0xA005, [8, 0, 1, 0])] : List (Nat × Bytes)),
      Stands (hosted (ordered seq0) e.1 e.2) rq0 e.1 (txn e.1 e.2)) ∧
    (let s : State := { loaded 3 with phys := 10000 * secNs, seq := { (loaded 3).seq with step := .openWait, waitAt := some 0 } }
     s.seq.step = .openWait ∧ roleActive s 3 0 = true ∧ waitOver (advance 0 s) = true) ∧
    (∀ r ∈ [1, 2, 4], let o : OpenItem := { role := r, str := 3, due := 0 }; { seq0 with opens := [o] }.opens = [o] ∧ o.due ≤ (ordered seq0).phys + 0) ∧
    (stringOff (ordered seq0) 3 = true ∧ bit (ordered seq0).seq.openMask.toNat 3 = false ∧ joinOf (ordered seq0) 3 = none ∧
      (let s := hosted (ordered seq0) 0xA004 [8, 0]
       anyWaits s [0xA001, 0xA003] 3 = false ∧ ∀ x ∈ s.hub.txns, txnKey x = txnKey (txn 0xA004 [8, 0]) → x.opcode = 0xA004)) ∧
    stringOff (loaded 1) 0 = false ∧ 2 ≤ (txn 0xA005 []).role ∧ g3Called (ordered seq0) 3 = false := by
  refine ⟨fun e he => stands_of _ _ _ (by revert e; decide +kernel), by decide +kernel, by decide +kernel, by decide +kernel, by decide +kernel,
    by decide +kernel, by decide +kernel⟩

/-! ### Witnesses: loads, loops, position and temperatures -/

/-- Normal with load 0 on HS 0 and LS 1, its array clocked. -/
def wired (l : Load) (f : LoadArray → LoadArray) : State :=
  { up with phys := 10000 * secNs, lsw := f { loads := [(0, l)], defs := [(0, 0x80000100)], clock := true } }

theorem witness_LoadCommandsSwitchTheirLoads :
    (∀ e ∈ ([(0xB001, [1, 0, 0, 0, 0, 0, 0, 0, 0, 0, 0, 0]), (0xB002, [1, 0, 0, 0, 0, 0, 0, 0]), (0xB003, [1, 0, 0, 0, 0, 0, 0, 0, 3, 0, 0, 0])] :
      List (Nat × Bytes)), Stands (hosted (wired {} id) e.1 e.2) rq0 e.1 (txn e.1 e.2)) ∧
    (let s := wired { state := .off } id
     loadDef s 47 = none ∧ hostOwned s 0 = true ∧ onRefusal s 0 = none ∧ s.lsw.clock = true ∧ gapFree s = true ∧ admitted s 0 = true ∧ loadLs s 0 = some 1 ∧
       hsOnly s 0 = false) ∧
    active (loadOf (wired { state := .on } id) 0) = true ∧ waits (loadOf (wired { state := .waiting } id) 0) = true ∧
    ((loaded 3).lsw.clock = false ∧ hostOwned (loaded 3) 0 = false ∧ (loadDef (loaded 3) 0).isSome = true) ∧
    ({ txn 0xB003 [] with role := 1 }.role < 2) := by
  refine ⟨fun e he => stands_of _ _ _ (by revert e; decide +kernel), by decide +kernel, by decide +kernel, by decide +kernel, by decide +kernel, by decide⟩

theorem witness_LoadEventsFollowTheirRules :
    (let s := wired { state := .waiting } fun a => { a with queue := [0] }
     s.lsw.queue = [0] ∧ s.lsw.overload = false ∧ waits (loadOf s 0) = true ∧ gapFree s = true ∧ admitted s 0 = true ∧ (0 ∉ huskHeld s) ∧ (0 ∉ gated s) ∧
       (loadOf s 0).resume = false ∧ p0 s pLswStaggerMax * msNs ≤ s.phys + 0 - (loadOf s 0).waitAt ∧ s.par.pendingDef = []) ∧
    (let s := wired { state := .inrush, starting := true } fun a => { a with hs := [(0, { on := true })], ls := [(1, { on := true })] }
     loadHs s 0 = some 0 ∧ s.lsw.clock = true ∧ isActive s 0 = true ∧ (loadOf s 0).starting = true ∧ gapFree (advance 0 s) = true ∧
       (chanOf s (.hs 0)).on = true ∧ Chan.hs 0 ∈ chansOf s 0) ∧
    (let s := wired { state := .inrush } id; active (loadOf s 0) = true ∧ (loadOf s 0).starting = false ∧ (loadOf s 0).envDone = false) ∧
    (let s := wired { state := .hold } id; loadLs s 0 = some 1 ∧ (loadOf s 0).state = .hold) ∧
    (let s := wired { state := .thermal, resume := true, recovAt := some 0 } fun a => { a with ls := [(1, { cooling := true })] }
     (chanOf s (.ls 1)).cooling = true ∧ Chan.ls 1 ∈ chansOf s 0 ∧ (loadOf s 0).state = .thermal) ∧
    (let s : State := { up with lsw := { loads := [(0, { state := .gated })], defs := [(0, 0x9C000100)] } }
     (loadDef s 0) = some 0x9C000100 ∧ bit 0x9C000100 28 = true ∧ bits 0x9C000100 27 26 = 3 ∧ (0 ∉ huskHeld s) ∧ (loadOf s 0).state = .gated ∧
       0 ∉ gated (withLsw s fun a => { a with lg := s.lsw.lg ||| BitVec.ofNat 4 (2 ^ 3) })) ∧
    ({ (wired {} id).lsw with locked := true }.locked = true ∧ (wired {} id).lsw.queue = []) := by
  decide +kernel

/-- Normal with loop 5 configured from AI 1 to PW 1 and in a state. -/
def looped (l : Loop) : State :=
  { given [(pk pCtlLoopCfg 5, 0x08000100)] with phys := 10000 * secNs, ctl := { loops := [(5, l)] } }

theorem witness_LoopsFollowTheirTicks :
    (∀ e ∈ ([(0xC001, [32, 0]), (0xC001, [32, 32]), (0xC002, [5, 1, 0])] : List (Nat × Bytes)),
      Stands (hosted (looped {}) e.1 e.2) rq0 e.1 (txn e.1 e.2) ∧ (hosted (looped {}) e.1 e.2).hub.txns = [txn e.1 e.2]) ∧
    (let s := looped {}
     reserved s 5 = false ∧ cfgMeas (loopCfg s 5) ≠ 0 ∧ cfgSink (loopCfg s 5) ≠ 0 ∧ sinkGated s 5 = false ∧ loopRuns s 5 = false ∧ mwf s.par.applied = true) ∧
    sequencing State.reset = false ∧
    (let s := looped { state := .running, placed := true, div := 1, phase := 0 }
     sequencing s = true ∧ s.husk.pwmOff = false ∧ s.par.staged = [] ∧ loopRuns s 5 = true ∧ (loopOf s 5).placed = true ∧
       (s.ctl.tick + 1) % max 1 (loopOf s 5).div = (loopOf s 5).phase ∧ (loopOf s 5).setp = none ∧ (∀ j < 8, j ≠ 5 → loopRuns s j = false)) ∧
    (let s := looped { state := .running, placed := true, div := 10, phase := 5 }
     ∀ k < 8, loopRuns s k = true → (loopOf s k).placed = true → (s.ctl.tick + 1) % max 1 (loopOf s k).div ≠ (loopOf s k).phase) ∧
    ((outLimits (looped {}) 5).1 ≤ (outLimits (looped {}) 5).2) ∧
    (let s := looped { state := .running, ffAt := some 0 }
     loopRuns s 5 = true ∧ reserved s 5 = false ∧ (loopOf s 5).ffAt = some 0 ∧ 10 * msNs ≤ s.phys + 0 - 0) := by
  refine ⟨fun e he => ⟨stands_of _ _ _ (by revert e; decide +kernel), rfl⟩, by decide +kernel, by decide +kernel, by decide +kernel, by decide +kernel,
    by decide +kernel, by decide +kernel⟩

/-- Normal with channel 1 enabled, its index by command, in a state. -/
def placed (c : PosChan) : State :=
  { given [(pk pPosEnable 1, 1), (pk pPosIdxMode 1, 2)] with phys := 10000 * secNs, pos := { chans := [(1, c)], pulses := [(0, 0)] } }

theorem witness_PositionFollowsItsSamples :
    (∀ e ∈ ([(0xD001, [2]), (0xD002, [2, 0, 0, 0, 0])] : List (Nat × Bytes)), Stands (hosted (placed {}) e.1 e.2) rq0 e.1 (txn e.1 e.2)) ∧
    (let s := placed { lock := .locked, armed := true }
     s.husk.pwmOff = false ∧ posEnabled s 1 = true ∧ posEnabled s 0 = false ∧ pn s pPosIdxMode 1 = 2 ∧ (chanAt s 1).lock = .locked ∧ sequencing s = true ∧ s.par.staged = [] ∧
       p0 s pSeqDscMode ≠ 1 ∧ s.pos.slp = false ∧ mwf s.pos.pulses = true ∧ mfind s.pos.pulses 0 = some 0 ∧ (chanAt s 1).quad = pn s pPosIdxQuad 1) ∧
    ((chanAt (placed { lock := .acquiring, good := 63 }) 1).lock ≠ .locked) ∧
    (let s := placed { lock := .lost, lossAt := some 0 }; (chanAt s 1).lossAt = some 0 ∧ 2 * msNs ≤ s.phys + 0 - 0) ∧
    sequencing State.reset = false ∧ mfind (chanAt (placed {}) 1).entries 0 = none := by
  refine ⟨fun e he => stands_of _ _ _ (by revert e; decide +kernel), by decide +kernel, by decide +kernel, by decide +kernel, by decide +kernel,
    by decide +kernel⟩

theorem witness_ThermalManagerFollowsItsSensors :
    podUp State.reset = false ∧
    (podUp up = true ∧ up.thm.defs = [] ∧ (∀ e < 16, bit (pn up pThmActDef e) 31 = false) ∧ 0 < p0 up pThmDwell ∧
      ∀ i, i = 2 ∨ i = 3 → (levelOf up i).active = false ∧ (levelOf up i).hover = false ∧ (levelOf up i).since = none) ∧
    (sensorBad {} none none = true ∧ sensorBad {} none (some 15000) = false ∧ sensorBad {} none (some (-5500)) = false ∧
      sensorBad {} none (some 15001) = true ∧ sensorBad {} none (some (-5501)) = true) ∧
    (0 ≤ pv up pThmHyst 0 ∧ (levelOf up 0).hover = false) ∧
    (let s : State := { up with phys := 10000 * secNs, thm := { defs := [(15, 0x80000000)], entries := [(15, { active := true, failed := true, failedAt := some 0 })] } }
     mfind s.thm.defs 15 = some 0x80000000 ∧ podUp s = true ∧ (entryOf s 15).active = true ∧ (entryOf s 15).failed = true ∧
       (entryOf s 15).failedAt = some 0 ∧ p0 s pThmRetryT * secNs ≤ s.phys + 0 - 0) := by
  refine ⟨by decide +kernel, ⟨by decide +kernel, rfl, by decide +kernel, by decide +kernel, fun i hi => ?_⟩, by decide +kernel, by decide +kernel,
    by decide +kernel⟩
  rcases hi with rfl | rfl <;> decide

/-! ### Worked examples of the spec -/

/-- R55: the check value of CRC-16/CCITT-FALSE. -/
theorem test_crc16 : crc16 (ascii "123456789") = 0x29B1 := by decide +kernel

/-- R384: the epoch passes from 0xFFFF to 0x0001. -/
theorem test_epoch : nextEpoch 0xFFFF = 1 ∧ nextEpoch 1 = 2 := by decide

/-- A command in front of the queue is taken, and its time passes. -/
theorem test_step : (match step { State.reset with pending := [.scrubPass 3 0, .scrubPass 1 0] } with
    | .next t => t.phys == 3 && t.pending == [.scrubPass 1 0]
    | _ => false) = true := by decide +kernel

/-- R371: an antifuse not programmed reads 0. -/
theorem test_otp : cellRead State.reset.pod.otp 0x1100 = 0 := by decide



/-! ### Witnesses: the completions -/

theorem witness_BulbCommandsComplete :
    (let p := { (at_ .off .cold).pow with endReason := 0x22 }; p.phase = .off ∧ p.endReason = 0x22) ∧
    (∀ w, bit { (at_ .bulb .cold).pow with wakeSrc := 3 }.wakeSrc (b2n w) = true) ∧
    ((at_ .bulbWake .cold).pow.phase = .bulbWake ∧ 60 * secNs ≤ (at_ .bulbWake .cold).phys + 0 - (at_ .bulbWake .cold).pow.phaseAt) := by
  decide +kernel

theorem witness_ThermalAndSupervisorComplete :
    ((at_ .normal .cold).pow.phase = .normal ∧ (11800 : Int) ≤ 11800) ∧
    (let p := { (at_ .thermal .cold).pow with restartOk := some (40 * secNs), auxOk := true }; p.phase = .thermal ∧ p.restartOk = some (40 * secNs) ∧
      60 * secNs ≤ (at_ .thermal .cold).phys + 0 - 40 * secNs ∧ p.auxOk = true) ∧
    ((at_ .cress .cold).pow.phase = .cress ∧ { (at_ .cress .cold).pod with heldReset := true }.heldReset = true) := by
  decide +kernel

theorem witness_SupplyWarningsComplete :
    level up = 2 ∧ up.pow.auxWarn = false ∧ 0 < p0 up pPwrAuxWarn ∧ { up.pow with auxWarn := true }.auxWarn = true ∧
    up.pow.battWarn = false ∧ 0 < p0 up pPwrBattWarn ∧ { up.pow with battWarn := true }.battWarn = true := by
  decide +kernel

theorem witness_LoadAdmissionCommandsComplete :
    ((wired {} id).lsw.queue = [] ∧ (wired {} id).lsw.overload = false) ∧
    (let s := wired { state := .waiting } fun a => { a with queue := [0] }
     waits (loadOf s 0) = true ∧ (loadOf s 0).resume = false ∧ p0 s pLswStaggerMax * msNs ≤ s.phys + 0 - (loadOf s 0).waitAt) ∧
    (let s := wired { state := .inrush, starting := true } fun a => { a with ls := [(1, { on := true })] }
     loadHs s 0 = some 0 ∧ s.lsw.clock = true ∧ isActive s 0 = true ∧ (loadOf s 0).starting = true ∧ gapFree (advance 0 s) = true ∧ (hsOf s 0).on = false) := by
  decide +kernel

theorem witness_ChannelEventsComplete :
    (let s := wired {} fun a => { a with hs := [(0, { on := true })], ls := [(39, { cooling := true })] }
     (chanOf s (.hs 0)).on = true ∧ (chanOf s (.hs 0)).warm = false ∧ (∀ n ∈ loadsOn s (.hs 0), isActive s n = false) ∧
       (chanOf s (.ls 39)).cooling = true ∧ ∀ n ∈ loadsOn s (.ls 39), (loadOf s n).state ≠ .thermal) := by
  decide +kernel

theorem witness_LoadArrayEventsComplete :
    isActive (wired { state := .on } id) 0 = true ∧
    (let s : State := { up with lsw := { defs := [(0, 0x82000000)] } }; m2304 s 0 = true ∧ (loadOf s 0).fwMiss = false) ∧
    (let s := wired {} fun a => { a with hist := [(0, 33000)] }; s.lsw.overload = false ∧ 32000 < loadMean s) ∧
    (let s := wired {} fun a => { a with locked := true, clamp := 0, clampAt := 10000 * secNs }
     s.lsw.locked = true ∧ s.lsw.queue = [] ∧
       s.lsw.clamp * expNeg (((s.phys + 0 - s.lsw.clampAt : Nat) : Rat) / (10 * secNs : Nat)) < (p0 s pLswClampESum * 5 : Nat)) := by
  decide +kernel

theorem witness_PositionEventsComplete :
    (let s := placed { lock := .locked, armed := true, crossAt := some 0, crossUp := true }
     sequencing s = true ∧ s.husk.pwmOff = false ∧ (chanAt s 1).lock = .locked ∧ (chanAt s 1).quad = pn s pPosIdxQuad 1 ∧ pn s pPosIdxMode 1 = 2 ∧
       (chanAt s 1).armed = true ∧ mfind s.pos.pulses 0 = some 0 ∧ 0 ≤ s.phys + 0 ∧ (chanAt s 1).crossAt.isSome = true ∧ (chanAt s 1).crossUp = true) ∧
    (let s := placed { lock := .lost, lossAt := some 0 }; (chanAt s 1).lossAt = some 0 ∧ 2 * msNs ≤ s.phys + 0 - 0) := by
  decide +kernel

theorem witness_PositionCommandsComplete :
    Stands (hosted (placed {}) 0xD001 [2]) rq0 0xD001 (txn 0xD001 [2]) ∧ (num [2] 0 1 = 2 ^ 1 ∧ posEnabled (placed {}) 1 = true ∧
      pn (placed {}) pPosIdxMode 1 = 2 ∧ (chanAt (placed {}) 1).armed = false) ∧
    (let s := placed { lock := .locked }
     Stands (hosted s 0xD002 [2, 0, 0, 0, 0]) rq0 0xD002 (txn 0xD002 [2, 0, 0, 0, 0]) ∧ (chanAt s 1).lock = .locked) :=
  ⟨stands_of _ _ _ (by decide +kernel), by decide +kernel, stands_of _ _ _ (by decide +kernel), rfl⟩

theorem witness_HeadlineCapacitiesHold :
    ({ newEvent up 0x0101 0 0xFF 0 [] with cls := 0 } : Event).reserved = false ∧ up.log.records.length ≤ ledgerSlots ∧
    (makeRoom false 0 0 false up.log).isSome = true ∧ (entryFor up .E 0).isSome = true := by
  decide +kernel

end Sys2Proof.Tests
end

section
/-!
PROOF. The headline capacities (Table 01.9): the event FIFO, the ledger, the transaction table, the capture buffer and the catalogue.
-/
namespace Sys2Proof.Machine
open Sys2Proof

/-! ### The event FIFO (R472, R474) -/

/-- A FIFO within its two capacities whose reserved entries are all of class 0 (R472). -/
def FifoFits (f : List Event) : Prop :=
  (f.filter (·.reserved)).length ≤ 64 ∧ (f.filter fun x => !x.reserved).length ≤ 960 ∧ ∀ x ∈ f, x.reserved = true → x.cls = 0

theorem FifoFits.append_reserved {f : List Event} {e : Event} (h : FifoFits f) (free : fifoReservedFree f = true) (h0 : e.cls = 0) :
    FifoFits (f ++ [{ e with reserved := true }]) := by
  obtain ⟨_, general, cls0⟩ := h
  have room : (f.filter (·.reserved)).length < 64 := of_decide_eq_true free
  refine ⟨?_, ?_, ?_⟩
  · simpa using room
  · simpa using general
  · intro x hx hr
    rcases List.mem_append.mp hx with old | new
    · exact cls0 x old hr
    · rw [List.mem_singleton.mp new]; exact h0

theorem FifoFits.append_general {f : List Event} {e : Event} (h : FifoFits f) (free : fifoGeneralFree f = true) (he : e.reserved = false) :
    FifoFits (f ++ [e]) := by
  obtain ⟨reserved, _, cls0⟩ := h
  have room : (f.filter fun x => !x.reserved).length < 960 := of_decide_eq_true free
  refine ⟨?_, ?_, ?_⟩
  · simpa [he] using reserved
  · simpa [he] using room
  · intro x hx hr
    rcases List.mem_append.mp hx with old | new
    · exact cls0 x old hr
    · rw [List.mem_singleton.mp new, he] at hr; contradiction

/-- What `dropOldest` takes out: one entry of class 1 to 3, the others staying in their order. -/
theorem dropOldest_eq_some {f g : List Event} {c : Nat} (h : dropOldest f = some (c, g)) :
    ∃ before x after, f = before ++ x :: after ∧ g = before ++ after ∧ x.cls ≠ 0 := by
  induction f generalizing g with
  | nil => cases h
  | cons e es ih =>
    by_cases h0 : e.cls = 0
    · rw [dropOldest, if_pos h0, Option.map_eq_some_iff] at h
      obtain ⟨⟨c', g'⟩, hd, heq⟩ := h
      cases heq
      obtain ⟨before, x, after, rfl, rfl, hx⟩ := ih hd
      exact ⟨e :: before, x, after, rfl, rfl, hx⟩
    · rw [dropOldest, if_neg h0] at h
      cases h
      exact ⟨[], e, es, rfl, rfl, h0⟩

/-- The dropped entry is of class 1 to 3, so it is a general one, and the FIFO without it has a general entry free. -/
theorem FifoFits.dropOldest {f g : List Event} {c : Nat} (h : FifoFits f) (hd : dropOldest f = some (c, g)) :
    FifoFits g ∧ fifoGeneralFree g = true := by
  obtain ⟨before, x, after, rfl, rfl, hx⟩ := dropOldest_eq_some hd
  obtain ⟨reserved, general, cls0⟩ := h
  have hg : x.reserved = false := Bool.eq_false_iff.mpr fun hr => hx (cls0 x (by simp) hr)
  have room : ((before ++ after).filter fun y => !y.reserved).length < 960 := by
    simp [hg] at general ⊢; omega
  refine ⟨⟨?_, room.le, fun y hy => cls0 y ?_⟩, decide_eq_true room⟩
  · simpa [hg] using reserved
  · exact ((List.sublist_cons_self x after).append_left before).subset hy

/-- R472, R474: placing an entry keeps the FIFO within its capacities, whichever entry it takes or drops. -/
theorem fifoPlace_fits (now : Nat) {e : Event} {l : Ledger} (he : e.reserved = false) (h : FifoFits l.fifo) :
    FifoFits (fifoPlace now e l).fifo := by
  unfold fifoPlace
  split
  next hres => exact h.append_reserved hres.2 hres.1
  next =>
    split
    next hgen => exact h.append_general hgen he
    next =>
      split
      next hd =>
        obtain ⟨fits, free⟩ := h.dropOldest hd
        exact fits.append_general free he
      next => exact h

/-! ### The ledger (R475, R480) -/

theorem eraseFirst_eq_eraseP {α : Type} (p : α → Bool) (l : List α) : eraseFirst p l = l.eraseP p := by
  induction l with
  | nil => rfl
  | cons x xs ih => by_cases h : p x <;> simp [eraseFirst, h, ih]

theorem length_eraseFirst_lt {α : Type} {p : α → Bool} {l : List α} (h : ∃ x ∈ l, p x = true) : (eraseFirst p l).length < l.length := by
  obtain ⟨x, hx, hp⟩ := h
  have pos := List.length_pos_of_mem hx
  rw [eraseFirst_eq_eraseP, List.length_eraseP_of_mem hx hp]
  omega

/-- A ledger with all slots in use counts a slot free only for an acknowledged record (R478, R479). -/
theorem exists_acked_of_freeSlots_pos {l : Ledger} (full : ledgerSlots ≤ l.records.length) (free : 0 < freeSlots l) :
    ∃ r ∈ l.records, (!unacked l r) = true := by
  by_contra none_acked
  have all : l.records.filter (unacked l) = l.records :=
    List.filter_eq_self.mpr fun r hr => by
      by_contra hu; exact none_acked ⟨r, hr, by simpa using hu⟩
  rw [freeSlots, all] at free
  omega

/-- R480: a ledger that gives room to a record has fewer records than slots. -/
theorem makeRoom_length_lt {hold lost : Bool} {reserve cls : Nat} {l l' : Ledger} (hl : l.records.length ≤ ledgerSlots)
    (h : makeRoom hold reserve cls lost l = some l') : l'.records.length < ledgerSlots := by
  unfold makeRoom at h
  split at h
  next => cases h
  next =>
  split at h
  next room => cases h; exact room
  next full =>
  split at h
  next =>
    split at h
    next empty => cases h; simp [empty]
    next r rs hrs =>
      cases h
      rw [hrs] at hl
      exact hl
  next =>
  split at h
  next free =>
    cases h
    exact (length_eraseFirst_lt (exists_acked_of_freeSlots_pos (not_lt.mp full) free)).trans_le hl
  next =>
  split at h
  next low =>
    cases h
    exact (length_eraseFirst_lt (List.any_eq_true.mp low.2)).trans_le hl
  next => cases h

/-! ### The transaction table (R422) -/

/-- R422: an entry is given only from a pool that has one free. -/
theorem pool_free_of_entryFor {s : State} {p : Port} {c : Nat} {reserved : Bool} (h : entryFor s p c = some reserved) :
    if reserved then reservedUsed s < 64 else generalUsed s < 960 := by
  unfold entryFor at h
  split_ifs at h with _ _ reservedFree generalFree quota <;> cases h
  · exact reservedFree
  · exact generalFree
  · exact quota.2

/-! ### The capture buffer (Table 01.9) -/

theorem capDepth_mul_le (words : Nat) : capDepth words * words ≤ 262144 := Nat.div_mul_le_self _ _

theorem capPre_le_capDepth (words : Nat) {pct : Nat} (h : pct ≤ 100) : capPre words pct ≤ capDepth words :=
  Nat.div_le_of_le_mul (by rw [Nat.mul_comm 100]; exact Nat.mul_le_mul_left _ h)

/-! ### The catalogue (R45) -/

/-- The catalogue holds the parameter IDs and the information IDs of each of its 16 groups. -/
theorem catalogueIds_length :
    catalogueIds.length = ((List.range 16).map fun g => (groupParams g).length + infoCount g).sum := by
  simp only [catalogueIds, List.length_flatMap, List.length_append, List.length_map, List.length_range]

/-- Settles O50: the bounds of each store as what is added to it keeps them. -/
theorem headlineCapacitiesHold : Obligations.HeadlineCapacitiesHold := by
  refine ⟨?_, ?_, ?_, ?_, ?_⟩
  · exact fun now _ _ he => fifoPlace_fits now he
  · exact fun _ _ _ _ _ _ => makeRoom_length_lt
  · exact fun _ _ _ => ⟨pool_free_of_entryFor (reserved := true), pool_free_of_entryFor (reserved := false)⟩
  · exact fun words _ => ⟨capDepth_mul_le words, capPre_le_capDepth words⟩
  · rw [catalogueIds_length]; decide

end Sys2Proof.Machine
end

section
/-!
PROOF. The chain sequencer's operations: what each of them changes of the chain, a ring read back after a change, and the frames a launch
adds to those sent (R50 to R55).
-/
namespace Sys2Proof.Machine
open Sys2Proof

/-! ### The chain under operations on other units -/

theorem Only.chn_eq {ps : List Part} {s t : State} (h : Only ps s t) (k : Part.chn ∉ ps := by decide) : t.chn = s.chn := h .chn k
theorem Only.par_eq {ps : List Part} {s t : State} (h : Only ps s t) (k : Part.par ∉ ps := by decide) : t.par = s.par := h .par k
theorem Only.hub_eq {ps : List Part} {s t : State} (h : Only ps s t) (k : Part.hub ∉ ps := by decide) : t.hub = s.hub := h .hub k
theorem Only.phys_eq {ps : List Part} {s t : State} (h : Only ps s t) (k : Part.phys ∉ ps := by decide) : t.phys = s.phys := h .phys k
theorem Only.pow_eq {ps : List Part} {s t : State} (h : Only ps s t) (k : Part.pow ∉ ps := by decide) : t.pow = s.pow := h .pow k

@[simp] theorem post_chn (k cls inst : _) (p : Bytes) (s : State) : (post k cls inst p s).chn = s.chn :=
  Only.chn_eq (ps := [.log]) (by simp)

@[simp] theorem assertSource_chn (src : Nat) (m : BitVec 16) (s : State) : (assertSource src m s).chn = s.chn :=
  Only.chn_eq (ps := [.free, .par, .hub, .met, .husk, .seq, .lsw, .ctl, .thm, .log]) (by simp)

@[simp] theorem releaseSource_chn (src : Nat) (s : State) : (releaseSource src s).chn = s.chn :=
  Only.chn_eq (ps := [.free, .par, .hub, .husk, .seq, .lsw, .ctl, .pos, .thm, .log]) (by simp)

@[simp] theorem endItems_chn (ops : List Nat) (i c : Nat) (s : State) : (endItems ops i c s).chn = s.chn :=
  Only.chn_eq (ps := [.hub]) (by simp)

@[simp] theorem endItem_chn (key : Nat × Nat) (i c : Nat) (s : State) : (endItem key i c s).chn = s.chn :=
  Only.chn_eq (ps := [.hub]) (by simp)

@[simp] theorem impCurrent_chn (j sidx : Nat) (i : Int) (s : State) : (impCurrent j sidx i s).chn = s.chn :=
  Only.chn_eq (ps := [.imp]) (by simp)

/-! ### What the schedule is -/

/-- The chain apart from its rings, its nodes and the frames launched and awaited. -/
def Chain.schedule (c : Chain) : Chain := { c with rings := [], nodes := [], frames := [], pend := [] }

/-- A ring apart from the counters a launch moves on: the tag, the sequence number and the times its lanes are busy until. -/
def Ring.standing (g : Ring) : Ring := { g with seq := 0, tag := 0, laneA := 0, laneB := 0 }

theorem foldl_keeps {α β : Type} {p : State → β} {f : State → α → State} (h : ∀ t x, p (f t x) = p t) (l : List α) (s : State) :
    p (l.foldl f s) = p s := by
  induction l generalizing s with
  | nil => rfl
  | cons x l ih => rw [List.foldl_cons, ih, h]

/-! ### A ring, a node and the schedule after a change -/

@[simp] theorem ringAt_advance (dt : Nat) (s : State) (r : Nat) : ringAt (advance dt s) r = ringAt s r := rfl

theorem ringAt_congr {s t : State} (h : t.chn.rings = s.chn.rings) (r : Nat) : ringAt t r = ringAt s r := by simp [ringAt, h]

@[simp] theorem modRing_chn (r : Nat) (f : Ring → Ring) (s : State) :
    (modRing r f s).chn = { s.chn with rings := mmod {} s.chn.rings r f } := rfl

@[simp] theorem ringAt_modRing_self (r : Nat) (f : Ring → Ring) (s : State) : ringAt (modRing r f s) r = f (ringAt s r) :=
  mget_mmod_self _ _ _ _

theorem ringAt_modRing_other {r k : Nat} (f : Ring → Ring) (s : State) (h : k ≠ r) : ringAt (modRing r f s) k = ringAt s k :=
  mget_mmod_other _ _ _ h

@[simp] theorem modNode_rings (a : Nat) (f : Node → Node) (s : State) : (modNode a f s).chn.rings = s.chn.rings := by
  unfold modNode; split <;> rfl
@[simp] theorem modNode_frames (a : Nat) (f : Node → Node) (s : State) : (modNode a f s).chn.frames = s.chn.frames := by
  unfold modNode; split <;> rfl
@[simp] theorem modNode_schedule (a : Nat) (f : Node → Node) (s : State) : (modNode a f s).chn.schedule = s.chn.schedule := by
  unfold modNode; split <;> rfl

@[simp] theorem modRing_schedule (r : Nat) (f : Ring → Ring) (s : State) : (modRing r f s).chn.schedule = s.chn.schedule := rfl

/-! ### A launch -/

/-- The frame a ring launches next, apart from the instant at which its lane is free. -/
def nextFrame (g : Ring) (r : Nat) (dir bc : Bool) (hop opc : Nat) (data : List (BitVec 16)) : Frame :=
  let tag := (g.tag + 1) % 1024
  let words := BitVec.ofNat 16 (g.seq + 1) :: data
  let hdr := headerOf dir bc hop opc tag words.length
  { ring := r, dir, bc, hop, opc, tag, data := words, hdr, crc := frameCrc hdr words, times := 1, at_ := 0 }

theorem Sends.trans {s t u : State} {fs gs : List Frame} (h : Sends s t fs) (k : Sends t u gs) : Sends s u (fs ++ gs) := by
  obtain ⟨l, hl, rfl⟩ := h
  obtain ⟨m, hm, rfl⟩ := k
  exact ⟨l ++ m, by rw [hm, hl, List.append_assoc], List.map_append⟩

theorem Sends.of_frames_eq {s t : State} (h : t.chn.frames = s.chn.frames) : Sends s t [] := ⟨[], by simp [h], rfl⟩

/-- Only the frames of the two states count. -/
theorem Sends.congr {s s' t t' : State} {fs : List Frame} (h : Sends s t fs) (hs : s'.chn.frames = s.chn.frames)
    (ht : t'.chn.frames = t.chn.frames) : Sends s' t' fs := by
  obtain ⟨l, hl, hfs⟩ := h
  exact ⟨l, by rw [ht, hs, hl], hfs⟩

section launches
variable (n r : Nat) (dir bc : Bool) (hop opc : Nat) (data : List (BitVec 16)) (s : State)

@[simp] theorem launchTimes_schedule : (launchTimes n r dir bc hop opc data s).chn.schedule = s.chn.schedule := rfl
@[simp] theorem launchTimes_nodes : (launchTimes n r dir bc hop opc data s).chn.nodes = s.chn.nodes := rfl
@[simp] theorem launch_schedule : (launch r dir bc hop opc data s).chn.schedule = s.chn.schedule := rfl
@[simp] theorem launch_nodes : (launch r dir bc hop opc data s).chn.nodes = s.chn.nodes := rfl

theorem ringAt_launchTimes_other {k : Nat} (h : k ≠ r) : ringAt (launchTimes n r dir bc hop opc data s) k = ringAt s k :=
  (ringAt_modRing_other _ _ h).trans rfl

@[simp] theorem standing_launchTimes (k : Nat) :
    (ringAt (launchTimes n r dir bc hop opc data s) k).standing = (ringAt s k).standing := by
  by_cases h : k = r
  · subst h; unfold launchTimes; rw [ringAt_modRing_self]; rfl
  · rw [ringAt_launchTimes_other _ _ _ _ _ _ _ _ h]

theorem ringAt_launch_other {k : Nat} (h : k ≠ r) : ringAt (launch r dir bc hop opc data s) k = ringAt s k :=
  (ringAt_launchTimes_other _ _ _ _ _ _ _ _ h).trans (ringAt_modRing_other _ _ h)

theorem tag_launchTimes : (ringAt (launchTimes n r dir bc hop opc data s) r).tag = ((ringAt s r).tag + n) % 1024 := by
  unfold launchTimes; rw [ringAt_modRing_self]; rfl

theorem seq_launchTimes : (ringAt (launchTimes n r dir bc hop opc data s) r).seq = (ringAt s r).seq := by
  unfold launchTimes; rw [ringAt_modRing_self]; rfl

/-- A launch takes the ring's next tag (R50). -/
theorem tag_launch : (ringAt (launch r dir bc hop opc data s) r).tag = ((ringAt s r).tag + 1) % 1024 := by
  rw [launch, launchSeq, tag_launchTimes, ringAt_modRing_self]

/-- A launch takes the ring's next sequence number (R52). -/
theorem seq_launch : (ringAt (launch r dir bc hop opc data s) r).seq = ((ringAt s r).seq + 1) % 65536 := by
  rw [launch, launchSeq, seq_launchTimes, ringAt_modRing_self]

@[simp] theorem standing_launch (k : Nat) : (ringAt (launch r dir bc hop opc data s) k).standing = (ringAt s k).standing := by
  unfold launch launchSeq
  rw [standing_launchTimes]
  by_cases h : k = r
  · subst h; rw [ringAt_modRing_self]; rfl
  · rw [ringAt_modRing_other _ _ h]

theorem sends_launch : Sends s (launch r dir bc hop opc data s) [nextFrame (ringAt s r) r dir bc hop opc data] := by
  refine ⟨_, rfl, ?_⟩
  simp only [List.map_cons, List.map_nil, Frame.timeless, ringAt_modRing_self]
  rfl

end launches

end Sys2Proof.Machine
end

section
/-!
PROOF. Frames launched on a ring and awaited, a step made for each of several rings, and what keeps the sequencer's schedule (R50 to R55, R73).
-/
namespace Sys2Proof.Machine
open Sys2Proof

/-! ### Frames awaited, and frames of a ring -/

section awaits
variable (tries sidx : Nat) (s : State)

@[simp] theorem await_rings : (await tries sidx s).chn.rings = s.chn.rings := by unfold await; split <;> rfl
@[simp] theorem await_nodes : (await tries sidx s).chn.nodes = s.chn.nodes := by unfold await; split <;> rfl
@[simp] theorem await_frames : (await tries sidx s).chn.frames = s.chn.frames := by unfold await; split <;> rfl
@[simp] theorem await_schedule : (await tries sidx s).chn.schedule = s.chn.schedule := by unfold await; split <;> rfl
@[simp] theorem ringAt_await (r : Nat) : ringAt (await tries sidx s) r = ringAt s r := ringAt_congr (await_rings tries sidx s) r

end awaits

/-- From `s` to `t` ring `r` has launched `fs`; every other ring, this one's standing and the schedule are as they were. -/
structure Launched (r : Nat) (fs : List Frame) (s t : State) : Prop where
  sends : Sends s t fs
  other : ∀ k, k ≠ r → ringAt t k = ringAt s k
  standing : (ringAt t r).standing = (ringAt s r).standing
  schedule : t.chn.schedule = s.chn.schedule

theorem Launched.refl (r : Nat) (s : State) : Launched r [] s s := ⟨.of_frames_eq rfl, fun _ _ => rfl, rfl, rfl⟩

theorem Launched.trans {r : Nat} {fs gs : List Frame} {s t u : State} (h : Launched r fs s t) (k : Launched r gs t u) :
    Launched r (fs ++ gs) s u :=
  ⟨h.sends.trans k.sends, fun i hi => (k.other i hi).trans (h.other i hi), k.standing.trans h.standing, k.schedule.trans h.schedule⟩

theorem launched_launch (r : Nat) (dir bc : Bool) (hop opc : Nat) (data : List (BitVec 16)) (s : State) :
    Launched r [nextFrame (ringAt s r) r dir bc hop opc data] s (launch r dir bc hop opc data s) :=
  ⟨sends_launch .., fun _ h => ringAt_launch_other _ _ _ _ _ _ _ h, standing_launch .., rfl⟩

theorem Launched.await {r : Nat} {fs : List Frame} {s t : State} (h : Launched r fs s t) (tries sidx : Nat) :
    Launched r fs s (await tries sidx t) :=
  ⟨h.sends.congr rfl (await_frames ..), fun k hk => (ringAt_await ..).trans (h.other k hk), by rw [ringAt_await, h.standing],
    (await_schedule ..).trans h.schedule⟩

/-- A ring after a launch, its lanes apart. -/
def Ring.used (g : Ring) : Ring := { g with tag := (g.tag + 1) % 1024, seq := (g.seq + 1) % 65536 }

theorem framesOf_cons (g : Ring) (r opc : Nat) (data : List (BitVec 16)) (e : Bool × Nat) (es : List (Bool × Nat)) :
    framesOf g r opc data (e :: es) = nextFrame g r e.1 true e.2 opc data :: framesOf g.used r opc data es := rfl

/-- Only the tag and the sequence number of a ring show in the frames it sends. -/
theorem framesOf_congr {g h : Ring} (ht : g.tag = h.tag) (hs : g.seq = h.seq) (r opc : Nat) (data : List (BitVec 16)) (es : List (Bool × Nat)) :
    framesOf g r opc data es = framesOf h r opc data es := by
  induction es generalizing g h with
  | nil => rfl
  | cons e es ih =>
    rw [framesOf_cons, framesOf_cons, ih (h := h.used) (by simp [Ring.used, ht]) (by simp [Ring.used, hs])]
    simp only [nextFrame, ht, hs]

/-- A step that launches one frame to the whole ring from an end, repeated over ends, sends the frames of those ends in their order. -/
theorem launched_ends {r opc : Nat} {data : List (BitVec 16)} {f : State → Bool × Nat → State}
    (hf : ∀ s e, Launched r [nextFrame (ringAt s r) r e.1 true e.2 opc data] s (f s e) ∧
      (ringAt (f s e) r).tag = ((ringAt s r).tag + 1) % 1024 ∧ (ringAt (f s e) r).seq = ((ringAt s r).seq + 1) % 65536)
    (es : List (Bool × Nat)) (s : State) : Launched r (framesOf (ringAt s r) r opc data es) s (es.foldl f s) := by
  induction es generalizing s with
  | nil => exact .refl r s
  | cons e es ih =>
    obtain ⟨first, ht, hs⟩ := hf s e
    have rest := ih (f s e)
    rw [framesOf_congr (h := (ringAt s r).used) ht hs] at rest
    exact first.trans rest

theorem launched_launch_ends (r opc : Nat) (data : List (BitVec 16)) (es : List (Bool × Nat)) (s : State) :
    Launched r (framesOf (ringAt s r) r opc data es) s (es.foldl (fun s e => launch r e.1 true e.2 opc data s) s) :=
  launched_ends (fun _ _ => ⟨launched_launch .., tag_launch .., seq_launch ..⟩) es s

theorem launched_broadcast (opc : Nat) (data : List (BitVec 16)) (acked : Bool) (s : State) (r : Nat) :
    Launched r (framesOf (ringAt s r) r opc data (commandEnds (ringAt s r))) s (broadcast opc data acked s r) := by
  refine launched_ends (fun _ _ => ?_) _ s
  cases acked with
  | false => exact ⟨launched_launch .., tag_launch .., seq_launch ..⟩
  | true => exact ⟨(launched_launch ..).await .., by simp [tag_launch], by simp [seq_launch]⟩

theorem launched_broadcastRead (opc : Nat) (data : List (BitVec 16)) (sidx : Nat) (s : State) (r : Nat) :
    Launched r (framesOf (ringAt s r) r opc data (readEnds (ringAt s r))) s (broadcastRead opc data sidx s r) :=
  launched_ends (fun _ _ => ⟨(launched_launch ..).await .., by simp [tag_launch], by simp [seq_launch]⟩) _ s

theorem launched_addressed (opc : Nat) (data : List (BitVec 16)) (sidx a : Nat) (s : State) :
    Launched (ringOf a) [nextFrame (ringAt s (ringOf a)) (ringOf a) (endOf s a) false (hopOf a) opc data] s (addressed opc data sidx a s) :=
  (launched_launch ..).await ..

/-! ### A step for each of several rings -/

/-- `f` sends the frames `F` of a ring and leaves the other rings as they are. -/
structure SendsOf (f : State → Nat → State) (F : Ring → Nat → List Frame) : Prop where
  sends : ∀ s r, Sends s (f s r) (F (ringAt s r) r)
  other : ∀ s r k, k ≠ r → ringAt (f s r) k = ringAt s k

theorem sends_rings {f : State → Nat → State} {F : Ring → Nat → List Frame} (hf : SendsOf f F) {rs : List Nat} (hrs : rs.Nodup) (s : State) :
    Sends s (rs.foldl f s) (rs.flatMap fun r => F (ringAt s r) r) := by
  induction rs generalizing s with
  | nil => exact .of_frames_eq rfl
  | cons r rs ih =>
    obtain ⟨fresh, hrs⟩ := List.nodup_cons.mp hrs
    have rest := ih hrs (f s r)
    rw [List.flatMap_congr fun k hk => by rw [hf.other s r k (ne_of_mem_of_not_mem hk fresh)]] at rest
    exact (hf.sends s r).trans rest

/-- What a step makes of its own ring still stands once the other rings had theirs. -/
theorem ringAt_rings {f : State → Nat → State} {F : Ring → Nat → List Frame} (hf : SendsOf f F) {Q : Ring → Ring → Prop} {r : Nat}
    (hQ : ∀ s, Q (ringAt s r) (ringAt (f s r) r)) {rs : List Nat} (hrs : rs.Nodup) (hr : r ∈ rs) (s : State) :
    Q (ringAt s r) (ringAt (rs.foldl f s) r) := by
  have keeps (l : List Nat) (hl : r ∉ l) (t : State) : ringAt (l.foldl f t) r = ringAt t r := by
    induction l generalizing t with
    | nil => rfl
    | cons k l ih =>
      rw [List.mem_cons, not_or] at hl
      rw [List.foldl_cons, ih hl.2, hf.other t k r hl.1]
  induction rs generalizing s with
  | nil => cases hr
  | cons k rs ih =>
    obtain ⟨fresh, hrs⟩ := List.nodup_cons.mp hrs
    by_cases h : r = k
    · subst h; rw [List.foldl_cons, keeps rs fresh]; exact hQ s
    · have := ih hrs (List.mem_of_ne_of_mem h hr) (f s k)
      rwa [hf.other s k r h] at this

theorem servedRings_nodup (s : State) : (servedRings s).Nodup := List.nodup_range.filter _

theorem ringServed_congr {s t : State} {r : Nat} (h : (ringAt t r).service = (ringAt s r).service) : ringServed t r = ringServed s r := by
  unfold ringServed; rw [h]

theorem servedRings_congr {s t : State} (h : ∀ r, (ringAt t r).service = (ringAt s r).service) : servedRings t = servedRings s :=
  List.filter_congr fun _ _ => ringServed_congr (h _)

@[simp] theorem servedRings_advance (dt : Nat) (s : State) : servedRings (advance dt s) = servedRings s := rfl
@[simp] theorem ringServed_advance (dt : Nat) (s : State) (r : Nat) : ringServed (advance dt s) r = ringServed s r := rfl

theorem sendsOf_broadcast (opc : Nat) (data : List (BitVec 16)) (acked : Bool) :
    SendsOf (broadcast opc data acked) fun g r => framesOf g r opc data (commandEnds g) :=
  ⟨fun _ _ => (launched_broadcast ..).sends, fun _ _ => (launched_broadcast ..).other⟩

theorem sendsOf_broadcastRead (opc : Nat) (data : List (BitVec 16)) (sidx : Nat) :
    SendsOf (broadcastRead opc data sidx) fun g r => framesOf g r opc data (readEnds g) :=
  ⟨fun _ _ => (launched_broadcastRead ..).sends, fun _ _ => (launched_broadcastRead ..).other⟩

theorem sends_onServed_broadcast (opc : Nat) (data : List (BitVec 16)) (acked : Bool) (s : State) :
    Sends s (onServed (broadcast opc data acked) s) (commandFrames s opc data) :=
  sends_rings (sendsOf_broadcast ..) (servedRings_nodup s) s

theorem sends_onServed_broadcastRead (opc : Nat) (data : List (BitVec 16)) (sidx : Nat) (s : State) :
    Sends s (onServed (broadcastRead opc data sidx) s) (readFrames s opc data) :=
  sends_rings (sendsOf_broadcastRead ..) (servedRings_nodup s) s

/-! ### What keeps the schedule -/

@[simp] theorem broadcast_schedule (opc : Nat) (data : List (BitVec 16)) (acked : Bool) (s : State) (r : Nat) :
    (broadcast opc data acked s r).chn.schedule = s.chn.schedule := (launched_broadcast ..).schedule
@[simp] theorem broadcastRead_schedule (opc : Nat) (data : List (BitVec 16)) (sidx : Nat) (s : State) (r : Nat) :
    (broadcastRead opc data sidx s r).chn.schedule = s.chn.schedule := (launched_broadcastRead ..).schedule
@[simp] theorem addressed_schedule (opc : Nat) (data : List (BitVec 16)) (sidx a : Nat) (s : State) :
    (addressed opc data sidx a s).chn.schedule = s.chn.schedule := (launched_addressed ..).schedule

theorem onServed_schedule {f : State → Nat → State} (h : ∀ t r, (f t r).chn.schedule = t.chn.schedule) (s : State) :
    (onServed f s).chn.schedule = s.chn.schedule := foldl_keeps (p := fun t => t.chn.schedule) h _ s

/-! ### Bleed (R73, R105) -/

/-- A ring apart from whether it bleeds, and since when that is not booked. -/
def Ring.unbled (g : Ring) : Ring := { g with bleedOn := false, bleedAt := 0 }

@[simp] theorem bookNode_rings (ns : Nat) (s : State) (a : Nat) : (bookNode ns s a).chn.rings = s.chn.rings := by
  unfold bookNode; dsimp only; split
  · rfl
  · rw [modNode_rings]
@[simp] theorem bookNode_frames (ns : Nat) (s : State) (a : Nat) : (bookNode ns s a).chn.frames = s.chn.frames := by
  unfold bookNode; dsimp only; split
  · rfl
  · rw [modNode_frames]
@[simp] theorem bookNode_schedule (ns : Nat) (s : State) (a : Nat) : (bookNode ns s a).chn.schedule = s.chn.schedule := by
  unfold bookNode; dsimp only; split
  · rfl
  · rw [modNode_schedule]

/-- The nodes' part of a ring's booking. -/
theorem bookRing_eq (r : Nat) (s : State) : ∃ t, bookRing r s = modRing r (fun g => { g with bleedAt := t.phys }) t ∧
    t.chn.rings = s.chn.rings ∧ t.chn.frames = s.chn.frames ∧ t.chn.schedule = s.chn.schedule := by
  unfold bookRing; dsimp only
  split
  · exact ⟨_, rfl, foldl_keeps (p := fun t => t.chn.rings) (fun t a => bookNode_rings _ t a) _ s,
      foldl_keeps (p := fun t => t.chn.frames) (fun t a => bookNode_frames _ t a) _ s,
      foldl_keeps (p := fun t => t.chn.schedule) (fun t a => bookNode_schedule _ t a) _ s⟩
  · exact ⟨s, rfl, rfl, rfl, rfl⟩

@[simp] theorem bookRing_frames (r : Nat) (s : State) : (bookRing r s).chn.frames = s.chn.frames := by
  obtain ⟨t, e, _, hf, _⟩ := bookRing_eq r s
  rw [e]; exact hf

@[simp] theorem bookRing_schedule (r : Nat) (s : State) : (bookRing r s).chn.schedule = s.chn.schedule := by
  obtain ⟨t, e, _, _, hs⟩ := bookRing_eq r s
  rw [e]; exact hs

theorem ringAt_bookRing_other {r k : Nat} (s : State) (h : k ≠ r) : ringAt (bookRing r s) k = ringAt s k := by
  obtain ⟨t, e, hr, _, _⟩ := bookRing_eq r s
  rw [e, ringAt_modRing_other _ _ h, ringAt_congr hr]

@[simp] theorem unbled_bookRing (r : Nat) (s : State) (k : Nat) : (ringAt (bookRing r s) k).unbled = (ringAt s k).unbled := by
  by_cases h : k = r
  · subst h
    obtain ⟨t, e, hr, _, _⟩ := bookRing_eq k s
    rw [e, ringAt_modRing_self, ringAt_congr hr]; rfl
  · rw [ringAt_bookRing_other s h]

@[simp] theorem setBleed_frames (on : Bool) (r : Nat) (s : State) : (setBleed on r s).chn.frames = s.chn.frames := bookRing_frames r s
@[simp] theorem setBleed_schedule (on : Bool) (r : Nat) (s : State) : (setBleed on r s).chn.schedule = s.chn.schedule := bookRing_schedule r s

theorem ringAt_setBleed_other {r k : Nat} (on : Bool) (s : State) (h : k ≠ r) : ringAt (setBleed on r s) k = ringAt s k :=
  (ringAt_modRing_other _ _ h).trans (ringAt_bookRing_other s h)

@[simp] theorem unbled_setBleed_self (on : Bool) (r : Nat) (s : State) : (ringAt (setBleed on r s) r).unbled = (ringAt s r).unbled := by
  rw [setBleed, ringAt_modRing_self]; exact unbled_bookRing r s r

/-- The frames of a command to a ring do not depend on its bleed. -/
theorem framesOf_unbled {g h : Ring} (e : g.unbled = h.unbled) (r opc : Nat) (data : List (BitVec 16)) :
    framesOf g r opc data (commandEnds g) = framesOf h r opc data (commandEnds h) := by
  have ends : commandEnds g = commandEnds h := (congrArg commandEnds e : commandEnds g.unbled = commandEnds h.unbled)
  have tag : g.tag = h.tag := (congrArg Ring.tag e : g.unbled.tag = h.unbled.tag)
  have seq : g.seq = h.seq := (congrArg Ring.seq e : g.unbled.seq = h.unbled.seq)
  rw [ends, framesOf_congr tag seq]

theorem commandFrames_congr {s t : State} (h : ∀ r, (ringAt t r).unbled = (ringAt s r).unbled) (opc : Nat) (data : List (BitVec 16)) :
    commandFrames t opc data = commandFrames s opc data := by
  unfold commandFrames
  rw [servedRings_congr fun r => (congrArg Ring.service (h r) : (ringAt t r).unbled.service = (ringAt s r).unbled.service)]
  exact List.flatMap_congr fun r _ => framesOf_unbled (h r) r opc data

end Sys2Proof.Machine
end

section
/-!
PROOF. The chain cycle begins: the schedule of the next cycle and what its TC0 slot sends (R29, R68, R77).
-/
namespace Sys2Proof.Machine
open Sys2Proof

/-! ### Conditions a command's time leaves as they are -/

@[simp] theorem sequencing_advance (dt : Nat) (s : State) : sequencing (advance dt s) = sequencing s := by
  unfold sequencing; rw [advance_pow_phase]
@[simp] theorem cycleDue_advance (dt : Nat) (s : State) : cycleDue (advance dt s) = cycleDue s := by
  unfold cycleDue; rw [sequencing_advance]; rfl
@[simp] theorem strobeDue_advance (dt : Nat) (s : State) : strobeDue (advance dt s) = strobeDue s := by
  unfold strobeDue; rw [sequencing_advance]; rfl

/-! ### The chain cycle begins (R29, R68) -/

theorem sweep_of_nothing_pending {s : State} (h : s.chn.pend = []) : sweep none s = s := by simp [sweep, h]

@[simp] theorem afterStrings_self (s : State) : afterStrings s s = s := by simp [afterStrings, freshStrings]

theorem closeScan_of_held {s : State} (h : s.chn.scanHeld = true) : closeScan s = s := by simp [closeScan, h]

theorem closeIfHeld_of_held {s : State} (h : s.chn.scanHeld = true) : closeIfHeld s = s := by simp [closeIfHeld, closeScan_of_held h]

/-- A scan with fragments still to launch is not closed. -/
theorem closeIfHeld_of_open {s : State} (h : s.chn.fragsOut < s.chn.frags) : closeIfHeld s = s := by
  rw [closeIfHeld, if_neg]; omega

theorem keepCycle_eq (s : State) : ∃ m, keepCycle s = withChn s fun c => { c with missed := m } := by
  unfold keepCycle
  split
  · exact ⟨s.chn.missed, rfl⟩
  · dsimp only
    split
    · exact ⟨s.chn.missed, rfl⟩
    · exact ⟨_, rfl⟩

@[simp] theorem noteReach_schedule (s : State) (a : Nat) : (noteReach s a).chn.schedule = s.chn.schedule := by
  unfold noteReach
  dsimp only
  split
  · rfl
  · split <;> rw [modNode_schedule]

@[simp] theorem slotRing_schedule (s : State) (r : Nat) : (slotRing s r).chn.schedule = s.chn.schedule := by
  unfold slotRing
  dsimp only
  rw [modRing_schedule]
  split
  · rw [broadcast_schedule]; split <;> simp
  · split <;> simp

@[simp] theorem writeDelay_schedule (s : State) (b : Nat) : (writeDelay s b).chn.schedule = s.chn.schedule := by
  unfold writeDelay; dsimp only; split
  · rfl
  · rw [addressed_schedule]

@[simp] theorem restoreRing_schedule (r : Nat) (s : State) : (restoreRing r s).chn.schedule = s.chn.schedule := by
  unfold restoreRing
  dsimp only
  rw [endItems_chn, foldl_keeps (p := fun t => t.chn.schedule) writeDelay_schedule, modRing_schedule,
    foldl_keeps (p := fun t => t.chn.schedule) fun t a => modNode_schedule a _ t]

/-- The wrapped nodes of a ring (R77). -/
def Ring.wrapHops (g : Ring) : List Nat :=
  (if 0 < g.endsA ∧ g.endsA ≤ g.found then [g.endsA - 1] else []) ++ (if g.startsB < g.found then [g.startsB] else [])

theorem clearLoops_eq (r : Nat) (s : State) : clearLoops r s =
    let t := modRing r (fun g => { g with restoreDue := false, clearing := (ringAt s r).wrapHops }) s
    if (ringAt s r).wrapHops.isEmpty then restoreRing r t
    else (ringAt s r).wrapHops.foldl (fun s h => addressed 0x05 [] 0 (r * 64 + h) s) t := rfl

@[simp] theorem clearLoops_schedule (r : Nat) (s : State) : (clearLoops r s).chn.schedule = s.chn.schedule := by
  rw [clearLoops_eq]
  dsimp only
  split
  · rw [restoreRing_schedule, modRing_schedule]
  · rw [foldl_keeps (p := fun t => t.chn.schedule) (fun t h => addressed_schedule 0x05 [] 0 (r * 64 + h) t), modRing_schedule]

/-- A broadcast that clears the flag it was due by. -/
theorem schedule_dueBroadcast (opc : Nat) (ws : List (BitVec 16)) (f : Chain → Chain) (s : State) :
    (onServed (broadcast opc ws true) (withChn s f)).chn.schedule = (f s.chn).schedule :=
  onServed_schedule (fun t r => broadcast_schedule opc ws true t r) _

/-- What is sent as a chain cycle begins changes the schedule only in that the thresholds and the schedule changed before are out. -/
theorem cycleFrames_schedule (s : State) :
    (cycleFrames s).chn.schedule = { s.chn.schedule with alarmDue := false, scanDue := false } := by
  have slots : (onServed slotRing s).chn.schedule = s.chn.schedule := onServed_schedule slotRing_schedule s
  have loops (l : List Nat) (t : State) : (l.foldl (fun s r => clearLoops r s) t).chn.schedule = t.chn.schedule :=
    foldl_keeps (p := fun t => t.chn.schedule) (fun t r => clearLoops_schedule r t) l t
  have alarm (t : State) : (if t.chn.alarmDue then onServed (broadcast 0x30 (alarmWords t) true) (withChn t fun c => { c with alarmDue := false })
      else t).chn.schedule = { t.chn.schedule with alarmDue := false } := by
    split
    · exact schedule_dueBroadcast ..
    · next h => exact congrArg (fun b => { t.chn.schedule with alarmDue := b }) (Bool.eq_false_iff.mpr h : t.chn.alarmDue = false)
  have scan (t : State) : (if t.chn.scanDue then onServed (broadcast 0x14 (scanWords t) true) (withChn t fun c => { c with scanDue := false })
      else t).chn.schedule = { t.chn.schedule with scanDue := false } := by
    split
    · exact schedule_dueBroadcast ..
    · next h => exact congrArg (fun b => { t.chn.schedule with scanDue := b }) (Bool.eq_false_iff.mpr h : t.chn.scanDue = false)
  unfold cycleFrames
  dsimp only
  rw [scan, alarm]
  split
  · rw [slots]
  · rw [loops, slots]

theorem takeLimits_eq (ids : List Nat) (s : State) : ∃ l, takeLimits ids s = withChn s fun c => { c with hltPar := l } := ⟨_, rfl⟩

/-- What the next cycle is does not depend on the rings, nor on the cycles kept for the firmware. -/
theorem nextCycle_schedule (idx : Nat) (c : Chain) (rs : SMap Ring) (m : List CycleRec) :
    (nextCycle idx { c with rings := rs, missed := m }).schedule = { (nextCycle idx c).schedule with missed := m } := by
  unfold nextCycle; split <;> rfl

/-- CHAIN_CYCLE_START with no answer awaited and no scan open: the schedule is that of the cycle that begins. -/
theorem chainCycleStart_schedule {dt : Nat} {s : State} (due : cycleDue s = true) (quiet : s.chn.pend = []) (held : s.chn.scanHeld = true) :
    Answers (exec (.chainCycleStart dt) s) fun t => ∃ m l, t.chn.schedule =
      { (nextCycle s.met.sidx s.chn).schedule with missed := m, hltPar := l, alarmDue := false, scanDue := false } := by
  show Answers (execChainCycleStart dt s) _
  unfold execChainCycleStart
  dsimp only
  rw [cycleDue_advance, due, Bool.not_true, if_neg Bool.false_ne_true, answers_next, sweep_of_nothing_pending (by exact quiet),
    afterStrings_self, closeIfHeld_of_held (by exact held)]
  obtain ⟨m, e⟩ := keepCycle_eq (advance dt s)
  rw [e]
  generalize hu : List.foldl noteReach _ _ = u
  have schedule : u.chn.schedule = { (nextCycle s.met.sidx s.chn).schedule with missed := m } := by
    rw [← hu, foldl_keeps (p := fun t => t.chn.schedule) noteReach_schedule]
    exact nextCycle_schedule s.met.sidx s.chn _ m
  obtain ⟨l, hl⟩ := takeLimits_eq cycleKeys u
  refine ⟨m, l, ?_⟩
  rw [cycleFrames_schedule, hl]
  exact congrArg (fun c : Chain => { c with hltPar := l, alarmDue := false, scanDue := false }) schedule

theorem nextCycle_of_started {c : Chain} (h : c.started = true) (idx : Nat) : nextCycle idx c =
    let d := { c with
      cycle := (c.cycle + 1) % 32768, hundred := (c.hundred + 1) % 100, phase := (c.phase + 1) % c.period, since := c.since + 1 }
    { d with
      cellNow := d.phase == 0 || c.insertAt == some d.cycle
      insertAt := if c.insertAt == some d.cycle then none else c.insertAt
      tempDue := c.tempDue || d.hundred == 0
      cycIdx := some idx, strobed := false, offOut := false, onOut := false, strOut := false } := by
  simp [nextCycle, h]

/-- R29, R72, R84: the next chain cycle's number and place in the scan. -/
theorem chainCycleStart_of_started {dt : Nat} {s : State} (due : cycleDue s = true) (quiet : s.chn.pend = []) (held : s.chn.scanHeld = true)
    (started : s.chn.started = true) : Answers (exec (.chainCycleStart dt) s) fun t =>
      t.chn.cycle = (s.chn.cycle + 1) % 32768 ∧ t.chn.phase = (s.chn.phase + 1) % s.chn.period ∧
        t.chn.hundred = (s.chn.hundred + 1) % 100 ∧ t.chn.since = s.chn.since + 1 ∧ t.chn.cycIdx = some s.met.sidx ∧ t.chn.strobed = false ∧
        t.chn.cellNow = (t.chn.phase == 0 || s.chn.insertAt == some t.chn.cycle) ∧
        t.chn.tempDue = (s.chn.tempDue || t.chn.hundred == 0) := by
  obtain ⟨t, ht, m, l, e⟩ := chainCycleStart_schedule (dt := dt) due quiet held
  rw [nextCycle_of_started started] at e
  have cycle : t.chn.cycle = (s.chn.cycle + 1) % 32768 := congrArg Chain.cycle e
  have phase : t.chn.phase = (s.chn.phase + 1) % s.chn.period := congrArg Chain.phase e
  have hundred : t.chn.hundred = (s.chn.hundred + 1) % 100 := congrArg Chain.hundred e
  refine ⟨t, ht, cycle, phase, hundred, congrArg Chain.since e, congrArg Chain.cycIdx e, congrArg Chain.strobed e, ?_, ?_⟩
  · rw [phase, cycle]; exact congrArg Chain.cellNow e
  · rw [hundred]; exact congrArg Chain.tempDue e

/-- The first chain cycle of an epoch is cycle 0 and carries a cell strobe. -/
theorem chainCycleStart_of_not_started {dt : Nat} {s : State} (due : cycleDue s = true) (quiet : s.chn.pend = []) (held : s.chn.scanHeld = true)
    (first : s.chn.started = false) : Answers (exec (.chainCycleStart dt) s) fun t =>
      t.chn.cycle = 0 ∧ t.chn.phase = 0 ∧ t.chn.started = true ∧ t.chn.cellNow = true := by
  obtain ⟨t, ht, m, l, e⟩ := chainCycleStart_schedule (dt := dt) due quiet held
  rw [nextCycle, first, if_neg Bool.false_ne_true] at e
  exact ⟨t, ht, congrArg Chain.cycle e, congrArg Chain.phase e, congrArg Chain.started e, congrArg Chain.cellNow e⟩

end Sys2Proof.Machine
end

section
/-!
PROOF. The strobe of a chain cycle, with and without a scan that begins with it (R71, R85).
-/
namespace Sys2Proof.Machine
open Sys2Proof

/-! ### The strobe (R71, R85) -/

theorem bookRings_schedule (l : List Nat) (s : State) : (l.foldl (fun s r => bookRing r s) s).chn.schedule = s.chn.schedule :=
  foldl_keeps (p := fun t => t.chn.schedule) (fun t r => bookRing_schedule r t) l s

theorem bookRings_frames (l : List Nat) (s : State) : (l.foldl (fun s r => bookRing r s) s).chn.frames = s.chn.frames :=
  foldl_keeps (p := fun t => t.chn.frames) (fun t r => bookRing_frames r t) l s

theorem unbled_bookRings (l : List Nat) (s : State) (k : Nat) :
    (ringAt (l.foldl (fun s r => bookRing r s) s) k).unbled = (ringAt s k).unbled :=
  foldl_keeps (p := fun t => (ringAt t k).unbled) (fun t r => unbled_bookRing r t k) l s

/-- A new scan stands open at the strobe instant of the cycle under way. -/
def scanOpened (s : State) : State := withChn s fun c => { c with
  prevSidx := c.scanSidx, scanSidx := strobeIdx s, inserted := s.chn.phase != 0, fragsOut := 0, scanHeld := false, since := 0
  strings := mmap (fun _ x => { x with scanI := none, scanV := none, scanSub := none, intI := 0, intN := 0 }) c.strings }

theorem beginScan_of_held {s : State} (held : s.chn.scanHeld = true) : beginScan s =
    if s.chn.phase != 0 then scanOpened s
    else
      let t := allRings.foldl (fun s r => bookRing r s) (scanOpened s)
      takeLimits scanKeys (withChn t fun c => { c with scanBled := bledNow t }) := by
  rw [beginScan, closeScan_of_held held]; rfl

/-- What beginning a scan leaves of the chain: the cycle, the rings apart from their bleed, and the frames launched. -/
structure ScanBegun (s t : State) : Prop where
  schedule : ∃ bled lim, t.chn.schedule = { (scanOpened s).chn.schedule with scanBled := bled, hltPar := lim }
  frames : t.chn.frames = s.chn.frames
  rings : ∀ r, (ringAt t r).unbled = (ringAt s r).unbled

theorem scanBegun_beginScan {s : State} (held : s.chn.scanHeld = true) : ScanBegun s (beginScan s) := by
  rw [beginScan_of_held held]
  dsimp only
  split
  · exact ⟨⟨s.chn.scanBled, s.chn.hltPar, rfl⟩, rfl, fun _ => rfl⟩
  · have schedule := bookRings_schedule allRings (scanOpened s)
    have frames := bookRings_frames allRings (scanOpened s)
    have rings := unbled_bookRings allRings (scanOpened s)
    generalize allRings.foldl (fun s r => bookRing r s) (scanOpened s) = t at schedule frames rings
    obtain ⟨lim, e⟩ := takeLimits_eq scanKeys (withChn t fun c => { c with scanBled := bledNow t })
    rw [e]
    exact ⟨⟨bledNow t, lim, congrArg (fun c : Chain => { c with scanBled := bledNow t, hltPar := lim }) schedule⟩, frames, rings⟩

/-- The strobe goes to every served ring. -/
def strobeOut (s : State) : State :=
  let t := withChn s fun c => { c with strobed := true }
  onServed (broadcast 0x10 [strobeWord t.chn] false) t

theorem sends_strobeOut (s : State) : Sends s (strobeOut s) (commandFrames s 0x10 [strobeWord s.chn]) :=
  sends_onServed_broadcast 0x10 _ false (withChn s fun c => { c with strobed := true })

theorem strobeOut_schedule (s : State) : (strobeOut s).chn.schedule = { s.chn.schedule with strobed := true } :=
  onServed_schedule (fun t r => broadcast_schedule 0x10 _ false t r) _

theorem execStrobeLaunch_of_due {dt : Nat} {s : State} (due : strobeDue s = true) : exec (.strobeLaunch dt) s =
    .next (strobeOut (if s.chn.cellNow then beginScan (advance dt s) else advance dt s)) := by
  show execStrobeLaunch dt s = _
  rw [execStrobeLaunch, strobeDue_advance, due]; rfl

/-- The strobe of a cycle without CELL begins no scan. -/
theorem strobeLaunch_of_no_cell {dt : Nat} {s : State} (due : strobeDue s = true) (noCell : s.chn.cellNow = false) :
    Answers (exec (.strobeLaunch dt) s) fun t =>
      Sends s t (commandFrames s 0x10 [strobeWord s.chn]) ∧ t.chn.strobed = true ∧ t.chn.scanSidx = s.chn.scanSidx := by
  rw [execStrobeLaunch_of_due due, noCell, if_neg Bool.false_ne_true, answers_next]
  have e := strobeOut_schedule (advance dt s)
  exact ⟨sends_strobeOut (advance dt s), congrArg Chain.strobed e, (congrArg Chain.scanSidx e :)⟩

/-- The strobe of a cycle with CELL begins a scan of its instant (R85). -/
theorem strobeLaunch_of_cell {dt : Nat} {s : State} (due : strobeDue s = true) (cell : s.chn.cellNow = true) (held : s.chn.scanHeld = true) :
    Answers (exec (.strobeLaunch dt) s) fun t =>
      Sends s t (commandFrames s 0x10 [strobeWord s.chn]) ∧ t.chn.strobed = true ∧ t.chn.scanSidx = strobeIdx s ∧ t.chn.scanHeld = false ∧
        t.chn.fragsOut = 0 ∧ t.chn.since = 0 ∧ t.chn.prevSidx = s.chn.scanSidx := by
  rw [execStrobeLaunch_of_due due, cell, if_pos rfl, answers_next]
  obtain ⟨⟨bled, lim, schedule⟩, frames, rings⟩ := scanBegun_beginScan (s := advance dt s) held
  generalize beginScan (advance dt s) = u at schedule frames rings
  have e := (strobeOut_schedule u).trans (congrArg (fun c : Chain => { c with strobed := true }) schedule)
  have word : strobeWord u.chn = strobeWord s.chn := (congrArg strobeWord schedule :)
  have sent := (sends_strobeOut u).congr (s' := s) frames.symm rfl
  rw [word, commandFrames_congr rings] at sent
  exact ⟨sent, congrArg Chain.strobed e, congrArg Chain.scanSidx e, congrArg Chain.scanHeld e, congrArg Chain.fragsOut e,
      congrArg Chain.since e, (congrArg Chain.prevSidx e :)⟩

end Sys2Proof.Machine
end

section
/-!
PROOF. The frames of a chain cycle after its strobe, the trains that answer them, and the statement of the chain cycle (R53, R70 to R73, R80 to R85).
-/
namespace Sys2Proof.Machine
open Sys2Proof

/-! ### Bleed around a cell strobe (R73, R102) -/

/-- The trains awaited are those of the frames launched since. -/
theorem trainsFrom_of_sends {s t : State} {fs : List Frame} (h : Sends s t fs) :
    trainsFrom s.chn.frames.length t = fs.map fun f => (f.dir, f.tag) := by
  obtain ⟨l, hl, rfl⟩ := h
  rw [trainsFrom, hl, List.drop_left, List.map_map]; rfl

/-- A command to a ring whose bleed has been switched. -/
theorem sends_broadcast_setBleed (on : Bool) (opc : Nat) (s : State) (r : Nat) :
    Sends s (broadcast opc [] false (setBleed on r s) r) (framesOf (ringAt s r) r opc [] (commandEnds (ringAt s r))) := by
  have h := (launched_broadcast opc [] false (setBleed on r s) r).sends.congr (s' := s) (setBleed_frames on r s).symm rfl
  rwa [framesOf_unbled (unbled_setBleed_self on r s)] at h

theorem sendsOf_bleedOff : SendsOf bleedOff fun g r => framesOf g r 0x11 [] (commandEnds g) where
  sends s r := (sends_broadcast_setBleed false 0x11 s r).congr rfl rfl
  other s r k h := by
    rw [bleedOff, ringAt_modRing_other _ _ h, (launched_broadcast ..).other k h, ringAt_setBleed_other _ _ h]

theorem ringAt_bleedOff (s : State) (r : Nat) : (ringAt (bleedOff s r) r).offAgain = false ∧ (ringAt (bleedOff s r) r).offWait =
    (framesOf (ringAt s r) r 0x11 [] (commandEnds (ringAt s r))).map fun f => (f.dir, f.tag) := by
  rw [bleedOff, ringAt_modRing_self]
  exact ⟨rfl, trainsFrom_of_sends (sends_broadcast_setBleed false 0x11 s r)⟩

theorem bleedOff_schedule (s : State) (r : Nat) : (bleedOff s r).chn.schedule = s.chn.schedule := by
  rw [bleedOff, modRing_schedule, broadcast_schedule, setBleed_schedule]

theorem bleedOffBroadcast_sends {dt : Nat} {s : State} (runs : sequencing s = true) (started : s.chn.started = true)
    (next : strobeNext s.chn = true) (fresh : s.chn.offOut = false) :
    Answers (exec (.bleedOffBroadcast dt) s) fun t =>
      Sends s t (commandFrames s 0x11 []) ∧ t.chn.offOut = true ∧ ∀ r ∈ servedRings s, (ringAt t r).offAgain = false ∧
        (ringAt t r).offWait = (framesOf (ringAt s r) r 0x11 [] (commandEnds (ringAt s r))).map (fun f => (f.dir, f.tag)) := by
  let u := withChn (advance dt s) fun c => { c with offOut := true }
  have e : exec (.bleedOffBroadcast dt) s = .next (onServed bleedOff u) := by
    show execBleedOffBroadcast dt s = _
    simp [execBleedOffBroadcast, runs, started, next, fresh, u]
  rw [e, answers_next]
  refine ⟨sends_rings sendsOf_bleedOff (servedRings_nodup u) u, congrArg Chain.offOut (onServed_schedule bleedOff_schedule u), fun r hr => ?_⟩
  exact ringAt_rings sendsOf_bleedOff (Q := fun g h => h.offAgain = false ∧
    h.offWait = (framesOf g r 0x11 [] (commandEnds g)).map fun f => (f.dir, f.tag)) (fun t => ringAt_bleedOff t r) (servedRings_nodup u) hr u

/-- BLEED_OFF once more, from each end whose train is awaited. -/
theorem bleedOffRepeat_sends {dt r : Nat} {s : State} (runs : sequencing s = true) (started : s.chn.started = true)
    (next : strobeNext s.chn = true) (served : ringServed s r = true) (once : (ringAt s r).offAgain = false) (waits : (ringAt s r).offWait ≠ []) :
    Answers (exec (.bleedOffRepeat dt r) s) fun t =>
      Sends s t (framesOf (ringAt s r) r 0x11 [] ((commandEnds (ringAt s r)).filter fun e => (ringAt s r).offWait.any (·.1 == e.1))) ∧
        (ringAt t r).offAgain = true := by
  show Answers (execBleedOffRepeat dt r s) _
  unfold execBleedOffRepeat
  dsimp only
  rw [if_pos (by simp [runs, started, next, served, once, waits]), answers_next]
  exact ⟨(launched_launch_ends r 0x11 [] _ (advance dt s)).sends.congr rfl rfl, by rw [ringAt_modRing_self]⟩

/-- BLEED_ON on a ring, but where bleed is held. -/
def bleedOn (s : State) (r : Nat) : State := if (ringAt s r).hold then s else setBleed true r (broadcast 0x12 [] false s r)

theorem sendsOf_bleedOn : SendsOf bleedOn fun g r => if g.hold then [] else framesOf g r 0x12 [] (commandEnds g) where
  sends s r := by
    unfold bleedOn
    split
    · exact .of_frames_eq rfl
    · exact (launched_broadcast ..).sends.congr rfl (setBleed_frames ..)
  other s r k h := by
    unfold bleedOn
    split
    · rfl
    · rw [ringAt_setBleed_other _ _ h, (launched_broadcast ..).other k h]

theorem bleedOn_schedule (s : State) (r : Nat) : (bleedOn s r).chn.schedule = s.chn.schedule := by
  unfold bleedOn
  split
  · rfl
  · rw [setBleed_schedule, broadcast_schedule]

theorem bleedOnBroadcast_sends {dt : Nat} {s : State} (runs : sequencing s = true) (strobed : s.chn.strobed = true)
    (cell : s.chn.cellNow = true) (fresh : s.chn.onOut = false) :
    Answers (exec (.bleedOnBroadcast dt) s) fun t => t.chn.onOut = true ∧
      Sends s t ((servedRings s).flatMap fun r =>
        if (ringAt s r).hold then [] else framesOf (ringAt s r) r 0x12 [] (commandEnds (ringAt s r))) := by
  let u := withChn (advance dt s) fun c => { c with onOut := true }
  have e : exec (.bleedOnBroadcast dt) s = .next (onServed bleedOn u) := by
    show execBleedOnBroadcast dt s = _
    simp [execBleedOnBroadcast, runs, strobed, cell, fresh, u]; rfl
  rw [e, answers_next]
  exact ⟨congrArg Chain.onOut (onServed_schedule bleedOn_schedule u), sends_rings sendsOf_bleedOn (servedRings_nodup u) u⟩

/-! ### The reads (R70, R71, R83, R84) -/

/-- A read sent to the served rings sends its frames and leaves the schedule as it is. -/
theorem onServed_broadcastRead (opc : Nat) (data : List (BitVec 16)) (sidx : Nat) (s : State) :
    let t := onServed (broadcastRead opc data sidx) s
    Sends s t (readFrames s opc data) ∧ t.chn.schedule = s.chn.schedule :=
  ⟨sends_onServed_broadcastRead .., onServed_schedule (fun t r => broadcastRead_schedule opc data sidx t r) s⟩

theorem readStringLaunch_sends {dt : Nat} {s : State} (runs : sequencing s = true) (strobed : s.chn.strobed = true)
    (fresh : s.chn.strOut = false) (alive : deadNodes s 2 = []) :
    Answers (exec (.readStringLaunch dt) s) fun t => Sends s t (readFrames s 0x21 []) ∧ t.chn.strOut = true := by
  let u := withChn (advance dt s) fun c => { c with strOut := true }
  have dead : deadNodes u 2 = [] := alive
  have e : exec (.readStringLaunch dt) s = .next (onServed (broadcastRead 0x21 [] (strobeIdx (advance dt s))) u) := by
    show execReadStringLaunch dt s = _
    unfold execReadStringLaunch
    dsimp only
    rw [if_neg (by simp [runs, strobed, fresh]), dead, List.foldl_nil, List.isEmpty_nil, if_pos rfl, afterStrings_self]
  obtain ⟨sent, kept⟩ := onServed_broadcastRead 0x21 [] (strobeIdx (advance dt s)) u
  rw [e, answers_next]
  exact ⟨sent, congrArg Chain.strOut kept⟩

theorem readSsAuxLaunch_sends {dt : Nat} {s : State} (runs : sequencing s = true) (started : s.chn.started = true)
    (due : rateDue (advance dt s) s.chn.auxAt (p0 s pAcqSsauxRate) = true) (alive : deadNodes s 2 = []) :
    Answers (exec (.readSsAuxLaunch dt) s) fun t => Sends s t (readFrames s 0x25 []) ∧ t.chn.auxAt = some (s.phys + dt) := by
  let u := withChn (advance dt s) fun c => { c with auxAt := some (s.phys + dt) }
  have dead : deadNodes (advance dt s) 2 = [] := alive
  have e : exec (.readSsAuxLaunch dt) s = .next (onServed (broadcastRead 0x25 [] (strobeIdx (advance dt s))) u) := by
    show execReadSsAuxLaunch dt s = _
    unfold execReadSsAuxLaunch
    dsimp only
    rw [if_pos (by rw [sequencing_advance, runs, advance_chn, started]; exact due), dead]; rfl
  obtain ⟨sent, kept⟩ := onServed_broadcastRead 0x25 [] (strobeIdx (advance dt s)) u
  rw [e, answers_next]
  exact ⟨sent, congrArg Chain.auxAt kept⟩

/-- A fragment that is not the scan's last leaves the scan open. -/
theorem cellFragmentLaunch_sends {dt k : Nat} {s : State} (runs : sequencing s = true) (due : fragmentDue s.chn k = true)
    (more : k + 1 < s.chn.frags) :
    Answers (exec (.cellFragmentLaunch dt k) s) fun t =>
      Sends s t (readFrames s 0x20 [fragmentWord s.chn.frags k]) ∧ t.chn.fragsOut = k + 1 := by
  have out : s.chn.fragsOut = k := by
    simp only [fragmentDue, Bool.and_eq_true, beq_iff_eq] at due
    exact due.1.2.symm
  show Answers (execCellFragmentLaunch dt k s) _
  unfold execCellFragmentLaunch
  dsimp only
  rw [if_pos (by rw [sequencing_advance, runs]; exact due), answers_next]
  obtain ⟨sent, kept⟩ := onServed_broadcastRead 0x20 [fragmentWord s.chn.frags k] s.chn.scanSidx (advance dt s)
  have frags : (onServed (broadcastRead 0x20 [fragmentWord s.chn.frags k] s.chn.scanSidx) (advance dt s)).chn.frags = s.chn.frags :=
    (congrArg Chain.frags kept :)
  have fragsOut : (onServed (broadcastRead 0x20 [fragmentWord s.chn.frags k] s.chn.scanSidx) (advance dt s)).chn.fragsOut = k :=
    (congrArg Chain.fragsOut kept :).trans out
  rw [advance_chn]
  generalize onServed _ _ = u at sent frags fragsOut
  rw [closeIfHeld_of_open (by simp only [withChn_chn]; omega)]
  exact ⟨sent.congr rfl rfl, congrArg (· + 1) fragsOut⟩

theorem readTempsLaunch_sends {dt : Nat} {s : State} (runs : sequencing s = true) (started : s.chn.started = true)
    (due : s.chn.tempDue = true) (noCell : s.chn.cellNow = false) (noFragment : s.chn.since ≠ 1)
    (alive : (mkeys s.chn.nodes).filter (fun a => !nodeLive s a) = []) :
    Answers (exec (.readTempsLaunch dt) s) fun t => Sends s t (readFrames s 0x22 []) ∧ t.chn.tempDue = false := by
  let u := withChn (advance dt s) fun c => { c with tempDue := false }
  have dead : (mkeys (advance dt s).chn.nodes).filter (fun a => !nodeLive (advance dt s) a) = [] := alive
  have e : exec (.readTempsLaunch dt) s = .next (onServed (broadcastRead 0x22 [] (strobeIdx (advance dt s))) u) := by
    show execReadTempsLaunch dt s = _
    unfold execReadTempsLaunch
    dsimp only
    rw [if_pos (by simp [runs, started, due, noCell, noFragment]), dead]; rfl
  obtain ⟨sent, kept⟩ := onServed_broadcastRead 0x22 [] (strobeIdx (advance dt s)) u
  rw [e, answers_next]
  exact ⟨sent, congrArg Chain.tempDue kept⟩

theorem readCoarseLaunch_sends {dt : Nat} {s : State} (runs : sequencing s = true) (started : s.chn.started = true)
    (due : rateDue (advance dt s) s.chn.coarseAt (p0 s pAcqCoarseRate) = true) :
    Answers (exec (.readCoarseLaunch dt) s) fun t => Sends s t (readFrames s 0x23 []) ∧ t.chn.coarseAt = some (s.phys + dt) := by
  let u := withChn (advance dt s) fun c => { c with coarseAt := some (s.phys + dt) }
  have e : exec (.readCoarseLaunch dt) s = .next (onServed (broadcastRead 0x23 [] s.chn.scanSidx) u) := by
    show execReadCoarseLaunch dt s = _
    unfold execReadCoarseLaunch
    dsimp only
    rw [if_neg (by simp [runs, started]), if_pos (by exact due)]; rfl
  obtain ⟨sent, kept⟩ := onServed_broadcastRead 0x23 [] s.chn.scanSidx u
  rw [e, answers_next]
  exact ⟨sent, congrArg Chain.coarseAt kept⟩

/-- READ_STATUS goes at once to the rings with an alarm tone; without one, to every served ring once a second. -/
theorem readStatusLaunch_sends {dt : Nat} {s : State} (runs : sequencing s = true) (started : s.chn.started = true) :
    let toned := (servedRings s).filter fun r => (ringAt s r).tone
    (toned ≠ [] → Answers (exec (.readStatusLaunch dt) s) fun t =>
      Sends s t (toned.flatMap fun r => framesOf (ringAt s r) r 0x24 [] (readEnds (ringAt s r)))) ∧
    (toned = [] → rateDue (advance dt s) s.chn.statAt 1 = true → Answers (exec (.readStatusLaunch dt) s) fun t =>
      Sends s t (readFrames s 0x24 []) ∧ t.chn.statAt = some (s.phys + dt)) := by
  intro toned
  let u := withChn (advance dt s) fun c => { c with statAt := some (s.phys + dt) }
  have e : exec (.readStatusLaunch dt) s =
      if !toned.isEmpty then .next (toned.foldl (broadcastRead 0x24 [] (strobeIdx (advance dt s))) (advance dt s))
      else if rateDue (advance dt s) s.chn.statAt 1 then .next (onServed (broadcastRead 0x24 [] (strobeIdx (advance dt s))) u)
      else .next (advance dt s) := by
    show execReadStatusLaunch dt s = _
    unfold execReadStatusLaunch
    dsimp only
    rw [if_neg (by simp [runs, started])]; rfl
  refine ⟨fun some_ => ?_, fun none_ due => ?_⟩
  · rw [e, if_pos (by simpa using some_), answers_next]
    exact sends_rings (sendsOf_broadcastRead 0x24 [] _) ((servedRings_nodup s).filter _) (advance dt s)
  · obtain ⟨sent, kept⟩ := onServed_broadcastRead 0x24 [] (strobeIdx (advance dt s)) u
    rw [e, none_, List.isEmpty_nil, Bool.not_true, if_neg Bool.false_ne_true, if_pos due, answers_next]
    exact ⟨sent, congrArg Chain.statAt kept⟩

/-- CAL_RUN goes to one node of the ring, under the ring's next tag and sequence number (R80). -/
theorem calRunIssue_sends {dt r a k : Nat} {fresh : Bool} {s : State} (runs : sequencing s = true)
    (next : calNext (advance dt s) r = some (a, k, fresh)) (here : ringOf a = r)
    (idle : (s.chn.pend.any fun p => p.ring == r && p.opc == 0x38) = false)
    (slot : (if (nodeOf s a).type = 1 then s.chn.onOut else s.chn.strOut) = true) :
    Answers (exec (.calRunIssue dt r) s) fun t =>
      Sends s t [nextFrame (ringAt s r) r (endOf s a) false (hopOf a) 0x38 [BitVec.ofNat 16 k]] ∧
        (ringAt t r).calHop = hopOf a + 1 ∧ (ringAt t r).calStep = k := by
  subst here
  have free : (sequencing (advance dt s) && !((advance dt s).chn.pend.any fun p => p.ring == ringOf a && p.opc == 0x38) &&
      if (nodeOf (advance dt s) a).type = 1 then (advance dt s).chn.onOut else (advance dt s).chn.strOut) = true := by
    rw [sequencing_advance, runs, advance_chn, idle]; exact slot
  show Answers (execCalRunIssue dt (ringOf a) s) _
  unfold execCalRunIssue
  dsimp only
  rw [next]
  dsimp only
  rw [if_pos free, answers_next, ringAt_modRing_self]
  exact ⟨(launched_addressed 0x38 _ 0 a (advance dt s)).sends.congr rfl rfl, rfl, rfl⟩

/-! ### The scan rate (R72) -/

theorem scanRateAnchor_applies {dt p a : Nat} {s : State} (pending : s.chn.pending = some (p, a)) (started : s.chn.started = true)
    (reached : (s.chn.cycle + 32768 - a) % 32768 < 16384) :
    Answers (exec (.scanRateAnchor dt) s) fun t =>
      t.chn.period = p ∧ t.chn.anchor = a ∧ t.chn.pending = none ∧ t.chn.frags = (if p < 10 then 3 else 2) ∧
        t.chn.phase = (s.chn.cycle + 32768 - a) % 32768 % p := by
  show Answers (execScanRateAnchor dt s) _
  unfold execScanRateAnchor
  dsimp only
  rw [advance_chn, pending]
  dsimp only
  rw [if_pos (by simp [started, reached]), answers_next]
  exact ⟨rfl, rfl, rfl, rfl, rfl⟩

/-! ### Trains (R53, R56, R78) -/

theorem responseTrainReceive_served {dt : Nat} {t : Train} {s : State} (runs : sequencing s = true) (served : ringServed s t.ring = true) :
    exec (.responseTrainReceive dt t) s =
      .next (trainFirmware (advance dt s) t (takeTrain t (noteTransit t (noteOff t (advance dt s))))) := by
  show execResponseTrainReceive dt t s = _
  rw [execResponseTrainReceive, if_pos (by simp [runs, served])]

/-- A train that one node answers: its accepted segment is taken; without one the answer is missing. -/
theorem takeTrain_of_one {t : Train} {p : Pend} {a : Nat} {s : State} (awaited : pendOf s t = some p) (one : expected s p = [a]) :
    takeTrain t s = hltFollow p.sidx (classesOf p.opc) (match goodSegment t a with
      | some g => takeAnswer p a g (dropPend p s)
      | none => missing p a (dropPend p s)) := by
  rw [takeTrain, awaited]; dsimp only; rw [one]; rfl

theorem goodSegment_nil (t : Train) (a : Nat) : goodSegment { t with segs := [] } a = none := rfl

/-! ### A cell's reading (R91, R99) -/

@[simp] theorem hltStep_cells (cls inst n : Nat) (viol : Bool) (s : State) : (hltStep cls inst n viol s).chn.cells = s.chn.cells := by
  unfold hltStep withChn; dsimp only; split <;> rfl

theorem putCell_cells (a c raw sidx : Nat) (bleed fly carry : Bool) (s : State) : (putCell a c raw sidx bleed fly carry s).chn.cells =
    mmod {} s.chn.cells c fun x => { x with
      volt := raw, qual := cellQual s a c (raw == 0xFFFF) bleed fly carry, sidx := sidx, stamp := stampOf s sidx
      vLast := if raw == 0xFFFF then x.vLast else raw } := by
  unfold putCell
  dsimp only
  have step (p : Prop) [Decidable p] (cls n : Nat) (viol : Bool) (t : State) :
      (if p then hltStep cls c n viol t else t).chn.cells = t.chn.cells := by split <;> simp
  split
  · rw [hltStep_cells]; rfl
  · rw [step, step, hltStep_cells]; rfl

theorem cellOf_putCell (a c raw sidx : Nat) (bleed fly carry : Bool) (s : State) :
    let t := putCell a c raw sidx bleed fly carry s
    (cellOf t c).volt = raw ∧ (cellOf t c).sidx = sidx ∧ (cellOf t c).qual = cellQual s a c (raw == 0xFFFF) bleed fly carry ∧
      (cellOf t c).stamp = stampOf s sidx ∧ ∀ d, d ≠ c → cellOf t d = cellOf s d := by
  dsimp only [cellOf]
  rw [putCell_cells, mget_mmod_self]
  exact ⟨rfl, rfl, rfl, rfl, fun d h => mget_mmod_other _ _ _ h⟩

/-- Settles O27: each command of the chain cycle by what it sends and what it makes of the schedule. That CAL_RUN's step number has 16 bits and
that a rate's anchor is its phase 0 is the model's reading (log 123, 128); so is the order in which tags are given out (log 133). -/
theorem chainCycleSendsItsFrames : Obligations.ChainCycleSendsItsFrames := by
  refine ⟨?_, ?_, ?_, ?_, ?_, ?_, ?_, ?_, ?_, ?_, ?_, ?_, ?_, ?_, ?_, ?_, ?_, cellOf_putCell⟩
  · exact fun dt s => chainCycleStart_of_started
  · exact fun dt s => chainCycleStart_of_not_started
  · exact fun dt s => strobeLaunch_of_no_cell
  · exact fun dt s => strobeLaunch_of_cell
  · exact fun dt s => bleedOffBroadcast_sends
  · exact fun dt r s => bleedOffRepeat_sends
  · exact fun dt s => bleedOnBroadcast_sends
  · exact fun dt s => readStringLaunch_sends
  · exact fun dt s => readSsAuxLaunch_sends
  · exact fun dt k s => cellFragmentLaunch_sends
  · exact fun dt s => readTempsLaunch_sends
  · exact fun dt s => readCoarseLaunch_sends
  · exact fun dt s => readStatusLaunch_sends
  · exact fun dt r a k fresh s => calRunIssue_sends
  · exact fun dt p a s => scanRateAnchor_applies
  · exact fun dt t s => responseTrainReceive_served
  · intro t p a g s awaited one good
    refine ⟨?_, ?_⟩
    · rw [takeTrain_of_one awaited one, good]
    · rw [takeTrain_of_one (t := { t with segs := [] }) awaited one, goodSegment_nil]

end Sys2Proof.Machine
end

section
/-!
PROOF. A mailbox command whose transaction stands entered: the state it works on, its completion, and the completion of an itemised
transaction by its last item (R238, R421 to R427).
-/
namespace Sys2Proof.Machine
open Sys2Proof

/-! ### The transaction at work -/

theorem Stands.mem {s : State} {rq : Request} {op : Nat} {t : Txn} (h : Stands s rq op t) : t ∈ s.hub.txns :=
  List.mem_of_find?_eq_some h.1

theorem Stands.opcode {s : State} {rq : Request} {op : Nat} {t : Txn} (h : Stands s rq op t) : t.opcode = op := by
  have := List.find?_some h.1
  simp only [Bool.and_eq_true, decide_eq_true_eq] at this
  exact this.1.1.2

@[simp] theorem serving_advance (dt : Nat) (s : State) : serving (advance dt s) = serving s := by
  unfold serving; rw [advance_pow_phase]; rfl

theorem noteSize_of_fits {op : Nat} {p : Bytes} (h : ∀ n, reqSize op = some n → p.length = n) (s : State) : noteSize op p s = s := by
  unfold noteSize
  split
  · rfl
  · next n e => rw [if_pos (h n e)]

/-- A command whose transaction stands entered does its work on it. -/
theorem mailbox_of_stands {s : State} {rq : Request} {op : Nat} {t : Txn} (h : Stands s rq op t) (dt : Nat) (body : Txn → State → State) :
    mailbox op dt rq body s = body { t with served := true } (atWork dt t s) := by
  obtain ⟨entered_, serves, _, _, _, _, fits⟩ := h
  have e : entered (advance dt s) rq op = some t := entered_
  unfold mailbox
  dsimp only
  rw [e]
  dsimp only
  rw [serving_advance, serves, if_pos rfl, noteSize_of_fits fits]
  rfl

@[simp] theorem atWork_chn (dt : Nat) (t : Txn) (s : State) : (atWork dt t s).chn = s.chn := rfl
@[simp] theorem atWork_par (dt : Nat) (t : Txn) (s : State) : (atWork dt t s).par = s.par := rfl

/-! ### The completion -/

/-- No message has left since `s`, and the port of `t` takes one. -/
structure CanReply (t : Txn) (s u : State) : Prop where
  powered : portPowered u t.port = true
  up : (portOf u t.port).failed = false
  noSpi : t.port ≠ .S
  origin : noOrigin u t.port = false
  sent : u.hub.sent = s.hub.sent
  epoch : u.pow.epoch = s.pow.epoch

theorem pn_congr {s t : State} (h : t.par = s.par) (id inst : Nat) : pn t id inst = pn s id inst := by rw [pn, pv, h]; rfl
theorem p0_congr {s t : State} (h : t.par = s.par) (id : Nat) : p0 t id = p0 s id := pn_congr h id 0

theorem portPowered_congr {s t : State} (hp : t.pow.phase = s.pow.phase) (hr : t.par = s.par) (hb : t.pod = s.pod) (p : Port) :
    portPowered t p = portPowered s p := by
  unfold portPowered cressPort
  rw [hp, hb, p0_congr hr]

theorem Stands.canReply {s : State} {rq : Request} {op : Nat} {t : Txn} (h : Stands s rq op t) (dt : Nat) : CanReply t s (atWork dt t s) := by
  obtain ⟨_, _, powered, up, noSpi, origin, _⟩ := h
  exact ⟨(portPowered_congr (advance_pow_phase dt s) rfl rfl t.port).trans powered, up, noSpi, origin, rfl, advance_pow_epoch dt s⟩

/-- Work on units that say nothing of ports leaves the port ready. -/
theorem CanReply.of_only {t : Txn} {s u v : State} (h : CanReply t s u) {ps : List Part} (k : Only ps u v)
    (free : ∀ p ∈ ([.hub, .par, .pow, .pod] : List Part), p ∉ ps := by decide) : CanReply t s v := by
  have hub : v.hub = u.hub := k .hub (free _ (by simp))
  have par : v.par = u.par := k .par (free _ (by simp))
  have pow : v.pow = u.pow := k .pow (free _ (by simp))
  have pod : v.pod = u.pod := k .pod (free _ (by simp))
  obtain ⟨powered, up, noSpi, origin, sent, epoch⟩ := h
  exact ⟨(portPowered_congr (by rw [pow]) par pod t.port).trans powered, by rw [portOf, hub]; exact up, noSpi,
    by rw [noOrigin, hub]; exact origin, by rw [hub]; exact sent, by rw [pow]; exact epoch⟩

theorem CanReply.modTxn {t : Txn} {s u : State} (h : CanReply t s u) (key : Nat × Nat) (f : Txn → Txn) : CanReply t s (modTxn key f u) :=
  ⟨h.powered, h.up, h.noSpi, h.origin, h.sent, h.epoch⟩

theorem findTxn_dropTxn (key : Nat × Nat) (s : State) : findTxn (withHub s (dropTxn key)) key = none := by
  exact List.find?_eq_none.mpr fun x hx => by simpa [imp_iff_not_or] using (List.mem_filter.mp hx).2

theorem findTxn_congr {s t : State} (h : t.hub.txns = s.hub.txns) (key : Nat × Nat) : findTxn t key = findTxn s key := by simp [findTxn, h]

@[simp] theorem sendMsg_txns (m : OutMsg) (s : State) : (sendMsg m s).hub.txns = s.hub.txns := by
  unfold sendMsg; split_ifs <;> rfl

/-- A message handed to a powered port that is up and no SPI port is the next one sent. -/
theorem sendMsg_sent {m : OutMsg} {s : State} (powered : portPowered s m.port = true) (up : (portOf s m.port).failed = false)
    (noSpi : m.port ≠ .S) (origin : noOrigin s m.port = false) : (sendMsg m s).hub.sent = s.hub.sent ++ [m] := by
  unfold sendMsg
  rw [if_neg (by simp [powered, origin]), if_neg (by simp [up]), if_neg noSpi]
  split <;> rfl

@[simp] theorem withTrailer_eq (ses : Option Session) (m : OutMsg) : withTrailer ses m = { m with trailer := (withTrailer ses m).trailer } := by
  cases ses <;> rfl

/-- What `complete` hands to the transmitter, and where. -/
theorem complete_eq (t : Txn) (status : Nat) (payload : Bytes) (s : State) : ∃ u, u.hub.txns = (dropTxn (txnKey t) s.hub).txns ∧
    u.hub.sent = s.hub.sent ∧ u.hub.position = s.hub.position ∧ (portOf u t.port).failed = (portOf s t.port).failed ∧
    u.pow = s.pow ∧ u.par = s.par ∧ u.pod = s.pod ∧
    complete t status payload s = sendMsg (completionMsg s t.port t.tag t.opcode t.cls t.session t.seq status payload) u := by
  have either (m : OutMsg) (stored : Bool) (f : PortState → PortState) (hf : ∀ p, (f p).failed = p.failed) :
      ∃ u, u.hub.txns = (dropTxn (txnKey t) s.hub).txns ∧
        u.hub.sent = s.hub.sent ∧ u.hub.position = s.hub.position ∧ (portOf u t.port).failed = (portOf s t.port).failed ∧
        u.pow = s.pow ∧ u.par = s.par ∧ u.pod = s.pod ∧
        sendMsg m (if stored then modPort t.port f (withHub s (dropTxn (txnKey t))) else withHub s (dropTxn (txnKey t))) = sendMsg m u := by
    refine ⟨_, ?_, ?_, ?_, ?_, ?_, ?_, ?_, rfl⟩ <;> cases stored <;> try rfl
    rw [if_pos rfl, portOf_modPort, hf]; rfl
  exact either _ _ _ fun _ => rfl

/-- Statuses whose payload is not dropped (R425). -/
theorem payloadFor_of_kept {status : Nat} (h : status ≠ 0x10 ∧ status ≠ 0x12 ∧ status ≠ 0x40) (p : Bytes) : payloadFor status p = p :=
  if_neg (by tauto)

/-- A transaction completed on a ready port is replied to. -/
theorem CanReply.replied {t : Txn} {s u : State} (h : CanReply t s u) {status : Nat} (kept : status ≠ 0x10 ∧ status ≠ 0x12 ∧ status ≠ 0x40)
    (payload : Bytes) : Replied t status payload s (complete t status payload u) := by
  obtain ⟨powered, up, noSpi, origin, sent, epoch⟩ := h
  obtain ⟨v, txns, vsent, position, failed, pow, par, pod, e⟩ := complete_eq t status payload u
  have port : (completionMsg u t.port t.tag t.opcode t.cls t.session t.seq status payload).port = t.port := by
    rw [completionMsg, withTrailer_eq]
  rw [e]
  refine ⟨⟨completionMsg u t.port t.tag t.opcode t.cls t.session t.seq status payload, [], ?_, ?_⟩, ?_⟩
  · rw [sendMsg_sent, vsent, sent]
    · rw [port, portPowered_congr (by rw [pow]) par pod]; exact powered
    · rw [port, failed]; exact up
    · rw [port]; exact noSpi
    · rw [port, noOrigin, position]; exact origin
  · rw [completionMsg, withTrailer_eq]
    exact ⟨rfl, rfl, rfl, rfl, rfl, rfl, payloadFor_of_kept kept payload, epoch⟩
  · rw [findTxn_congr (sendMsg_txns _ v), findTxn_congr (t := v) (s := withHub u (dropTxn (txnKey t))) txns]
    exact findTxn_dropTxn _ u

/-- A command that completes at once changes nothing but the hub. -/
theorem complete_chn (t : Txn) (status : Nat) (payload : Bytes) (s : State) : (complete t status payload s).chn = s.chn :=
  Only.chn_eq (ps := [.hub]) (by simp)

/-! ### Items of the rings (R238, R439) -/

/-- A transaction being served, with its items and those still open. -/
def Txn.opened (t : Txn) (n : Nat) (named : List Nat) : Txn := { t with served := true, items := List.replicate n 0xFF, waiting := named }

theorem openItems_of_named (t : Txn) (n i : Nat) (is : List Nat) (s : State) :
    openItems { t with served := true } n (i :: is) s = modTxn (txnKey t) (fun _ => t.opened n (i :: is)) s := rfl

/-- A transaction in the table, changed, is found changed. -/
theorem findTxn_modTxn {key : Nat × Nat} {s : State} {t : Txn} (mem : ∃ x ∈ s.hub.txns, txnKey x = key) (ht : txnKey t = key) :
    findTxn (modTxn key (fun _ => t) s) key = some t := by
  obtain ⟨x, hx, hk⟩ := mem
  have found : findTxn (modTxn key (fun _ => t) s) key ≠ none := by
    intro none_
    refine List.find?_eq_none.mp none_ t (List.mem_map.mpr ⟨x, hx, if_pos ?_⟩) ?_
    · rw [← hk]; exact ⟨rfl, rfl⟩
    · rw [← ht]; simp [txnKey]
  obtain ⟨y, hy⟩ := Option.ne_none_iff_exists'.mp found
  obtain ⟨z, _, e⟩ := List.mem_map.mp (List.mem_of_find?_eq_some hy)
  have match_ := List.find?_some hy
  rw [hy]
  by_cases h : portCode z.port = key.1 ∧ z.tag = key.2
  · rw [if_pos h] at e; exact congrArg some e.symm
  · rw [if_neg h] at e; subst e; simp at match_; exact absurd match_ h

/-- The last open item's result completes its transaction. -/
theorem endItem_of_last {s : State} {t : Txn} {n i : Nat} (found : findTxn s (txnKey t) = some (t.opened n [i])) (c : Nat) :
    endItem (txnKey t) i c s = completeItems { t.opened n [i] with items := (List.replicate n 0xFF).set i c, waiting := [] } s := by
  rw [endItem, found]
  simp [Txn.opened]

/-- The statuses of the rings' items carry their result bytes. -/
theorem itemsStatus_kept {op : Nat} (h : op / 4096 = 4) (items : List Nat) :
    itemsStatus op items ≠ 0x10 ∧ itemsStatus op items ≠ 0x12 ∧ itemsStatus op items ≠ 0x40 := by
  have plain (c : Nat) : itemStatus op c ≠ 0x10 ∧ itemStatus op c ≠ 0x12 ∧ itemStatus op c ≠ 0x40 := by
    rw [itemStatus, if_neg (by omega), if_neg (by omega), plainStatusOf]; split_ifs <;> decide
  unfold itemsStatus
  split
  · exact plain _
  · decide

/-- An itemised ring command whose one item has ended is replied to with its result bytes. -/
theorem CanReply.replied_item {t : Txn} {s u : State} (h : CanReply t s u) (ring : t.opcode / 4096 = 4) {n i : Nat}
    (found : findTxn u (txnKey t) = some (t.opened n [i])) (c : Nat) :
    Replied t (itemsStatus t.opcode ((List.replicate n 0xFF).set i c)) (itemBytes ((List.replicate n 0xFF).set i c)) s
      (endItem (txnKey t) i c u) := by
  have bytes : resultBytes { t.opened n [i] with items := (List.replicate n 0xFF).set i c, waiting := [] } =
      itemBytes ((List.replicate n 0xFF).set i c) := by
    have : ¬(t.opcode = 0xA006 ∨ t.opcode = 0xA007) := by omega
    exact congrArg itemBytes (if_neg this)
  rw [endItem_of_last found, completeItems, bytes]
  exact h.replied (itemsStatus_kept ring _) _

end Sys2Proof.Machine
end

section
/-!
PROOF. The enumeration of a ring: what its launches leave as it was, how it ends, and what its nodes hold after it (R59 to R64).
-/
namespace Sys2Proof.Machine
open Sys2Proof

/-! ### Launches alone -/

/-- From `s` to `t` only frames were launched: the rings' standing, the nodes and the schedule are as they were. -/
structure OnlyLaunches (s t : State) : Prop where
  only : Only [.chn] s t
  standing : ∀ k, (ringAt t k).standing = (ringAt s k).standing
  schedule : t.chn.schedule = s.chn.schedule
  nodes : t.chn.nodes = s.chn.nodes

theorem OnlyLaunches.refl (s : State) : OnlyLaunches s s := ⟨only_self _ s, fun _ => rfl, rfl, rfl⟩

theorem OnlyLaunches.trans {s t u : State} (h : OnlyLaunches s t) (k : OnlyLaunches t u) : OnlyLaunches s u :=
  ⟨h.only.trans k.only, fun i => (k.standing i).trans (h.standing i), k.schedule.trans h.schedule, k.nodes.trans h.nodes⟩

theorem OnlyLaunches.foldl {α : Type} {f : State → α → State} (h : ∀ t x, OnlyLaunches t (f t x)) (l : List α) (s : State) :
    OnlyLaunches s (l.foldl f s) := by
  induction l generalizing s with
  | nil => exact .refl s
  | cons x l ih => exact (h s x).trans (ih (f s x))

theorem onlyLaunches_launchTimes (n r : Nat) (dir bc : Bool) (hop opc : Nat) (data : List (BitVec 16)) (s : State) :
    OnlyLaunches s (launchTimes n r dir bc hop opc data s) :=
  ⟨by simp, standing_launchTimes n r dir bc hop opc data s, rfl, rfl⟩

theorem onlyLaunches_launch (r : Nat) (dir bc : Bool) (hop opc : Nat) (data : List (BitVec 16)) (s : State) :
    OnlyLaunches s (launch r dir bc hop opc data s) :=
  ⟨by simp, standing_launch r dir bc hop opc data s, rfl, rfl⟩

theorem onlyLaunches_await (tries sidx : Nat) (s : State) : OnlyLaunches s (await tries sidx s) :=
  ⟨by simp, fun k => by rw [ringAt_await], await_schedule .., await_nodes ..⟩

theorem onlyLaunches_addressed (opc : Nat) (data : List (BitVec 16)) (sidx a : Nat) (s : State) :
    OnlyLaunches s (addressed opc data sidx a s) := (onlyLaunches_launch ..).trans (onlyLaunches_await ..)

theorem onlyLaunches_writeDelay (s : State) (b : Nat) : OnlyLaunches s (writeDelay s b) := by
  unfold writeDelay; dsimp only; split
  · exact .refl s
  · exact onlyLaunches_addressed ..

theorem onlyLaunches_launchMany (n r : Nat) (dir : Bool) (hop opc : Nat) (data : List (BitVec 16)) (s : State) :
    OnlyLaunches s (launchMany n r dir hop opc data s) := by
  have seq : OnlyLaunches s (modRing r (fun g => { g with seq := (g.seq + n) % 65536 }) s) := by
    refine ⟨by simp, fun k => ?_, rfl, rfl⟩
    by_cases h : k = r
    · subst h; rw [ringAt_modRing_self]; rfl
    · rw [ringAt_modRing_other _ _ h]
  exact seq.trans (onlyLaunches_launchTimes ..)

theorem onlyLaunches_launchTried (misses r hop opc : Nat) (data : List (BitVec 16)) (s : State) :
    OnlyLaunches s (launchTried misses r hop opc data s) :=
  (onlyLaunches_launch ..).trans (.foldl (fun _ _ => onlyLaunches_launchTimes ..) _ _)

theorem onlyLaunches_findNode (r : Nat) (s : State) (e : Nat × FoundNode) : OnlyLaunches s (findNode r s e) :=
  (((onlyLaunches_launchMany ..).trans (onlyLaunches_launchTried ..)).trans (onlyLaunches_launchMany ..)).trans (onlyLaunches_launchMany ..)

theorem onlyLaunches_measureNode (r : Nat) (s : State) (hop : Nat) : OnlyLaunches s (measureNode r s hop) :=
  ((onlyLaunches_launchMany ..).trans (onlyLaunches_launchMany ..)).trans (onlyLaunches_launchMany ..)

theorem onlyLaunches_tellNodes (r opc : Nat) (misses : FoundNode → Nat) (words : Nat → List (BitVec 16)) (nodes : List (Nat × FoundNode))
    (s : State) : OnlyLaunches s (tellNodes r opc misses words nodes s) := .foldl (fun _ _ => onlyLaunches_launchTried ..) nodes s

theorem onlyLaunches_setUpNodes (r : Nat) (nodes : List (Nat × FoundNode)) (s : State) : OnlyLaunches s (setUpNodes r nodes s) := by
  unfold setUpNodes
  dsimp only
  refine .trans ?_ (onlyLaunches_tellNodes ..)
  refine .trans ?_ (onlyLaunches_tellNodes ..)
  refine .trans ?_ (onlyLaunches_tellNodes ..)
  exact .foldl (fun _ _ => onlyLaunches_launchMany ..) nodes s

/-! ### What the firmware's judgements leave of the rings and nodes -/

theorem judgeConfig_chn (s : State) : ∃ m, (judgeConfig s).chn = { s.chn with mapFault := m } := by
  refine ⟨strMask fun j => decide (1 < (senseNodes s j).length), ?_⟩
  unfold judgeConfig
  dsimp only
  exact foldl_keeps (p := State.chn) (fun t j => post_chn ..) _ _

@[simp] theorem judgeConfig_rings (s : State) : (judgeConfig s).chn.rings = s.chn.rings := by
  obtain ⟨m, e⟩ := judgeConfig_chn s; rw [e]
@[simp] theorem judgeConfig_nodes (s : State) : (judgeConfig s).chn.nodes = s.chn.nodes := by
  obtain ⟨m, e⟩ := judgeConfig_chn s; rw [e]

@[simp] theorem reportHops_chn (r : Nat) (s : State) : (reportHops r s).chn = s.chn :=
  foldl_keeps (p := State.chn) (fun _ _ => post_chn ..) _ s

theorem hltClass_chn (sidx cls : Nat) (s : State) : ∃ rec_ v, (hltClass sidx cls s).chn = { s.chn with records := rec_, viol := v } := by
  unfold hltClass
  dsimp only
  split
  · exact ⟨_, _, assertSource_chn ..⟩
  · split
    · exact ⟨_, _, releaseSource_chn ..⟩
    · exact ⟨_, _, rfl⟩

@[simp] theorem hltClass_rings (sidx cls : Nat) (s : State) : (hltClass sidx cls s).chn.rings = s.chn.rings := by
  obtain ⟨_, _, e⟩ := hltClass_chn sidx cls s; rw [e]
@[simp] theorem hltClass_nodes (sidx cls : Nat) (s : State) : (hltClass sidx cls s).chn.nodes = s.chn.nodes := by
  obtain ⟨_, _, e⟩ := hltClass_chn sidx cls s; rw [e]

@[simp] theorem hltFollow_rings (sidx : Nat) (classes : List Nat) (s : State) : (hltFollow sidx classes s).chn.rings = s.chn.rings :=
  foldl_keeps (p := fun t => t.chn.rings) (fun t c => hltClass_rings sidx c t) classes s
@[simp] theorem hltFollow_nodes (sidx : Nat) (classes : List Nat) (s : State) : (hltFollow sidx classes s).chn.nodes = s.chn.nodes :=
  foldl_keeps (p := fun t => t.chn.nodes) (fun t c => hltClass_nodes sidx c t) classes s

@[simp] theorem pruneCounts_rings (r : Nat) (s : State) : (pruneCounts r s).chn.rings = s.chn.rings := hltFollow_rings ..
@[simp] theorem pruneCounts_nodes (r : Nat) (s : State) : (pruneCounts r s).chn.nodes = s.chn.nodes := hltFollow_nodes ..

/-- Without a violation no source is asserted or released. -/
theorem pruneCounts_only_chn {r : Nat} {s : State} (h : s.chn.viol = 0) : Only [.chn] s (pruneCounts r s) := by
  unfold pruneCounts
  dsimp only [withChn_chn]
  rw [h]
  simp [hltFollow, setBits, bit]

/-- A ring that fails its enumeration: it is without service from now on. -/
theorem ringAt_failRing (over_ open_ : Bool) (r : Nat) (s : State) : ringAt (failRing over_ open_ r s) r = { ringAt s r with
    service := .notServed, overpop := over_, openRing := open_, cutA := none, cutB := none, lostAt := some s.phys } := by
  unfold failRing
  dsimp only
  rw [ringAt_congr (s := judgeConfig _) (by rw [endItems_chn]), ringAt_congr (judgeConfig_rings _), ringAt_modRing_self]

end Sys2Proof.Machine
end

section
/-!
PROOF. How the enumeration of a ring ends, and what it leaves: a ring that is served, waits for carrier, or stands without service (R59, R60).
-/
namespace Sys2Proof.Machine
open Sys2Proof

/-! ### The enumeration under way -/

/-- The nodes an enumeration addresses, by hop. -/
abbrev hopsOf (run : EnumRun) : List (Nat × FoundNode) := (List.range 64).zip run.nodes

/-- Every node acknowledged ASSIGN; every node acknowledged DLY_WRITE (R59, R78). -/
def Assigned (run : EnumRun) (s : State) : Prop := ∀ e ∈ hopsOf run, e.2.asgMiss ≤ p0 s pChnRetryMax
def Written (run : EnumRun) (s : State) : Prop := ∀ e ∈ hopsOf run, e.2.dlyMiss ≤ p0 s pChnRetryMax

/-- The search found more nodes than a ring takes (R60). -/
def Overfull (run : EnumRun) : Prop := run.more = true ∨ 64 < run.nodes.length

/-- In `u` the enumeration of ring `r` that began in `s` is under way: its nodes are counted, and only the chain has changed. -/
structure EnumUnderWay (r : Nat) (run : EnumRun) (s u : State) : Prop where
  only : Only [.chn] s u
  service : (ringAt u r).service = .enumerating
  found : (ringAt u r).found = run.nodes.length
  overpop : (ringAt u r).overpop = false
  viol : u.chn.viol = s.chn.viol

theorem EnumUnderWay.launches {r : Nat} {run : EnumRun} {s u v : State} (h : EnumUnderWay r run s u) (k : OnlyLaunches u v) :
    EnumUnderWay r run s v := by
  have standing := k.standing r
  exact ⟨h.only.trans k.only, (congrArg Ring.service standing :).trans h.service, (congrArg Ring.found standing :).trans h.found,
    (congrArg Ring.overpop standing :).trans h.overpop, (congrArg Chain.viol k.schedule :).trans h.viol⟩

@[simp] theorem modSample_viol (j : Nat) (f : StringSample → StringSample) (s : State) : (modSample j f s).chn.viol = s.chn.viol := rfl

theorem forgetRing_viol (r : Nat) (s : State) : (forgetRing r s).chn.viol = s.chn.viol :=
  foldl_keeps (p := fun t => t.chn.viol) (fun t j => modSample_viol j _ t) _ _

/-- Nothing staged waits for a ring to stand unserved. -/
theorem applyIdle_ringKeys {r : Nat} {s : State} (h : s.par.staged = []) : applyIdle (ringKeys s r) s = s := by
  simp [applyIdle, ringKeys, h]

/-! ### Its nodes -/

/-- A found node, and all of them, in the module's table (R59, R62). -/
def putNode (r tol tries tAB : Nat) (s : State) (e : Nat × FoundNode) : State :=
  withChn s fun c => { c with nodes := mput c.nodes (r * 64 + e.1) (newNode tol tries tAB e.2) }
def putNodes (r tol tries tAB : Nat) (nodes : List (Nat × FoundNode)) (s : State) : State := nodes.foldl (putNode r tol tries tAB) s

section putNodes
variable (r tol tries tAB : Nat) (nodes : List (Nat × FoundNode)) (s : State)

theorem putNodes_only : Only [.chn] s (putNodes r tol tries tAB nodes s) := .fold (fun _ _ => by simp [putNode]) (only_self _ s)

@[simp] theorem ringAt_putNodes (k : Nat) : ringAt (putNodes r tol tries tAB nodes s) k = ringAt s k :=
  foldl_keeps (p := fun t => ringAt t k) (f := putNode r tol tries tAB) (fun _ _ => rfl) nodes s

@[simp] theorem putNodes_viol : (putNodes r tol tries tAB nodes s).chn.viol = s.chn.viol :=
  foldl_keeps (p := fun t => t.chn.viol) (f := putNode r tol tries tAB) (fun _ _ => rfl) nodes s

theorem nodeOf_putNodes_other {a : Nat} (h : ∀ e ∈ nodes, a ≠ r * 64 + e.1) : nodeOf (putNodes r tol tries tAB nodes s) a = nodeOf s a := by
  induction nodes generalizing s with
  | nil => rfl
  | cons e l ih =>
    rw [List.forall_mem_cons] at h
    exact (ih _ h.2).trans (mget_mput_other _ _ _ h.1)

/-- Each hop's node is the one found there. -/
theorem nodeOf_putNodes {i : Nat} {f : FoundNode} (once : (nodes.map (·.1)).Nodup) (mem : (i, f) ∈ nodes) :
    nodeOf (putNodes r tol tries tAB nodes s) (r * 64 + i) = newNode tol tries tAB f := by
  induction nodes generalizing s with
  | nil => cases mem
  | cons e l ih =>
    obtain ⟨fresh, once⟩ := List.nodup_cons.mp once
    rcases List.mem_cons.mp mem with rfl | mem
    · have other : ∀ e ∈ l, r * 64 + i ≠ r * 64 + e.1 := fun e he h => fresh (List.mem_map.mpr ⟨e, he, by simp only; omega⟩)
      exact (nodeOf_putNodes_other r tol tries tAB l _ other).trans (mget_mput_self _ _ _ _)
    · exact ih _ once mem

end putNodes

theorem nodeOf_congr {s t : State} (h : t.chn.nodes = s.chn.nodes) (a : Nat) : nodeOf t a = nodeOf s a := by rw [nodeOf, h]; rfl

theorem EnumUnderWay.putNodes {r : Nat} {run : EnumRun} {s u : State} (h : EnumUnderWay r run s u) (tol tries tAB : Nat)
    (nodes : List (Nat × FoundNode)) : EnumUnderWay r run s (putNodes r tol tries tAB nodes u) := by
  obtain ⟨only, service, found, overpop, viol⟩ := h
  refine ⟨only.trans (putNodes_only r tol tries tAB nodes u), ?_, ?_, ?_, (putNodes_viol ..).trans viol⟩ <;> rwa [ringAt_putNodes]

theorem map_fst_zip_sublist {α β : Type} : ∀ (l : List α) (m : List β), ((l.zip m).map Prod.fst).Sublist l
  | [], _ => List.Sublist.refl _
  | _ :: _, [] => List.nil_sublist _
  | a :: l, _ :: m => (map_fst_zip_sublist l m).cons_cons a

theorem hopsOf_nodup (run : EnumRun) : ((hopsOf run).map (·.1)).Nodup :=
  List.nodup_range.sublist (map_fst_zip_sublist _ _)

theorem mem_hopsOf {run : EnumRun} {i : Nat} {f : FoundNode} (fits : run.nodes.length ≤ 64) (h : run.nodes[i]? = some f) :
    (i, f) ∈ hopsOf run := by
  have hi : i < run.nodes.length := (List.getElem?_eq_some_iff.mp h).1
  refine List.mem_iff_getElem?.mpr ⟨i, ?_⟩
  rw [List.getElem?_zip_eq_some]
  exact ⟨List.getElem?_range (by omega), h⟩

/-- The found nodes stand in `u` with their delays and waits (R62). -/
def NodesHeld (r : Nat) (run : EnumRun) (s u : State) : Prop :=
  ∀ i f, run.nodes[i]? = some f → nodeOf u (r * 64 + i) = newNode (p0 s pChnDlyCheckTol) (p0 s pChnRetryMax) run.tAB f

/-! ### How it ends -/

/-- The ring is served, mis-populated and with its aperture not assured as its nodes say (R60, R67). -/
def ringServes (r : Nat) (run : EnumRun) (s u : State) : State :=
  modRing r (fun g => { g with
    service := .served, misPop := pn s pChnExpectNodes r != 0 && pn s pChnExpectNodes r != run.nodes.length
    noApt := (ringNodes u r).any fun a => shortWait (nodeOf u a).dA (nodeOf u a).dB }) u

/-- The ways an enumeration of ring `r` that began in `s` can end. -/
inductive EnumEnds (r : Nat) (run : EnumRun) (s : State) : State → Prop
  | lost {u : State} (under : EnumUnderWay r run s u) (unassigned : ¬ Assigned run s) : EnumEnds r run s (failRing false false r u)
  | overfull {u : State} (under : EnumUnderWay r run s u) (assigned : Assigned run s) (over_ : Overfull run) :
      EnumEnds r run s (failRing true false r u)
  | open_ {u : State} (under : EnumUnderWay r run s u) (assigned : Assigned run s) (fits : ¬ Overfull run) (closed : run.closed = false) :
      EnumEnds r run s u
  | unwritten {u : State} (under : EnumUnderWay r run s u) (assigned : Assigned run s) (fits : ¬ Overfull run) (closed : run.closed = true)
      (unwritten : ¬ Written run s) : EnumEnds r run s (failRing false false r u)
  | served {u : State} (under : EnumUnderWay r run s u) (held : NodesHeld r run s u) (assigned : Assigned run s) (fits : ¬ Overfull run)
      (closed : run.closed = true) (written : Written run s) :
      EnumEnds r run s (endItems [0x4001] r 0x00 (judgeConfig (pruneCounts r (reportHops r (ringServes r run s u)))))

theorem enumerate_ends {r : Nat} {run : EnumRun} {s : State} (unstaged : s.par.staged = []) : EnumEnds r run s (enumerate r run s) := by
  unfold enumerate
  dsimp only
  generalize hu : modRing r _ (forgetRing r s) = u
  have under : EnumUnderWay r run s u := by
    rw [← hu]
    exact ⟨by simp, by rw [ringAt_modRing_self], by rw [ringAt_modRing_self], by rw [ringAt_modRing_self], forgetRing_viol r s⟩
  have par : u.par = s.par := under.only.par_eq
  rw [applyIdle_ringKeys (by rw [par]; exact unstaged), p0_congr par]
  clear hu unstaged
  generalize hw : List.foldl (findNode r) u _ = w
  replace under : EnumUnderWay r run s w := by rw [← hw]; exact under.launches (.foldl (onlyLaunches_findNode r) _ u)
  clear hw par u
  split
  next e he =>
    refine .lost (under.launches ((onlyLaunches_launchMany ..).trans (onlyLaunches_launchTried ..))) fun all => ?_
    have few := all e (List.mem_of_find?_eq_some he)
    have many := List.find?_some he
    simp only [decide_eq_true_eq] at many; omega
  next none_ =>
    have assigned : Assigned run s := fun e he => by simpa using List.find?_eq_none.mp none_ e he
    generalize hv : launchMany 1 r false _ 0x01 [] w = v
    replace under : EnumUnderWay r run s v := by rw [← hv]; exact under.launches (onlyLaunches_launchMany ..)
    clear hv w
    split
    next over_ => exact .overfull under assigned over_
    next fits =>
    split
    next closed => exact .open_ under assigned fits (by simpa using closed)
    next closed =>
      rw [p0_congr under.only.par_eq]
      generalize hn : List.foldl _ v (hopsOf run) = n
      replace hn : n = putNodes r (p0 s pChnDlyCheckTol) (p0 s pChnRetryMax) run.tAB (hopsOf run) v := hn.symm
      generalize hm : setUpNodes r (hopsOf run) _ = m
      have launches : OnlyLaunches n m := by
        rw [← hm]; exact (OnlyLaunches.foldl (onlyLaunches_measureNode r) _ n).trans (onlyLaunches_setUpNodes ..)
      have held : NodesHeld r run s m := by
        intro i f hf
        rw [nodeOf_congr launches.nodes, hn]
        exact nodeOf_putNodes r _ _ _ _ v (hopsOf_nodup run) (mem_hopsOf (by omega) hf)
      have placed : EnumUnderWay r run s m := by
        refine EnumUnderWay.launches ?_ launches
        rw [hn]; exact under.putNodes ..
      split
      next unwritten =>
        refine .unwritten placed assigned fits (by simpa using closed) fun all => ?_
        obtain ⟨e, he, many⟩ := List.any_eq_true.mp unwritten
        have few := all e he
        simp only [decide_eq_true_eq] at many; omega
      next written =>
        have all : Written run s := fun e he => by
          simpa using fun many => written (List.any_eq_true.mpr ⟨e, he, many⟩)
        rw [pn_congr placed.only.par_eq]
        exact .served placed held assigned fits (by simpa using closed) all

/-! ### What it leaves -/

section ends
variable {r : Nat} {run : EnumRun} {s t : State}

/-- The state of a ring that has just been served. -/
abbrev enumServed (r : Nat) (run : EnumRun) (s u : State) : State :=
  endItems [0x4001] r 0x00 (judgeConfig (pruneCounts r (reportHops r (ringServes r run s u))))

theorem ringAt_enumServed (r : Nat) (run : EnumRun) (s u : State) : ringAt (enumServed r run s u) r = { ringAt u r with
    service := .served, misPop := pn s pChnExpectNodes r != 0 && pn s pChnExpectNodes r != run.nodes.length
    noApt := (ringNodes u r).any fun a => shortWait (nodeOf u a).dA (nodeOf u a).dB } := by
  rw [ringAt_congr (s := ringServes r run s u) (by simp), ringServes, ringAt_modRing_self]

theorem enumServed_nodes (r : Nat) (run : EnumRun) (s u : State) : (enumServed r run s u).chn.nodes = u.chn.nodes := by
  simp [enumServed, ringServes]

theorem EnumEnds.found (h : EnumEnds r run s t) : (ringAt t r).found = run.nodes.length := by
  cases h with
  | lost under _ => rw [ringAt_failRing]; exact under.found
  | overfull under _ _ => rw [ringAt_failRing]; exact under.found
  | open_ under _ _ _ => exact under.found
  | unwritten under _ _ _ _ => rw [ringAt_failRing]; exact under.found
  | served under _ _ _ _ _ => rw [ringAt_enumServed]; exact under.found

/-- Without an acknowledgement of ASSIGN the ring is not served (R60). -/
theorem EnumEnds.of_unassigned (h : EnumEnds r run s t) (un : ¬ Assigned run s) : ∃ u, EnumUnderWay r run s u ∧ t = failRing false false r u := by
  cases h with
  | lost under _ => exact ⟨_, under, rfl⟩
  | overfull _ assigned _ => exact absurd assigned un
  | open_ _ assigned _ _ => exact absurd assigned un
  | unwritten _ assigned _ _ _ => exact absurd assigned un
  | served _ _ assigned _ _ _ => exact absurd assigned un

theorem EnumEnds.of_overfull (h : EnumEnds r run s t) (assigned : Assigned run s) (over_ : Overfull run) :
    ∃ u, EnumUnderWay r run s u ∧ t = failRing true false r u := by
  cases h with
  | lost _ un => exact absurd assigned un
  | overfull under _ _ => exact ⟨_, under, rfl⟩
  | open_ _ _ fits _ => exact absurd over_ fits
  | unwritten _ _ fits _ _ => exact absurd over_ fits
  | served _ _ _ fits _ _ => exact absurd over_ fits

theorem EnumEnds.of_open (h : EnumEnds r run s t) (assigned : Assigned run s) (fits : ¬ Overfull run) (open_ : run.closed = false) :
    EnumUnderWay r run s t := by
  cases h with
  | lost _ un => exact absurd assigned un
  | overfull _ _ over_ => exact absurd over_ fits
  | open_ under _ _ _ => exact under
  | unwritten _ _ _ closed _ => exact absurd (open_.symm.trans closed) Bool.false_ne_true
  | served _ _ _ _ closed _ => exact absurd (open_.symm.trans closed) Bool.false_ne_true

theorem EnumEnds.of_unwritten (h : EnumEnds r run s t) (assigned : Assigned run s) (fits : ¬ Overfull run) (closed : run.closed = true)
    (un : ¬ Written run s) : ∃ u, EnumUnderWay r run s u ∧ t = failRing false false r u := by
  cases h with
  | lost _ un => exact absurd assigned un
  | overfull _ _ over_ => exact absurd over_ fits
  | open_ _ _ _ open_ => exact absurd (open_.symm.trans closed) Bool.false_ne_true
  | unwritten under _ _ _ _ => exact ⟨_, under, rfl⟩
  | served _ _ _ _ _ written => exact absurd written un

theorem EnumEnds.of_written (h : EnumEnds r run s t) (assigned : Assigned run s) (fits : ¬ Overfull run) (closed : run.closed = true)
    (written : Written run s) : ∃ u, EnumUnderWay r run s u ∧ NodesHeld r run s u ∧ t = enumServed r run s u := by
  cases h with
  | lost _ un => exact absurd assigned un
  | overfull _ _ over_ => exact absurd over_ fits
  | open_ _ _ _ open_ => exact absurd (open_.symm.trans closed) Bool.false_ne_true
  | unwritten _ _ _ _ un => exact absurd written un
  | served under held _ _ _ _ => exact ⟨_, under, held, rfl⟩

end ends

/-- What a served ring's state says of its nodes. -/
theorem enumServed_serves {r : Nat} {run : EnumRun} {s u : State} (held : NodesHeld r run s u) :
    let t := enumServed r run s u
    (ringAt t r).service = .served ∧
      (ringAt t r).misPop = (pn s pChnExpectNodes r != 0 && pn s pChnExpectNodes r != run.nodes.length) ∧
      (ringAt t r).noApt = ((ringNodes t r).any fun a => shortWait (nodeOf t a).dA (nodeOf t a).dB) ∧
      ∀ i f, run.nodes[i]? = some f → nodeOf t (r * 64 + i) = newNode (p0 s pChnDlyCheckTol) (p0 s pChnRetryMax) run.tAB f := by
  intro t
  have nodes (a : Nat) : nodeOf t a = nodeOf u a := nodeOf_congr (enumServed_nodes r run s u) a
  have list : ringNodes t r = ringNodes u r := by rw [ringNodes, enumServed_nodes]; rfl
  simp only [nodes, list]
  rw [ringAt_enumServed]
  exact ⟨rfl, rfl, rfl, held⟩

end Sys2Proof.Machine
end

section
/-!
PROOF. A ring in service outside commands: its enumeration as stated, power, tones, and the ring restored (R47, R59 to R61, R77, R382).
-/
namespace Sys2Proof.Machine
open Sys2Proof

/-! ### The enumeration (R59 to R62) -/

/-- R59 to R62: how an enumeration leaves the ring. -/
theorem enumerate_leaves (r : Nat) (run : EnumRun) (s : State) (unstaged : s.par.staged = []) :
    let t := enumerate r run s
    let tries := p0 s pChnRetryMax
    let nodes := (List.range 64).zip run.nodes
    (ringAt t r).found = run.nodes.length ∧
    ((∃ e ∈ nodes, tries < e.2.asgMiss) → (ringAt t r).service = .notServed) ∧
    ((∀ e ∈ nodes, e.2.asgMiss ≤ tries) →
      (run.more = true ∨ 64 < run.nodes.length → (ringAt t r).service = .notServed ∧ (ringAt t r).overpop = true) ∧
      (run.more = false → run.nodes.length ≤ 64 → run.closed = false → (ringAt t r).service = .enumerating) ∧
      (run.more = false → run.nodes.length ≤ 64 → run.closed = true → (∃ e ∈ nodes, tries < e.2.dlyMiss) →
        (ringAt t r).service = .notServed ∧ (ringAt t r).overpop = false) ∧
      (run.more = false → run.nodes.length ≤ 64 → run.closed = true → (∀ e ∈ nodes, e.2.dlyMiss ≤ tries) →
        (ringAt t r).service = .served ∧
        (ringAt t r).misPop = (pn s pChnExpectNodes r != 0 && pn s pChnExpectNodes r != run.nodes.length) ∧
        (ringAt t r).noApt = ((ringNodes t r).any fun a => shortWait (nodeOf t a).dA (nodeOf t a).dB) ∧
        ∀ i f, run.nodes[i]? = some f → nodeOf t (r * 64 + i) = newNode (p0 s pChnDlyCheckTol) tries run.tAB f)) := by
  intro t tries nodes
  have ends : EnumEnds r run s t := enumerate_ends unstaged
  have fits (more : run.more = false) (few : run.nodes.length ≤ 64) : ¬ Overfull run := by
    rintro (h | h)
    · exact absurd (more.symm.trans h) Bool.false_ne_true
    · omega
  refine ⟨ends.found, fun ⟨e, he, many⟩ => ?_, fun assigned => ⟨fun over_ => ?_, fun more few open_ => ?_, fun more few closed ⟨e, he, many⟩ => ?_,
    fun more few closed written => ?_⟩⟩
  · obtain ⟨u, _, eq⟩ := ends.of_unassigned fun all => absurd (all e he) (Nat.not_le.mpr many)
    rw [eq, ringAt_failRing]
  · obtain ⟨u, _, eq⟩ := ends.of_overfull assigned over_
    rw [eq, ringAt_failRing]; exact ⟨rfl, rfl⟩
  · exact (ends.of_open assigned (fits more few) open_).service
  · obtain ⟨u, _, eq⟩ := ends.of_unwritten assigned (fits more few) closed fun all => absurd (all e he) (Nat.not_le.mpr many)
    rw [eq, ringAt_failRing]; exact ⟨rfl, rfl⟩
  · obtain ⟨u, _, held, eq⟩ := ends.of_written assigned (fits more few) closed written
    rw [eq]; exact enumServed_serves held

/-- R382: the next enabled ring is powered, and enumerated. -/
theorem ringPowerUp_of_due {dt r : Nat} (run : EnumRun) {s : State} (phase : s.pow.phase = .late ∨ s.pow.phase = .normal)
    (next : (unpoweredRings s).head? = some r) (due : ringPowerDue (advance dt s) = true) :
    exec (.ringPowerUp dt r run) s = .next (enumerate r run { advance dt s with pow := { (advance dt s).pow with
      rails := s.pow.rails ||| BitVec.ofNat 16 (2 ^ (7 + r)), railAt := s.phys + dt } }) := by
  have head : (unpoweredRings (advance dt s)).head? = some r := by simpa [unpoweredRings, p0_congr (advance_par dt s)] using next
  have up : ((advance dt s).pow.phase == .late || (advance dt s).pow.phase == .normal) = true := by
    rw [advance_pow_phase]; rcases phase with h | h <;> rw [h] <;> rfl
  show execRingPowerUp dt r run s = _
  unfold execRingPowerUp
  dsimp only
  rw [up, head, due, if_pos (by simp), advance_pow_rails, advance_phys]

/-- R61: a ring without service for 500 ms is enumerated again. -/
theorem ringServiceLoss_of_due {dt r : Nat} (run : EnumRun) {s : State} (seq : sequencing s = true) (lost : (ringAt s r).service = .notServed)
    (due : passed (advance dt s) (ringAt s r).lostAt (500 * msNs) = true) :
    exec (.ringServiceLoss dt r run) s = .next (enumerate r run (advance dt s)) := by
  show execRingServiceLoss dt r run s = _
  simp [execRingServiceLoss, seq, lost, due]

/-- R59, R60: without carrier at end B the ring is open; the missing WAKE reply only ends the search. -/
theorem enumerationReplyTimeout_of_enumerating {dt r : Nat} (closing : Bool) {s : State} (under : (ringAt s r).service = .enumerating) :
    exec (.enumerationReplyTimeout dt r closing) s = .next (if closing then failRing false true r (advance dt s) else advance dt s) := by
  show execEnumerationReplyTimeout dt r closing s = _
  cases closing <;> simp [execEnumerationReplyTimeout, under]

/-! ### The alarm tone (R47) -/

theorem Only.husk_eq {ps : List Part} {s t : State} (h : Only ps s t) (k : Part.husk ∉ ps := by decide) : t.husk = s.husk := h .husk k

/-- The Husk's effects change no trip. -/
theorem huskEffects_trips (s : State) : (huskEffects s).husk.trips = s.husk.trips := by
  have lines : Only [.hub, .seq, .ctl] (noteLines (meetHolds s)) (huskEffects s) := by simp [huskEffects]
  have holds : (meetHolds s).husk = s.husk := Only.husk_eq (ps := [.free, .par, .hub, .seq, .lsw, .ctl, .thm, .log]) (by simp)
  rw [lines.husk_eq, noteLines, holds]

theorem tripOf_congr {s t : State} (h : t.husk.trips = s.husk.trips) (src : Nat) : tripOf t src = tripOf s src := by rw [tripOf, h]; rfl

@[simp] theorem tripOf_huskEffects (src : Nat) (s : State) : tripOf (huskEffects s) src = tripOf s src := tripOf_congr (huskEffects_trips s) src

@[simp] theorem tripOf_noteTrip (k src : Nat) (s : State) : tripOf (noteTrip k s) src = tripOf s src := by
  have triggers (u : State) : (huskTrigger u).husk = u.husk := Only.husk_eq (ps := [.met, .ctl]) (by simp)
  refine tripOf_congr ?_ src
  unfold noteTrip
  dsimp only
  rw [triggers]
  split <;> rfl

/-- A source that acts stays asserted as it was. -/
theorem sourceActs_asserted (src : Nat) (s : State) : (tripOf (sourceActs src s) src).asserted = (tripOf s src).asserted := by
  have posted (k cls inst : _) (p : Bytes) : tripOf (post k cls inst p s) src = tripOf s src :=
    tripOf_congr (congrArg Husk.trips (Only.husk_eq (ps := [.log]) (by simp))) src
  unfold sourceActs
  dsimp only
  split_ifs <;> simp [posted]

/-- A source that can assert is asserted (R214). -/
theorem assertSource_asserted {src : Nat} {s : State} (can : canAssert s src = true) (strings : BitVec 16) :
    (tripOf (assertSource src strings s) src).asserted = true := by
  unfold assertSource
  rw [if_neg (by simp [can])]
  dsimp only
  generalize hu : modTrip src _ _ = u
  have asserted : (tripOf u src).asserted = true := by rw [← hu, tripOf_modTrip]
  clear hu
  split
  next => split
          next => rw [tripOf_huskEffects]; exact asserted
          next => exact asserted
  next => split
          next => rw [tripOf_modTrip]; exact asserted
          next => rw [sourceActs_asserted]; exact asserted

/-- R47: a tone at an end of an enabled ring. -/
theorem alarmToneDetect_of_enabled (dt : Nat) {r : Nat} (e : RingEnd) {s : State} (hr : r < 8) (enabled : bit (p0 s pChnRingEnable) r = true) :
    Answers (exec (.alarmToneDetect dt r e) s) fun t =>
      (ringAt t r).tone = true ∧ (canAssert (modRing r (fun g => { g with tone := true }) (advance dt s)) 4 = true → (tripOf t 4).asserted = true) := by
  have step : exec (.alarmToneDetect dt r e) s =
      .next (assertSource 4 0 (modRing r (fun g => { g with tone := true }) (advance dt s))) := by
    show execAlarmToneDetect dt r e s = _
    simp [execAlarmToneDetect, p0_congr (advance_par dt s), enabled, hr]
  rw [step]
  refine ⟨_, rfl, ?_, fun can => assertSource_asserted can 0⟩
  rw [ringAt_congr (congrArg Chain.rings (assertSource_chn ..)), ringAt_modRing_self]

/-! ### A wrapped ring made one again (R77) -/

/-- R77: carrier is back on both sides of the break. -/
theorem carrierReturn_of_wrapped (dt : Nat) {r : Nat} {s : State} (wrapped : (ringAt s r).service = .wrapped) :
    Answers (exec (.carrierReturn dt r) s) fun t => (ringAt t r).cleanAt = some (s.phys + dt) ∧ (ringAt t r).service = .wrapped := by
  have step : exec (.carrierReturn dt r) s = .next (modRing r (fun g => { g with cleanAt := some (s.phys + dt) }) (advance dt s)) := by
    show execCarrierReturn dt r s = _
    simp [execCarrierReturn, wrapped]
  rw [step]
  refine ⟨_, rfl, ?_⟩
  dsimp only
  rw [ringAt_modRing_self]
  exact ⟨rfl, wrapped⟩

/-- LOOP_CLR goes at once in a cycle without a cell strobe, right after its TC0 slot; else it is due. -/
theorem orderRestore_of_open {r : Nat} {s : State} (plain : s.chn.cellNow = false) (early : cycleNs s ≤ slotEnd) :
    orderRestore r s = clearLoops r s := by simp [orderRestore, plain, early]

theorem orderRestore_of_shut {r : Nat} {s : State} (h : s.chn.cellNow = true ∨ slotEnd < cycleNs s) :
    orderRestore r s = modRing r (fun g => { g with restoreDue := true }) s := by
  refine if_neg ?_
  rcases h with h | h
  · simp [h]
  · simp [Nat.not_le.mpr h]

/-- R77: ten seconds of clean carrier. -/
theorem wrapRestore_of_due {dt r : Nat} {s : State} (wrapped : (ringAt s r).service = .wrapped) (on : p0 s pChnWrapRestore = 1)
    (due : passed (advance dt s) (ringAt s r).cleanAt (10 * secNs) = true) :
    Answers (exec (.wrapRestore dt r) s) fun t =>
      (s.chn.cellNow = true ∨ slotEnd < cycleNs (advance dt s) → (ringAt t r).restoreDue = true ∧ (ringAt t r).service = .wrapped) ∧
      (s.chn.cellNow = false → cycleNs (advance dt s) ≤ slotEnd → t = clearLoops r (advance dt s)) := by
  have step : exec (.wrapRestore dt r) s = .next (orderRestore r (advance dt s)) := by
    show execWrapRestore dt r s = _
    simp [execWrapRestore, wrapped, p0_congr (advance_par dt s), on, due]
  rw [step]
  refine ⟨_, rfl, fun h => ?_, orderRestore_of_open (s := advance dt s)⟩
  rw [orderRestore_of_shut (s := advance dt s) h, ringAt_modRing_self]
  exact ⟨rfl, wrapped⟩

/-- LOOP_CLR has gone to the ring's wrapped nodes (R77). -/
theorem clearLoops_of_hops {r : Nat} {s : State} (hops : (ringAt s r).wrapHops ≠ []) :
    let t := clearLoops r s
    (ringAt t r).clearing = (ringAt s r).wrapHops ∧ (ringAt t r).restoreDue = false ∧ (ringAt t r).service = (ringAt s r).service := by
  intro t
  have launches : OnlyLaunches (modRing r (fun g => { g with restoreDue := false, clearing := (ringAt s r).wrapHops }) s) t := by
    show OnlyLaunches _ (clearLoops r s)
    rw [clearLoops_eq, if_neg (by simpa using hops)]
    exact .foldl (fun u h => onlyLaunches_addressed ..) _ _
  have standing := launches.standing r
  rw [ringAt_modRing_self] at standing
  exact ⟨(congrArg Ring.clearing standing :), (congrArg Ring.restoreDue standing :), (congrArg Ring.service standing :)⟩

theorem clearLoops_only_chn {r : Nat} {s : State} (hops : (ringAt s r).wrapHops ≠ []) : Only [.chn] s (clearLoops r s) := by
  rw [clearLoops_eq, if_neg (by simpa using hops)]
  exact .fold (fun _ _ => by simp) (by simp)

/-- A ring's service: its state, its hops, and where it is cut. -/
def Ring.segments (g : Ring) : RingService × Nat × Option Nat × Option Nat := (g.service, g.found, g.cutA, g.cutB)

theorem segments_of_standing {g h : Ring} (e : g.standing = h.standing) : g.segments = h.segments :=
  (congrArg Ring.segments e : g.standing.segments = h.standing.segments)

theorem segments_eq {g : Ring} {sv : RingService} {n : Nat} {a b : Option Nat} (h : g.segments = (sv, n, a, b)) :
    g.service = sv ∧ g.found = n ∧ g.cutA = a ∧ g.cutB = b := by simpa [Ring.segments] using h

/-- A restored ring is served, in one segment. -/
theorem restoreRing_serves (r : Nat) (s : State) :
    let t := restoreRing r s
    (ringAt t r).service = .served ∧ (ringAt t r).cutA = none ∧ (ringAt t r).cutB = none := by
  have whole (u : State) : (ringAt (endItems [0x4002] r 0x00 ((ringNodes u r).foldl writeDelay u)) r).segments = (ringAt u r).segments := by
    rw [ringAt_congr (congrArg Chain.rings (endItems_chn ..))]
    exact segments_of_standing ((OnlyLaunches.foldl onlyLaunches_writeDelay _ u).standing r)
  have segments : ∃ n, (ringAt (restoreRing r s) r).segments = (.served, n, none, none) := by
    unfold restoreRing
    dsimp only
    rw [whole, ringAt_modRing_self]
    exact ⟨_, rfl⟩
  obtain ⟨n, segments⟩ := segments
  obtain ⟨service, _, cutA, cutB⟩ := segments_eq segments
  exact ⟨service, cutA, cutB⟩

/-- The last wrapped node has cleared its loop (R77). -/
theorem loopCleared_of_last {a : Nat} {s : State} (last : (ringAt s (ringOf a)).clearing = [hopOf a]) :
    let t := loopCleared a s
    (ringAt t (ringOf a)).service = .served ∧ (ringAt t (ringOf a)).cutA = none ∧ (ringAt t (ringOf a)).cutB = none := by
  have step : loopCleared a s = restoreRing (ringOf a)
      (modRing (ringOf a) (fun g => { g with clearing := g.clearing.filter (· != hopOf a) }) s) := by
    unfold loopCleared
    dsimp only
    rw [if_neg (by simp [last]), if_pos (by simp [last])]
  rw [step]
  exact restoreRing_serves ..

end Sys2Proof.Machine
end

section
/-!
PROOF. A ring that breaks: where it is cut, and that what becomes of the frames in flight leaves its segments as they are (R74, R75, R78).
-/
namespace Sys2Proof.Machine
open Sys2Proof

/-! ### Readings leave the rings as they are -/

@[simp] theorem hltStep_rings (cls inst n : Nat) (viol : Bool) (s : State) : (hltStep cls inst n viol s).chn.rings = s.chn.rings := by
  cases viol <;> rfl

@[simp] theorem modCell_rings (c : Nat) (f : CellSample → CellSample) (s : State) : (modCell c f s).chn.rings = s.chn.rings := rfl
@[simp] theorem modTemp_rings (t : Nat) (f : TempSample → TempSample) (s : State) : (modTemp t f s).chn.rings = s.chn.rings := rfl
@[simp] theorem modSample_rings (j : Nat) (f : StringSample → StringSample) (s : State) : (modSample j f s).chn.rings = s.chn.rings := rfl
@[simp] theorem dropCounts_rings (keys : List Nat) (s : State) : (dropCounts keys s).chn.rings = s.chn.rings := rfl

@[simp] theorem putCell_rings (a c raw sidx : Nat) (bleed fly carry : Bool) (s : State) :
    (putCell a c raw sidx bleed fly carry s).chn.rings = s.chn.rings := by
  unfold putCell
  dsimp only
  split_ifs <;> simp

/-- One side of a coarse value's limit check. -/
theorem coarseSide_rings (p q r : Prop) [Decidable p] [Decidable q] [Decidable r] (cls c n : Nat) (s : State) :
    (if p then s else if q then hltStep cls c n true s else if r then hltStep cls c n false s else s).chn.rings = s.chn.rings := by
  split_ifs <;> simp

@[simp] theorem putCoarse_rings (a c sidx raw : Nat) (s : State) : (putCoarse a c sidx raw s).chn.rings = s.chn.rings := by
  unfold putCoarse
  dsimp only
  rw [coarseSide_rings, coarseSide_rings, apply_ite (fun u : State => u.chn.rings), post_chn, modCell_rings, ite_self]

@[simp] theorem putTemp_rings (t sidx : Nat) (raw : Option Int) (s : State) : (putTemp t sidx raw s).chn.rings = s.chn.rings := by
  unfold putTemp
  dsimp only
  split
  next => simp
  next =>
    split
    next => simp
    next => split <;> simp

@[simp] theorem putShunt_rings (a : Nat) (v : Int) (s : State) : (putShunt a v s).chn.rings = s.chn.rings := by
  unfold putShunt; split <;> simp

@[simp] theorem latchScan_rings (j : Nat) (c : Option Int) (u : Option Nat) (s : State) : (latchScan j c u s).chn.rings = s.chn.rings := rfl
@[simp] theorem sumCurrent_rings (j : Nat) (i : Int) (s : State) : (sumCurrent j i s).chn.rings = s.chn.rings := rfl

/-- A string's sample without a current. -/
@[simp] theorem putString_none_rings (a j sidx : Nat) (s : State) : (putString a j sidx none none false false s).chn.rings = s.chn.rings := by
  unfold putString
  simp only [ite_self]
  rw [hltStep_rings, apply_ite (fun u : State => u.chn.rings), latchScan_rings, modSample_rings, ite_self]

@[simp] theorem naCells_rings (p : Pend) (a : Nat) (s : State) : (naCells p a s).chn.rings = s.chn.rings :=
  foldl_keeps (p := fun t => t.chn.rings) (fun _ _ => putCell_rings ..) _ s

@[simp] theorem naString_rings (a sidx : Nat) (s : State) : (naString a sidx s).chn.rings = s.chn.rings := by
  unfold naString
  split
  next => split <;> simp
  next => rfl

@[simp] theorem naTemps_rings (a sidx : Nat) (s : State) : (naTemps a sidx s).chn.rings = s.chn.rings := by
  unfold naTemps
  split
  next => exact foldl_keeps (p := fun t => t.chn.rings) (fun _ _ => putTemp_rings ..) _ s
  next => simp

@[simp] theorem naAux_rings (a : Nat) (s : State) : (naAux a s).chn.rings = s.chn.rings := by
  unfold naAux; split <;> simp

/-! ### The segments of the rings -/

/-- Every ring is in service as before, and cut where it was. -/
structure SameSegments (s t : State) : Prop where
  ring : ∀ k, (ringAt t k).segments = (ringAt s k).segments

theorem SameSegments.refl (s : State) : SameSegments s s := ⟨fun _ => rfl⟩
theorem SameSegments.trans {s t u : State} (h : SameSegments s t) (k : SameSegments t u) : SameSegments s u :=
  ⟨fun i => (k.ring i).trans (h.ring i)⟩
theorem SameSegments.of_rings {s t : State} (h : t.chn.rings = s.chn.rings) : SameSegments s t := ⟨fun k => by rw [ringAt_congr h]⟩

theorem SameSegments.foldl {α : Type} {f : State → α → State} (h : ∀ t x, SameSegments t (f t x)) (l : List α) (s : State) :
    SameSegments s (l.foldl f s) := by
  induction l generalizing s with
  | nil => exact .refl s
  | cons x l ih => exact (h s x).trans (ih (f s x))

theorem OnlyLaunches.segments {s t : State} (h : OnlyLaunches s t) : SameSegments s t :=
  ⟨fun k => segments_of_standing (h.standing k)⟩

theorem sameSegments_modRing {r : Nat} {f : Ring → Ring} (h : ∀ g, (f g).segments = g.segments) (s : State) : SameSegments s (modRing r f s) := by
  refine ⟨fun k => ?_⟩
  by_cases e : k = r
  · subst e; rw [ringAt_modRing_self, h]
  · rw [ringAt_modRing_other _ _ e]

theorem sameSegments_bookRing (r : Nat) (s : State) : SameSegments s (bookRing r s) := by
  obtain ⟨t, e, rings, _, _⟩ := bookRing_eq r s
  rw [e]
  exact (SameSegments.of_rings rings).trans (sameSegments_modRing (by exact fun _ => rfl) t)

theorem sameSegments_dropRestore (r : Nat) (s : State) : SameSegments s (dropRestore r s) := by
  unfold dropRestore
  dsimp only
  split
  next =>
    refine SameSegments.trans ?_ (.of_rings (congrArg Chain.rings (endItems_chn ..)))
    exact sameSegments_modRing (by exact fun _ => rfl) s
  next => exact .refl s

theorem sameSegments_retryAt (p : Pend) (a : Nat) (s : State) : SameSegments s (retryAt p a s) := by
  unfold retryAt
  split
  next => exact ((onlyLaunches_launch ..).trans (onlyLaunches_await ..)).segments
  next => exact ((onlyLaunches_launchTimes ..).trans (onlyLaunches_await ..)).segments

/-- An item given up at a node: its values are not available, and a restore it belongs to is dropped. -/
theorem sameSegments_exhausted (p : Pend) (a : Nat) (s : State) : SameSegments s (exhausted p a s) := by
  unfold exhausted
  dsimp only
  generalize hu : (if isRead p.opc = true then _ else _) = u
  have counted : SameSegments s u := .of_rings (by rw [← hu]; split <;> simp)
  clear hu
  refine counted.trans ?_
  split
  case h_4 => exact .foldl (fun t c => .of_rings (by split <;> simp)) _ u
  case h_6 => exact sameSegments_dropRestore ..
  all_goals exact .of_rings (by simp)

theorem sameSegments_missing (p : Pend) (a : Nat) (s : State) : SameSegments s (missing p a s) := by
  unfold missing
  split
  next => exact sameSegments_retryAt ..
  next => exact sameSegments_exhausted ..

/-- The frames in flight on a broken ring, tried again or given up. -/
theorem sameSegments_relaunch (before : State) (r : Nat) (s : State) : SameSegments s (relaunch before r s) := by
  unfold relaunch
  dsimp only
  generalize hu : withChn s _ = u
  have dropped : SameSegments s u := .of_rings (by rw [← hu]; rfl)
  clear hu
  refine dropped.trans (.foldl (fun t p => ?_) _ u)
  refine SameSegments.trans (.foldl (fun u a => ?_) _ t) (.of_rings (hltFollow_rings ..))
  split
  next => exact sameSegments_missing ..
  next => exact sameSegments_exhausted ..

/-! ### A ring cut (R74, R75) -/

/-- A served ring that is cut: it is wrapped, unless neither end reaches a node. -/
theorem segments_cutRing {r : Nat} {s : State} (served : ringServed s r = true) (a b : Option Nat) :
    (ringAt (cutRing a b r s) r).segments =
      (if a.getD (b.getD 64) = 0 ∧ (ringAt s r).found ≤ b.getD (a.getD 64) then .notServed else .wrapped, (ringAt s r).found, a, b) := by
  unfold cutRing
  dsimp only
  generalize hu : dropRestore r _ = u
  have cut : (ringAt u r).segments = ((ringAt s r).service, (ringAt s r).found, a, b) := by
    obtain ⟨service, found, _, _⟩ := segments_eq ((sameSegments_bookRing r s).ring r)
    rw [← hu, (sameSegments_dropRestore r _).ring, ringAt_modRing_self]
    simp [Ring.segments, service, found]
  clear hu
  obtain ⟨service, found, cutA, cutB⟩ := segments_eq cut
  rw [ringServed_congr service, served, if_neg (by simp)]
  simp only [Ring.endsA, Ring.startsB, found, cutA, cutB]
  split <;> simp [Ring.segments, found, cutA, cutB]

/-- A cut that leaves a node in reach of an end. -/
theorem segments_cutRing_of_reach {r : Nat} {s : State} (served : ringServed s r = true) {a b : Option Nat}
    (reach : a.getD (b.getD 64) = 0 → b.getD (a.getD 64) < (ringAt s r).found) :
    (ringAt (cutRing a b r s) r).segments = (.wrapped, (ringAt s r).found, a, b) := by
  rw [segments_cutRing served, if_neg (by omega)]

/-- R75: an end without carrier leaves the whole ring to the other end. -/
theorem carrierLoss_of_whole (dt : Nat) {r : Nat} {s : State} (served : ringServed s r = true) (nodes : 0 < (ringAt s r).found)
    (a : (ringAt s r).cutA = none) (b : (ringAt s r).cutB = none) :
    Answers (exec (.carrierLoss dt r .endA) s) (fun t => (ringAt t r).service = .wrapped ∧ (ringAt t r).cutA = some 0 ∧ (ringAt t r).cutB = some 0) ∧
    Answers (exec (.carrierLoss dt r .endB) s) (fun t => (ringAt t r).service = .wrapped ∧
      (ringAt t r).cutA = some (ringAt s r).found ∧ (ringAt t r).cutB = some (ringAt s r).found) := by
  have up : ringServed (advance dt s) r = true := served
  have step (e : RingEnd) : exec (.carrierLoss dt r e) s = .next (endLost r e (advance dt s)) := by
    show execCarrierLoss dt r e s = _
    simp [execCarrierLoss, up]
  have lost (n : Nat) (reach : n = 0 → n < (ringAt s r).found) :
      let t := relaunch (advance dt s) r (cutRing (some n) (some n) r (advance dt s))
      (ringAt t r).service = .wrapped ∧ (ringAt t r).cutA = some n ∧ (ringAt t r).cutB = some n := by
    intro t
    obtain ⟨service, _, cutA, cutB⟩ :=
      segments_eq (((sameSegments_relaunch _ r _).ring r).trans (segments_cutRing_of_reach (a := some n) (b := some n) up reach))
    exact ⟨service, cutA, cutB⟩
  refine ⟨⟨_, step .endA, ?_⟩, ⟨_, step .endB, ?_⟩⟩
  · simpa [endLost, b] using lost 0 fun _ => nodes
  · simpa [endLost, a] using lost (ringAt s r).found (by omega)

/-- R74: a first break notice splits the ring at its sender. -/
theorem segments_breakNotice {r : Nat} {s : State} (served : ringServed s r = true) (nodes : 0 < (ringAt s r).found)
    (a : (ringAt s r).cutA = none) (b : (ringAt s r).cutB = none) (h : Nat) (lostB : Bool) :
    (ringAt (breakNotice r h lostB s) r).segments =
      (.wrapped, (ringAt s r).found, if lostB then some (h + 1) else none, if lostB then none else some h) := by
  have cut : (ringAt (if lostB then cutRing (some (h + 1)) (ringAt s r).cutB r s else cutRing (ringAt s r).cutA (some h) r s) r).segments =
      (.wrapped, (ringAt s r).found, if lostB then some (h + 1) else none, if lostB then none else some h) := by
    rw [a, b]
    cases lostB
    · exact segments_cutRing_of_reach served fun (e : h = 0) => e ▸ nodes
    · exact segments_cutRing_of_reach served fun (e : h + 1 = 0) => absurd e (by omega)
  unfold breakNotice
  dsimp only
  generalize hu : (if lostB = true then _ else _) = u at cut ⊢
  obtain ⟨_, _, cutA, cutB⟩ := segments_eq cut
  rw [(sameSegments_relaunch ..).ring, if_neg, cut]
  rw [cutA, cutB]
  cases lostB <;> simp

/-- R74: a break notice on a whole ring. -/
theorem breakNoticeReceive_of_whole (dt : Nat) {r : Nat} {s : State} (e : RingEnd) (h : Nat) (lostB : Bool) (served : ringServed s r = true)
    (nodes : 0 < (ringAt s r).found) (a : (ringAt s r).cutA = none) (b : (ringAt s r).cutB = none) :
    Answers (exec (.breakNoticeReceive dt r e h lostB) s) fun t => (ringAt t r).service = .wrapped ∧
      (ringAt t r).cutA = (if lostB then some (h + 1) else none) ∧ (ringAt t r).cutB = (if lostB then none else some h) := by
  have up : ringServed (advance dt s) r = true := served
  have step : exec (.breakNoticeReceive dt r e h lostB) s = .next (breakNotice r h lostB (advance dt s)) := by
    show execBreakNoticeReceive dt r e h lostB s = _
    simp [execBreakNoticeReceive, up]
  obtain ⟨service, _, cutA, cutB⟩ := segments_eq (segments_breakNotice up nodes a b h lostB)
  exact ⟨_, step, service, cutA, cutB⟩

/-- A break notice under an enumeration fails it. -/
theorem breakNoticeReceive_of_enumerating (dt : Nat) {r : Nat} {s : State} (e : RingEnd) (h : Nat) (lostB : Bool)
    (under : (ringAt s r).service = .enumerating) :
    Answers (exec (.breakNoticeReceive dt r e h lostB) s) fun t => (ringAt t r).service = .notServed := by
  have step : exec (.breakNoticeReceive dt r e h lostB) s = .next (failRing false true r (advance dt s)) := by
    show execBreakNoticeReceive dt r e h lostB s = _
    simp [execBreakNoticeReceive, ringServed, under]
  refine ⟨_, step, ?_⟩
  dsimp only
  rw [ringAt_failRing]

end Sys2Proof.Machine
end

section
/-!
PROOF. BLEED_HOLD, RING_RESTORE and RING_ENUMERATE: the transaction opened with the named ring's item, and how it ends (R61, R77, R102, R439).
-/
namespace Sys2Proof.Machine
open Sys2Proof

/-! ### BLEED_HOLD (R102) -/

/-- A change made of every ring named has been made of each of them. -/
theorem ringAt_foldl_modRing {f : Ring → Ring} {P : Ring → Prop} (made : ∀ g, P (f g)) {r : Nat} (l : List Nat) (s : State)
    (h : r ∈ l ∨ P (ringAt s r)) : P (ringAt (l.foldl (fun s r => modRing r f s) s) r) := by
  induction l generalizing s with
  | nil => exact h.resolve_left List.not_mem_nil
  | cons k l ih =>
    refine ih (modRing k f s) ?_
    by_cases e : r = k
    · subst e; exact .inr (by rw [ringAt_modRing_self]; exact made _)
    · rw [ringAt_modRing_other _ _ e]
      exact h.imp_left fun m => (List.mem_cons.mp m).resolve_left e

/-- R102: a hold or its release is due for every ring. -/
theorem bleedHold_of_stands (dt : Nat) {rq : Request} {t : Txn} {s : State} (stands : Stands s rq 0x4004 t) (flag : num t.payload 0 1 ≤ 1) :
    Answers (exec (.bleedHold dt rq) s) fun u =>
      Replied t 0x00 [] s u ∧ ∀ r, r < 8 → (ringAt u r).holdDue = some (num t.payload 0 1 != 0) := by
  let held := allRings.foldl (fun s r => modRing r (fun g => { g with holdDue := some (num t.payload 0 1 != 0) }) s) (atWork dt t s)
  have step : exec (.bleedHold dt rq) s = .next (complete t 0x00 [] held) := by
    show execBleedHold dt rq s = _
    rw [execBleedHold, mailbox_of_stands stands]
    dsimp only
    rw [if_neg (by omega)]
    rfl
  have only : Only [.chn] (atWork dt t s) held := .fold (fun _ _ => by simp) (only_self _ _)
  refine ⟨_, step, ((stands.canReply dt).of_only only).replied (by decide) [], fun r hr => ?_⟩
  rw [ringAt_congr (congrArg Chain.rings (complete_chn ..))]
  exact ringAt_foldl_modRing (f := fun g => { g with holdDue := some (num t.payload 0 1 != 0) })
    (P := fun g => g.holdDue = some (num t.payload 0 1 != 0)) (fun _ => rfl) allRings _ (.inl (List.mem_range.mpr hr))

/-! ### A ring named by a command -/

/-- One ring named in a mask. -/
theorem named_ring {r : Nat} (hr : r < 8) :
    setBits 8 (2 ^ r) = [r] ∧ setBits 9 (2 ^ r) = [r] ∧ bit (2 ^ r) 8 = false ∧ 2 ^ r &&& 0x1FF = 2 ^ r := by
  interval_cases r <;> decide

/-- The command's transaction, at work with one item open. -/
def oneOpen (dt n r : Nat) (t : Txn) (s : State) : State := modTxn (txnKey t) (fun _ => t.opened n [r]) (atWork dt t s)

theorem oneOpen_chn (dt n r : Nat) (t : Txn) (s : State) : (oneOpen dt n r t s).chn = s.chn := rfl
theorem oneOpen_par (dt n r : Nat) (t : Txn) (s : State) : (oneOpen dt n r t s).par = s.par := rfl
@[simp] theorem ringAt_oneOpen (dt n r : Nat) (t : Txn) (s : State) (k : Nat) : ringAt (oneOpen dt n r t s) k = ringAt s k := rfl
@[simp] theorem p0_oneOpen (dt n r : Nat) (t : Txn) (s : State) (id : Nat) : p0 (oneOpen dt n r t s) id = p0 s id := p0_congr (oneOpen_par ..) id

/-- An item of ring `r` is open, and its port takes the answer. -/
structure ItemOpen (t : Txn) (n r : Nat) (s u : State) : Prop where
  ready : CanReply t s u
  found : findTxn u (txnKey t) = some (t.opened n [r])

theorem Stands.itemOpen {s : State} {rq : Request} {op : Nat} {t : Txn} (h : Stands s rq op t) (dt n r : Nat) :
    ItemOpen t n r s (oneOpen dt n r t s) := by
  refine ⟨(h.canReply dt).modTxn _ _, findTxn_modTxn ⟨{ t with served := true }, ?_, rfl⟩ rfl⟩
  exact List.mem_map.mpr ⟨t, h.mem, if_pos ⟨rfl, rfl⟩⟩

/-- Work outside the hub leaves the item open. -/
theorem ItemOpen.of_only {t : Txn} {n r : Nat} {s u v : State} (h : ItemOpen t n r s u) {ps : List Part} (k : Only ps u v)
    (free : ∀ p ∈ ([.hub, .par, .pow, .pod] : List Part), p ∉ ps := by decide) : ItemOpen t n r s v :=
  ⟨h.ready.of_only k free, (findTxn_congr (congrArg Hub.txns (k.hub_eq (free _ (by simp)))) _).trans h.found⟩

/-- The item's end is the command's answer. -/
theorem ItemOpen.answered {t : Txn} {n r op : Nat} {s u : State} (h : ItemOpen t n r s u) (opcode : t.opcode = op) (ring : op / 4096 = 4) (c : Nat) :
    Replied t (itemsStatus op ((List.replicate n 0xFF).set r c)) (itemBytes ((List.replicate n 0xFF).set r c)) s
      (endItem (txnKey t) r c u) := by
  subst opcode
  exact h.ready.replied_item ring h.found c

/-! ### RING_RESTORE (R77, R439) -/

/-- What RING_RESTORE does of the ring it names. -/
theorem ringRestore_of_stands (dt : Nat) {rq : Request} {t : Txn} {s : State} {r : Nat} (stands : Stands s rq 0x4002 t) (hr : r < 8)
    (mask : num t.payload 0 1 = 2 ^ r) : exec (.ringRestore dt rq) s = .next (restoreItem (txnKey t) (oneOpen dt 8 r t s) r) := by
  show execRingRestore dt rq s = _
  rw [execRingRestore, mailbox_of_stands stands]
  dsimp only
  rw [mask, (named_ring hr).1, openItems_of_named]
  rfl

/-- A restore that is ordered leaves the ring wrapped until its nodes answer. -/
theorem orderRestore_of_hops {r : Nat} {s : State} (wrapped : (ringAt s r).service = .wrapped) (hops : (ringAt s r).wrapHops ≠ []) :
    Only [.chn] s (orderRestore r s) ∧ (ringAt (orderRestore r s) r).service = .wrapped := by
  by_cases now : s.chn.cellNow = false ∧ cycleNs s ≤ slotEnd
  · rw [orderRestore_of_open now.1 now.2]
    exact ⟨clearLoops_only_chn hops, (clearLoops_of_hops hops).2.2.trans wrapped⟩
  · have shut : s.chn.cellNow = true ∨ slotEnd < cycleNs s := by
      rcases Decidable.not_and_iff_or_not.mp now with h | h
      · exact .inl (by simpa using h)
      · exact .inr (by omega)
    rw [orderRestore_of_shut shut, ringAt_modRing_self]
    exact ⟨by simp, wrapped⟩

/-- R77, R439: RING_RESTORE on one ring. -/
theorem ringRestore_answers (dt : Nat) {rq : Request} {t : Txn} {s : State} {r : Nat} (stands : Stands s rq 0x4002 t) (hr : r < 8)
    (mask : num t.payload 0 1 = 2 ^ r) :
    Answers (exec (.ringRestore dt rq) s) fun u =>
      let items (c : Nat) := (List.replicate 8 0xFF).set r c
      let answer (c : Nat) := Replied t (itemsStatus 0x4002 (items c)) (itemBytes (items c)) s u
      (bit (p0 s pChnRingEnable) r = false → answer 0x10 ∧ u.chn = s.chn) ∧
      (bit (p0 s pChnRingEnable) r = true → (ringAt s r).service = .served → answer 0x01 ∧ u.chn = s.chn) ∧
      (bit (p0 s pChnRingEnable) r = true → (ringAt s r).service = .wrapped → (ringAt s r).cleanAt.isSome = true →
        let g := ringAt s r
        let hops := (if 0 < g.endsA ∧ g.endsA ≤ g.found then [g.endsA - 1] else []) ++ (if g.startsB < g.found then [g.startsB] else [])
        (hops ≠ [] → (ringAt u r).service = .wrapped ∧ ∃ x, findTxn u (txnKey t) = some x ∧ x.waiting = [r]) ∧
        (s.chn.cellNow = true → (ringAt u r).restoreDue = true) ∧
        (s.chn.cellNow = false → cycleNs (advance dt s) ≤ slotEnd → hops ≠ [] → (ringAt u r).clearing = hops)) ∧
      (bit (p0 s pChnRingEnable) r = true → (ringAt s r).service = .wrapped → (ringAt s r).cleanAt = none → answer 0x21 ∧ u.chn = s.chn) := by
  have item := stands.itemOpen dt 8 r
  have ended (c : Nat) := item.answered stands.opcode (by decide) c
  have kept (c : Nat) : (endItem (txnKey t) r c (oneOpen dt 8 r t s)).chn = s.chn := endItem_chn ..
  refine ⟨_, ringRestore_of_stands dt stands hr mask, fun off => ?_, fun on served => ?_, fun on wrapped clean => ?_, fun on wrapped broken => ?_⟩
  · have step : restoreItem (txnKey t) (oneOpen dt 8 r t s) r = endItem (txnKey t) r 0x10 (oneOpen dt 8 r t s) := by simp [restoreItem, off]
    rw [step]; exact ⟨ended _, kept _⟩
  · have step : restoreItem (txnKey t) (oneOpen dt 8 r t s) r = endItem (txnKey t) r 0x01 (oneOpen dt 8 r t s) := by
      simp [restoreItem, on, served]
    rw [step]; exact ⟨ended _, kept _⟩
  · have step : restoreItem (txnKey t) (oneOpen dt 8 r t s) r = orderRestore r (oneOpen dt 8 r t s) := by simp [restoreItem, on, wrapped, clean]
    rw [step]
    refine ⟨fun hops => ?_, fun cell => ?_, fun plain early hops => ?_⟩
    · obtain ⟨only, stays⟩ := orderRestore_of_hops (s := oneOpen dt 8 r t s) wrapped hops
      exact ⟨stays, _, (item.of_only only).found, rfl⟩
    · rw [orderRestore_of_shut (s := oneOpen dt 8 r t s) (.inl cell), ringAt_modRing_self]
    · rw [orderRestore_of_open (s := oneOpen dt 8 r t s) plain early]
      exact (clearLoops_of_hops (s := oneOpen dt 8 r t s) hops).1
  · have step : restoreItem (txnKey t) (oneOpen dt 8 r t s) r = endItem (txnKey t) r 0x21 (oneOpen dt 8 r t s) := by
      simp [restoreItem, on, wrapped, broken]
    rw [step]; exact ⟨ended _, kept _⟩

/-! ### RING_ENUMERATE (R61, R439) -/

/-- The run RING_ENUMERATE takes of a ring. -/
abbrev runOf (runs : SMap EnumRun) (r : Nat) : EnumRun := mget { nodes := [], more := false, closed := false, tAB := 0 } runs r

/-- What RING_ENUMERATE does of the ring it names. -/
theorem ringEnumerate_of_stands (dt : Nat) {rq : Request} (runs : SMap EnumRun) {t : Txn} {s : State} {r : Nat} (stands : Stands s rq 0x4001 t)
    (hr : r < 8) (mask : num t.payload 0 2 = 2 ^ r) :
    exec (.ringEnumerate dt rq runs) s = .next (enumerateItem (txnKey t) runs (oneOpen dt 8 r t s) r) := by
  obtain ⟨_, named, plain, whole⟩ := named_ring hr
  show execRingEnumerate dt rq runs s = _
  rw [execRingEnumerate, mailbox_of_stands stands]
  dsimp only
  rw [mask, named, plain, noteReserved, if_pos whole, if_neg Bool.false_ne_true, openItems_of_named, if_neg (by simp; omega)]
  simp only [List.filter_cons, decide_eq_true hr, if_true, List.filter_nil, List.foldl_cons, List.foldl_nil]
  rfl

/-- Where one transaction is in the table, at work with its item open, it is the one an item's end names. -/
theorem endItems_of_one {u : State} {x : Txn} {ops : List Nat} {i : Nat} (one : u.hub.txns = [x]) (op : x.opcode ∈ ops) (served : x.served = true)
    (waits : i ∈ x.waiting) (c : Nat) : endItems ops i c u = endItem (txnKey x) i c u := by
  simp [endItems, one, op, served, waits]

/-- The one transaction of the table is RING_ENUMERATE's, its item open; the chain's part may have changed. -/
structure EnumOpen (t : Txn) (r : Nat) (s u : State) : Prop extends ItemOpen t 8 r s u where
  one : u.hub.txns = [t.opened 8 [r]]
  opcode : t.opcode = 0x4001

theorem Stands.enumOpen {s : State} {rq : Request} {t : Txn} (h : Stands s rq 0x4001 t) (one : s.hub.txns = [t]) (dt r : Nat) :
    EnumOpen t r s (oneOpen dt 8 r t s) := by
  refine ⟨h.itemOpen dt 8 r, ?_, h.opcode⟩
  show List.map _ (List.map _ s.hub.txns) = _
  simp [one, txnKey]

theorem EnumOpen.of_only {t : Txn} {r : Nat} {s u v : State} (h : EnumOpen t r s u) {ps : List Part} (k : Only ps u v)
    (free : ∀ p ∈ ([.hub, .par, .pow, .pod] : List Part), p ∉ ps := by decide) : EnumOpen t r s v :=
  ⟨h.toItemOpen.of_only k free, by rw [k.hub_eq (free _ (by simp))]; exact h.one, h.opcode⟩

/-- The end of the ring's item is the command's answer. -/
theorem EnumOpen.answered {t : Txn} {r : Nat} {s u : State} (h : EnumOpen t r s u) (c : Nat) :
    Replied t (itemsStatus 0x4001 ((List.replicate 8 0xFF).set r c)) (itemBytes ((List.replicate 8 0xFF).set r c)) s (endItems [0x4001] r c u) := by
  rw [endItems_of_one h.one (by simp [Txn.opened, h.opcode]) rfl (by simp [Txn.opened])]
  exact h.toItemOpen.answered h.opcode (by decide) c

/-- A ring that fails its enumeration ends its item FAILED_CHAIN. -/
theorem EnumOpen.failed {t : Txn} {r : Nat} {s u : State} (h : EnumOpen t r s u) (over_ open_ : Bool) :
    Replied t (itemsStatus 0x4001 ((List.replicate 8 0xFF).set r 0x21)) (itemBytes ((List.replicate 8 0xFF).set r 0x21)) s
        (failRing over_ open_ r u) ∧ (ringAt (failRing over_ open_ r u) r).service = .notServed := by
  refine ⟨EnumOpen.answered (h.of_only (ps := [.chn, .husk, .seq, .log]) ?_) 0x21, by rw [ringAt_failRing]⟩
  simp

/-- A ring that is served ends its item OK. -/
theorem EnumOpen.served {t : Txn} {r : Nat} {s u : State} (h : EnumOpen t r s u) (run : EnumRun) (s₀ : State) (calm : u.chn.viol = 0) :
    Replied t (itemsStatus 0x4001 ((List.replicate 8 0xFF).set r 0x00)) (itemBytes ((List.replicate 8 0xFF).set r 0x00)) s
        (enumServed r run s₀ u) ∧ (ringAt (enumServed r run s₀ u) r).service = .served := by
  refine ⟨EnumOpen.answered (h.of_only (ps := [.chn, .husk, .seq, .log]) ?_) 0x00, by rw [ringAt_enumServed]⟩
  have reported : Only [.chn, .husk, .seq, .log] u (reportHops r (ringServes r run s₀ u)) := by simp [ringServes]
  have pruned : Only [.chn] (reportHops r (ringServes r run s₀ u)) (pruneCounts r (reportHops r (ringServes r run s₀ u))) :=
    pruneCounts_only_chn (by rw [reportHops_chn]; exact calm)
  rw [judgeConfig_only _ _ _ fun _ m => m]
  exact reported.trans (pruned.mono (by simp))

theorem assigned_congr {run : EnumRun} {s t : State} (h : t.par = s.par) : Assigned run t ↔ Assigned run s := by simp [Assigned, p0_congr h]
theorem written_congr {run : EnumRun} {s t : State} (h : t.par = s.par) : Written run t ↔ Written run s := by simp [Written, p0_congr h]

/-- R61, R439: RING_ENUMERATE on one ring. -/
theorem ringEnumerate_answers (dt : Nat) {rq : Request} (runs : SMap EnumRun) {t : Txn} {s : State} {r : Nat} (stands : Stands s rq 0x4001 t)
    (one : s.hub.txns = [t]) (unstaged : s.par.staged = []) (hr : r < 8) (mask : num t.payload 0 2 = 2 ^ r) :
    Answers (exec (.ringEnumerate dt rq runs) s) fun u =>
      let items (c : Nat) := (List.replicate 8 0xFF).set r c
      let answer (c : Nat) := Replied t (itemsStatus 0x4001 (items c)) (itemBytes (items c)) s u
      (bit (p0 s pChnRingEnable) r = false → answer 0x10 ∧ u.chn = s.chn) ∧
      (bit (p0 s pChnRingEnable) r = true → (ringAt s r).service = .unpowered → answer 0x21 ∧ u.chn = s.chn) ∧
      (bit (p0 s pChnRingEnable) r = true → (ringAt s r).service ≠ .unpowered →
        let run := mget ({ nodes := [], more := false, closed := false, tAB := 0 } : EnumRun) runs r
        let nodes := (List.range 64).zip run.nodes
        (run.more = true ∨ (∃ e ∈ nodes, p0 s pChnRetryMax < e.2.asgMiss) → answer 0x21 ∧ (ringAt u r).service = .notServed) ∧
        (run.more = false → run.nodes.length ≤ 64 → run.closed = true → (∀ e ∈ nodes, e.2.asgMiss ≤ p0 s pChnRetryMax) →
          (∀ e ∈ nodes, e.2.dlyMiss ≤ p0 s pChnRetryMax) → s.chn.viol = 0 → answer 0x00 ∧ (ringAt u r).service = .served)) := by
  let s₀ := oneOpen dt 8 r t s
  have item : EnumOpen t r s s₀ := stands.enumOpen one dt r
  have ended (c : Nat) := item.toItemOpen.answered stands.opcode (by decide) c
  refine ⟨_, ringEnumerate_of_stands dt runs stands hr mask, fun off => ?_, fun on down => ?_, fun on up => ?_⟩
  · have step : enumerateItem (txnKey t) runs s₀ r = endItem (txnKey t) r 0x10 s₀ := by simp [enumerateItem, s₀, off]
    rw [step]; exact ⟨ended _, endItem_chn ..⟩
  · have step : enumerateItem (txnKey t) runs s₀ r = endItem (txnKey t) r 0x21 s₀ := by simp [enumerateItem, s₀, on, down]
    rw [step]; exact ⟨ended _, endItem_chn ..⟩
  · intro run nodes
    have step : enumerateItem (txnKey t) runs s₀ r = enumerate r run s₀ := by simp [enumerateItem, s₀, on, up, run]
    have ends : EnumEnds r run s₀ (enumerate r run s₀) := enumerate_ends unstaged
    rw [step]
    refine ⟨fun fails => ?_, fun more few closed assigned written calm => ?_⟩
    · by_cases assigned : Assigned run s
      · have more : run.more = true := fails.resolve_right fun ⟨e, he, many⟩ => absurd (assigned e he) (Nat.not_le.mpr many)
        obtain ⟨u, under, eq⟩ := ends.of_overfull ((assigned_congr (oneOpen_par ..)).mpr assigned) (.inl more)
        rw [eq]; exact (item.of_only under.only).failed true false
      · obtain ⟨u, under, eq⟩ := ends.of_unassigned (mt (assigned_congr (oneOpen_par ..)).mp assigned)
        rw [eq]; exact (item.of_only under.only).failed false false
    · have fits : ¬ Overfull run := by
        rintro (h | h)
        · exact absurd (more.symm.trans h) Bool.false_ne_true
        · omega
      obtain ⟨u, under, _, eq⟩ := ends.of_written ((assigned_congr (oneOpen_par ..)).mpr assigned) fits closed
        ((written_congr (oneOpen_par ..)).mpr written)
      rw [eq]; exact (item.of_only under.only).served run s₀ (under.viol.trans calm)

/-- Settles O26: the chain rings, each clause by the lemma of its command. The model's own readings: that an enabled unpowered ring and a ring
without clean carrier end 0x21, that a break fails an enumeration, and that RING_RESTORE restores under 10 s of clean carrier (DEDUCED, log 120);
that an enumeration is one step, with its answers as the operand `run` (DESIGN CHOICE, log 84). -/
theorem ringsAreEnumeratedAndWrapped : Obligations.RingsAreEnumeratedAndWrapped := by
  unfold Obligations.RingsAreEnumeratedAndWrapped
  refine ⟨enumerate_leaves, fun dt r run s phase next due => ringPowerUp_of_due run phase next due,
    fun dt r run s seq lost due => ringServiceLoss_of_due run seq lost due, fun dt r s under => ?open_,
    fun dt r s under => enumerationReplyTimeout_of_enumerating false under, fun dt r e s hr on => alarmToneDetect_of_enabled dt e hr on,
    fun dt r s served nodes a b => carrierLoss_of_whole dt served nodes a b,
    fun dt r e h lostB s served nodes a b => breakNoticeReceive_of_whole dt e h lostB served nodes a b,
    fun dt r e h lostB s under => breakNoticeReceive_of_enumerating dt e h lostB under, fun dt r s wrapped => carrierReturn_of_wrapped dt wrapped,
    fun dt r s wrapped on due => wrapRestore_of_due wrapped on due, fun r s hops => clearLoops_of_hops hops,
    fun a s last => loopCleared_of_last last, fun dt rq t s stands flag => bleedHold_of_stands dt stands flag,
    fun dt rq t s r stands hr mask => ringRestore_answers dt stands hr mask,
    fun dt rq runs t s r stands one unstaged hr mask => ringEnumerate_answers dt runs stands one unstaged hr mask⟩
  refine ⟨_, enumerationReplyTimeout_of_enumerating true under, ?_⟩
  dsimp only
  rw [if_pos rfl, ringAt_failRing]
  exact ⟨rfl, rfl, rfl⟩

end Sys2Proof.Machine
end

section
/-!
PROOF. Balancing: the budgets of a plan, the cells that need bleeding by voltage, a plan renewed or withdrawn, and the hold of a string (R101 to R106).
-/
namespace Sys2Proof.Machine
open Sys2Proof

/-! ### Budgets (R101, R103, R104) -/

/-- One and a half planning periods, in 100 ms. -/
abbrev budgetCap (s : State) : Nat := p0 s pAcqBalPeriod * 15

theorem budgetOf_le (s : State) (t : Rat) : budgetOf s t ≤ budgetCap s := Nat.min_le_right ..

theorem budget_le_of_mem_wantSoc {s : State} {j : Nat} {base cells : List Nat} {w : Want} (h : w ∈ wantSoc s j base cells) :
    w.budget ≤ budgetCap s := by
  unfold wantSoc at h
  dsimp only at h
  split at h
  next => cases h
  next =>
    obtain ⟨c, _, hw⟩ := List.mem_filterMap.mp h
    split at hw
    next => cases hw
    next =>
      split at hw
      next => cases hw; exact budgetOf_le ..
      next => cases hw

/-- A cell above the lowest of `base` by more than the band, after 10 min at rest: what wants a budget by voltage. -/
theorem mem_wantVolt {s : State} {j : Nat} {base cells : List Nat} {w : Want} (h : w ∈ wantVolt s j base cells) :
    w.c ∈ cells ∧ passed s (balOf s j).quietAt (600 * secNs) = true ∧
      (∃ c ∈ base, (cellOf s c).volt + p0 s pAcqBalDv * 10 < (cellOf s w.c).volt) ∧ w.budget = p0 s pAcqBalPeriod * 10 := by
  unfold wantVolt at h
  split at h
  next => cases h
  next rested =>
    split at h
    next => cases h
    next x xs volts =>
      obtain ⟨c, hc, rfl⟩ := List.mem_map.mp h
      obtain ⟨mem, above⟩ := List.mem_filter.mp hc
      have above : xs.foldl min x + p0 s pAcqBalDv * 10 < (cellOf s c).volt := of_decide_eq_true (Bool.and_eq_true_iff.mp above).2
      have lowest : xs.foldl min x ∈ base.map fun c => (cellOf s c).volt := by
        rw [volts]; exact List.min?_mem List.min?_cons'
      obtain ⟨l, hl, low⟩ := List.mem_map.mp lowest
      exact ⟨mem, by simpa using rested, ⟨l, hl, by rw [low]; exact above⟩, rfl⟩

theorem budget_le_of_mem_wantsOf {s : State} {j : Nat} {w : Want} (h : w ∈ wantsOf s j) : w.budget ≤ budgetCap s := by
  unfold wantsOf at h
  dsimp only at h
  split at h
  next => cases h
  next => exact budget_le_of_mem_wantSoc h
  next =>
    obtain ⟨_, _, _, budget⟩ := mem_wantVolt h
    exact budget.le.trans (Nat.mul_le_mul_left _ (by decide))

theorem mem_of_mem_chosenOf {s : State} {ws : List Want} {a : Nat} {w : Want} (h : w ∈ chosenOf s ws a) : w ∈ ws :=
  List.mem_of_mem_filter (List.mem_of_mem_filter h)

/-- A budget of a plan is none, or that of a want while the node is eligible. -/
theorem mem_planOf {s : State} {j a b : Nat} {ws : List Want} (h : b ∈ planOf s j ws a) :
    b = 0 ∨ eligible s j a = true ∧ ∃ w ∈ ws, w.budget = b := by
  unfold planOf at h
  obtain ⟨c, _, hb⟩ := List.mem_map.mp h
  split at hb
  next able =>
    cases found : (chosenOf s ws a).find? (·.c = c) with
    | none => rw [found] at hb; exact .inl hb.symm
    | some w => rw [found] at hb; exact .inr ⟨able, w, mem_of_mem_chosenOf (List.mem_of_find?_eq_some found), hb⟩
  next => exact .inl hb.symm

/-- R101, R104: no budget passes one and a half periods, and a node that is not eligible has none. -/
theorem planOf_bounded {s : State} {j a b : Nat} (h : b ∈ planOf s j (wantsOf s j) a) :
    b ≤ budgetCap s ∧ (eligible s j a = false → b = 0) := by
  obtain rfl | ⟨able, w, hw, rfl⟩ := mem_planOf h
  · exact ⟨Nat.zero_le _, fun _ => rfl⟩
  · exact ⟨budget_le_of_mem_wantsOf hw, fun unable => absurd (able.symm.trans unable) (by decide)⟩

/-! ### Plans sent (R101, R104, R105) -/

/-- A budget of the plan would run out at the node before the next period. -/
def RunsShort (plan : List Nat) (a : Nat) (s : State) : Prop :=
  ∃ i, i < 18 ∧ 0 < plan.getD i 0 ∧ (nodeOf s a).left.getD i 0 < p0 s pAcqBalPeriod * secNs

/-- R105: a node is left with the plan it holds, unless a budget of it runs short. -/
theorem renewPlan_of_held {plan : List Nat} {a : Nat} {s : State} (held : plan = heldPlan (nodeOf s a)) (enough : ¬ RunsShort plan a s) :
    renewPlan plan a s = s := by
  have enough : ∀ i < 18, 0 < plan.getD i 0 → p0 s pAcqBalPeriod * secNs ≤ (nodeOf s a).left.getD i 0 := fun i hi pos =>
    Nat.not_lt.mp fun short => enough ⟨i, hi, pos, short⟩
  exact if_pos (by simpa [← held] using .inr enough)

/-- R105: a live node is sent a plan that differs from the one it holds, or of which a budget runs short. -/
theorem renewPlan_of_due {plan : List Nat} {a : Nat} {s : State} (live : nodeLive s a = true)
    (due : plan ≠ heldPlan (nodeOf s a) ∨ RunsShort plan a s) : renewPlan plan a s = sendPlan plan a s := by
  refine if_neg ?_
  simp only [live, Bool.not_true, Bool.false_or, Bool.and_eq_true, beq_iff_eq, Bool.not_eq_true', List.any_eq_false, List.mem_range]
  rintro ⟨held, enough⟩
  obtain ⟨i, hi, pos, short⟩ := due.resolve_left (not_not_intro held)
  exact enough i hi ⟨decide_eq_true pos, decide_eq_true short⟩

/-- R104: a node that is no longer eligible, with budgets left and no plan awaited, is sent zero budgets. -/
theorem withdraw_of_ineligible {j a : Nat} {s : State} (live : nodeLive s a = true) (unable : eligible s j a = false)
    (held : ∃ b ∈ heldPlan (nodeOf s a), b ≠ 0) (left : ∃ b ∈ (nodeOf s a).left, b ≠ 0) (idle : ∀ p ∈ s.chn.pend, p.opc ≠ 0x13) :
    withdraw j s a = sendPlan (List.replicate 18 0) a s := by
  have waiting : (s.chn.pend.any fun p => p.ring == ringOf a && !p.bc && p.hop == hopOf a && p.opc == 0x13) = false := by
    rw [List.any_eq_false]; intro p hp; simp [idle p hp]
  have budgets : (heldPlan (nodeOf s a)).all (· == 0) = false := by simpa using held
  have unspent : (nodeOf s a).left.all (· == 0) = false := by simpa using left
  refine if_neg ?_
  rw [budgets, unspent, unable, waiting, live]
  decide

/-! ### The hold of a string (R106) -/

@[simp] theorem balOf_advance (dt : Nat) (s : State) (j : Nat) : balOf (advance dt s) j = balOf s j := rfl

@[simp] theorem balOf_modBal_self (j : Nat) (f : Balance → Balance) (s : State) : balOf (modBal j f s) j = f (balOf s j) :=
  mget_mmod_self _ _ _ _

theorem balOf_modBal_other {i j : Nat} (f : Balance → Balance) (s : State) (h : i ≠ j) : balOf (modBal j f s) i = balOf s i :=
  mget_mmod_other _ _ _ h

theorem balOf_congr {s t : State} (h : t.chn = s.chn) (j : Nat) : balOf t j = balOf s j := by rw [balOf, h]; rfl

/-- R106: a hold that has lasted ACQ.BAL_HOLD_MAX sets BAL_STALE of its string, and of no other. -/
theorem balHoldExpiry_answers (dt : Nat) {j t : Nat} {s : State} (held : (balOf s j).heldAt = some t) (fresh : (balOf s j).stale = false) :
    Answers (exec (.balHoldExpiry dt j) s) fun u =>
      (p0 s pAcqBalHoldMax * secNs ≤ s.phys + dt - t → (balOf u j).stale = true ∧ ∀ i, i ≠ j → balOf u i = balOf s i) ∧
      (s.phys + dt - t < p0 s pAcqBalHoldMax * secNs → u = advance dt s) := by
  have reached : (passed (advance dt s) (balOf (advance dt s) j).heldAt (p0 (advance dt s) pAcqBalHoldMax * secNs) && !(balOf (advance dt s) j).stale)
      = decide (p0 s pAcqBalHoldMax * secNs ≤ s.phys + dt - t) := by
    rw [balOf_advance, held, fresh, p0_congr (advance_par dt s), Bool.not_false, Bool.and_true]; rfl
  show Answers (execBalHoldExpiry dt j s) _
  unfold execBalHoldExpiry
  dsimp only
  rw [reached]
  by_cases late : p0 s pAcqBalHoldMax * secNs ≤ s.phys + dt - t
  · rw [if_pos (decide_eq_true late), answers_next]
    refine ⟨fun _ => ⟨?_, fun i other => ?_⟩, fun early => absurd late (Nat.not_le.mpr early)⟩
    · rw [balOf_congr (post_chn ..), balOf_modBal_self]
    · rw [balOf_congr (post_chn ..), balOf_modBal_other _ _ other, balOf_advance]
  · rw [if_neg (by simpa using late), answers_next]
    exact ⟨fun h => absurd h late, fun _ => rfl⟩

/-! ### The planning pass (R101) -/

theorem balancePlan_of_podUp (dt : Nat) {s : State} (up : podUp s = true) :
    exec (.balancePlan dt) s = .next ((knownStrings s).foldl planString (advance dt s)) := by
  have up : podUp (advance dt s) = true := by simpa [podUp, inNormal] using up
  show execBalancePlan dt s = _
  rw [execBalancePlan, if_pos up]
  rfl

/-- Settles O29: the pass plans each known string; a plan's budgets by the wants they come from; what the chain sends by the lemma of a launch
addressed to a node. -/
theorem balancingPlansAndHolds : Obligations.BalancingPlansAndHolds := by
  unfold Obligations.BalancingPlansAndHolds
  refine ⟨fun dt s up => balancePlan_of_podUp dt up, fun s j a b h => planOf_bounded h, fun s j base cells w h => ?volt,
    fun plan a s => (launched_addressed 0x13 _ 0 a s).sends, fun plan a s live => ⟨fun differs => renewPlan_of_due live (.inl differs),
      fun held enough => renewPlan_of_held held ?_, fun i hi pos short => renewPlan_of_due live (.inr ⟨i, hi, pos, short⟩)⟩,
    fun j a s => withdraw_of_ineligible, fun dt j t s => balHoldExpiry_answers dt⟩
  case volt =>
    obtain ⟨mem, rested, above, _⟩ := mem_wantVolt h
    exact ⟨mem, rested, above⟩
  rintro ⟨i, hi, pos, short⟩
  exact absurd short (Nat.not_lt.mpr (enough i hi pos))

end Sys2Proof.Machine
end

section
/-!
PROOF. The metrology section under operations on other units: what they leave of it, and what a trigger of its capture leaves (R145, R482).
-/
namespace Sys2Proof.Machine
open Sys2Proof

theorem Only.met_eq {ps : List Part} {s t : State} (h : Only ps s t) (k : Part.met ∉ ps := by decide) : t.met = s.met := h .met k

@[simp] theorem post_met (k cls inst : _) (p : Bytes) (s : State) : (post k cls inst p s).met = s.met :=
  Only.met_eq (ps := [.log]) (by simp)

@[simp] theorem postKind_met (kind : Nat) (p : Bytes) (s : State) : (postKind kind p s).met = s.met :=
  Only.met_eq (ps := [.log]) (by simp)

@[simp] theorem complete_met (t : Txn) (status : Nat) (p : Bytes) (s : State) : (complete t status p s).met = s.met :=
  Only.met_eq (ps := [.hub]) (by simp)

@[simp] theorem atWork_met (dt : Nat) (t : Txn) (s : State) : (atWork dt t s).met = s.met := rfl

@[simp] theorem hvPowered_advance (dt : Nat) (s : State) : hvPowered (advance dt s) = hvPowered s := by rw [hvPowered, advance_pow_rails]; rfl

@[simp] theorem capHolds_advance (dt : Nat) (s : State) : capHolds (advance dt s) = capHolds s := rfl

@[simp] theorem traceTrigger_met (src : Nat) (bufs : List Nat) (s : State) : (traceTrigger src bufs s).met = s.met :=
  Only.met_eq (ps := [.ctl]) (by simp)

/-- A trigger changes nothing of the section but its capture. -/
theorem capTrigger_met (src : Nat) (s : State) : ∃ c, (capTrigger src s).met = { s.met with cap := c } := by
  unfold capTrigger capTriggerAt
  split
  · exact ⟨_, rfl⟩
  · dsimp only
    split
    · exact ⟨_, traceTrigger_met ..⟩
    · split <;> exact ⟨_, rfl⟩
    · exact ⟨_, rfl⟩

end Sys2Proof.Machine
end

section
/-!
PROOF. The rotating spare (R120 to R128): the start calibration, a step and its handover, a freed modulator and a failed one.
-/
namespace Sys2Proof.Machine
open Sys2Proof

/-! ### The start calibration and the mismatch of the current paths (R120, R126) -/

theorem hvStartCalDone_answers (dt : Nat) {s : State} (runs : sequencing s = true) (powered : hvPowered s = true) (due : s.met.ready = false) :
    Answers (exec (.hvStartCalDone dt) s) fun t =>
      t.met.ready = true ∧ t.met.serving = s.met.serving ∧ t.met.spare = s.met.spare ∧ t.met.calRole = 0 ∧ t.met.calPhase = .idle ∧
        (∀ n < 6, n ∉ s.met.failed → (n * 8 + (if n = 5 then 0 else n), s.phys + dt) ∈ t.met.calAt) ∧
        ∀ r, r ∈ t.met.unknown ↔ r < 5 ∧ servingOf s.met r = 5 ∧ r ≠ 0 := by
  show Answers (execHvStartCalDone dt s) _
  unfold execHvStartCalDone
  rw [if_neg (by simp [runs, powered, due]), answers_next]
  refine ⟨rfl, rfl, rfl, rfl, rfl, fun n hn intact => ?_, fun r => ?_⟩
  · exact List.mem_map.mpr ⟨n, List.mem_filter.mpr ⟨List.mem_range.mpr hn, by rw [advance_met, decide_eq_false intact]; rfl⟩, rfl⟩
  · simp

theorem irangeMismatch_answers (dt : Nat) {s : State} {d : Int} (mean : s.met.diffMean = some d) (large : 64000 < d.natAbs)
    (both : s.met.ilOnly = false) :
    Answers (exec (.irangeMismatch dt) s) fun t =>
      t.met.ilOnly = true ∧ t.met.recalIH = true ∧ t.met.recalIL = true ∧
        t.log = (post .irangeMismatch 0xFF 0 (le 4 (signedCode d)) (advance dt s)).log := by
  show Answers (execIrangeMismatch dt s) _
  unfold execIrangeMismatch
  dsimp only
  rw [advance_met, mean]
  dsimp only
  rw [if_pos ⟨large, by rw [both]; rfl⟩, answers_next]
  exact ⟨rfl, rfl, rfl, rfl⟩

/-! ### A step of the rotation (R121 to R123) -/

/-- The spare is connected in parallel to its role, nothing of the overlap counted yet. -/
def stepBegun (s : State) : State := withMet s fun m => { m with calPhase := .fill, calN := 0, pairs := 0, pairSum := 0 }

theorem calStepStart_of_ready (dt : Nat) {s : State} (ready : s.met.ready = true) (idle : s.met.calPhase = .idle)
    (spare : s.met.spare.isSome = true) (fit : s.met.spareOk = true) (free : capHolds s = false) :
    exec (.calStepStart dt) s = .next (stepBegun (advance dt s)) :=
  if_pos (by simp [ready, idle, spare, fit, free])

theorem calStepRetry_of_due (dt : Nat) {s : State} (abandoned : s.met.calPhase = .abandoned)
    (due : 200 * msNs ≤ s.phys + dt - s.met.abandAt) (free : capHolds s = false) :
    exec (.calStepRetry dt) s = .next (stepBegun (advance dt s)) :=
  if_pos ⟨abandoned, due, by simp [free]⟩

/-- What the handover makes of the section: CAL_DRIFT is reported or not, which leaves it as it is. -/
theorem takeRole_hands (n : Nat) (s : State) :
    (takeRole n s).met.serving = s.met.serving.set s.met.calRole n ∧ (takeRole n s).met.calRole = (s.met.calRole + 1) % 5 ∧
      (takeRole n s).met.calPhase = .idle ∧ (takeRole n s).met.slewD = divRound (s.met.pairSum * 256) (s.met.pairs : Nat) ∧
      (takeRole n s).met.slewN = 256 ∧ (takeRole n s).met.slewRole = s.met.calRole ∧
      (takeRole n s).met.calMod = if servingOf s.met s.met.calRole < 6 then some (servingOf s.met s.met.calRole) else none := by
  refine ⟨?serving, rfl, rfl, rfl, rfl, rfl, rfl⟩
  rw [takeRole, withMet_met]
  refine congrArg (fun m : Metrology => m.serving.set s.met.calRole n) ?_
  split
  · exact post_met ..
  · rfl

theorem handover_of_pairs (dt : Nat) {s : State} {n : Nat} (overlap : s.met.calPhase = .overlap) (spare : s.met.spare = some n)
    (samples : 64 ≤ s.met.calN) (pairs : 48 ≤ s.met.pairs) : exec (.handover dt) s = .next (takeRole n (advance dt s)) := by
  show execHandover dt s = _
  unfold execHandover
  dsimp only
  rw [advance_met, overlap, spare]
  exact if_pos ⟨samples, pairs⟩

theorem handover_of_no_pairs (dt : Nat) {s : State} {n : Nat} (overlap : s.met.calPhase = .overlap) (spare : s.met.spare = some n)
    (samples : 256 ≤ s.met.calN) (pairs : s.met.pairs < 48) :
    exec (.handover dt) s = .next (withMet (advance dt s) fun m => { m with calPhase := .abandoned, abandAt := s.phys + dt }) := by
  show execHandover dt s = _
  unfold execHandover
  dsimp only
  rw [advance_met, overlap, spare]
  dsimp only
  rw [if_neg (by omega), if_pos samples]
  rfl

/-- R122, R123: where neither the pairs nor the samples of an abandonment are there, the command only answers. -/
theorem handover_answers (dt : Nat) {s : State} {n : Nat} (overlap : s.met.calPhase = .overlap) (spare : s.met.spare = some n) :
    Answers (exec (.handover dt) s) fun t =>
      (64 ≤ s.met.calN → 48 ≤ s.met.pairs →
        t.met.serving = s.met.serving.set s.met.calRole n ∧ t.met.calRole = (s.met.calRole + 1) % 5 ∧ t.met.calPhase = .idle ∧
          t.met.slewD = divRound (s.met.pairSum * 256) (s.met.pairs : Nat) ∧ t.met.slewN = 256 ∧ t.met.slewRole = s.met.calRole ∧
          (servingOf s.met s.met.calRole < 6 → t.met.calMod = some (servingOf s.met s.met.calRole))) ∧
      (256 ≤ s.met.calN → s.met.pairs < 48 →
        t.met.serving = s.met.serving ∧ t.met.calPhase = .abandoned ∧ t.met.abandAt = s.phys + dt) := by
  by_cases enough : 48 ≤ s.met.pairs
  · by_cases samples : 64 ≤ s.met.calN
    · rw [handover_of_pairs dt overlap spare samples enough, answers_next]
      obtain ⟨serving, role, phase, slewD, slewN, slewRole, freed⟩ := takeRole_hands n (advance dt s)
      exact ⟨fun _ _ => ⟨serving, role, phase, slewD, slewN, slewRole, fun served => freed.trans (if_pos served)⟩,
        fun _ few => absurd enough (Nat.not_le.mpr few)⟩
    · obtain ⟨t, e, _⟩ := execHandover_only dt s
      exact ⟨t, e, fun h => absurd h samples, fun h => absurd (Nat.le_trans (by decide) h) samples⟩
  · by_cases samples : 256 ≤ s.met.calN
    · rw [handover_of_no_pairs dt overlap spare samples (Nat.not_le.mp enough), answers_next]
      exact ⟨fun _ h => absurd h enough, fun _ _ => ⟨rfl, rfl, rfl⟩⟩
    · obtain ⟨t, e, _⟩ := execHandover_only dt s
      exact ⟨t, e, fun _ h => absurd h enough, fun h => absurd h samples⟩

/-! ### A freed modulator, and a failed one (R124, R127) -/

/-- A declared failure leaves the section as it was but for the list of the failed and the capture it triggers. -/
theorem modulatorFails_met (n : Nat) (s : State) : ∃ c, (modulatorFails n s).met = { s.met with failed := s.met.failed ++ [n], cap := c } := by
  obtain ⟨c, e⟩ := capTrigger_met 7 (post .modulatorFailed 0xFF n [BitVec.ofNat 8 n] (withMet s fun m => { m with failed := m.failed ++ [n] }))
  exact ⟨c, by rw [modulatorFails, e, post_met]; rfl⟩

theorem modulatorCalDone_answers (dt : Nat) {ok : Bool} {s : State} {n : Nat} (freed : s.met.calMod = some n) (free : capHolds s = false) :
    Answers (exec (.modulatorCalDone dt ok) s) fun t =>
      t.met.calMod = none ∧
        (ok = true → t.met.spare = some n ∧ t.met.spareOk = true ∧
          t.met.calAt = mput s.met.calAt (n * 8 + s.met.calRole) (s.phys + dt) ∧ t.met.failed = s.met.failed) ∧
        (ok = false → t.met.failed = s.met.failed ++ [n] ∧ t.met.spare = s.met.spare) := by
  show Answers (execModulatorCalDone dt ok s) _
  unfold execModulatorCalDone
  dsimp only
  rw [advance_met, freed]
  dsimp only
  rw [capHolds_advance, free, if_neg Bool.false_ne_true]
  cases ok with
  | true => exact ⟨_, rfl, rfl, fun _ => ⟨rfl, rfl, rfl, rfl⟩, nofun⟩
  | false =>
    obtain ⟨c, e⟩ := modulatorFails_met n (withMet (advance dt s) fun m => { m with calMod := none })
    exact ⟨_, rfl, by rw [e]; rfl, nofun, fun _ => by rw [e]; exact ⟨rfl, rfl⟩⟩

theorem modulatorFailure_answers (dt : Nat) {m r n : Nat} {s : State} (known : m < 6) (intact : m ∉ s.met.failed) (runs : sequencing s = true)
    (powered : hvPowered s = true) (spare : s.met.spare = some n) (other : n ≠ m) (idle : s.met.calMod ≠ some m)
    (serves : (List.range 5).find? (fun r => servingOf s.met r == m) = some r) :
    Answers (exec (.modulatorFailure dt m) s) fun t =>
      t.met.failed = s.met.failed ++ [m] ∧ t.met.serving = s.met.serving.set r n ∧ t.met.spare = none := by
  obtain ⟨c, e⟩ := modulatorFails_met m (advance dt s)
  show Answers (execModulatorFailure dt m s) _
  unfold execModulatorFailure
  dsimp only
  rw [if_neg (by simp [known, intact, runs, powered]), e, if_neg (by simp [spare, other, idle]), e]
  have found : (List.range 5).find? (fun r =>
      servingOf { (advance dt s).met with failed := (advance dt s).met.failed ++ [m], cap := c } r == m) = some r := serves
  rw [found, answers_next]
  dsimp only
  rw [replace, e, advance_met, spare]
  dsimp only
  rw [takeOver, withMet_met, e]
  exact ⟨rfl, rfl, rfl⟩

end Sys2Proof.Machine
end

section
/-!
PROOF. Insulation (R131 to R136): what the end of a half-period does, and the check of protective earth.
-/
namespace Sys2Proof.Machine
open Sys2Proof

/-! ### The end of a half-period (R131, R132) -/

/-- A settled half-period's mean is kept for its polarity. -/
def keepMean (s : State) : State :=
  withMet s fun m => { m with ins := { m.ins with
    viPos := if s.met.ins.positive then some s.met.ins.tailMean else m.ins.viPos
    viNeg := if s.met.ins.positive then m.ins.viNeg else some s.met.ins.tailMean } }

/-- Two settled means give a result. -/
def judgeMeans (s : State) : State :=
  match s.met.ins.viPos, s.met.ins.viNeg with
  | some a, some b => insResult a b s
  | _, _ => s

theorem judgeMeans_phys (s : State) : (judgeMeans s).phys = s.phys := by
  unfold judgeMeans
  split
  · exact Only.phys_eq (ps := [.free, .par, .hub, .met, .husk, .prt, .seq, .lsw, .ctl, .pos, .thm, .log]) (by simp)
  · rfl

/-- A positive mean without its counterpart gives no result. -/
theorem judgeMeans_of_positive {s : State} (h : s.met.ins.viNeg = none) : judgeMeans s = s := by
  unfold judgeMeans
  rw [h]
  cases s.met.ins.viPos <;> rfl

/-- What the end of a half-period does that has run its length with valid samples in its tail. -/
theorem insHalfPeriodEnd_of_elapsed {dt : Nat} {s : State} (mode : p0 s pMetInsMode ≠ 0) (begun : s.met.ins.length ≠ 0)
    (elapsed : s.met.ins.length * secNs ≤ s.phys + dt - s.met.ins.startAt) (sampled : s.met.ins.tailN ≠ 0) :
    exec (.insHalfPeriodEnd dt s.met.ins.positive s.met.ins.length s.met.ins.startAt) s =
      if s.met.ins.tailMove * 100 < settleRef s.met.ins s.met.ins.tailMean then
        .next (beginHalf s.met.ins.length (!s.met.ins.positive) (judgeMeans (keepMean (advance dt s))))
      else if s.met.ins.length < p0 s pMetInsTmax then
        .next (beginHalf (min (2 * s.met.ins.length) (p0 s pMetInsTmax)) s.met.ins.positive (advance dt s))
      else .next (beginHalf s.met.ins.length (!s.met.ins.positive)
        (withMet (advance dt s) fun m => { m with ins := { m.ins with unsettled := true } })) := by
  have runs : ¬ (p0 s pMetInsMode = 0 ∨ s.met.ins.length = 0 ∨ s.phys + dt - s.met.ins.startAt < s.met.ins.length * secNs) := by
    rintro (off | none_ | early)
    · exact mode off
    · exact begun none_
    · exact absurd elapsed (Nat.not_le.mpr early)
  exact (if_neg runs).trans ((if_neg (not_not_intro ⟨rfl, rfl, rfl⟩)).trans (if_neg sampled))

theorem insHalfPeriodEnd_answers (dt : Nat) {s : State} (mode : p0 s pMetInsMode ≠ 0) (begun : s.met.ins.length ≠ 0)
    (elapsed : s.met.ins.length * secNs ≤ s.phys + dt - s.met.ins.startAt) (sampled : s.met.ins.tailN ≠ 0) :
    Answers (exec (.insHalfPeriodEnd dt s.met.ins.positive s.met.ins.length s.met.ins.startAt) s) fun t =>
      let settled := s.met.ins.tailMove * 100 < settleRef s.met.ins s.met.ins.tailMean
      t.met.ins.startAt = s.phys + dt ∧ t.met.ins.tailN = 0 ∧
      (¬ settled → s.met.ins.length < p0 s pMetInsTmax →
        t.met.ins.length = min (2 * s.met.ins.length) (p0 s pMetInsTmax) ∧ t.met.ins.positive = s.met.ins.positive) ∧
      (¬ settled → p0 s pMetInsTmax ≤ s.met.ins.length →
        t.met.ins.unsettled = true ∧ t.met.ins.length = s.met.ins.length ∧ t.met.ins.positive = !s.met.ins.positive) ∧
      (settled → t.met.ins.length = s.met.ins.length ∧ t.met.ins.positive = !s.met.ins.positive) ∧
      (settled → s.met.ins.positive = true → s.met.ins.viNeg = none →
        t.met.ins.viPos = some s.met.ins.tailMean ∧ t.met.ins.result = s.met.ins.result) := by
  rw [insHalfPeriodEnd_of_elapsed mode begun elapsed sampled]
  by_cases settled : s.met.ins.tailMove * 100 < settleRef s.met.ins s.met.ins.tailMean
  · rw [if_pos settled, answers_next]
    refine ⟨judgeMeans_phys _, rfl, (absurd settled ·), (absurd settled ·), fun _ => ⟨rfl, rfl⟩, fun _ positive alone => ?_⟩
    have kept : (keepMean (advance dt s)).met.ins.viPos = some s.met.ins.tailMean ∧ (keepMean (advance dt s)).met.ins.viNeg = none := by
      simp [keepMean, positive, alone]
    rw [judgeMeans_of_positive kept.2]
    exact ⟨kept.1, rfl⟩
  · rw [if_neg settled]
    by_cases longer : s.met.ins.length < p0 s pMetInsTmax
    · rw [if_pos longer, answers_next]
      exact ⟨rfl, rfl, fun _ _ => ⟨rfl, rfl⟩, fun _ h => absurd longer (Nat.not_lt.mpr h), (absurd · settled), (absurd · settled)⟩
    · rw [if_neg longer, answers_next]
      exact ⟨rfl, rfl, fun _ h => absurd h longer, fun _ _ => ⟨rfl, rfl, rfl⟩, (absurd · settled), (absurd · settled)⟩

/-- An end that names another half-period than the one under way does nothing (R133, log 102). -/
theorem insHalfPeriodEnd_of_other (dt : Nat) {positive : Bool} {length begun : Nat} {s : State}
    (other : ¬ (s.met.ins.positive = positive ∧ s.met.ins.length = length ∧ s.met.ins.startAt = begun)) :
    exec (.insHalfPeriodEnd dt positive length begun) s = .next (advance dt s) := by
  show execInsHalfPeriodEnd dt positive length begun s = _
  unfold execInsHalfPeriodEnd
  dsimp only
  split
  · rfl
  · exact if_pos other

/-! ### Protective earth (R136) -/

theorem peCheck_answers (dt mo : Nat) {s : State} (mode : p0 s pMetPeCheck ≠ 0) (runs : sequencing s = true) (powered : hvPowered s = true)
    (due : ∀ c, s.met.ins.peAt = some c → 60 * secNs ≤ s.phys + dt - c) :
    Answers (exec (.peCheck dt mo) s) fun t =>
      t.met.ins.result = s.met.ins.result ∧
      (100000 < mo → t.met.ins.peFault = true ∧ insReported t = 0xFFFFFFFF) ∧
      (mo ≤ 100000 → t.met.ins.peFault = false ∧ t.log = s.log) := by
  have early : (s.met.ins.peAt.any fun c => decide (since (advance dt s) c < 60 * secNs)) = false := by
    cases checked : s.met.ins.peAt with
    | none => rfl
    | some c => exact decide_eq_false (Nat.not_lt.mpr (due c checked))
  show Answers (execPeCheck dt mo s) _
  unfold execPeCheck
  dsimp only
  rw [if_neg (by rw [p0_congr (advance_par dt s), sequencing_advance, hvPowered_advance, runs, powered, advance_met]; simp [mode, early])]
  by_cases broken : 100000 < mo
  · rw [decide_eq_true broken, answers_next]
    refine ⟨?_, fun _ => ⟨rfl, ?_⟩, fun whole => absurd broken (Nat.not_lt.mpr whole)⟩
    · rw [withMet_met]; split <;> simp
    · exact if_pos (by simp [insNa])
  · rw [decide_eq_false broken, Bool.false_and, if_neg Bool.false_ne_true, answers_next]
    exact ⟨rfl, fun h => absurd h broken, fun _ => ⟨rfl, rfl⟩⟩

end Sys2Proof.Machine
end

section
/-!
PROOF. The ripple windows (R137 to R139), and the counters' base (R143).
-/
namespace Sys2Proof.Machine
open Sys2Proof

/-! ### The end of a window -/

/-- The fundamental of VB is too small to follow (R138). -/
def windowUnsync (s : State) : Bool :=
  decide (rippleCode 0 (subSq (ripplePoints (mget {} s.met.ripple 0)) (centreBin s 1)) < p0 s pMetRippleMin * 100)

/-- A source at the end of its window: published where MET.RIPPLE_SRC names it. -/
def windowEnded (s : State) (src : Nat) : Ripple :=
  let r : Ripple := mget {} s.met.ripple src
  if bit (p0 s pMetRippleSrc) src then
    publishWindow (analyse s src r (ripplePoints (mget {} s.met.ripple 0))) (windowUnsync s) r
  else { r with win := [], winStale := false }

theorem rippleWindowEnd_of_named (dt : Nat) {first cycles : Nat} {s : State} (runs : sequencing s = true) (powered : hvPowered s = true)
    (fits : windowFits s.met = true) (named : windowNamed first cycles s = true) :
    exec (.rippleWindowEnd dt first cycles) s = .next (withMet (advance dt s) fun m => { m with
      ripHold := windowUnsync s, ripple := mput (mput m.ripple 0 (windowEnded s 0)) 1 (windowEnded s 1) }) := by
  have named : windowNamed first cycles (advance dt s) = true := named
  show execRippleWindowEnd dt first cycles s = _
  unfold execRippleWindowEnd
  rw [if_neg (by rw [sequencing_advance, hvPowered_advance, advance_met, runs, powered, fits, named]; decide)]
  rfl

theorem rippleWindowEnd_of_other (dt : Nat) {first cycles : Nat} {s : State} (other : windowNamed first cycles s = false) :
    exec (.rippleWindowEnd dt first cycles) s = .next (advance dt s) := by
  have other : windowNamed first cycles (advance dt s) = false := other
  show execRippleWindowEnd dt first cycles s = _
  unfold execRippleWindowEnd
  exact if_pos (by rw [other]; simp)

theorem mget_mput_sources {α : Type} (d : α) (m : SMap α) (f : Nat → α) {src : Nat} (h : src < 2) :
    mget d (mput (mput m 0 (f 0)) 1 (f 1)) src = f src := by
  obtain rfl | rfl : src = 0 ∨ src = 1 := by omega
  · rw [mget_mput_other _ _ _ (by decide), mget_mput_self]
  · exact mget_mput_self ..

theorem rippleWindowEnd_answers (dt : Nat) {src : Nat} {s : State} (runs : sequencing s = true) (powered : hvPowered s = true)
    (fits : windowFits s.met = true) (source : src < 2) (shown : bit (p0 s pMetRippleSrc) src = true) :
    Answers (exec (.rippleWindowEnd dt (mget {} s.met.ripple 0 : Ripple).winIdx (centreBin s 1)) s) fun t =>
      let o : Ripple := mget {} s.met.ripple src
      let r : Ripple := mget {} t.met.ripple src
      let x := ripplePoints o
      let vb := ripplePoints (mget {} s.met.ripple 0)
      let orders := (List.range 50).map (· + 1)
      r.first = o.winIdx ∧ r.mean = ratRound (x.sum / 6400) ∧ r.rms = rippleCode src ((List.range 2400).map fun k => binSq x (k + 1)).sum ∧
      r.sub = orders.map (fun h => rippleCode src (subSq x (centreBin s h))) ∧
      r.grp = orders.map (fun h => rippleCode src (grpSq x (centreBin s h))) ∧ r.phase = orders.map (ripplePhase s x vb) ∧
      r.flags = BitVec.ofNat 8 (b2n (decide (4 < (o.win.filter (·.isNone)).length)) + 2 * b2n o.winStale + 4 * b2n (windowUnsync s)) ∧
      t.met.ripHold = windowUnsync s := by
  rw [rippleWindowEnd_of_named dt runs powered fits (by simp [windowNamed]), answers_next]
  dsimp only
  rw [withMet_met, mget_mput_sources {} _ (windowEnded s) source, windowEnded, if_pos shown]
  exact ⟨rfl, rfl, rfl, rfl, rfl, rfl, rfl, rfl⟩

/-! ### RIPPLE_READ and CTR_BASE (R139, R143) -/

theorem noteReserved_of_clear {value mask : Nat} (h : value &&& mask = value) (s : State) : noteReserved value mask s = s := if_pos h

theorem rippleRead_answers (dt : Nat) {rq : Request} {t : Txn} {s : State} (stands : Stands s rq 0x6006 t) (source : num t.payload 0 1 < 2)
    (kind : num t.payload 1 1 = 0) :
    Answers (exec (.rippleRead dt rq) s) fun u =>
      let r : Ripple := mget {} s.met.ripple (num t.payload 0 1)
      (bit r.flags.toNat 0 = false →
        Replied t 0x00 (rippleBytes (num t.payload 0 1) r.first (some r.mean) r.rms r.sub r.grp r.phase) s u) ∧
      (bit r.flags.toNat 0 = true → Replied t 0x00 (rippleBytes (num t.payload 0 1) 0 none 0xFFFFFFFF [] [] []) s u) := by
  have named : num t.payload 0 1 &&& 1 = num t.payload 0 1 := by rw [Nat.and_one_is_mod]; omega
  show Answers (execRippleRead dt rq s) _
  rw [execRippleRead, mailbox_of_stands stands]
  dsimp only
  rw [kind, noteReserved_of_clear named, noteReserved_of_clear rfl, Nat.mod_eq_of_lt source, if_pos rfl, answers_next, atWork_met]
  exact ⟨fun valid => by rw [valid]; exact (stands.canReply dt).replied (by decide) _,
    fun none_ => by rw [none_]; exact (stands.canReply dt).replied (by decide) _⟩

theorem ctrBase_answers (dt : Nat) {rq : Request} {t : Txn} {s : State} (stands : Stands s rq 0x6002 t) :
    Answers (exec (.ctrBase dt rq) s) fun u =>
      (s.met.baseMiss = true → s.met.base = none → Replied t 0x00 [] s u ∧
        u.met.base = some (num t.payload 0 8, num t.payload 8 8, signed 64 (num t.payload 16 8))) ∧
      (s.met.baseMiss = false ∨ s.met.base ≠ none → Replied t 0x11 [] s u ∧ u.met = s.met) := by
  have ready := stands.canReply dt
  show Answers (execCtrBase dt rq s) _
  rw [execCtrBase, mailbox_of_stands stands, answers_next]
  by_cases taken : s.met.baseMiss = false ∨ s.met.base ≠ none
  · have refused : (!(atWork dt t s).met.baseMiss || (atWork dt t s).met.base.isSome) = true := by
      rw [atWork_met]; simpa [Option.isSome_iff_ne_none] using taken
    rw [if_pos refused]
    exact ⟨fun missing free => by simp [missing, free] at taken, fun _ => ⟨ready.replied (by decide) _, complete_met ..⟩⟩
  · obtain ⟨missing, free⟩ : s.met.baseMiss = true ∧ s.met.base = none := by simpa using taken
    rw [if_neg (by simp [missing, free])]
    refine ⟨fun _ _ => ⟨(ready.of_only (ps := [.met]) (by simp)).replied (by decide) _, ?_⟩, (absurd · taken)⟩
    rw [complete_met]; rfl

end Sys2Proof.Machine
end

section
/-!
PROOF. The sampling instant (R25, R112 to R119): the section's index and samples, and that nothing else of the instant changes them.
-/
namespace Sys2Proof.Machine
open Sys2Proof

/-! ### What an instant samples -/

/-- The section's index, stamp, samples and selection, and nothing else of it. -/
def Metrology.sampled (m : Metrology) : Metrology :=
  { sidx := m.sidx, sidxEp := m.sidxEp, begun := m.begun, vb := m.vb, vl := m.vl, vi := m.vi, selIL := m.selIL
    instAt := m.instAt, instTime := m.instTime }

theorem sampled_eq_iff {m n : Metrology} : m.sampled = n.sampled ↔
    m.sidx = n.sidx ∧ m.sidxEp = n.sidxEp ∧ m.begun = n.begun ∧ m.vb = n.vb ∧ m.vl = n.vl ∧ m.vi = n.vi ∧ m.selIL = n.selIL ∧
      m.instAt = n.instAt ∧ m.instTime = n.instTime := by
  simp only [Metrology.sampled, Metrology.mk.injEq, and_true, true_and]
  tauto

theorem sampled_ite {c : Prop} [Decidable c] {s t u : State} (ht : t.met.sampled = s.met.sampled) (hu : u.met.sampled = s.met.sampled) :
    (if c then t else u).met.sampled = s.met.sampled := by split <;> assumption

/-! ### The Husk's sources (R224) -/

@[simp] theorem capTrigger_sampled (src : Nat) (s : State) : (capTrigger src s).met.sampled = s.met.sampled := by
  obtain ⟨c, e⟩ := capTrigger_met src s
  rw [e]; rfl

@[simp] theorem huskEffects_met (s : State) : (huskEffects s).met = s.met :=
  Only.met_eq (ps := [.free, .par, .hub, .husk, .seq, .lsw, .ctl, .thm, .log]) (by simp)

@[simp] theorem modTrip_met (src : Nat) (f : Trip → Trip) (s : State) : (modTrip src f s).met = s.met := rfl

@[simp] theorem noteTrip_sampled (src : Nat) (s : State) : (noteTrip src s).met.sampled = s.met.sampled := by
  rw [noteTrip, huskTrigger, traceTrigger_met, capTrigger_sampled]

@[simp] theorem sourceActs_sampled (src : Nat) (s : State) : (sourceActs src s).met.sampled = s.met.sampled := by
  unfold sourceActs
  dsimp only
  split
  · rw [post_met]
  split
  · rw [huskEffects_met, post_met]
  · rw [huskEffects_met]
    split
    · rw [noteTrip_sampled, modTrip_met, post_met]
    · rw [modTrip_met, post_met]

@[simp] theorem assertSource_sampled (src : Nat) (m : BitVec 16) (s : State) : (assertSource src m s).met.sampled = s.met.sampled := by
  simp only [assertSource, apply_ite State.met, apply_ite Metrology.sampled, huskEffects_met, modTrip_met, sourceActs_sampled, ite_self]

@[simp] theorem releaseSource_met (src : Nat) (s : State) : (releaseSource src s).met = s.met :=
  Only.met_eq (ps := [.free, .par, .hub, .husk, .seq, .lsw, .ctl, .pos, .thm, .log]) (by simp)

@[simp] theorem followSld_sampled (i : Int) (s : State) : (followSld i s).met.sampled = s.met.sampled :=
  sampled_ite (assertSource_sampled ..) (sampled_ite (by rw [releaseSource_met]) rfl)

/-! ### The section's own work at an instant -/

@[simp] theorem yieldSpare_sampled (s : State) : (yieldSpare s).met.sampled = s.met.sampled := by
  unfold yieldSpare
  split
  · split <;> rfl
  · rfl

@[simp] theorem followOverlap_sampled (cv : Conversions) (s : State) : (followOverlap cv s).met.sampled = s.met.sampled := by
  unfold followOverlap
  split
  · rw [withMet_met]; split <;> rfl
  · rw [withMet_met]
    dsimp only
    split
    · split <;> rfl
    · rfl
  · rfl

@[simp] theorem followDiff_sampled (m : Metrology) : (followDiff m).sampled = m.sampled :=
  (apply_ite Metrology.sampled ..).trans (ite_self _)

/-- Stated over any counters, so that no counter's value is computed to see that the sample is another field. -/
theorem sampled_of_counters (m : Metrology) (eDis eChg : Nat) (qNet : Int) (base : Option (Nat × Nat × Int)) (baseMiss : Bool) :
    { m with eDis, eChg, qNet, base, baseMiss : Metrology }.sampled = m.sampled := rfl

@[simp] theorem addBase_sampled (m : Metrology) : (addBase m).sampled = m.sampled := by
  unfold addBase
  split
  · rfl
  · exact sampled_of_counters ..

@[simp] theorem countPair_sampled (v i : Int) (m : Metrology) : (countPair v i m).sampled = m.sampled := rfl

@[simp] theorem bridge_sampled (a b : Int × Int) (n k : Nat) (xs : List (Option Int × Option Int)) (m : Metrology) :
    (bridge a b n k xs m).sampled = m.sampled := by
  induction xs generalizing k m with
  | nil => rfl
  | cons x xs ih => exact (ih _ _).trans (countPair_sampled ..)

@[simp] theorem countInstant_sampled (m : Metrology) : (countInstant m).sampled = m.sampled := by
  unfold countInstant
  dsimp only
  split
  · rw [countPair_sampled]
    split
    · split
      · exact bridge_sampled ..
      · rfl
    · split <;> rfl
  · rfl

@[simp] theorem followRipple_sampled (m : Metrology) : (followRipple m).sampled = m.sampled := rfl

@[simp] theorem followCapture_sampled (cv : Conversions) (s : State) : (followCapture cv s).met.sampled = s.met.sampled := by
  unfold followCapture
  dsimp only
  split
  · rfl
  · split <;> rfl
  · rfl

@[simp] theorem currentTriggers_sampled (s : State) : (currentTriggers s).met.sampled = s.met.sampled := by
  unfold currentTriggers
  split
  · dsimp only
    split
    · exact sampled_ite ((capTrigger_sampled ..).trans (sampled_ite (capTrigger_sampled ..) rfl)) (sampled_ite (capTrigger_sampled ..) rfl)
    · exact sampled_ite (capTrigger_sampled ..) rfl
  · rfl

@[simp] theorem followInsulation_sampled (s : State) : (followInsulation s).met.sampled = s.met.sampled :=
  sampled_ite (sampled_ite rfl rfl) (sampled_ite rfl (sampled_ite rfl rfl))

@[simp] theorem followDone_met (s : State) : (followDone s).met = s.met := Only.met_eq (ps := [.seq]) (by simp)

@[simp] theorem followEnergy_met (s : State) : (followEnergy s).met = s.met :=
  Only.met_eq (ps := [.free, .par, .hub, .seq, .lsw, .ctl, .thm, .log]) (by simp)

/-- Of an instant, only its own index and its samples tell what was sampled. -/
theorem instant_sampled (cv : Conversions) (s : State) :
    (instant cv s).met.sampled = (takeSamples (!s.met.begun) cv (nextIndex s)).met.sampled := by
  rw [instant, followEnergy_met, followDone_met, followInsulation_sampled, currentTriggers_sampled, followCapture_sampled, withMet_met,
    followRipple_sampled, countInstant_sampled, addBase_sampled, followDiff_sampled, followOverlap_sampled, yieldSpare_sampled]
  exact sampled_ite (followSld_sampled ..) rfl

@[simp] theorem keepStrobe_sampled (s : State) : (keepStrobe s).met.sampled = s.met.sampled := by
  unfold keepStrobe
  split <;> rfl

theorem samplingInstant_sampled (dt : Nat) (cv : Conversions) {s : State} (runs : sequencing s = true) (powered : hvPowered s = true) :
    Answers (exec (.samplingInstant dt cv) s) fun t =>
      t.met.sampled = (takeSamples (!s.met.begun) cv (nextIndex (advance dt s))).met.sampled := by
  have rest (u : State) : ((List.range 4).foldl (fun s b => settleTrace b s) (stepTrigger (watchEvents u))).met = u.met :=
    Only.met_eq (ps := [.ctl, .xfer, .imp]) (by simp)
  show Answers (execSamplingInstant dt cv s) _
  unfold execSamplingInstant
  dsimp only
  rw [if_neg (by simp [runs, powered]), answers_next, rest, keepStrobe_sampled, instant_sampled, advance_met]

/-! ### The index, and the samples of an instant -/

/-- The next index leaves all else of the section. -/
theorem nextIndex_met (s : State) : (nextIndex s).met = { s.met with
    begun := true
    sidx := if !s.met.begun then s.met.sidx else if s.met.sidx < 0xFFFFFFFF then s.met.sidx + 1 else 0
    sidxEp := if !s.met.begun || decide (s.met.sidx < 0xFFFFFFFF) then s.met.sidxEp else (s.met.sidxEp + 1) % 256 } := by
  unfold nextIndex
  cases first : s.met.begun with
  | false => rfl
  | true =>
    by_cases wraps : s.met.sidx < 0xFFFFFFFF
    · simp [wraps, withMet, ← first]
    · simp [wraps, withMet, ← first]

/-- A role's sample is read from the section, the parameters and the time. -/
theorem roleSample_congr {s t : State} (par : t.par = s.par) (phys : t.phys = s.phys) (met : t.met = s.met) (cv : Conversions) (r : Nat) :
    roleSample t cv r = roleSample s cv r := by
  cases s; cases t; cases par; cases phys; cases met; rfl

/-- A role's sample does not depend on the index. -/
theorem roleSample_nextIndex (s : State) (cv : Conversions) (r : Nat) : roleSample (nextIndex s) cv r = roleSample s cv r := by
  have par : (nextIndex s).par = s.par := Only.par_eq (ps := [.met, .log]) (by simp)
  have phys : (nextIndex s).phys = s.phys := Only.phys_eq (ps := [.met, .log]) (by simp)
  refine (roleSample_congr (s := { s with met := (nextIndex s).met }) par phys rfl cv r).trans ?_
  rw [nextIndex_met]; rfl

/-- What an instant samples, in terms of the state before it. -/
theorem takeSamples_nextIndex (first : Bool) (cv : Conversions) (s : State) :
    (takeSamples first cv (nextIndex s)).met.sampled = { (nextIndex s).met with
      vb := roleSample s cv 0, vl := roleSample s cv 1, vi := roleSample s cv 4, selIL := (selectRange s.met (roleSample s cv 2)).1
      instAt := s.phys, instTime := s.tb.ns - Config.tickDelay : Metrology }.sampled := by
  have phys : (nextIndex s).phys = s.phys := Only.phys_eq (ps := [.met, .log]) (by simp)
  have tb : (nextIndex s).tb = s.tb := (show Only [.met, .log] s (nextIndex s) by simp) .tb (by decide)
  have range (x : RoleSample) : selectRange (nextIndex s).met x = selectRange s.met x := by rw [nextIndex_met]; rfl
  rw [sampled_eq_iff]
  refine ⟨rfl, rfl, rfl, roleSample_nextIndex .., roleSample_nextIndex .., roleSample_nextIndex .., ?_, phys, ?_⟩
  · exact congrArg Prod.fst ((range _).trans (congrArg (selectRange s.met) (roleSample_nextIndex s cv 2)))
  · exact congrArg (fun tb : Timebase => tb.ns - Config.tickDelay) tb

theorem samplingInstant_answers (dt : Nat) (cv : Conversions) {s : State} (runs : sequencing s = true) (powered : hvPowered s = true) :
    Answers (exec (.samplingInstant dt cv) s) fun t =>
      (s.met.begun = true → s.met.sidx < 0xFFFFFFFF → t.met.sidx = s.met.sidx + 1) ∧
      (s.met.begun = true → s.met.sidx = 0xFFFFFFFF → t.met.sidx = 0 ∧ t.met.sidxEp = (s.met.sidxEp + 1) % 256) ∧
      (s.met.begun = false → t.met.sidx = s.met.sidx ∧ t.met.begun = true) ∧
      t.met.vb = roleSample (advance dt s) cv 0 ∧ t.met.vl = roleSample (advance dt s) cv 1 ∧ t.met.vi = roleSample (advance dt s) cv 4 ∧
      t.met.instAt = s.phys + dt ∧ t.met.instTime = (advance dt s).tb.ns - Config.tickDelay ∧
      t.met.selIL = (selectRange s.met (roleSample (advance dt s) cv 2)).1 := by
  obtain ⟨t, e, sampled⟩ := samplingInstant_sampled dt cv runs powered
  rw [takeSamples_nextIndex, nextIndex_met, sampled_eq_iff] at sampled
  obtain ⟨sidx, sidxEp, begun, vb, vl, vi, selIL, instAt, instTime⟩ := sampled
  refine ⟨t, e, fun later more => ?_, fun later full => ⟨?_, ?_⟩, fun first => ⟨?_, begun⟩, vb, vl, vi, instAt, instTime, selIL⟩
  · rw [sidx]; simp [later, more]
  · rw [sidx]; simp [later, full]
  · rw [sidxEp]; simp [later, full]
  · rw [sidx]; simp [first]

end Sys2Proof.Machine
end

section
/-!
PROOF. Bus metrology (R109 to R146): each rule from its command's lemma.
-/
namespace Sys2Proof.Machine
open Sys2Proof

/-- Settles O24: each clause by the lemma of its command. That UNSETTLED at MET.INS_TMAX goes on to the other half, and that the command names its
half-period, is the model's choice (DESIGN CHOICE, log 102); so is the window named by its command (log 144). -/
theorem metrologyKeepsItsRoles : Obligations.MetrologyKeepsItsRoles := by
  unfold Obligations.MetrologyKeepsItsRoles
  refine ⟨fun dt s => hvStartCalDone_answers dt, fun dt s d => irangeMismatch_answers dt, fun dt s ready idle spare fit free => ?start,
    fun dt s n => handover_answers dt, fun dt s abandoned due free => ?retry, fun dt ok s n => modulatorCalDone_answers dt,
    fun dt m s r n => modulatorFailure_answers dt, fun dt s => insHalfPeriodEnd_answers dt, fun dt mo s => peCheck_answers dt mo,
    fun dt src s => rippleWindowEnd_answers dt, fun dt positive length begun s => insHalfPeriodEnd_of_other dt,
    fun dt first cycles s => rippleWindowEnd_of_other dt, fun dt rq t s => rippleRead_answers dt, fun dt rq t s => ctrBase_answers dt,
    fun dt cv s => samplingInstant_answers dt cv⟩
  case start => exact ⟨_, calStepStart_of_ready dt ready idle spare fit free, rfl, rfl, rfl⟩
  case retry => exact ⟨_, calStepRetry_of_due dt abandoned due free, rfl, rfl, rfl⟩

end Sys2Proof.Machine
end

section
/-!
PROOF. Estimation under operations on other units, and under what an operation does to cells, kept records and learning cycles: what it
leaves of the estimation array (R155, R156).
-/
namespace Sys2Proof.Machine
open Sys2Proof

theorem Only.est_eq {ps : List Part} {s t : State} (h : Only ps s t) (k : Part.est ∉ ps := by decide) : t.est = s.est := h .est k
theorem Only.prt_eq {ps : List Part} {s t : State} (h : Only ps s t) (k : Part.prt ∉ ps := by decide) : t.prt = s.prt := h .prt k

/-! ### Conditions a command's time leaves as they are -/

@[simp] theorem podUp_advance (dt : Nat) (s : State) : podUp (advance dt s) = podUp s := by
  rw [podUp, inNormal, advance_pow_phase, advance_pod, ← inNormal, ← podUp]

@[simp] theorem arrayUp_advance (dt : Nat) (s : State) : arrayUp (advance dt s) = arrayUp s := by
  rw [arrayUp, sequencing_advance, advance_pod, ← arrayUp]

@[simp] theorem learnOf_advance (dt : Nat) (s : State) (j : Nat) : learnOf (advance dt s) j = learnOf s j := rfl
@[simp] theorem allSure_advance (dt : Nat) (s : State) (j : Nat) : allSure (advance dt s) j = allSure s j := rfl
@[simp] theorem cycleCode_advance (dt : Nat) (s : State) (j : Nat) : cycleCode (advance dt s) j = cycleCode s j := rfl

/-! ### Estimation under operations on other units -/

@[simp] theorem post_est (k cls inst : _) (p : Bytes) (s : State) : (post k cls inst p s).est = s.est :=
  Only.est_eq (ps := [.log]) (by simp)

@[simp] theorem growthEvent_est (ev : Ev) (c : Nat) (was now : Bool) (x : Rat) (s : State) : (growthEvent ev c was now x s).est = s.est :=
  Only.est_eq (ps := [.log]) (by simp)

@[simp] theorem plainCond_est (cond : CondId) (inst j : Nat) (chg holds : Bool) (s : State) :
    (plainCond cond inst j chg holds s).est = s.est :=
  Only.est_eq (ps := [.free, .par, .hub, .met, .husk, .prt, .seq, .lsw, .ctl, .pos, .thm, .log]) (by simp)

@[simp] theorem complete_est (t : Txn) (status : Nat) (p : Bytes) (s : State) : (complete t status p s).est = s.est :=
  Only.est_eq (ps := [.hub]) (by simp)

@[simp] theorem modRing_est (r : Nat) (f : Ring → Ring) (s : State) : (modRing r f s).est = s.est := rfl

@[simp] theorem modNode_est (a : Nat) (f : Node → Node) (s : State) : (modNode a f s).est = s.est :=
  Only.est_eq (ps := [.chn]) (by simp)

@[simp] theorem impPass_est (idx : Nat) (s : State) : (impPass idx s).est = s.est :=
  Only.est_eq (ps := [.imp]) (by simp)

@[simp] theorem enterService_est (s : State) : (enterService s).est = s.est := Only.est_eq (ps := [.seq]) (by simp)
@[simp] theorem noticeSet_est (s : State) : (noticeSet s).est = s.est := Only.est_eq (ps := [.hub, .prt]) (by simp)
@[simp] theorem balanceCycle_est (s : State) (j : Nat) : (balanceCycle s j).est = s.est := Only.est_eq (ps := [.chn]) (by simp)

@[simp] theorem lossTest_est (s : State) : (lossTest s).est = s.est :=
  Only.est_eq (ps := [.free, .par, .hub, .met, .husk, .prt, .seq, .lsw, .ctl, .pos, .thm, .log]) (by simp)

@[simp] theorem dataConds_est (j : Nat) (s : State) (c : Nat) : (dataConds j s c).est = s.est :=
  (plainCond_est ..).trans (plainCond_est ..)

@[simp] theorem joinCycle_est (s : State) : (joinCycle s).est = s.est :=
  Only.est_eq (ps := [.free, .par, .hub, .seq, .lsw, .ctl, .thm, .log]) (by simp)

/-! ### What stands beside the cells -/

/-- The estimation array apart from its cells, the records kept for cells, the learning cycles, and the growth checks not made. -/
def Est.standing (e : Est) : Est := { e with cells := [], kept := [], learn := [], unchecked := 0 }

theorem foldl_keeps_standing {α : Type} {f : State → α → State} (h : ∀ t x, (f t x).est.standing = t.est.standing) (l : List α) (s : State) :
    (l.foldl f s).est.standing = s.est.standing := foldl_keeps (p := fun t => t.est.standing) h l s

theorem standing_of_est_eq {s t : State} (h : t.est = s.est) : t.est.standing = s.est.standing := congrArg Est.standing h

@[simp] theorem modEst_standing (c : Nat) (f : CellEst → CellEst) (s : State) : (modEst c f s).est.standing = s.est.standing := by
  unfold modEst; split <;> rfl

@[simp] theorem modLearn_standing (j : Nat) (f : Learn → Learn) (s : State) : (modLearn j f s).est.standing = s.est.standing := rfl

@[simp] theorem initCell_standing (c volt : Nat) (i : Rat) (s : State) : (initCell c volt i s).est.standing = s.est.standing := rfl

@[simp] theorem passCell_standing (k : ScanRec) (dt i : Rat) (meas : Option Int) (last : Int) (s : State) (c : Nat) :
    (passCell k dt i meas last s c).est.standing = s.est.standing := by
  unfold passCell
  dsimp only
  split
  · split
    · exact initCell_standing ..
    · rfl
  · exact modEst_standing ..

@[simp] theorem learnScan_standing (k : ScanRec) (j : Nat) (s : State) : (learnScan k j s).est.standing = s.est.standing := by
  unfold learnScan
  dsimp only
  rw [modLearn_standing]
  split
  · exact foldl_keeps_standing (fun t c => by split <;> simp) _ s
  · rfl

@[simp] theorem passString_standing (k : ScanRec) (dt : Rat) (s : State) (j : Nat) : (passString k dt s j).est.standing = s.est.standing := by
  unfold passString
  dsimp only
  split
  · exact foldl_keeps_standing (fun t c => modEst_standing ..) _ _
  · rw [learnScan_standing]
    exact foldl_keeps_standing (fun t c => passCell_standing ..) _ _

@[simp] theorem bookNode_standing (ns : Nat) (s : State) (a : Nat) : (bookNode ns s a).est.standing = s.est.standing := by
  unfold bookNode
  dsimp only
  split
  · rfl
  · rw [modNode_est]; rfl

@[simp] theorem bookRing_standing (r : Nat) (s : State) : (bookRing r s).est.standing = s.est.standing := by
  unfold bookRing
  dsimp only
  rw [modRing_est]
  split
  · exact foldl_keeps_standing (fun t a => bookNode_standing ..) _ s
  · rfl

@[simp] theorem reportString_standing (ns : Nat) (s : State) (j : Nat) : (reportString ns s j).est.standing = s.est.standing := by
  unfold reportString
  dsimp only
  split
  · rfl
  · exact foldl_keeps_standing (fun t c => modEst_standing ..) _ _

@[simp] theorem growthCell_standing (median : Option Rat) (s : State) (c : Nat) : (growthCell median s c).est.standing = s.est.standing := by
  unfold growthCell
  split
  · rfl
  · split
    · rfl
    · dsimp only
      rw [plainCond_est, modEst_standing, growthEvent_est, growthEvent_est, growthEvent_est]

@[simp] theorem growthString_standing (s : State) (j : Nat) : (growthString s j).est.standing = s.est.standing :=
  foldl_keeps_standing (fun t c => growthCell_standing _ t c) _ s

@[simp] theorem learnTemps_standing (s : State) (j : Nat) : (learnTemps s j).est.standing = s.est.standing := by
  unfold learnTemps
  dsimp only
  split
  · rfl
  · exact modLearn_standing ..

end Sys2Proof.Machine
end

section
/-!
PROOF. The periodic passes of estimation (R155 to R158, R170): the held scans filtered, and the limit cycle with its set.
-/
namespace Sys2Proof.Machine
open Sys2Proof

/-! ### The filter pass (R155, R158) -/

/-- A pass names its scan, and leaves the other scans due as they are. -/
theorem passScan_standing (s : State) (k : ScanRec) :
    (passScan s k).est.standing = { s.est.standing with passIdx := some k.idx, passNew := true } := by
  unfold passScan
  dsimp only
  rw [impPass_est]
  exact foldl_keeps_standing (fun t j => passString_standing ..) _ _

@[simp] theorem passScan_scanDue (s : State) (k : ScanRec) : (passScan s k).est.scanDue = s.est.scanDue :=
  (congrArg Est.scanDue (passScan_standing s k) :)

theorem filterPass_scanDue (s : State) : (filterPass s).est.scanDue = [] :=
  foldl_keeps (p := fun t => t.est.scanDue) passScan_scanDue _ _

/-- The last scan filtered is the newest one held. -/
theorem filterPass_of_last {s : State} {k : ScanRec} (last : s.est.scanDue.getLast? = some k) :
    (filterPass s).est.passIdx = some k.idx ∧ (filterPass s).est.passNew = true := by
  obtain ⟨older, scans⟩ := List.getLast?_eq_some_iff.mp last
  have e := passScan_standing (older.foldl passScan (withEst s fun e => { e with scanDue := [] })) k
  rw [filterPass, scans, List.foldl_append, List.foldl_cons, List.foldl_nil]
  exact ⟨congrArg Est.passIdx e, congrArg Est.passNew e⟩

theorem filterPass_of_none_due {s : State} (h : s.est.scanDue = []) : filterPass s = s := by
  rw [filterPass, h, List.foldl_nil, withEst, ← h]

theorem cellFilterPass_answers (dt : Nat) {s : State} (up : arrayUp s = true) :
    Answers (exec (.cellFilterPass dt) s) fun t =>
      t.est.scanDue = [] ∧ (∀ k, s.est.scanDue.getLast? = some k → t.est.passIdx = some k.idx ∧ t.est.passNew = true) ∧
        (s.est.scanDue = [] → t = advance dt s) := by
  show Answers (execCellFilterPass dt s) _
  rw [execCellFilterPass, arrayUp_advance, if_pos up, answers_next]
  exact ⟨filterPass_scanDue _, fun k last => filterPass_of_last (s := advance dt s) last,
    fun none_ => filterPass_of_none_due (s := advance dt s) none_⟩

/-! ### The limit cycle (R156, R157, R175) -/

/-- A restore that was accepted has been applied. -/
theorem applyRestore_standing (s : State) :
    ∃ recs, (applyRestore s).est.standing = { s.est.standing with applyDue := false, restore := recs } := by
  by_cases due : s.est.applyDue = true
  · refine ⟨[], ?_⟩
    rw [applyRestore, if_neg (by simp [due])]
    have kept := foldl_keeps_standing (f := fun (s : State) (e : Nat × Restored) =>
      if (mfind s.est.cells e.1).isSome then modEst e.1 (fuse s e.2) s
      else withEst s fun k => { k with kept := mput k.kept e.1 e.2 }) (fun t e => by
        split
        · exact modEst_standing ..
        · rfl)
      (s.est.restore.filter fun e => cellThere s e.1) s
    exact congrArg (fun e : Est => { e with applyDue := false, restore := [] }) kept
  · refine ⟨s.est.restore, ?_⟩
    have none_ : s.est.applyDue = false := Bool.eq_false_iff.mpr due
    rw [applyRestore, if_pos (by simp [none_]), ← none_]
    rfl

@[simp] theorem bringUp_standing (s : State) : (bringUp s).est.standing = s.est.standing := by
  unfold bringUp
  extract_lets ns t strs
  have booked : t.est.standing = s.est.standing := foldl_keeps_standing (fun t r => bookRing_standing r t) allRings s
  have reported : (strs.foldl (reportString ns) t).est.standing = t.est.standing := foldl_keeps_standing (reportString_standing ns) strs t
  clear_value t strs
  rw [foldl_keeps_standing growthString_standing, ← booked, ← reported]
  rfl

/-- The array once a set is published at a time: every measurement mark is taken up. -/
def Est.published (set : PubSet) (limS : SMap (List Rat)) (limB : List Rat) (now : Nat) (e : Est) : Est :=
  { e with set, any := true, limS, limB, setAt := now, passNew := false }

/-- The set of a moment that follows a numbered one. -/
def PubSet.follows (set : PubSet) (number now : Nat) : Prop := set.number = number + 1 ∧ set.at_ = now

/-- What a publication leaves beside the cells: one set more, of this moment. -/
theorem publish_standing (s : State) : ∃ set limS limB,
    (publish s).est.standing = s.est.standing.published set limS limB s.phys ∧ set.follows s.est.set.number s.phys := by
  unfold publish
  extract_lets u strs ps inS raw limB risenOf cellLims outs0 outs views idx set v w x
  have phys : u.phys = s.phys := Only.phys_eq
    (ps := [.free, .par, .hub, .chn, .met, .est, .husk, .prt, .seq, .lsw, .ctl, .pos, .thm, .log]) (by simp [u])
  have brought : u.est.standing = s.est.standing := bringUp_standing s
  clear_value u
  have number : set.number = s.est.set.number + 1 := (congrArg (fun e : Est => e.set.number + 1) brought :)
  have at_ : set.at_ = s.phys := phys
  have limited : v.est.standing = s.est.standing := (foldl_keeps_standing (fun t x => modEst_standing ..) cellLims u).trans brought
  have vphys : v.phys = s.phys := (Only.phys_eq (s := u) (ps := [.est]) (by simp [v])).trans phys
  clear_value set limB cellLims v
  refine ⟨set, ps.map fun p => (p.j, risenOf p), limB, ?_, number, at_⟩
  rw [← limited, ← vphys]
  rfl

/-- The work of a limit cycle beside the cells: a restore that was accepted is applied, and a set published. -/
theorem limitWork_standing {s : State} (up : podUp s = true) : ∃ recs set limS limB,
    (limitWork s).est.standing =
      Est.published set limS limB s.phys { s.est.standing with applyDue := false, restore := recs } ∧
    set.follows s.est.set.number s.phys := by
  obtain ⟨recs, applied⟩ := applyRestore_standing s
  have phys : (enterService (applyRestore s)).phys = s.phys := Only.phys_eq (ps := [.est, .seq]) (by simp)
  obtain ⟨set, limS, limB, published, follows⟩ := publish_standing (enterService (applyRestore s))
  have kept : (applyRestore s).est.set = s.est.set := (congrArg Est.set applied :)
  rw [enterService_est, applied, phys] at published
  rw [enterService_est, phys, kept] at follows
  have judged (t : State) (j : Nat) :
      (balanceCycle (learnTemps ((stringCells t j).foldl (dataConds j) t) j) j).est.standing = t.est.standing := by
    rw [balanceCycle_est, learnTemps_standing]
    exact foldl_keeps_standing (fun t c => standing_of_est_eq (dataConds_est j t c)) _ t
  refine ⟨recs, set, limS, limB, ?_, follows⟩
  rw [limitWork, if_neg (by simp [up]), joinCycle_est, foldl_keeps_standing judged, lossTest_est, noticeSet_est, published]

theorem limitCycle_answers (dt : Nat) {s : State} (up : podUp s = true) :
    Answers (exec (.limitCycle dt) s) fun t =>
      t.est.set.number = s.est.set.number + 1 ∧ t.est.set.at_ = s.phys + dt ∧ t.est.setAt = s.phys + dt ∧ t.est.any = true ∧
        t.est.passNew = false ∧ t.est.applyDue = false := by
  obtain ⟨recs, set, limS, limB, standing, number, at_⟩ := limitWork_standing (s := advance dt s) (by simpa using up)
  have published := congrArg Est.set standing
  exact ⟨_, rfl, (congrArg PubSet.number published).trans number, (congrArg PubSet.at_ published).trans at_, congrArg Est.setAt standing,
    congrArg Est.any standing, congrArg Est.passNew standing, congrArg Est.applyDue standing⟩

end Sys2Proof.Machine
end

section
/-!
PROOF. Capacity learning (R176 to R179): the end of a whole rest as an anchor, the cycle it ends, and the oldest queued cycle's update.
-/
namespace Sys2Proof.Machine
open Sys2Proof

/-! ### A string's learning under changes of the array -/

@[simp] theorem modEst_learn (c : Nat) (f : CellEst → CellEst) (s : State) : (modEst c f s).est.learn = s.est.learn := by
  unfold modEst; split <;> rfl

@[simp] theorem modEst_backlog (c : Nat) (f : CellEst → CellEst) (s : State) : (modEst c f s).est.backlog = s.est.backlog :=
  (congrArg Est.backlog (modEst_standing c f s) :)

theorem learnOf_congr {s t : State} (h : t.est.learn = s.est.learn) (j : Nat) : learnOf t j = learnOf s j := by rw [learnOf, h, ← learnOf]

@[simp] theorem learnOf_modLearn_self (j : Nat) (f : Learn → Learn) (s : State) : learnOf (modLearn j f s) j = f (learnOf s j) :=
  mget_mmod_self ..

/-! ### A cycle ends and the next begins (R176, R177) -/

/-- A learning cycle that begins at a sample index. -/
def Learn.begun (idx : Nat) (lost : Bool) (l : Learn) : Learn :=
  { l with
    restOver := none, startIdx := some idx, charge := 0, absSum := 0, samples := 0, badTemp := false, badSpread := false
    longRest := false, outage := false, lostIn := lost }

theorem learnOf_startCycle (j idx : Nat) (s : State) : learnOf (startCycle j idx s) j = (learnOf s j).begun idx (isLost s j) := by
  unfold startCycle
  extract_lets t
  have learn : learnOf t j = learnOf s j :=
    learnOf_congr (foldl_keeps (p := fun t => t.est.learn) (fun _ _ => modEst_learn ..) (stringCells s j) s) j
  have prt : t.prt = s.prt := Only.prt_eq (ps := [.est]) (by simp [t])
  rw [learnOf_modLearn_self, learn, isLost, prt, ← isLost]
  rfl

theorem startCycle_backlog (j idx : Nat) (s : State) : (startCycle j idx s).est.backlog = s.est.backlog :=
  foldl_keeps (p := fun t => t.est.backlog) (fun _ _ => modEst_backlog ..) (stringCells s j) s

/-- An update of the string still uncomputed makes its learning stale as a further cycle ends (R179). -/
theorem learnOf_endCycle (j idx start : Nat) (s : State) : learnOf (endCycle j idx start s) j =
    { learnOf s j with stale := (learnOf s j).stale || s.est.backlog.any (·.str == j) } := by
  unfold endCycle
  extract_lets k late t
  have learn : learnOf t j = { learnOf s j with stale := (learnOf s j).stale || late } := learnOf_modLearn_self ..
  split
  · rw [learnOf, post_est]; exact learn
  · exact learn

/-- A cycle that fails a condition of Table 05.9 is not queued. -/
theorem endCycle_backlog_of_rejected {j : Nat} {s : State} (rejected : cycleCode s j ≠ 0) (idx start : Nat) :
    (endCycle j idx start s).est.backlog = s.est.backlog := by
  unfold endCycle
  dsimp only
  rw [if_pos rejected, post_est]
  rfl

/-- A qualified cycle is queued as the newest, with the charge that has flowed in it. -/
theorem endCycle_backlog_of_qualified {j : Nat} {s : State} (qualified : cycleCode s j = 0) (idx start : Nat) :
    ∃ q : Cycle, (endCycle j idx start s).est.backlog = s.est.backlog ++ [q] ∧ q.str = j ∧
      q.charge = ((learnOf s j).charge : Rat) / 1000000 ∧ q.all = stringCells s j := by
  unfold endCycle
  extract_lets k late t cells used q
  refine ⟨q, ?_, rfl, ?_, rfl⟩
  · rw [if_neg (not_not.mpr qualified)]; rfl
  · show ((learnOf t j).charge : Rat) / 1000000 = _
    rw [learnOf_modLearn_self]

/-- The anchor that ends at `idx`: it ends the cycle that runs, and begins the next. -/
def anchorCycles (j idx : Nat) (s : State) : State :=
  startCycle j idx (match (learnOf s j).startIdx with | some start => endCycle j idx start s | none => s)

theorem anchorCycles_of_none {j : Nat} {s : State} (first : (learnOf s j).startIdx = none) (idx : Nat) :
    anchorCycles j idx s = startCycle j idx s := by rw [anchorCycles, first]

theorem anchorCycles_of_some {j start : Nat} {s : State} (runs : (learnOf s j).startIdx = some start) (idx : Nat) :
    anchorCycles j idx s = startCycle j idx (endCycle j idx start s) := by rw [anchorCycles, runs]

/-- Whatever ended, a new cycle begins at the anchor. -/
theorem learnOf_anchorCycles (j idx : Nat) (s : State) : ∃ l lost, learnOf (anchorCycles j idx s) j = Learn.begun idx lost l :=
  ⟨_, _, learnOf_startCycle ..⟩

theorem execAnchorEnd_of_unsure (dt : Nat) {j idx : Nat} {s : State} (up : podUp s = true) (ended : (learnOf s j).restOver = some idx)
    (unsure : allSure s j = false) :
    exec (.anchorEnd dt j) s = .next (modLearn j (fun l => { l with restOver := none, longRest := true }) (advance dt s)) := by
  show execAnchorEnd dt j s = _
  unfold execAnchorEnd
  dsimp only
  rw [learnOf_advance, ended]
  dsimp only
  rw [podUp_advance, up, if_neg (by decide), allSure_advance, unsure, if_pos (by decide)]

theorem execAnchorEnd_of_sure (dt : Nat) {j idx : Nat} {s : State} (up : podUp s = true) (ended : (learnOf s j).restOver = some idx)
    (sure : allSure s j = true) : exec (.anchorEnd dt j) s = .next (anchorCycles j idx (advance dt s)) := by
  show execAnchorEnd dt j s = _
  unfold execAnchorEnd
  dsimp only
  rw [learnOf_advance, ended]
  dsimp only
  rw [podUp_advance, up, if_neg (by decide), allSure_advance, sure, if_neg (by decide), anchorCycles, learnOf_advance]
  cases (learnOf s j).startIdx <;> rfl

theorem anchorEnd_answers (dt : Nat) {j idx : Nat} {s : State} (up : podUp s = true) (ended : (learnOf s j).restOver = some idx) :
    Answers (exec (.anchorEnd dt j) s) fun t =>
      (learnOf t j).restOver = none ∧
      (allSure s j = false → (learnOf t j).longRest = true ∧ t.est.backlog = s.est.backlog ∧ (learnOf t j).startIdx = (learnOf s j).startIdx) ∧
      (allSure s j = true → (learnOf t j).startIdx = some idx ∧ (learnOf t j).charge = 0 ∧ (learnOf t j).samples = 0 ∧
        ((learnOf s j).startIdx = none → t.est.backlog = s.est.backlog) ∧
        ((learnOf s j).startIdx.isSome = true → (learnOf t j).stale = ((learnOf s j).stale || s.est.backlog.any (·.str == j))) ∧
        ((learnOf s j).startIdx.isSome = true → cycleCode s j ≠ 0 → t.est.backlog = s.est.backlog) ∧
        ((learnOf s j).startIdx.isSome = true → cycleCode s j = 0 → ∃ q : Cycle, t.est.backlog = s.est.backlog ++ [q] ∧ q.str = j ∧
          q.charge = ((learnOf s j).charge : Rat) / 1000000 ∧ q.all = stringCells s j)) := by
  cases sure : allSure s j with
  | false =>
    rw [execAnchorEnd_of_unsure dt up ended sure, answers_next, learnOf_modLearn_self]
    exact ⟨rfl, fun _ => ⟨rfl, rfl, rfl⟩, fun h => absurd h (by decide)⟩
  | true =>
    rw [execAnchorEnd_of_sure dt up ended sure, answers_next]
    obtain ⟨l, lost, learn⟩ := learnOf_anchorCycles j idx (advance dt s)
    refine ⟨congrArg Learn.restOver learn, fun h => absurd h (by decide), fun _ => ⟨congrArg Learn.startIdx learn, congrArg Learn.charge learn,
      congrArg Learn.samples learn, fun first => ?_, fun runs => ?_, fun runs rejected => ?_, fun runs qualified => ?_⟩⟩
    · rw [anchorCycles_of_none (by simpa using first), startCycle_backlog]; rfl
    all_goals
      obtain ⟨start, runs⟩ := Option.isSome_iff_exists.mp runs
      rw [anchorCycles_of_some (s := advance dt s) runs]
    · rw [learnOf_startCycle, learnOf_endCycle]; rfl
    · rw [startCycle_backlog, endCycle_backlog_of_rejected (by simpa using rejected)]; rfl
    · rw [startCycle_backlog]; exact endCycle_backlog_of_qualified (s := advance dt s) qualified idx start

/-! ### The capacity update (R178, R179) -/

theorem capacityUpdate_answers (dt : Nat) {j : Nat} {q : Cycle} {s : State} (up : arrayUp s = true)
    (queued : s.est.backlog.find? (·.str == j) = some q) :
    Answers (exec (.capacityUpdate dt j) s) fun t => t.est.backlog = eraseFirst (fun x : Cycle => x.str == j) s.est.backlog := by
  show Answers (execCapacityUpdate dt j s) _
  unfold execCapacityUpdate
  dsimp only
  rw [advance_est, queued]
  dsimp only
  rw [arrayUp_advance, up, if_neg (by decide), answers_next, post_est]
  rfl

theorem ratMin_eq_min (x y : Rat) : ratMin x y = min x y := rfl
theorem ratMax_eq_max (x y : Rat) : ratMax x y = max x y := rfl

/-- A change limited on both sides by a bound that is not negative lies within it. -/
theorem limited_between {most : Rat} (h : 0 ≤ most) (x : Rat) : -most ≤ ratMax (-most) (ratMin most x) ∧ ratMax (-most) (ratMin most x) ≤ most := by
  rw [ratMin_eq_min, ratMax_eq_max]
  exact ⟨le_max_left .., max_le (neg_le_self h) (min_le_left ..)⟩

theorem ratAbs_of_nonneg {x : Rat} (h : 0 ≤ x) : ratAbs x = x := if_neg (not_lt.mpr h)

/-- R178: the capacity moves by at most EST.CAP_STEP_MAX of itself. -/
theorem learnCap_within_step (s : State) (charge : Rat) (c : Nat) (x : Rat × Rat × Rat) {e : CellEst} (h : 0 ≤ e.cap) :
    ∃ d : Rat, (learnCap s charge c x e).cap = Config.fp32 (e.cap + d) ∧
      -(e.cap * (p0 s pEstCapStepMax : Nat) / 1000) ≤ d ∧ d ≤ e.cap * (p0 s pEstCapStepMax : Nat) / 1000 ∧
      (learnCap s charge c x e).learned = true ∧ (learnCap s charge c x e).cAt = s.phys := by
  obtain ⟨low, high⟩ := limited_between (most := e.cap * (p0 s pEstCapStepMax : Nat) / 1000) (by positivity) _
  refine ⟨_, ?_, low, high, rfl, rfl⟩
  unfold learnCap
  dsimp only
  rw [ratAbs_of_nonneg h]

end Sys2Proof.Machine
end

section
/-!
PROOF. IMP_REF_SET (R203): one cell's growth reference set to its Rser, left, or cleared.
-/
namespace Sys2Proof.Machine
open Sys2Proof

/-! ### A cell's reference -/

theorem mfind_modEst_self {s : State} {c : Nat} {e : CellEst} (known : mfind s.est.cells c = some e) (f : CellEst → CellEst) :
    mfind (modEst c f s).est.cells c = some (f e) := by
  rw [modEst, known]; exact mfind_mput_self ..

section reference
variable {s : State} {c : Nat} {e : CellEst} (n : Nat) (known : mfind s.est.cells c = some e)
include known

theorem refCell_of_valid (valid : validity s e = .valid) (differs : e.rser ≠ e.rserRef) :
    refCell false (n, s) c = (n + 1, modEst c (fun e' => { e' with rserRef := e.rser }) s) := by
  simp [refCell, known, valid, differs]

theorem refCell_of_not_valid (invalid : validity s e ≠ .valid) : refCell false (n, s) c = (n, s) := by
  simp [refCell, known, invalid]

theorem refCell_of_clear (stands : e.rserRef ≠ 0) :
    refCell true (n, s) c = (n + 1, modEst c (fun e' => { e' with rserRef := 0 }) s) := by
  simp [refCell, known, stands.symm]

end reference

/-! ### The command on one cell -/

/-- A range of one cell that there is, is taken as it stands. -/
theorem rangeOf_single (t : Txn) {first total : Nat} (h : first < total) (head : Nat) (s : State) :
    rangeOf t first 1 total 0 head s = (first, 1, s) := by
  have start : min first (total - 1) = first := min_eq_left (by omega)
  have count : min 1 (min (total - first) 1) = 1 := by omega
  unfold rangeOf
  dsimp only
  rw [start, if_pos rfl, if_pos rfl, count, if_pos rfl]

/-- IMP_REF_SET on one cell completes with the count of references changed. -/
theorem execImpRefSet_single (dt : Nat) {rq : Request} {t : Txn} {s : State} (stands : Stands s rq 0x8001 t) (exists_ : num t.payload 0 2 < 9216)
    (one : num t.payload 2 2 = 1) (mode : num t.payload 4 1 ≤ 1) :
    exec (.impRefSet dt rq) s =
      let r := refCell (num t.payload 4 1 != 0) (0, atWork dt t s) (num t.payload 0 2)
      .next (complete { t with served := true } 0x00 (le 2 r.1) r.2) := by
  show execImpRefSet dt rq s = _
  rw [execImpRefSet, mailbox_of_stands stands]
  dsimp only
  rw [if_neg (by omega), one, rangeOf_single _ exists_]
  rfl

/-- A completion reports one reference changed, and carries the change. -/
theorem replied_of_ref_changed (dt : Nat) {rq : Request} {t : Txn} {s : State} {c : Nat} {e : CellEst} (stands : Stands s rq 0x8001 t)
    (known : mfind s.est.cells c = some e) (ref : Rat) :
    let u := complete { t with served := true } 0x00 (le 2 1) (modEst c (fun e' => { e' with rserRef := ref }) (atWork dt t s))
    Replied t 0x00 (le 2 1) s u ∧ mfind u.est.cells c = some { e with rserRef := ref } := by
  refine ⟨((stands.canReply dt).of_only (ps := [.est]) (by simp)).replied (by decide) _, ?_⟩
  rw [complete_est]
  exact mfind_modEst_self (s := atWork dt t s) known _

theorem impRefSet_answers (dt : Nat) {rq : Request} {t : Txn} {s : State} {c : Nat} {e : CellEst} (stands : Stands s rq 0x8001 t)
    (cell : num t.payload 0 2 = c) (exists_ : c < 9216) (one : num t.payload 2 2 = 1) (known : mfind s.est.cells c = some e) :
    Answers (exec (.impRefSet dt rq) s) fun u =>
      (num t.payload 4 1 = 0 → validity (atWork dt t s) e = .valid → e.rser ≠ e.rserRef →
        Replied t 0x00 (le 2 1) s u ∧ mfind u.est.cells c = some { e with rserRef := e.rser }) ∧
      (num t.payload 4 1 = 0 → validity (atWork dt t s) e ≠ .valid → Replied t 0x00 (le 2 0) s u ∧ u.est = s.est) ∧
      (num t.payload 4 1 = 1 → e.rserRef ≠ 0 → Replied t 0x00 (le 2 1) s u ∧ mfind u.est.cells c = some { e with rserRef := 0 }) := by
  subst cell
  have known' : mfind (atWork dt t s).est.cells (num t.payload 0 2) = some e := known
  by_cases mode : num t.payload 4 1 ≤ 1
  · rw [execImpRefSet_single dt stands exists_ one mode, answers_next]
    refine ⟨fun set valid differs => ?_, fun set invalid => ?_, fun clear referred => ?_⟩
    · rw [(by simp [set] : (num t.payload 4 1 != 0) = false), refCell_of_valid 0 known' valid differs]
      exact replied_of_ref_changed dt stands known e.rser
    · rw [(by simp [set] : (num t.payload 4 1 != 0) = false), refCell_of_not_valid 0 known' invalid]
      exact ⟨(stands.canReply dt).replied (by decide) _, complete_est ..⟩
    · rw [(by simp [clear] : (num t.payload 4 1 != 0) = true), refCell_of_clear 0 known' referred]
      exact replied_of_ref_changed dt stands known 0
  · exact ⟨_, rfl, fun set => absurd set (by omega), fun set => absurd set (by omega), fun clear => absurd clear (by omega)⟩

end Sys2Proof.Machine
end

section
/-!
PROOF. Estimation's passes (R155 to R158, R170, R176 to R179, R203): each rule from its command's lemma.
-/
namespace Sys2Proof.Machine
open Sys2Proof

/-- Settles O30: each clause by the lemma of its command. That a rest with a cell not known well enough counts as a long rest, and the free
value of a C_m that divides by no change of SoC, are the model's choice (DESIGN CHOICE, log 26); that an anchor ends as its rest does, and
that such a rest then fails the cycle with code 0x05, is DEDUCED (log 110). -/
theorem estimationPassesRun : Obligations.EstimationPassesRun := by
  unfold Obligations.EstimationPassesRun
  exact ⟨fun dt s => cellFilterPass_answers dt, fun dt s => limitCycle_answers dt, fun dt j idx s => anchorEnd_answers dt,
    fun dt j q s => capacityUpdate_answers dt, fun s charge c x e => learnCap_within_step s charge c x,
    fun dt rq t s c e => impRefSet_answers dt⟩

end Sys2Proof.Machine
end

section
/-!
PROOF. A step candidate is judged (R184, R185, R187, R206), and the response instants of a step are settled (R188).
-/
namespace Sys2Proof.Machine
open Sys2Proof

theorem Only.imp_eq {ps : List Part} {s t : State} (h : Only ps s t) (k : Part.imp ∉ ps := by decide) : t.imp = s.imp := h .imp k

/-! ### Samples of current in a step (R185, R193) -/

/-- A step after samples of its strings' currents: they enter ΔI, or end its response, and leave the rest as it is. -/
def Step.Sampled (k k' : Step) : Prop := ∃ sums ended, k' = { k with sums, ended }

theorem Step.Sampled.refl (k : Step) : k.Sampled k := ⟨k.sums, k.ended, rfl⟩

theorem Step.Sampled.trans {k k' k'' : Step} (h : k.Sampled k') (h' : k'.Sampled k'') : k.Sampled k'' := by
  obtain ⟨_, _, rfl⟩ := h
  obtain ⟨sums, ended, rfl⟩ := h'
  exact ⟨sums, ended, rfl⟩

theorem stepCurrent_sampled (j sidx : Nat) (i : Int) (k : Step) : k.Sampled (stepCurrent j sidx i k) := by
  unfold stepCurrent
  extract_lets t k₁
  have entered : k.Sampled k₁ := by
    unfold k₁; split
    · exact ⟨_, k.ended, rfl⟩
    · exact .refl k
  split
  · exact .refl k
  · split
    · exact entered.trans ⟨k₁.sums, some sidx, rfl⟩
    · exact entered

theorem heldCurrents_sampled (s : State) (k : Step) : k.Sampled (heldCurrents s k) :=
  List.foldlRecOn _ _ (.refl k) fun _ h _ _ => List.foldlRecOn _ _ h fun _ h _ _ => h.trans (stepCurrent_sampled ..)

/-! ### A candidate is judged -/

/-- The samples of I in which a candidate's edge is sought, oldest first: they end 32 instants after its trigger. -/
def candidateSamples (s : State) (k : Step) : List (Option Int) :=
  ((s.imp.hist.drop (idxDiff s.met.sidx k.trig - 32)).take (33 + edgeN k.par)).reverse

/-- What the judging of a candidate makes of the engine: nothing is left of it, it waits for the first sample of a string after its edge, or
it is a confirmed step of at least one string, under the IMP values in force at its edge. -/
inductive Judged (s : State) (k : Step) : State → Prop
  | dropped : Judged s k (withImp s fun i => { i with open_ := none })
  | waits {g : Edge} {j : Nat} (seen : edgeOf (candidateSamples s k) k.iq = some g) (inService : j ∈ serviceList s)
      (measured : (strSample s j).current.isSome = true)
      (awaited : afterEdge (mget [] s.imp.histS j) (placeIdx k g.k50) = none) : Judged s k s
  | confirmed {g : Edge} {k' : Step} (seen : edgeOf (candidateSamples s k) k.iq = some g) (isStep : k'.confirmed = true)
      (steps : k'.strs ≠ []) (trig : k'.trig = k.trig) (edge : k'.edge = placeIdx k g.k50) (par : k'.par = parsAt s k'.edge) :
      Judged s k (withImp s fun i => { i with open_ := some k' })

theorem confirmStep_of_no_edge {s : State} {k : Step} (unseen : edgeOf (candidateSamples s k) k.iq = none) :
    confirmStep k s = withImp s fun i => { i with open_ := none } := by
  unfold candidateSamples at unseen
  unfold confirmStep
  dsimp only
  rw [unseen]

theorem confirmStep_judged (s : State) (k : Step) : Judged s k (confirmStep k s) := by
  cases seen : edgeOf (candidateSamples s k) k.iq with
  | none => rw [confirmStep_of_no_edge seen]; exact .dropped
  | some g =>
    have seen' := seen
    unfold candidateSamples at seen'
    unfold confirmStep
    dsimp only
    rw [seen']
    dsimp only
    split
    case isTrue waits =>
      obtain ⟨j, inService, waits⟩ := List.any_eq_true.mp waits
      obtain ⟨measured, awaited⟩ := Bool.and_eq_true_iff.mp waits
      exact .waits seen inService measured (Option.isNone_iff_eq_none.mp awaited)
    case isFalse =>
      split
      case isTrue => exact .dropped
      case isFalse kept =>
        simp only [Bool.or_eq_true, not_or, List.isEmpty_iff] at kept
        obtain ⟨⟨-, steps⟩, -⟩ := kept
        generalize hk : heldCurrents s _ = k'
        obtain ⟨sums, ended, rfl⟩ := hk ▸ heldCurrents_sampled s _
        exact .confirmed seen rfl steps rfl rfl rfl

theorem Judged.open_cases {s t : State} {k : Step} (h : Judged s k t) (under : s.imp.open_ = some k) :
    t.imp.open_ = none ∨ t.imp.open_ = some k ∨
      ∃ k', t.imp.open_ = some k' ∧ k'.confirmed = true ∧ k'.strs ≠ [] ∧ k'.trig = k.trig ∧ k'.par = parsAt s k'.edge := by
  cases h with
  | dropped => exact .inl rfl
  | waits => exact .inr (.inl under)
  | confirmed _ isStep steps trig _ par => exact .inr (.inr ⟨_, rfl, isStep, steps, trig, par⟩)

theorem execStepConfirm_of_candidate (dt : Nat) {k : Step} {s : State} (under : s.imp.open_ = some k) :
    exec (.stepConfirm dt) s =
      if k.confirmed || decide (idxDiff s.met.sidx k.trig < 32) then .next (advance dt s) else .next (confirmStep k (advance dt s)) := by
  show execStepConfirm dt s = _
  unfold execStepConfirm
  dsimp only
  rw [advance_imp, under]
  rfl

theorem stepConfirm_of_not_due (dt : Nat) {k : Step} {s : State} (under : s.imp.open_ = some k)
    (notDue : k.confirmed = true ∨ idxDiff s.met.sidx k.trig < 32) : exec (.stepConfirm dt) s = .next (advance dt s) := by
  rw [execStepConfirm_of_candidate dt under, if_pos (by simpa using notDue)]

theorem stepConfirm_of_due (dt : Nat) {k : Step} {s : State} (under : s.imp.open_ = some k)
    (candidate : k.confirmed = false) (due : 32 ≤ idxDiff s.met.sidx k.trig) :
    exec (.stepConfirm dt) s = .next (confirmStep k (advance dt s)) := by
  rw [execStepConfirm_of_candidate dt under, if_neg (by simp [candidate, due])]

theorem stepConfirm_answers (dt : Nat) {k : Step} {s : State} (under : s.imp.open_ = some k)
    (candidate : k.confirmed = false) (due : 32 ≤ idxDiff s.met.sidx k.trig) :
    Answers (exec (.stepConfirm dt) s) fun t =>
      (t.imp.open_ = none ∨ t.imp.open_ = some k ∨
        ∃ k', t.imp.open_ = some k' ∧ k'.confirmed = true ∧ k'.strs ≠ [] ∧ k'.trig = k.trig ∧ k'.par = parsAt s k'.edge) ∧
      (edgeOf (candidateSamples s k) k.iq = none → t.imp.open_ = none) := by
  rw [stepConfirm_of_due dt under candidate due, answers_next]
  constructor
  · exact (confirmStep_judged (advance dt s) k).open_cases under
  · intro unseen
    rw [confirmStep_of_no_edge (s := advance dt s) unseen]
    rfl

/-! ### Response instants (R188) -/

theorem planned_of_confirmed {s : State} {o : Nat} {k p : Step} (h : planned s o k = some p) (confirmed : k.confirmed = true) : p = k := by
  rw [planned, if_pos confirmed] at h
  exact (Option.some.inj h).symm

/-- Before a candidate is confirmed the first offset alone is planned, on the edge its samples show by then. -/
theorem planned_of_candidate {s : State} {o : Nat} {k p : Step} (h : planned s o k = some p) (candidate : k.confirmed = false) :
    o = 0 ∧ ∃ edge back, p = { k with edge, back } := by
  rw [planned, if_neg (by simp [candidate])] at h
  by_cases first : o = 0
  · rw [if_pos first] at h
    obtain ⟨g, -, rfl⟩ := Option.map_eq_some_iff.mp h
    exact ⟨first, _, _, rfl⟩
  · rw [if_neg first] at h
    cases h

theorem planned_failed {s : State} {o : Nat} {k p : Step} (h : planned s o k = some p) : p.failed = k.failed := by
  cases confirmed : k.confirmed with
  | true => rw [planned_of_confirmed h confirmed]
  | false =>
    obtain ⟨-, _, _, rfl⟩ := planned_of_candidate h confirmed
    rfl

theorem execResponseInstant_of_planned (dt : Nat) {o : Nat} {k p : Step} {s : State} (under : s.imp.open_ = some k)
    (plan : planned s o k = some p) (placed : p.failed = false) (runs : p.ended = none) (exists_ : o < 4) (fresh : mfind p.insts o = none)
    (noInsert : s.chn.insertAt = none) :
    exec (.responseInstant dt o) s = .next (settleAs o (advance dt s) (chooseInstant s p (offsets.getD o 0))) := by
  show execResponseInstant dt o s = _
  have plan' : (advance dt s).imp.open_.bind (planned (advance dt s) o) = some p := by
    rw [advance_imp, under]
    exact plan
  unfold execResponseInstant
  dsimp only
  rw [plan']
  dsimp only
  rw [if_neg (by simp [placed, runs, fresh, noInsert, exists_])]
  rfl

/-- An offset without a strobe in its window fails the step. -/
theorem settleAs_none_open {s : State} {k : Step} (under : s.imp.open_ = some k) (o : Nat) :
    (settleAs o s none).imp.open_ = some { k with failed := true } := by
  show s.imp.open_.map _ = _
  rw [under]
  rfl

theorem settleAs_some_open {s : State} {k : Step} (under : s.imp.open_ = some k) (o : Nat) (m : Int) (ins : Bool) :
    ∃ resp, (settleAs o s (some (m, ins))).imp.open_ = some { k with insts := mput k.insts o (strobeIn s m), resp } := by
  have same : ∀ f, (if ins then withChn s f else s).imp.open_ = some k := fun f => by split <;> exact under
  exact ⟨_, (congrArg (Option.map _) (same _)).trans rfl⟩

theorem settleAs_some_insertAt (o : Nat) (s : State) (m : Int) (ins : Bool) :
    (settleAs o s (some (m, ins))).chn.insertAt =
      if ins then some (((s.chn.cycle : Int) + m) % 32768).toNat else s.chn.insertAt := by
  cases ins <;> rfl

theorem responseInstant_answers (dt : Nat) {o : Nat} {k p : Step} {s : State} (under : s.imp.open_ = some k)
    (plan : planned s o k = some p) (placed : p.failed = false) (runs : p.ended = none) (exists_ : o < 4) (fresh : mfind p.insts o = none)
    (noInsert : s.chn.insertAt = none) :
    Answers (exec (.responseInstant dt o) s) fun t =>
      (k.confirmed = true → p = k) ∧ (k.confirmed = false → o = 0) ∧
      (chooseInstant s p (offsets.getD o 0) = none → t.imp.open_ = some { k with failed := true } ∧ t.chn = s.chn) ∧
      (∀ m ins, chooseInstant s p (offsets.getD o 0) = some (m, ins) →
        (∃ k', t.imp.open_ = some k' ∧ mfind k'.insts o = some (strobeIn s m) ∧ k'.failed = false) ∧
          t.chn.insertAt = (if ins then some (((s.chn.cycle : Int) + m) % 32768).toNat else none)) := by
  rw [execResponseInstant_of_planned dt under plan placed runs exists_ fresh noInsert, answers_next]
  refine ⟨planned_of_confirmed plan, fun candidate => (planned_of_candidate plan candidate).1, fun nowhere => ?_, fun m ins chosen => ?_⟩
  · rw [nowhere]
    exact ⟨settleAs_none_open (s := advance dt s) under o, rfl⟩
  · rw [chosen]
    obtain ⟨resp, settled⟩ := settleAs_some_open (s := advance dt s) under o m ins
    refine ⟨⟨_, settled, mfind_mput_self .., (planned_failed plan).symm.trans placed⟩, ?_⟩
    rw [settleAs_some_insertAt, advance_chn, noInsert]

end Sys2Proof.Machine
end

section
/-!
PROOF. A step is closed with its outcome and its record queued (R190, R192, Table 06.4), a queued record is fitted, and one that waits too
long makes its cells stale (R191).
-/
namespace Sys2Proof.Machine
open Sys2Proof

/-! ### The outcome -/

/-- No exclusion that concerns the step lies below its outcome. -/
theorem outcomeOf_le_of_hit {s : State} {k : Step} {h : Nat} (hit : h ∈ k.hits) (concerned : concerns s k h = true) :
    outcomeOf s k ≤ h / 65536 := by
  have met : h / 65536 ∈ (k.hits.filter (concerns s k)).map (· / 65536) := List.mem_map_of_mem (List.mem_filter.mpr ⟨hit, concerned⟩)
  unfold outcomeOf
  dsimp only
  split
  case h_1 heq => exact (List.min?_eq_some_iff.mp List.min?_cons').2 _ (heq ▸ met)
  case h_2 heq => rw [heq] at met; cases met

/-! ### A record enters the queue -/

@[simp] theorem postStep_imp (outcome fitted excluded : Nat) (k : Step) (s : State) : (postStep outcome fitted excluded k s).imp = s.imp :=
  Only.imp_eq (ps := [.log]) (by simp)

@[simp] theorem clearStale_imp (s : State) : (clearStale s).imp = s.imp := Only.imp_eq (ps := [.est]) (by simp)

/-- The queue without the record that a further one replaces. -/
def roomIn (queue : List Step) : List Step := if 4 ≤ queue.length then queue.tail else queue

theorem queueStep_imp (k : Step) (s : State) : (queueStep k s).imp = { s.imp with queue := roomIn s.imp.queue ++ [k] } := by
  unfold queueStep roomIn
  cases queue : s.imp.queue with
  | nil => rfl
  | cons o os =>
    dsimp only
    split
    · rw [clearStale_imp, postStep_imp]; rfl
    · rw [withImp_imp, queue]

theorem closeStep_imp_of_excluded {s : State} {k : Step} (excluded : 2 ≤ outcomeOf s k) : (closeStep k s).imp = s.imp := by
  unfold closeStep
  dsimp only
  rw [if_pos excluded, postStep_imp]

theorem closeStep_imp_of_kept {s : State} {k : Step} (kept : outcomeOf s k < 2) :
    ∃ q : Step, (closeStep k s).imp = { s.imp with queue := roomIn s.imp.queue ++ [q] } ∧
      q.outcome = outcomeOf s k ∧ q.trig = k.trig ∧ q.queuedAt = s.phys := by
  unfold closeStep
  dsimp only
  rw [if_neg (by omega), queueStep_imp, postStep_imp]
  exact ⟨_, rfl, rfl, rfl, rfl⟩

/-! ### The command that closes -/

/-- The engine without the step that is closed next: one whose response has ended goes before one whose response is open. -/
def Imp.withoutClosed (i : Imp) : Imp := if i.closing = none then { i with open_ := none } else { i with closing := none }

theorem Imp.withoutClosed_closing (i : Imp) : i.withoutClosed.closing = none := by
  unfold withoutClosed; split
  · assumption
  · rfl

theorem Imp.withoutClosed_open (i : Imp) : i.withoutClosed.open_ = if i.closing = none then none else i.open_ := by
  unfold withoutClosed; split <;> rfl

theorem Imp.withoutClosed_queue (i : Imp) : i.withoutClosed.queue = i.queue := by
  unfold withoutClosed; split <;> rfl

theorem execStepClose_of_closable (dt : Nat) {k : Step} {s : State}
    (next : s.imp.closing = some k ∨ (s.imp.closing = none ∧ s.imp.open_ = some k)) (ready : closable k = true) :
    exec (.stepClose dt) s = .next (closeStep k (withImp (advance dt s) Imp.withoutClosed)) := by
  show execStepClose dt s = _
  unfold execStepClose withImp Imp.withoutClosed
  dsimp only
  rw [advance_imp]
  rcases next with ended | ⟨nothing, under⟩
  · rw [ended, if_neg (by simp)]
    dsimp only
    rw [if_pos ready]
  · rw [nothing, under, if_pos rfl]
    dsimp only
    rw [if_pos ready]

theorem stepClose_answers (dt : Nat) {k : Step} {s : State}
    (next : s.imp.closing = some k ∨ (s.imp.closing = none ∧ s.imp.open_ = some k)) (ready : closable k = true) :
    Answers (exec (.stepClose dt) s) fun t =>
      t.imp.closing = none ∧ t.imp.open_ = (if s.imp.closing = none then none else s.imp.open_) ∧
        (2 ≤ outcomeOf s k → t.imp.queue = s.imp.queue) ∧
        (outcomeOf s k < 2 → s.imp.queue.length ≤ 4 → t.imp.queue.length ≤ 4 ∧
          ∃ q, t.imp.queue.getLast? = some q ∧ q.outcome = outcomeOf s k ∧ q.trig = k.trig ∧ q.queuedAt = s.phys + dt) := by
  rw [execStepClose_of_closable dt next ready, answers_next]
  have outcome : outcomeOf (withImp (advance dt s) Imp.withoutClosed) k = outcomeOf s k := rfl
  rcases Nat.lt_or_ge (outcomeOf s k) 2 with kept | excluded
  · obtain ⟨q, imp, out, trig, at_⟩ := closeStep_imp_of_kept (outcome.trans_lt kept)
    rw [imp]
    refine ⟨s.imp.withoutClosed_closing, s.imp.withoutClosed_open, fun h => absurd h (by omega), fun _ room => ⟨?_, q, ?_, out, trig, at_⟩⟩
    · show (roomIn s.imp.withoutClosed.queue ++ [q]).length ≤ 4
      rw [Imp.withoutClosed_queue, roomIn]
      split
      · simp; omega
      · simp; omega
    · exact List.getLast?_concat
  · rw [closeStep_imp_of_excluded (outcome ▸ excluded)]
    exact ⟨s.imp.withoutClosed_closing, s.imp.withoutClosed_open, fun _ => s.imp.withoutClosed_queue, fun h => absurd h (by omega)⟩

/-! ### The fit and its delay -/

@[simp] theorem fitRecord_imp (k : Step) (s : State) : (fitRecord k s).imp = s.imp := Only.imp_eq (ps := [.free, .est]) (by simp)

theorem impedanceFit_answers (dt : Nat) {k : Step} {ks : List Step} {s : State} (up : arrayUp s = true) (queue : s.imp.queue = k :: ks) :
    Answers (exec (.impedanceFit dt) s) fun t => t.imp.queue = ks := by
  show Answers (execImpedanceFit dt s) _
  unfold execImpedanceFit
  dsimp only
  rw [advance_imp, queue]
  dsimp only
  rw [arrayUp_advance, if_pos up, answers_next, clearStale_imp, fitRecord_imp]
  rfl

theorem mfind_modEst_other {c c' : Nat} (h : c' ≠ c) (f : CellEst → CellEst) (s : State) :
    mfind (modEst c f s).est.cells c' = mfind s.est.cells c' := by
  unfold modEst; split
  · rfl
  · exact mfind_mput_other _ _ h

/-- A cell's estimates as a record that waits too long makes them. -/
def CellEst.stale (e : CellEst) : CellEst := { e with rstale := true }

/-- Of the cells made stale each is, and every other is as it was. -/
theorem mfind_stale_cells {c : Nat} (cells : List Nat) {s : State} {e : CellEst} (known : mfind s.est.cells c = some e) :
    mfind (cells.foldl (fun s c => modEst c CellEst.stale s) s).est.cells c = some (if c ∈ cells then e.stale else e) := by
  induction cells generalizing s e with
  | nil => exact known
  | cons c' cells ih =>
    rw [List.foldl_cons]
    by_cases same : c = c'
    · subst same
      rw [ih (mfind_modEst_self known _), if_pos (List.mem_cons_self ..)]
      exact congrArg some (ite_self _)
    · rw [ih ((mfind_modEst_other same ..).trans known)]
      simp only [List.mem_cons, same, false_or]

/-- The cells of the strings of every record that waits longer than IMP.FIT_DEFER_MAX. -/
def overdueCells (s : State) : List Nat := ((s.imp.queue.filter (lateRecord s)).flatMap fun k => k.strs.map (·.1)).flatMap (stringCells s)

theorem mem_overdueCells {s : State} {c : Nat} :
    c ∈ overdueCells s ↔ ∃ k ∈ s.imp.queue, lateRecord s k = true ∧ ∃ x ∈ k.strs, c ∈ stringCells s x.1 := by
  simp only [overdueCells, List.mem_flatMap, List.mem_filter, List.mem_map]
  constructor
  · rintro ⟨_, ⟨k, ⟨queued, late⟩, x, hx, rfl⟩, hc⟩
    exact ⟨k, queued, late, x, hx, hc⟩
  · rintro ⟨k, queued, late, x, hx, hc⟩
    exact ⟨x.1, ⟨k, ⟨queued, late⟩, x, hx, rfl⟩, hc⟩

theorem fitDeferExpiry_answers (dt : Nat) (s : State) :
    Answers (exec (.fitDeferExpiry dt) s) fun t =>
    ∀ c e, mfind s.est.cells c = some e →
      (∀ k ∈ s.imp.queue, k.parN pImpFitDeferMax * secNs < s.phys + dt - k.queuedAt → ∀ x ∈ k.strs, c ∈ stringCells s x.1 →
        mfind t.est.cells c = some { e with rstale := true }) ∧
      ((∀ k ∈ s.imp.queue, k.parN pImpFitDeferMax * secNs < s.phys + dt - k.queuedAt → ∀ x ∈ k.strs, c ∉ stringCells s x.1) →
        mfind t.est.cells c = some e) := by
  refine ⟨_, rfl, fun c e known => ?_⟩
  have cells := mfind_stale_cells (overdueCells (advance dt s)) (s := advance dt s) known
  constructor
  · intro k queued late x hx hc
    rw [if_pos ((mem_overdueCells (s := advance dt s)).mpr ⟨k, queued, decide_eq_true late, x, hx, hc⟩)] at cells
    exact cells
  · intro spared
    have out : c ∉ overdueCells (advance dt s) := fun member => by
      obtain ⟨k, queued, late, x, hx, hc⟩ := mem_overdueCells.mp member
      exact spared k queued (of_decide_eq_true late) x hx hc
    rw [if_neg out] at cells
    exact cells

end Sys2Proof.Machine
end

section
/-!
PROOF. The impedance engine (R184 to R199, Tables 06.3 and 06.4): each rule from its command's lemma.
-/
namespace Sys2Proof.Machine
open Sys2Proof

/-- Settles O31: each clause by the lemma of its command. A candidate stays as it is only while a string in service has no sample after its
edge yet (`Judged.waits`). That the first response instant is planned on the edge a candidate's samples show by then is
DEDUCED (log 113), and so is that the outcome is the lowest exclusion met and that an excluded step is not queued (log 114). -/
theorem impedanceStepsAreTakenAndFitted : Obligations.ImpedanceStepsAreTakenAndFitted := by
  unfold Obligations.ImpedanceStepsAreTakenAndFitted
  exact ⟨fun dt k s under => ⟨stepConfirm_of_not_due dt under, stepConfirm_answers dt under⟩,
    fun dt o k p s => responseInstant_answers dt, fun dt k s => stepClose_answers dt, fun s k h => outcomeOf_le_of_hit,
    fun dt k ks s => impedanceFit_answers dt, fitDeferExpiry_answers⟩

end Sys2Proof.Machine
end

section
/-!
PROOF. Numbers in bytes and bits: a little-endian number read back from where it stands (R9), the bits of a mask, and the fields of a status word.
-/
namespace Sys2Proof.Machine
open Sys2Proof

/-! ### Little-endian numbers (R9) -/

@[simp] theorem length_leBytes (w n : Nat) : (le w n).length = w := by
  induction w generalizing n with
  | zero => rfl
  | succ w ih => simp [le, ih]

theorem leNat_leBytes (w n : Nat) : leNat (le w n) = n % 256 ^ w := by
  induction w generalizing n with
  | zero => rw [Nat.pow_zero, Nat.mod_one]; rfl
  | succ w ih => rw [le, leNat, ih, Nat.pow_succ', Nat.mod_mul, BitVec.toNat_ofNat]

/-- A field that starts past the first part lies in the second. -/
theorem num_append_of_le {a : Bytes} {o : Nat} (past : a.length ≤ o) (b : Bytes) (n : Nat) : num (a ++ b) o n = num b (o - a.length) n := by
  have at_ (i : Nat) : (a ++ b).getD (o + i) 0 = b.getD (o - a.length + i) 0 := by
    rw [List.getD_append_right _ _ _ _ (by omega), Nat.sub_add_comm past]
  simp only [num, field, at_]

/-- A number of `w` bytes at the front reads back as its remainder. -/
theorem num_leBytes_append (w n : Nat) (b : Bytes) : num (le w n ++ b) 0 w = n % 256 ^ w := by
  have front : field (le w n ++ b) 0 w = le w n := by
    refine List.ext_getElem (by simp [field]) fun i _ hi => ?_
    rw [length_leBytes] at hi
    simp [field, List.getElem?_append_left, hi]
  rw [num, front, leNat_leBytes]

theorem num_leBytes (w n : Nat) : num (le w n) 0 w = n % 256 ^ w := by simpa using num_leBytes_append w n []

/-! ### Masks -/

theorem nodup_eraseDups (l : List Nat) : l.eraseDups.Nodup := by
  induction h : l.length using Nat.strong_induction_on generalizing l with
  | _ n ih =>
    cases l with
    | nil => simp
    | cons a l =>
      have shorter : (l.filter fun b => !b == a).length < n := by
        have := List.length_filter_le (fun b => !b == a) l
        rw [← h, List.length_cons]; omega
      rw [List.eraseDups_cons, List.nodup_cons, List.mem_eraseDups]
      exact ⟨by simp, ih _ shorter _ rfl⟩

theorem maskOf_eq_sum (l : List Nat) : maskOf l = ∑ i ∈ l.toFinset, 2 ^ i := by
  have same : l.toFinset = l.eraseDups.toFinset := by ext i; simp
  rw [same, List.sum_toFinset _ (nodup_eraseDups l), List.sum_eq_foldl, List.foldl_map]
  rfl

theorem bit_eq_testBit (n i : Nat) : bit n i = n.testBit i := Nat.testBit_eq_decide_div_mod_eq.symm

/-- A mask has the bits of its members. -/
theorem bit_maskOf (l : List Nat) (i : Nat) : bit (maskOf l) i = decide (i ∈ l) := by
  rw [bit_eq_testBit, Bool.eq_iff_iff, ← Nat.mem_bitIndices, ← List.mem_toFinset, maskOf_eq_sum, Finset.toFinset_bitIndices_sum_two_pow]
  simp

/-- The 32-bit word of a mask of sources. -/
theorem bit_tripMask (s : State) (p : Trip → Bool) {src : Nat} (h : src < 32) :
    bit (tripMask s p % 256 ^ 4) src = s.husk.trips.any fun e => e.1 == src && p e.2 := by
  rw [bit_eq_testBit, show 256 ^ 4 = 2 ^ 32 by rfl, Nat.testBit_mod_two_pow, decide_eq_true h, Bool.true_and, ← bit_eq_testBit, tripMask,
    bit_maskOf, Bool.eq_iff_iff]
  simp [and_comm]

/-! ### Fields of a word -/

theorem b2n_le (b : Bool) : b2n b ≤ 1 := by cases b <;> decide

/-- A bit of a word read off its place. -/
theorem bit_of_eq_b2n {n i : Nat} {b : Bool} (h : n / 2 ^ i % 2 = b2n b) : bit n i = b := by
  rw [bit, h]; cases b <;> rfl

end Sys2Proof.Machine
end

section
/-!
PROOF. The Husk status (R215, Table 07.5): the seven words of PRT_STATUS, and the statement.
-/
namespace Sys2Proof.Machine
open Sys2Proof

/-! ### The words -/

/-- Word 0 (Table 07.5). -/
def statusWord (s : State) : Nat :=
  fld 1 31 (b2n s.husk.armed) + fld 1 30 (b2n (anyLatched s)) + fld 1 29 (b2n s.husk.estop) + fld 1 28 (b2n s.husk.arm.isSome)
    + fld 4 24 (actionMax s) + fld 8 16 s.husk.first + fld 16 0 s.husk.tripCount

/-- Word 3: the strings held open, and those of the FW_OPEN_STR mask. -/
def stringsWord (s : State) : Nat := fld 16 16 (strOpenWord s) + s.husk.fwStr.toNat

theorem prtWords_eq (s : State) : prtWords s = le 4 (statusWord s) ++ (le 4 (activeWord s) ++ (le 4 (latchWord s) ++
    (le 4 (stringsWord s) ++ (le 8 s.husk.firstTime ++ (le 4 s.husk.firstIdx))))) := by
  simp [prtWords, words, statusWord, stringsWord]

theorem length_prtWords (s : State) : (prtWords s).length = 28 := by simp [prtWords_eq]

/-- Each word of the status as the number at its place. -/
theorem num_prtWords (s : State) : num (prtWords s) 0 4 = statusWord s % 256 ^ 4 ∧ num (prtWords s) 4 4 = activeWord s % 256 ^ 4 ∧
    num (prtWords s) 8 4 = latchWord s % 256 ^ 4 ∧ num (prtWords s) 12 4 = stringsWord s % 256 ^ 4 ∧
    num (prtWords s) 16 8 = s.husk.firstTime % 256 ^ 8 ∧ num (prtWords s) 24 4 = s.husk.firstIdx % 256 ^ 4 := by
  rw [prtWords_eq]
  refine ⟨?_, ?_, ?_, ?_, ?_, ?_⟩ <;> simp [num_append_of_le, num_leBytes_append, num_leBytes]

theorem statusWord_bits (s : State) : let n := statusWord s % 256 ^ 4
    bit n 31 = s.husk.armed ∧ bit n 30 = anyLatched s ∧ bit n 29 = s.husk.estop ∧ bit n 28 = s.husk.arm.isSome ∧
      bits n 27 24 = actionMax s % 16 ∧ bits n 23 16 = s.husk.first % 256 ∧ bits n 15 0 = s.husk.tripCount % 65536 := by
  have armed := b2n_le s.husk.armed
  have latched := b2n_le (anyLatched s)
  have estop := b2n_le s.husk.estop
  have window := b2n_le s.husk.arm.isSome
  simp only [statusWord, fld, bits]
  refine ⟨bit_of_eq_b2n ?_, bit_of_eq_b2n ?_, bit_of_eq_b2n ?_, bit_of_eq_b2n ?_, ?_, ?_, ?_⟩ <;> omega

theorem stringsWord_bits (s : State) : let n := stringsWord s % 256 ^ 4
    bits n 31 16 = strOpenWord s % 65536 ∧ bits n 15 0 = s.husk.fwStr.toNat := by
  have mask := s.husk.fwStr.isLt
  simp only [stringsWord, fld, bits]
  constructor <;> omega

/-! ### The statement -/

/-- PRT_STATUS completes with the words of the state it finds. -/
theorem execPrtStatus_of_stands (dt : Nat) {rq : Request} {t : Txn} {s : State} (stands : Stands s rq 0x9001 t) :
    exec (.prtStatus dt rq) s = .next (complete { t with served := true } 0x00 (prtWords s) (atWork dt t s)) := by
  show execPrtStatus dt rq s = _
  rw [execPrtStatus, readOp, mailbox_of_stands stands]
  rfl

/-- Settles O6: each word of the status by the bits of its fields, the masks by their members. -/
theorem huskStatusWords : Obligations.HuskStatusWords := by
  unfold Obligations.HuskStatusWords
  intro dt rq t s stands
  rw [execPrtStatus_of_stands dt stands, answers_next]
  obtain ⟨status, active, latch, strings, time, index⟩ := num_prtWords s
  obtain ⟨armed, latched, estop, window, action, first, count⟩ := statusWord_bits s
  obtain ⟨held, named⟩ := stringsWord_bits s
  refine ⟨prtWords s, (stands.canReply dt).replied (by decide) _, length_prtWords s, ?_⟩
  rw [status, active, latch, strings, time, index]
  exact ⟨armed, latched, estop, window, action, first, count,
    fun src h => ⟨bit_tripMask s (·.asserted) h, bit_tripMask s (·.latched) h⟩, held, named, rfl, rfl⟩

end Sys2Proof.Machine
end

section
/-!
PROOF. The Husk under operations on other units, and what its own operations leave of it and of the outputs it gates (R207 to R210, R307).
-/
namespace Sys2Proof.Machine
open Sys2Proof

/-! ### Conditions a command's time leaves as they are -/

@[simp] theorem tripOf_advance (dt : Nat) (s : State) (src : Nat) : tripOf (advance dt s) src = tripOf s src := rfl
@[simp] theorem matrixEntry_advance (dt : Nat) (s : State) (src : Nat) : matrixEntry (advance dt s) src = matrixEntry s src := rfl

theorem matrixEntry_congr {s t : State} (h : t.husk.matrix = s.husk.matrix) (src : Nat) : matrixEntry t src = matrixEntry s src := by
  rw [matrixEntry, h]; rfl

/-- A source's action follows its entry and whether it names strings (R213). -/
theorem sourceAction_congr {s t : State} {src : Nat} (matrix : t.husk.matrix = s.husk.matrix)
    (strings : (tripOf t src).strings = (tripOf s src).strings) : sourceAction t src = sourceAction s src := by
  rw [sourceAction, matrixEntry_congr matrix, strings]; rfl

/-- Whether a source can assert follows the Husk's arming and the Pod (R208). -/
theorem canAssert_congr {s t : State} (armed : t.husk.armed = s.husk.armed) (held : t.husk.heldRel = s.husk.heldRel)
    (pod : t.pod = s.pod) (src : Nat) : canAssert t src = canAssert s src := by
  rw [canAssert, armed, held, pod]; rfl

/-! ### The Husk under operations on other units -/

@[simp] theorem post_husk (k cls inst : _) (p : Bytes) (s : State) : (post k cls inst p s).husk = s.husk :=
  Only.husk_eq (ps := [.log]) (by simp)

@[simp] theorem post_prt (k cls inst : _) (p : Bytes) (s : State) : (post k cls inst p s).prt = s.prt :=
  Only.prt_eq (ps := [.log]) (by simp)

theorem matrixEntry_post (k cls inst : _) (p : Bytes) (s : State) (src : Nat) : matrixEntry (post k cls inst p s) src = matrixEntry s src :=
  matrixEntry_congr (by rw [post_husk]) src

@[simp] theorem complete_husk (t : Txn) (status : Nat) (p : Bytes) (s : State) : (complete t status p s).husk = s.husk :=
  Only.husk_eq (ps := [.hub]) (by simp)

@[simp] theorem complete_prt (t : Txn) (status : Nat) (p : Bytes) (s : State) : (complete t status p s).prt = s.prt :=
  Only.prt_eq (ps := [.hub]) (by simp)

@[simp] theorem atWork_husk (dt : Nat) (t : Txn) (s : State) : (atWork dt t s).husk = s.husk := rfl

@[simp] theorem capTrigger_husk (src : Nat) (s : State) : (capTrigger src s).husk = s.husk := Only.husk_eq (ps := [.met, .ctl]) (by simp)
@[simp] theorem huskTrigger_husk (s : State) : (huskTrigger s).husk = s.husk := Only.husk_eq (ps := [.met, .ctl]) (by simp)
@[simp] theorem meetHolds_husk (s : State) : (meetHolds s).husk = s.husk :=
  Only.husk_eq (ps := [.free, .par, .hub, .seq, .lsw, .ctl, .thm, .log]) (by simp)

@[simp] theorem capTrigger_prt (src : Nat) (s : State) : (capTrigger src s).prt = s.prt := Only.prt_eq (ps := [.met, .ctl]) (by simp)

theorem Only.pod_eq {ps : List Part} {s t : State} (h : Only ps s t) (k : Part.pod ∉ ps := by decide) : t.pod = s.pod := h .pod k

@[simp] theorem capTrigger_pod (src : Nat) (s : State) : (capTrigger src s).pod = s.pod := Only.pod_eq (ps := [.met, .ctl]) (by simp)

/-! ### The Husk under its own operations -/

@[simp] theorem huskEffects_prt (s : State) : (huskEffects s).prt = s.prt :=
  Only.prt_eq (ps := [.free, .par, .hub, .husk, .seq, .lsw, .ctl, .thm, .log]) (by simp)
@[simp] theorem assertSource_prt (src : Nat) (m : BitVec 16) (s : State) : (assertSource src m s).prt = s.prt :=
  Only.prt_eq (ps := [.free, .par, .hub, .met, .husk, .seq, .lsw, .ctl, .thm, .log]) (by simp)

@[simp] theorem modTrip_husk (src : Nat) (f : Trip → Trip) (s : State) :
    (modTrip src f s).husk = { s.husk with trips := mmod {} s.husk.trips src f } := rfl

theorem tripOf_modTrip_other {j src : Nat} (h : j ≠ src) (f : Trip → Trip) (s : State) : tripOf (modTrip src f s) j = tripOf s j :=
  mget_mmod_other _ _ _ h

/-- Of the Husk, the effects of its actions change only since when its lines stand (R224). -/
@[simp] theorem huskEffects_husk (s : State) : (huskEffects s).husk = { s.husk with
    chgLine := running (meetHolds s) (inhCharge (meetHolds s)) s.husk.chgLine
    disLine := running (meetHolds s) (inhDischarge (meetHolds s)) s.husk.disLine } := by
  have lines : Only [.hub, .seq, .ctl] (noteLines (meetHolds s)) (huskEffects s) := by simp [huskEffects]
  rw [lines.husk_eq, noteLines]
  dsimp only
  rw [meetHolds_husk]

/-- What a latching source leaves in the Husk's record (Table 07.5). -/
@[simp] theorem noteTrip_husk (src : Nat) (s : State) : (noteTrip src s).husk = { s.husk with
    tripCount := inc16 s.husk.tripCount
    first := if s.husk.first = 0xFF then src else s.husk.first
    firstTime := if s.husk.first = 0xFF then s.tb.ns else s.husk.firstTime
    firstIdx := if s.husk.first = 0xFF then s.met.sidx else s.husk.firstIdx } := by
  unfold noteTrip
  rw [huskTrigger_husk]
  dsimp only
  split <;> rfl

/-- The Husk apart from its trips, what it notes of them, the E_STOP loop, and since when its lines stand. -/
def Husk.settings (h : Husk) : Husk :=
  { h with trips := [], tripCount := 0, first := 0xFF, firstTime := 0, firstIdx := 0, estop := false, chgLine := none, disLine := none }

theorem modTrip_settings (src : Nat) (f : Trip → Trip) (s : State) : (modTrip src f s).husk.settings = s.husk.settings := rfl
theorem huskEffects_settings (s : State) : (huskEffects s).husk.settings = s.husk.settings := by simp only [huskEffects_husk, Husk.settings]
theorem noteTrip_settings (src : Nat) (s : State) : (noteTrip src s).husk.settings = s.husk.settings := by simp only [noteTrip_husk, Husk.settings]

theorem sourceActs_settings (src : Nat) (s : State) : (sourceActs src s).husk.settings = s.husk.settings := by
  unfold sourceActs
  dsimp only
  split
  · rw [post_husk]
  split
  · rw [huskEffects_settings, post_husk]
  · rw [huskEffects_settings]
    split
    · rw [noteTrip_settings, modTrip_settings, post_husk]
    · rw [modTrip_settings, post_husk]

theorem assertSource_settings (src : Nat) (m : BitVec 16) (s : State) : (assertSource src m s).husk.settings = s.husk.settings := by
  unfold assertSource
  dsimp only
  split
  · rfl
  generalize hu : modTrip src _ _ = u
  have same : u.husk.settings = s.husk.settings := by rw [← hu]; split <;> rfl
  clear hu
  split
  · split
    · rw [huskEffects_settings, same]
    · exact same
  · split
    · exact same
    · rw [sourceActs_settings, same]

theorem assertSource_matrix (src : Nat) (m : BitVec 16) (s : State) : (assertSource src m s).husk.matrix = s.husk.matrix :=
  (congrArg Husk.matrix (assertSource_settings src m s) :)

@[simp] theorem assertSource_pwmOff (src : Nat) (m : BitVec 16) (s : State) : (assertSource src m s).husk.pwmOff = s.husk.pwmOff :=
  (congrArg Husk.pwmOff (assertSource_settings src m s) :)
@[simp] theorem assertSource_badChan (src : Nat) (m : BitVec 16) (s : State) : (assertSource src m s).husk.badChan = s.husk.badChan :=
  (congrArg Husk.badChan (assertSource_settings src m s) :)
@[simp] theorem assertSource_fwBlk (src : Nat) (m : BitVec 16) (s : State) : (assertSource src m s).husk.fwBlk = s.husk.fwBlk :=
  (congrArg Husk.fwBlk (assertSource_settings src m s) :)

theorem assertSource_of_cannot {src : Nat} {s : State} (cannot : canAssert s src = false) (m : BitVec 16) : assertSource src m s = s :=
  if_pos (by simp [cannot])

theorem setPwmOff_husk (off : Bool) (s : State) : ∃ c d, (setPwmOff off s).husk = { s.husk with pwmOff := off, chgLine := c, disLine := d } := by
  unfold setPwmOff
  rw [huskEffects_husk]
  cases off <;> exact ⟨_, _, rfl⟩

/-! ### The outputs without the PWM domain's clock (R209) -/

/-- PW0 to PW5 are held off, and DA0 and DA1 put out nothing. -/
def OutputsOff (s : State) : Prop := s.ctl.gated = List.range 6 ∧ s.ctl.da = [(0, 0), (1, 0)]

theorem OutputsOff.of_ctl {s t : State} (h : OutputsOff s) (gated : t.ctl.gated = s.ctl.gated) (da : t.ctl.da = s.ctl.da) : OutputsOff t := by
  rw [OutputsOff, gated, da]; exact h

theorem Only.ctl_eq {ps : List Part} {s t : State} (h : Only ps s t) (k : Part.ctl ∉ ps := by decide) : t.ctl = s.ctl := h .ctl k

theorem OutputsOff.of_only {s t : State} (h : OutputsOff s) {ps : List Part} (only : Only ps s t) (k : Part.ctl ∉ ps := by decide) : OutputsOff t :=
  h.of_ctl (by rw [only.ctl_eq k]) (by rw [only.ctl_eq k])

theorem OutputsOff.sinkZero {s : State} (h : OutputsOff s) (k : Nat) : OutputsOff (sinkZero s k) := by
  obtain ⟨gated, da⟩ := h
  unfold Machine.sinkZero
  dsimp only
  split
  · exact ⟨gated, da⟩
  · split
    next sink =>
      refine ⟨gated, ?_⟩
      dsimp only
      rcases sink with e | e <;> rw [da, e] <;> rfl
    next => exact ⟨gated, da⟩

theorem OutputsOff.forceLoops {s : State} (h : OutputsOff s) (ks : List Nat) : OutputsOff (forceLoops ks s) := by
  unfold Machine.forceLoops
  induction ks generalizing s with
  | nil => exact h
  | cons k ks ih =>
    refine ih (OutputsOff.of_only (s := stopLoop .forced k s) (ps := [.hub]) ?_ (by simp))
    unfold stopLoop
    dsimp only
    split
    · exact h
    · exact OutputsOff.sinkZero (h.of_ctl (t := modLoop ..) rfl rfl) k

/-- The effects of a Husk that sees the clock lost. -/
theorem outputsOff_huskEffects {s : State} (lost : s.husk.pwmOff = true) : OutputsOff (huskEffects s) := by
  unfold huskEffects
  dsimp only
  have lost' : (noteLines (meetHolds s)).husk.pwmOff = true := by rw [noteLines]; dsimp only; rw [meetHolds_husk, lost]
  generalize noteLines (meetHolds s) = u at lost' ⊢
  have pws : gatedPws u = List.range 6 := by rw [gatedPws, if_pos lost']
  rw [if_pos lost']
  refine OutputsOff.forceLoops ?_ _
  split <;> exact ⟨pws, rfl⟩

theorem OutputsOff.foldl {α : Type} {f : State → α → State} (step : ∀ t x, OutputsOff t → OutputsOff (f t x)) {s : State} (h : OutputsOff s)
    (l : List α) : OutputsOff (l.foldl f s) := by
  induction l generalizing s with
  | nil => exact h
  | cons x l ih => exact ih (step s x h)

/-- Traces that trigger switch no output. -/
theorem OutputsOff.traceTrigger {s : State} (h : OutputsOff s) (src : Nat) (bufs : List Nat) : OutputsOff (traceTrigger src bufs s) := by
  have hit (k : Nat) {t : State} (l : List Nat) (ht : OutputsOff t) : OutputsOff (l.foldl (fun s b => modTrace b (hitTrace k) s) t) :=
    .foldl (fun u b (hu : OutputsOff u) => OutputsOff.of_ctl (t := modTrace b (hitTrace k) u) hu rfl rfl) ht l
  unfold Machine.traceTrigger
  dsimp only
  split
  · exact hit src bufs h
  · exact hit 7 _ (hit src bufs h)

theorem OutputsOff.capTrigger {s : State} (h : OutputsOff s) (src : Nat) : OutputsOff (capTrigger src s) := by
  unfold Machine.capTrigger capTriggerAt
  dsimp only
  split
  · exact h
  · split
    · refine OutputsOff.traceTrigger ?_ _ _; exact h
    · split <;> exact h
    · exact h

theorem OutputsOff.noteTrip {s : State} (h : OutputsOff s) (src : Nat) : OutputsOff (noteTrip src s) := by
  unfold Machine.noteTrip huskTrigger
  dsimp only
  refine OutputsOff.traceTrigger (OutputsOff.capTrigger ?_ _) _ _
  exact h

theorem OutputsOff.sourceActs {s : State} (h : OutputsOff s) (lost : s.husk.pwmOff = true) (src : Nat) : OutputsOff (sourceActs src s) := by
  unfold Machine.sourceActs
  dsimp only
  split
  · exact h.of_only (ps := [.log]) (by simp)
  split
  · exact outputsOff_huskEffects (by simpa using lost)
  · exact outputsOff_huskEffects (by split <;> simpa using lost)

/-- Without the clock a source that asserts leaves the outputs off. -/
theorem OutputsOff.assertSource {s : State} (h : OutputsOff s) (lost : s.husk.pwmOff = true) (src : Nat) (m : BitVec 16) :
    OutputsOff (assertSource src m s) := by
  unfold Machine.assertSource
  dsimp only
  split
  · exact h
  generalize hu : modTrip src _ _ = u
  have off : OutputsOff u := by rw [← hu]; split <;> exact h
  have lost' : u.husk.pwmOff = true := by rw [← hu]; split <;> exact lost
  clear hu
  split
  · split
    · exact outputsOff_huskEffects lost'
    · exact off
  · split
    · exact off
    · exact off.sourceActs lost' src

end Sys2Proof.Machine
end

section
/-!
PROOF. A source of the Husk asserts: its trip as it is raised, delayed and acts, and what a latching one leaves in the record (R210, R213, R214, R226).
-/
namespace Sys2Proof.Machine
open Sys2Proof

/-! ### A source acts (R210, R213) -/

/-- A trip whose source acts with an action code: a latched one keeps its action, and 0x0 is none. -/
def Trip.acts (t : Trip) (a : Nat) (latching : Bool) : Trip :=
  if a = 0 ∨ t.latched = true then t else { t with acting := some a, latched := latching || decide (3 < a) }

theorem Trip.acts_of_none (t : Trip) (l : Bool) : t.acts 0 l = t := if_pos (.inl rfl)

theorem Trip.acts_of_unlatched {t : Trip} {a : Nat} (some_ : a ≠ 0) (unlatched : t.latched = false) (l : Bool) :
    t.acts a l = { t with acting := some a, latched := l || decide (3 < a) } := if_neg (by simp [some_, unlatched])

theorem tripOf_post (k cls inst : _) (p : Bytes) (s : State) (src : Nat) : tripOf (post k cls inst p s) src = tripOf s src :=
  tripOf_congr (by rw [post_husk]) src

theorem tripOf_sourceActs (src : Nat) (s : State) :
    tripOf (sourceActs src s) src = (tripOf s src).acts (sourceAction s src) (bit (matrixEntry s src) 30) := by
  unfold sourceActs Trip.acts
  dsimp only
  rw [matrixEntry_post]
  split_ifs <;> simp_all [tripOf_post]

/-- An action that latches is counted, and kept as the first where none is (Table 07.5). -/
theorem sourceActs_record {src : Nat} {s : State} (some_ : sourceAction s src ≠ 0) (unlatched : (tripOf s src).latched = false)
    (latches : (bit (matrixEntry s src) 30 || decide (3 < sourceAction s src)) = true) :
    (sourceActs src s).husk.tripCount = inc16 s.husk.tripCount ∧
      (sourceActs src s).husk.first = if s.husk.first = 0xFF then src else s.husk.first := by
  unfold sourceActs
  dsimp only
  rw [if_neg some_, if_neg (by simp [unlatched]), matrixEntry_post, if_pos latches]
  simp

/-! ### A source is raised (R214) -/

/-- A trip whose source is seen asserted, naming strings, at an instant. -/
def Trip.raised (t : Trip) (m : BitVec 16) (now : Nat) : Trip :=
  { t with asserted := true, strings := t.strings ||| m, since := if t.asserted then t.since else now }

/-- The state in which a source is seen asserted, before it acts. -/
def raised (src : Nat) (m : BitVec 16) (s : State) : State :=
  modTrip src (fun t => t.raised m s.phys) (if src = 15 then { s with husk := { s.husk with estop := true } } else s)

@[simp] theorem tripOf_raised (src : Nat) (m : BitVec 16) (s : State) : tripOf (raised src m s) src = (tripOf s src).raised m s.phys := by
  rw [raised, tripOf_modTrip]; split <;> rfl

theorem raised_settings (src : Nat) (m : BitVec 16) (s : State) : (raised src m s).husk.settings = s.husk.settings := by
  unfold raised; split <;> rfl

@[simp] theorem matrixEntry_raised (src : Nat) (m : BitVec 16) (s : State) (k : Nat) : matrixEntry (raised src m s) k = matrixEntry s k :=
  matrixEntry_congr (congrArg Husk.matrix (raised_settings src m s) :) k

theorem raised_record (src : Nat) (m : BitVec 16) (s : State) :
    (raised src m s).husk.tripCount = s.husk.tripCount ∧ (raised src m s).husk.first = s.husk.first := by
  unfold raised; split <;> exact ⟨rfl, rfl⟩

/-- A source not yet asserted: its DELAY begins, or it acts at once. -/
theorem assertSource_of_released {src : Nat} {s : State} (can : canAssert s src = true) (released : (tripOf s src).asserted = false)
    (m : BitVec 16) : assertSource src m s =
      if sourceAction (raised src m s) src ≠ 0 ∧ 0 < bits (matrixEntry s src) 23 16 then
        modTrip src (fun t => { t with delaying := true }) (raised src m s)
      else sourceActs src (raised src m s) := by
  have same : modTrip src (fun t => { t with
      asserted := true, strings := t.strings ||| m
      since := if t.asserted then t.since else (if src = 15 then { s with husk := { s.husk with estop := true } } else s).phys })
      (if src = 15 then { s with husk := { s.husk with estop := true } } else s) = raised src m s := by
    unfold raised; split <;> rfl
  unfold assertSource
  rw [if_neg (by simp [can])]
  dsimp only
  rw [same, if_neg (by simp [released])]

section rises
variable {src : Nat} {m : BitVec 16} {s : State} (can : canAssert s src = true) (released : (tripOf s src).asserted = false)
include can released

/-- Whatever it does, it stands asserted since now, and names its strings. -/
theorem assertSource_stands : (tripOf (assertSource src m s) src).asserted = true ∧
    (tripOf (assertSource src m s) src).strings = (tripOf s src).strings ||| m ∧ (tripOf (assertSource src m s) src).since = s.phys := by
  rw [assertSource_of_released can released]
  split
  · simp [Trip.raised, released]
  · rw [tripOf_sourceActs, tripOf_raised, Trip.acts]
    split <;> simp [Trip.raised, released]

theorem sourceAction_assertSource : sourceAction (assertSource src m s) src = sourceAction (raised src m s) src := by
  obtain ⟨_, strings, _⟩ := assertSource_stands (m := m) can released
  refine sourceAction_congr ?_ ?_
  · exact (assertSource_matrix src m s).trans (congrArg Husk.matrix (raised_settings src m s) :).symm
  · rw [strings, tripOf_raised]; rfl

theorem tripOf_assertSource_of_delay (some_ : sourceAction (raised src m s) src ≠ 0) (delay : 0 < bits (matrixEntry s src) 23 16) :
    tripOf (assertSource src m s) src = { (tripOf s src).raised m s.phys with delaying := true } := by
  rw [assertSource_of_released can released, if_pos ⟨some_, delay⟩, tripOf_modTrip, tripOf_raised]

theorem tripOf_assertSource_of_acts (now : sourceAction (raised src m s) src = 0 ∨ bits (matrixEntry s src) 23 16 = 0) :
    tripOf (assertSource src m s) src =
      ((tripOf s src).raised m s.phys).acts (sourceAction (raised src m s) src) (bit (matrixEntry s src) 30) := by
  rw [assertSource_of_released can released, if_neg (by omega), tripOf_sourceActs, tripOf_raised, matrixEntry_raised]

theorem assertSource_record (some_ : sourceAction (raised src m s) src ≠ 0) (now : bits (matrixEntry s src) 23 16 = 0)
    (unlatched : (tripOf s src).latched = false) (latches : (bit (matrixEntry s src) 30 || decide (3 < sourceAction (raised src m s) src)) = true) :
    (assertSource src m s).husk.tripCount = inc16 s.husk.tripCount ∧
      (assertSource src m s).husk.first = if s.husk.first = 0xFF then src else s.husk.first := by
  obtain ⟨count, first⟩ := raised_record src m s
  rw [assertSource_of_released can released, if_neg (by omega), ← count, ← first]
  exact sourceActs_record some_ (by rw [tripOf_raised]; exact unlatched) (by rw [matrixEntry_raised]; exact latches)

end rises

/-! ### HUSK_SOURCE_ASSERT (R208, R209, R214, R224) -/

/-- The clocks CLK_AUX names: without the PWM domain's the Husk holds its outputs off (R209). That bit 3 of the operand names this domain is
a DESIGN CHOICE (log 53). -/
def noteClocks (src : Nat) (m : BitVec 16) (s : State) : State :=
  if src = 24 ∧ bit m.toNat 3 ∧ s.husk.armed then setPwmOff true s else s

theorem execHuskSourceAssert_eq (dt src : Nat) (m : BitVec 16) (s : State) : exec (.huskSourceAssert dt src m) s =
    if src = 13 ∧ !lineStands (advance dt s) s.husk.chgLine ∧ !lineStands (advance dt s) s.husk.disLine then .next (advance dt s)
    else .next (assertSource src (if namesStrings src then m else 0) (noteClocks src m (advance dt s))) := rfl

/-- Of the Husk, a lost clock changes pwmOff and since when the lines stand. -/
theorem noteClocks_husk (src : Nat) (m : BitVec 16) (s : State) :
    ∃ off c d, (noteClocks src m s).husk = { s.husk with pwmOff := off, chgLine := c, disLine := d } := by
  unfold noteClocks
  split
  · exact ⟨_, setPwmOff_husk true s⟩
  · exact ⟨_, _, _, rfl⟩

theorem noteClocks_pod (src : Nat) (m : BitVec 16) (s : State) : (noteClocks src m s).pod = s.pod ∧ (noteClocks src m s).phys = s.phys := by
  have only : Only [.free, .par, .hub, .husk, .seq, .lsw, .ctl, .pos, .thm, .log] s (noteClocks src m s) := by
    unfold noteClocks; split <;> simp
  exact ⟨only .pod (by decide), only.phys_eq⟩

theorem huskSourceAssert_of_cannot (dt : Nat) {src : Nat} (m : BitVec 16) {s : State} (cannot : canAssert s src = false) :
    exec (.huskSourceAssert dt src m) s = .next (advance dt s) := by
  have unarmed : ¬ (src = 24 ∧ bit m.toNat 3 = true ∧ (advance dt s).husk.armed = true) := by
    rintro ⟨rfl, -, armed⟩
    simp [canAssert, show s.husk.armed = true from armed] at cannot
  rw [execHuskSourceAssert_eq, noteClocks, if_neg unarmed, assertSource_of_cannot (by exact cannot), ite_self]

theorem huskSourceAssert_of_no_line (dt : Nat) (m : BitVec 16) {s : State} (chg : lineStands (advance dt s) s.husk.chgLine = false)
    (dis : lineStands (advance dt s) s.husk.disLine = false) : exec (.huskSourceAssert dt 13 m) s = .next (advance dt s) := by
  rw [execHuskSourceAssert_eq, if_pos ⟨rfl, by simp [chg], by simp [dis]⟩]

/-- CLK_AUX that names the PWM domain (R209). -/
theorem huskSourceAssert_clkAux (dt : Nat) {m : BitVec 16} {s : State} (armed : s.husk.armed = true) (names : bit m.toNat 3 = true) :
    Answers (exec (.huskSourceAssert dt 24 m) s) fun t =>
      t.husk.pwmOff = true ∧ t.ctl.gated = List.range 6 ∧ t.ctl.da = [(0, 0), (1, 0)] := by
  have clocks : noteClocks 24 m (advance dt s) = setPwmOff true (advance dt s) := if_pos ⟨rfl, names, armed⟩
  have lost : (setPwmOff true (advance dt s)).husk.pwmOff = true := by
    obtain ⟨c, d, e⟩ := setPwmOff_husk true (advance dt s); rw [e]
  have off : OutputsOff (setPwmOff true (advance dt s)) := outputsOff_huskEffects rfl
  rw [execHuskSourceAssert_eq, if_neg (by simp), clocks, answers_next]
  refine ⟨?_, off.assertSource lost 24 _⟩
  rw [assertSource_pwmOff, lost]

/-- A source not yet asserted: it stands asserted since now, and acts, waits for its DELAY, or takes no action. -/
theorem huskSourceAssert_answers (dt : Nat) {src : Nat} {m : BitVec 16} {s : State} (can : canAssert s src = true)
    (released : (tripOf s src).asserted = false)
    (line : src = 13 → lineStands (advance dt s) s.husk.chgLine = true ∨ lineStands (advance dt s) s.husk.disLine = true) :
    Answers (exec (.huskSourceAssert dt src m) s) fun t =>
      let a := sourceAction t src
      let named : BitVec 16 := if namesStrings src then m else 0
      (tripOf t src).asserted = true ∧ (tripOf t src).strings = (tripOf s src).strings ||| named ∧ (tripOf t src).since = s.phys + dt ∧
      (a = 0 → (tripOf t src).acting = (tripOf s src).acting ∧ (tripOf t src).latched = (tripOf s src).latched) ∧
      (a ≠ 0 → 0 < bits (matrixEntry s src) 23 16 → (tripOf t src).delaying = true ∧ (tripOf t src).acting = (tripOf s src).acting) ∧
      (a ≠ 0 → bits (matrixEntry s src) 23 16 = 0 → (tripOf s src).latched = false →
        (tripOf t src).acting = some a ∧ (tripOf t src).latched = (bit (matrixEntry s src) 30 || decide (3 < a)) ∧
          ((bit (matrixEntry s src) 30 || decide (3 < a)) = true → t.husk.tripCount = inc16 s.husk.tripCount ∧
            t.husk.first = if s.husk.first = 0xFF then src else s.husk.first)) := by
  have stands : ¬ (src = 13 ∧ (!lineStands (advance dt s) s.husk.chgLine) = true ∧ (!lineStands (advance dt s) s.husk.disLine) = true) := by
    rintro ⟨is13, chg, dis⟩
    rcases line is13 with h | h <;> simp [h] at chg dis
  rw [execHuskSourceAssert_eq, if_neg stands, answers_next]
  dsimp only
  obtain ⟨off, c, d, husk⟩ := noteClocks_husk src m (advance dt s)
  obtain ⟨pod, phys⟩ := noteClocks_pod src m (advance dt s)
  generalize noteClocks src m (advance dt s) = w at husk pod phys
  generalize (if namesStrings src = true then m else 0) = named
  have trip : tripOf w src = tripOf s src := tripOf_congr (by rw [husk]; rfl) src
  have entry : matrixEntry w src = matrixEntry s src := matrixEntry_congr (by rw [husk]; rfl) src
  have count : w.husk.tripCount = s.husk.tripCount ∧ w.husk.first = s.husk.first := by rw [husk]; exact ⟨rfl, rfl⟩
  rw [advance_phys] at phys
  have can' : canAssert w src = true := (canAssert_congr (by rw [husk]) (by rw [husk]) pod src).trans can
  have released' : (tripOf w src).asserted = false := by rw [trip]; exact released
  obtain ⟨asserted, strings, since⟩ := assertSource_stands (m := named) can' released'
  rw [sourceAction_assertSource can' released']
  rw [trip] at strings
  rw [phys] at since
  rw [← entry, ← trip, ← count.1, ← count.2]
  refine ⟨asserted, by rw [strings, trip], since, fun none_ => ?_, fun some_ delay => ?_, fun some_ now unlatched => ⟨?_, ?_, fun latches => ?_⟩⟩
  · rw [tripOf_assertSource_of_acts can' released' (.inl none_), none_, Trip.acts_of_none]
    exact ⟨rfl, rfl⟩
  · rw [tripOf_assertSource_of_delay can' released' some_ delay]
    exact ⟨rfl, rfl⟩
  · rw [tripOf_assertSource_of_acts can' released' (.inr now), Trip.acts_of_unlatched (t := (tripOf w src).raised named w.phys) some_ unlatched]
  · rw [tripOf_assertSource_of_acts can' released' (.inr now), Trip.acts_of_unlatched (t := (tripOf w src).raised named w.phys) some_ unlatched]
  · exact assertSource_record can' released' some_ now unlatched latches

/-! ### The entries (Table 07.2, R213) -/

theorem sourceAction_cases (s : State) (src : Nat) :
    (bit (matrixEntry s src) 31 = false → sourceAction s src = 0) ∧
    (bit (matrixEntry s src) 31 = true → bits (matrixEntry s src) 27 24 ≤ 8 →
      bits (matrixEntry s src) 27 24 ≠ 4 ∨ (namesStrings src = true ∧ (tripOf s src).strings ≠ 0) → sourceAction s src = bits (matrixEntry s src) 27 24) ∧
    (bit (matrixEntry s src) 31 = true →
      8 < bits (matrixEntry s src) 27 24 ∨ (bits (matrixEntry s src) 27 24 = 4 ∧ (namesStrings src = false ∨ (tripOf s src).strings = 0)) →
      sourceAction s src = 5) := by
  unfold sourceAction
  dsimp only
  refine ⟨fun off => if_pos (by simp [off]), fun on known named => ?_, fun on other => ?_⟩
  · rw [if_neg (by simp [on]), if_neg]
    rintro (big | ⟨is4, nameless⟩)
    · omega
    · rcases named with not4 | ⟨names, strings⟩
      · exact not4 is4
      · exact strings (by simpa [names] using nameless)
  · rw [if_neg (by simp [on]), if_pos (by simpa using other)]

/-! ### The DELAY ends (R214) -/

theorem huskDelayExpiry_answers (dt : Nat) {src : Nat} {s : State} (delaying : (tripOf s src).delaying = true)
    (asserted : (tripOf s src).asserted = true) (unlatched : (tripOf s src).latched = false) (some_ : sourceAction s src ≠ 0) :
    Answers (exec (.huskDelayExpiry dt src) s) fun t =>
      (bits (matrixEntry s src) 23 16 * msNs ≤ s.phys + dt - (tripOf s src).since →
        (tripOf t src).delaying = false ∧ (tripOf t src).acting = some (sourceAction s src)) ∧
      (s.phys + dt - (tripOf s src).since < bits (matrixEntry s src) 23 16 * msNs → t = advance dt s) := by
  have step : exec (.huskDelayExpiry dt src) s =
      .next (if bits (matrixEntry s src) 23 16 * msNs ≤ s.phys + dt - (tripOf s src).since then
        sourceActs src (modTrip src (fun t => { t with delaying := false }) (advance dt s)) else advance dt s) := by
    show Host.Outcome.next (delayEnds src (advance dt s)) = _
    unfold delayEnds
    dsimp only
    rw [tripOf_advance, delaying, asserted, Bool.true_and, if_pos rfl, matrixEntry_advance]
    exact congrArg _ (if_congr decide_eq_true_iff rfl rfl)
  rw [step, answers_next]
  refine ⟨fun due => ?_, fun early => if_neg (by omega)⟩
  generalize hw : modTrip src (fun t => { t with delaying := false }) (advance dt s) = w
  have trip : tripOf w src = { tripOf s src with delaying := false } := by rw [← hw, tripOf_modTrip]; rfl
  have action : sourceAction w src = sourceAction s src := sourceAction_congr (by rw [← hw]; rfl) (by rw [trip])
  rw [if_pos due, tripOf_sourceActs, action, trip, Trip.acts_of_unlatched (t := { tripOf s src with delaying := false }) some_ unlatched]
  exact ⟨rfl, rfl⟩

/-! ### COMP_FAIL (R226) -/

theorem mem_addKey (k : Nat) (l : List Nat) : k ∈ addKey k l := by
  unfold addKey; split
  · assumption
  · exact List.mem_append_right _ (List.mem_singleton_self k)

theorem comparatorChannelTest_answers (dt c : Nat) (b : Bool) {s : State} (up : podUp s = true) (unshelled : s.pod.shelled = false) :
    Answers (exec (.comparatorChannelTest dt c b true) s) (fun t => t.husk.badChan = s.husk.badChan.filter (· != c * 2 + b2n b)) ∧
    (s.husk.armed = true →
      Answers (exec (.comparatorChannelTest dt c b false) s) fun t => c * 2 + b2n b ∈ t.husk.badChan ∧ (tripOf t 26).asserted = true) := by
  have tested : (!podUp (advance dt s) || (advance dt s).pod.shelled) = false := by
    rw [podUp_advance, up]; exact unshelled
  refine ⟨?_, fun armed => ?_⟩
  · show Answers (execComparatorChannelTest dt c b true s) _
    rw [execComparatorChannelTest, tested]
    exact ⟨_, rfl, rfl⟩
  · show Answers (execComparatorChannelTest dt c b false s) _
    rw [execComparatorChannelTest, tested]
    refine ⟨_, rfl, ?_, assertSource_asserted ?_ 0⟩
    · rw [assertSource_badChan]
      exact mem_addKey _ _
    · simp [canAssert, armed]

end Sys2Proof.Machine
end

section
/-!
PROOF. A source of the Husk releases, SLD_VIOL and FW_OPEN_BLK, and the fault reset with the commands and the pin that make it (R210, R224, R227).
-/
namespace Sys2Proof.Machine
open Sys2Proof

/-! ### A source releases (R210, R214) -/

/-- A trip whose source has released: a latched one keeps its action and the strings it names. -/
def Trip.lowered (t : Trip) : Trip :=
  if t.latched then { t with asserted := false, delaying := false }
  else { t with asserted := false, delaying := false, acting := none, strings := 0 }

theorem releaseSource_of_released {src : Nat} {s : State} (released : (tripOf s src).asserted = false) : releaseSource src s = s :=
  if_pos (by simp [released])

/-- What a release of an asserted source does before the trip is changed: the E_STOP loop is closed, a lost clock is back, and an assertion
that ends in its DELAY is recorded. -/
def beforeLowering (src : Nat) (s : State) : State :=
  let w := if src = 15 then { s with husk := { s.husk with estop := false } } else s
  let w := if src = 24 ∧ w.husk.pwmOff then setPwmOff false w else w
  if (tripOf s src).delaying then post (.husk src) 16 src [0] w else w

theorem tripOf_beforeLowering (src : Nat) (s : State) : tripOf (beforeLowering src s) src = tripOf s src := by
  unfold beforeLowering
  dsimp only
  generalize hw : (if src = 15 then { s with husk := { s.husk with estop := false } } else s) = w
  have same : tripOf w src = tripOf s src := by rw [← hw]; split <;> rfl
  clear hw
  have back : tripOf (setPwmOff false w) src = tripOf w src := by
    obtain ⟨c, d, e⟩ := setPwmOff_husk false w
    exact tripOf_congr (by rw [e]) src
  split_ifs <;> simp [tripOf_post, back, same]

/-- The PWM domain's clock is back (R209). -/
theorem beforeLowering_clkAux (s : State) : (beforeLowering 24 s).husk.pwmOff = false := by
  have back (w : State) : (setPwmOff false w).husk.pwmOff = false := by obtain ⟨c, d, e⟩ := setPwmOff_husk false w; rw [e]
  unfold beforeLowering
  dsimp only
  split_ifs <;> simp_all

theorem releaseSource_of_asserted {src : Nat} {s : State} (asserted : (tripOf s src).asserted = true) : releaseSource src s =
    let w := modTrip src (fun t => { t with asserted := false, delaying := false }) (beforeLowering src s)
    if (tripOf s src).latched then w else huskEffects (modTrip src (fun t => { t with acting := none, strings := 0 }) w) := by
  unfold releaseSource
  dsimp only
  rw [if_neg (by simp [asserted])]
  rfl

theorem tripOf_releaseSource {src : Nat} {s : State} (asserted : (tripOf s src).asserted = true) :
    tripOf (releaseSource src s) src = (tripOf s src).lowered := by
  rw [releaseSource_of_asserted asserted, Trip.lowered]
  dsimp only
  split <;> simp [tripOf_beforeLowering]

theorem releaseSource_clkAux {s : State} (asserted : (tripOf s 24).asserted = true) : (releaseSource 24 s).husk.pwmOff = false := by
  rw [releaseSource_of_asserted asserted]
  dsimp only
  split <;> simp [beforeLowering_clkAux]

theorem releaseSource_asserted (src : Nat) (s : State) : (tripOf (releaseSource src s) src).asserted = false := by
  cases asserted : (tripOf s src).asserted with
  | false => rw [releaseSource_of_released asserted, asserted]
  | true => rw [tripOf_releaseSource asserted, Trip.lowered]; split <;> rfl

theorem huskSourceRelease_answers (dt src : Nat) (s : State) : Answers (exec (.huskSourceRelease dt src) s) fun t =>
      ((tripOf s src).asserted = false → t = advance dt s) ∧
      ((tripOf s src).asserted = true → (src = 24 → t.husk.pwmOff = false) ∧ (tripOf t src).asserted = false ∧ (tripOf t src).delaying = false ∧
        (tripOf t src).latched = (tripOf s src).latched ∧
        ((tripOf s src).latched = true → (tripOf t src).acting = (tripOf s src).acting ∧ (tripOf t src).strings = (tripOf s src).strings) ∧
        ((tripOf s src).latched = false → (tripOf t src).acting = none ∧ (tripOf t src).strings = 0)) := by
  refine ⟨_, rfl, fun released => releaseSource_of_released released, fun asserted => ⟨?_, ?_⟩⟩
  · rintro rfl
    exact releaseSource_clkAux asserted
  · rw [tripOf_releaseSource (s := advance dt s) asserted, tripOf_advance, Trip.lowered]
    cases (tripOf s src).latched <;> simp

/-! ### SLD_VIOL (R224) and FW_OPEN_BLK (Table 07.6) -/

/-- SLD_VIOL follows the current against a line that stands. -/
theorem followSld_asserted (i : Int) (s : State) : (sldHolds s i = true → canAssert s 13 = true → (tripOf (followSld i s) 13).asserted = true) ∧
    (sldHolds s i = false → (tripOf (followSld i s) 13).asserted = false) := by
  unfold followSld
  refine ⟨fun holds can => ?_, fun ends => ?_⟩
  · rw [if_pos holds]
    exact assertSource_asserted can 0
  · rw [if_neg (by simp [ends])]
    split
    next => exact releaseSource_asserted 13 s
    next released => simpa using released

@[simp] theorem openBlock_prt (s : State) : (openBlock s).prt = { s.prt with g4 := true } := by
  unfold openBlock
  dsimp only
  rw [assertSource_prt, capTrigger_prt]

theorem prtOpenReq_answers (dt : Nat) {rq : Request} {t : Txn} {s : State} (stands : Stands s rq 0x9004 t) (can : canAssert s 16 = true) :
    Answers (exec (.prtOpenReq dt rq) s) fun u =>
      u.prt.g4 = true ∧ u.husk.fwBlk = true ∧ (tripOf u 16).asserted = true ∧
        u = complete { t with served := true } 0x00 [] (openBlock (atWork dt t s)) := by
  have step : exec (.prtOpenReq dt rq) s = .next (complete { t with served := true } 0x00 [] (openBlock (atWork dt t s))) := by
    show execPrtOpenReq dt rq s = _
    rw [execPrtOpenReq, mailbox_of_stands stands]
  rw [step]
  refine ⟨_, rfl, ?_, ?_, ?_, rfl⟩
  · rw [complete_prt, openBlock_prt]
  · rw [complete_husk, openBlock]
    dsimp only
    rw [assertSource_fwBlk, capTrigger_husk]
  · rw [tripOf_congr (congrArg Husk.trips (complete_husk ..)), openBlock]
    refine assertSource_asserted ((canAssert_congr ?_ ?_ ?_ 16).trans can) 0
    · rw [capTrigger_husk]; rfl
    · rw [capTrigger_husk]; rfl
    · rw [capTrigger_pod]; rfl

/-! ### The fault reset (R227) -/

/-- A trip at the fault reset: a latched one whose source is not asserted is cleared. -/
def Trip.reset (t : Trip) : Trip :=
  if t.latched && !t.asserted then { t with latched := false, acting := none, strings := 0 } else t

@[simp] theorem Trip.reset_latched (t : Trip) : t.reset.latched = (t.latched && t.asserted) := by
  unfold Trip.reset; split <;> simp_all

theorem mget_mmap {α : Type} (d : α) (f : Nat → α → α) (m : SMap α) (k : Nat) (h : f k d = d) : mget d (mmap f m) k = f k (mget d m k) := by
  unfold mget
  induction m with
  | nil => exact h.symm
  | cons e m ih =>
    obtain ⟨k', v⟩ := e
    rw [mmap, List.map_cons, mfind, mfind]
    split
    next same => rw [same]; rfl
    next => exact ih

/-- FW_OPEN_BLK is released by the reset before the latched sources are cleared. -/
theorem tripOf_faultReset (s : State) (src : Nat) :
    tripOf (faultReset s) src = (tripOf (modTrip 16 (fun t => { t with asserted := false, delaying := false }) s) src).reset := by
  unfold faultReset
  dsimp only
  rw [tripOf_huskEffects, tripOf_post]
  exact mget_mmap (α := Trip) {} (fun _ t => Trip.reset t) _ src rfl

theorem faultReset_latched {s : State} {src : Nat} (h : src ≠ 16) :
    (tripOf (faultReset s) src).latched = ((tripOf s src).latched && (tripOf s src).asserted) := by
  rw [tripOf_faultReset, tripOf_modTrip_other h, Trip.reset_latched]

theorem faultReset_latched_openBlk (s : State) : (tripOf (faultReset s) 16).latched = false := by
  rw [tripOf_faultReset, tripOf_modTrip, Trip.reset_latched, Bool.and_false]

theorem faultReset_husk (s : State) :
    (faultReset s).husk.arm = none ∧ (faultReset s).husk.fwBlk = false ∧ (faultReset s).husk.first = 0xFF := by
  unfold faultReset
  simp

theorem faultReset_g4 (s : State) : (faultReset s).prt.g4 = false := by
  unfold faultReset
  dsimp only
  rw [huskEffects_prt, post_prt]
  rfl

/-! ### FLT_ARM, FLT_CONFIRM and FLT_RST (R227) -/

theorem latchWord_complete (t : Txn) (status : Nat) (p : Bytes) (s : State) : latchWord (complete t status p s) = latchWord s := by
  rw [latchWord, tripMask, complete_husk]; rfl

/-- The window a session's FLT_ARM opens. -/
def armOf (dt : Nat) (t : Txn) (s : State) : Arm := { port := t.port, session := t.session, latch := latchWord s, time := s.phys + dt }

theorem execFltArm_of_stands (dt : Nat) {rq : Request} {t : Txn} {s : State} (stands : Stands s rq 0x9002 t) :
    exec (.fltArm dt rq) s = .next (if (s.husk.arm.all fun a => armMine t a) then
        complete { t with served := true } 0x00 [] { atWork dt t s with husk := { s.husk with arm := some (armOf dt t s) } }
      else complete { t with served := true } 0x11 [] (atWork dt t s)) := by
  show execFltArm dt rq s = _
  rw [execFltArm, mailbox_of_stands stands]
  dsimp only
  rw [atWork_husk]
  cases s.husk.arm with
  | none => rfl
  | some a => simp only [Option.all_some]; rfl

theorem fltArm_answers (dt : Nat) {rq : Request} {t : Txn} {s : State} (stands : Stands s rq 0x9002 t) :
    Answers (exec (.fltArm dt rq) s) fun u =>
      ((∀ a, s.husk.arm = some a → armMine t a = true) →
        Replied t 0x00 [] s u ∧ u.husk.arm = some { port := t.port, session := t.session, latch := latchWord s, time := s.phys + dt }) ∧
      (∀ a, s.husk.arm = some a → armMine t a = false → Replied t 0x11 [] s u ∧ u.husk = s.husk) := by
  have ready := stands.canReply dt
  rw [execFltArm_of_stands dt stands, answers_next]
  refine ⟨fun mine => ?_, fun a pending other => ?_⟩
  · rw [if_pos (by cases h : s.husk.arm <;> simp [mine, h])]
    refine ⟨(ready.of_only (ps := [.husk]) ?_).replied (by decide) _, ?_⟩
    · exact (only_husk _ _ _ _ (by simp)).2 (only_self _ _)
    · rw [complete_husk]; rfl
  · rw [if_neg (by simp [pending, other])]
    exact ⟨ready.replied (by decide) _, by rw [complete_husk, atWork_husk]⟩

/-- The state in which the pending ARM is taken out. -/
def disarmed (s : State) : State := { s with husk := { s.husk with arm := none } }

/-- FLT_CONFIRM: refused where no ARM or another session's is pending; else the ARM is used up, and the reset made in its window. -/
theorem execFltConfirm_of_stands (dt : Nat) {rq : Request} {t : Txn} {s : State} (stands : Stands s rq 0x9003 t) :
    exec (.fltConfirm dt rq) s = .next (
      let w := disarmed (atWork dt t s)
      match s.husk.arm with
      | none => complete { t with served := true } 0x11 (le 8 0) (atWork dt t s)
      | some a =>
        if !armMine t a then complete { t with served := true } 0x11 (le 8 0) (atWork dt t s)
        else if armWindow < s.phys + dt - a.time ∨ latchWord s &&& (a.latch ^^^ 0xFFFFFFFF) ≠ 0 ∨ s.husk.estop then
          complete { t with served := true } 0x11 (le 8 0) w
        else complete { t with served := true } 0x00
          (le 4 (latchWord s &&& (latchWord (faultReset w) ^^^ 0xFFFFFFFF)) ++ le 4 (latchWord (faultReset w))) (faultReset w)) := by
  show execFltConfirm dt rq s = _
  rw [execFltConfirm, mailbox_of_stands stands]
  rfl

theorem fltConfirm_answers (dt : Nat) {rq : Request} {t : Txn} {s : State} (stands : Stands s rq 0x9003 t) :
    Answers (exec (.fltConfirm dt rq) s) fun u =>
      (s.husk.arm = none → Replied t 0x11 (le 8 0) s u ∧ u.husk = s.husk) ∧
      ∀ a, s.husk.arm = some a →
        (armMine t a = false → Replied t 0x11 (le 8 0) s u ∧ u.husk = s.husk) ∧
        (armMine t a = true → armWindow < s.phys + dt - a.time ∨ latchWord s &&& (a.latch ^^^ 0xFFFFFFFF) ≠ 0 ∨ s.husk.estop = true →
          Replied t 0x11 (le 8 0) s u ∧ u.husk = { s.husk with arm := none }) ∧
        (armMine t a = true → s.phys + dt - a.time ≤ armWindow → latchWord s &&& (a.latch ^^^ 0xFFFFFFFF) = 0 → s.husk.estop = false →
          u.husk.arm = none ∧ u.husk.fwBlk = false ∧ u.husk.first = 0xFF ∧ u.prt.g4 = false ∧
          (∀ src, src ≠ 16 → (tripOf u src).latched = ((tripOf s src).latched && (tripOf s src).asserted)) ∧ (tripOf u 16).latched = false ∧
          u = complete { t with served := true } 0x00 (le 4 (latchWord s &&& (latchWord u ^^^ 0xFFFFFFFF)) ++ le 4 (latchWord u))
            (faultReset (let w := atWork dt t s; { w with husk := { w.husk with arm := none } }))) := by
  have ready := stands.canReply dt
  rw [execFltConfirm_of_stands dt stands, answers_next]
  dsimp only
  have refused : Replied t 0x11 (le 8 0) s (complete { t with served := true } 0x11 (le 8 0) (atWork dt t s)) ∧
      (complete { t with served := true } 0x11 (le 8 0) (atWork dt t s)).husk = s.husk :=
    ⟨ready.replied (by decide) _, by rw [complete_husk, atWork_husk]⟩
  cases pending : s.husk.arm with
  | none => exact ⟨fun _ => refused, fun a h => nomatch h⟩
  | some a' =>
    refine ⟨fun h => (nomatch h), fun a same => ?_⟩
    obtain rfl : a' = a := Option.some.inj same
    dsimp only
    refine ⟨fun other => ?_, fun mine fails => ?_, fun mine inTime none_ closed => ?_⟩
    · rw [if_pos (by simp [other])]
      exact refused
    · rw [if_neg (by simp [mine]), if_pos fails]
      refine ⟨(ready.of_only (v := disarmed (atWork dt t s)) (ps := [.husk]) ?_).replied (by decide) _, ?_⟩
      · exact (only_husk _ _ _ _ (by simp)).2 (only_self _ _)
      · rw [complete_husk]; rfl
    · rw [if_neg (by simp [mine]), if_neg (by simp [none_, closed]; omega)]
      generalize hw : disarmed (atWork dt t s) = w
      have trip (src : Nat) : tripOf w src = tripOf s src := by rw [← hw]; rfl
      obtain ⟨arm, blk, first⟩ := faultReset_husk w
      refine ⟨?_, ?_, ?_, ?_, fun src h => ?_, ?_, ?_⟩
      · rw [complete_husk, arm]
      · rw [complete_husk, blk]
      · rw [complete_husk, first]
      · rw [complete_prt, faultReset_g4]
      · rw [tripOf_congr (congrArg Husk.trips (complete_husk ..)), faultReset_latched h, trip]
      · rw [tripOf_congr (congrArg Husk.trips (complete_husk ..)), faultReset_latched_openBlk]
      · rw [latchWord_complete, ← hw]; rfl

theorem fltArmExpiry_answers (dt : Nat) {a : Arm} {s : State} (pending : s.husk.arm = some a) :
    Answers (exec (.fltArmExpiry dt) s) fun t =>
      (armWindow ≤ s.phys + dt - a.time → t.husk = { s.husk with arm := none }) ∧ (s.phys + dt - a.time < armWindow → t = advance dt s) := by
  show Answers (execFltArmExpiry dt s) _
  rw [execFltArmExpiry]
  dsimp only
  rw [advance_husk, pending]
  dsimp only
  split
  next due => exact ⟨_, rfl, fun _ => rfl, fun early => absurd due (Nat.not_le.mpr early)⟩
  next early => exact ⟨_, rfl, fun due => absurd due early, fun _ => rfl⟩

theorem fltRstEdge_answers (dt lo : Nat) {hi : Nat} {s : State} (armed : s.husk.armed = true) (high : msNs ≤ hi) :
    Answers (exec (.fltRstEdge dt lo hi) s) fun t =>
      (lo < 50 * msNs → t.husk = { s.husk with rstRej := inc16 s.husk.rstRej }) ∧
      (50 * msNs ≤ lo → s.husk.estop = true → t = advance dt s) ∧
      (50 * msNs ≤ lo → s.husk.estop = false →
        t.prt.g4 = false ∧ t.husk.first = 0xFF ∧ (tripOf t 16).latched = false ∧
          ∀ src, src ≠ 16 → (tripOf t src).latched = ((tripOf s src).latched && (tripOf s src).asserted)) := by
  have qualified : (!(advance dt s).husk.armed || decide (hi < msNs)) = false := by
    rw [advance_husk, armed, decide_eq_false (by omega)]; rfl
  show Answers (execFltRstEdge dt lo hi s) _
  rw [execFltRstEdge]
  dsimp only
  rw [qualified, if_neg (by simp)]
  split
  next short => exact ⟨_, rfl, fun _ => rfl, fun long => absurd short (by omega), fun long => absurd short (by omega)⟩
  next long =>
    split
    next opened => exact ⟨_, rfl, fun short => absurd short long, fun _ _ => rfl, fun _ closed => by simp_all⟩
    next closed =>
      refine ⟨_, rfl, fun short => absurd short long, fun _ opened => absurd opened closed, fun _ _ => ?_⟩
      exact ⟨faultReset_g4 _, (faultReset_husk _).2.2, faultReset_latched_openBlk _, fun src h => faultReset_latched h⟩

end Sys2Proof.Machine
end

section
/-!
PROOF. The Husk and the fault reset (R207 to R215, R226, R227, Tables 07.2, 07.3 and 07.5): each rule from its command's lemma.
-/
namespace Sys2Proof.Machine
open Sys2Proof

/-- Settles O32: each clause by the lemma of its command or operation. That bit 3 of CLK_AUX's operand names the PWM domain is the model's choice
(log 53), and so is that SLD_VIOL follows the sampled current as its comparators do (log 138). -/
theorem huskTripsLatchAndReset : Obligations.HuskTripsLatchAndReset := by
  unfold Obligations.HuskTripsLatchAndReset
  exact ⟨fun dt src m s => huskSourceAssert_of_cannot dt m, sourceAction_cases, fun dt m s => huskSourceAssert_of_no_line dt m,
    fun dt m s => huskSourceAssert_clkAux dt, followSld_asserted, fun dt src m s => huskSourceAssert_answers dt,
    fun dt src s => huskDelayExpiry_answers dt, huskSourceRelease_answers, fun dt c b s => comparatorChannelTest_answers dt c b,
    fun dt rq t s => fltArm_answers dt, fun dt rq t s => fltConfirm_answers dt, fun dt a s => fltArmExpiry_answers dt,
    fun dt lo hi s => fltRstEdge_answers dt lo, fun dt rq t s => prtOpenReq_answers dt⟩

end Sys2Proof.Machine
end

section
/-!
PROOF. What the firmware makes of a scan and of a chain cycle leaves of the chain's bookkeeping (R92, R217 to R219).
-/
namespace Sys2Proof.Machine
open Sys2Proof

/-! ### The chain under the conditions and grades (Table 07.7) -/

@[simp] theorem levelCond_chn (c : CondId) (inst j dwell : Nat) (r : Option LevelReading) (s : State) :
    (levelCond c inst j dwell r s).chn = s.chn :=
  Only.chn_eq (ps := [.free, .par, .hub, .met, .husk, .prt, .seq, .lsw, .ctl, .pos, .thm, .log]) (by simp)

@[simp] theorem plainCond_chn (c : CondId) (inst j : Nat) (chg holds : Bool) (s : State) : (plainCond c inst j chg holds s).chn = s.chn :=
  Only.chn_eq (ps := [.free, .par, .hub, .met, .husk, .prt, .seq, .lsw, .ctl, .pos, .thm, .log]) (by simp)

@[simp] theorem blockHeat_chn (i : Int) (s : State) : (blockHeat i s).chn = s.chn :=
  Only.chn_eq (ps := [.free, .par, .hub, .met, .husk, .prt, .seq, .lsw, .ctl, .pos, .thm, .log]) (by simp)

@[simp] theorem learnSample_chn (j idx : Nat) (i : Int) (s : State) : (learnSample j idx i s).chn = s.chn :=
  Only.chn_eq (ps := [.est]) (by simp)

@[simp] theorem cellConds_chn (k : ScanRec) (s : State) (c : Nat) : (cellConds k s c).chn = s.chn := by
  unfold cellConds
  dsimp only
  split <;> simp

@[simp] theorem tempConds_chn (s : State) (j : Nat) : (tempConds s j).chn = s.chn := by simp [tempConds]
@[simp] theorem implConds_chn (k : ScanRec) (s : State) (j : Nat) : (implConds k s j).chn = s.chn := by simp [implConds]

/-! ### A scan evaluated (R92, R217) -/

/-- The sum comparison leaves the scans to evaluate as they were. -/
@[simp] theorem sumCompare_evalDue (k : ScanRec) (s : State) (j : Nat) : (sumCompare k s j).chn.evalDue = s.chn.evalDue := by
  unfold sumCompare
  split
  · rfl
  · dsimp only
    rw [plainCond_chn]
    split
    · rw [post_chn]; rfl
    · rfl

@[simp] theorem scanJudge_evalDue (k : ScanRec) (s : State) : (scanJudge k s).chn.evalDue = s.chn.evalDue := by
  have cells (t : State) (l : List Nat) : (l.foldl (cellConds k) t).chn = t.chn := foldl_keeps (p := State.chn) (cellConds_chn k) l t
  unfold scanJudge
  dsimp only
  refine (foldl_keeps (p := fun t => t.chn.evalDue) (fun t j => ?_) _ _).trans (congrArg Chain.evalDue (cells s _))
  rw [sumCompare_evalDue, implConds_chn, tempConds_chn]

@[simp] theorem scanAt_evalDue (s : State) (k : ScanRec) : (scanAt s k).chn.evalDue = s.chn.evalDue := by
  unfold scanAt
  split
  · exact scanJudge_evalDue k s
  · exact scanJudge_evalDue k { s with phys := physOf s k.idx }

/-- The scans held are evaluated, once each: none is left. -/
theorem scanEval_evalDue {s : State} (up : podUp s = true) : (scanEval s).chn.evalDue = [] := by
  unfold scanEval
  rw [if_neg (by simp [up])]
  exact foldl_keeps (p := fun t => t.chn.evalDue) scanAt_evalDue _ _

theorem podUp_closeIfHeld (s : State) : podUp (closeIfHeld s) = podUp s := by
  have only : Only [.free, .par, .hub, .chn, .met, .est, .imp, .husk, .seq, .lsw, .ctl, .pos, .thm, .log] s (closeIfHeld s) := by simp
  rw [podUp, inNormal, only.pow_eq, only.pod_eq]; rfl

theorem scanEvaluation_answers (dt : Nat) {s : State} (up : podUp s = true) :
    Answers (exec (.scanEvaluation dt) s) fun t => t.chn.evalDue = [] :=
  ⟨_, rfl, scanEval_evalDue (by rw [podUp_closeIfHeld, podUp_advance, up])⟩

/-! ### A chain cycle evaluated (R92, R154, R218, R219) -/

@[simp] theorem bookCurrent_cycDone (idx j : Nat) (i : Int) (sub : Bool) (s : State) :
    (bookCurrent idx j i sub s).chn.cycDone = s.chn.cycDone := by
  unfold bookCurrent
  dsimp only
  split
  · rfl
  · split <;> rfl

@[simp] theorem substitute_cycDone (k : CycleRec) (s : State) : (substitute k s).chn.cycDone = s.chn.cycDone := by
  unfold substitute
  dsimp only
  refine foldl_keeps (p := fun t => t.chn.cycDone) (fun t j => ?_) _ _
  split
  · rw [learnSample_chn, bookCurrent_cycDone]
  · rw [learnSample_chn, bookCurrent_cycDone]; rfl

@[simp] theorem isumCompare_cycDone (k : CycleRec) (s : State) : (isumCompare k s).chn.cycDone = s.chn.cycDone := by
  unfold isumCompare
  dsimp only
  rw [plainCond_chn, plainCond_chn]
  split
  · split
    · rw [post_chn]; rfl
    · rfl
  · rfl

@[simp] theorem cycleJudge_cycDone (k : CycleRec) (s : State) : (cycleJudge k s).chn.cycDone = s.chn.cycDone := by
  unfold cycleJudge
  dsimp only
  split <;> simp

@[simp] theorem confirmTimes_chn (s : State) : (confirmTimes s).chn = s.chn := Only.chn_eq (ps := [.seq]) (by simp)

@[simp] theorem judgeConfig_cycDone (s : State) : (judgeConfig s).chn.cycDone = s.chn.cycDone := by
  obtain ⟨m, e⟩ := judgeConfig_chn s; rw [e]

@[simp] theorem settleRoles_cycDone (s : State) : (settleRoles s).chn.cycDone = s.chn.cycDone := by
  unfold settleRoles
  split
  · exact judgeConfig_cycDone _
  · rfl

@[simp] theorem g3Check_chn (j : Nat) (s : State) : (g3Check j s).chn = s.chn :=
  Only.chn_eq (ps := [.free, .par, .hub, .met, .husk, .prt, .seq, .lsw, .ctl, .pos, .thm, .log]) (by simp)
@[simp] theorem g3Settle_chn (j : Nat) (s : State) : (g3Settle j s).chn = s.chn :=
  Only.chn_eq (ps := [.free, .par, .hub, .met, .husk, .prt, .seq, .lsw, .ctl, .pos, .thm, .log]) (by simp)
@[simp] theorem openStringsDone_chn (s : State) : (openStringsDone s).chn = s.chn :=
  Only.chn_eq (ps := [.free, .par, .hub, .met, .seq, .lsw, .ctl, .thm, .log]) (by simp)

/-- A cycle evaluated before is left alone; any other is evaluated, and known as evaluated from then on. -/
theorem cycleEval_of_done {s : State} (done : s.chn.cycDone = some (strobeIdx s)) : cycleEval s = s := if_pos (by simp [done])

theorem cycleEval_cycDone {s : State} (up : podUp s = true) : (cycleEval s).chn.cycDone = some (strobeIdx s) := by
  by_cases done : s.chn.cycDone = some (strobeIdx s)
  · rw [cycleEval_of_done done, done]
  · unfold cycleEval
    dsimp only
    rw [if_neg (by simp [up, done]), openStringsDone_chn]
    refine (foldl_keeps (p := fun t => t.chn.cycDone) (fun t j => ?_) _ _).trans ?_
    · rw [g3Settle_chn, g3Check_chn]
    · rw [settleRoles_cycDone, confirmTimes_chn, cycleJudge_cycDone]; rfl

theorem chainCycleEvaluation_answers (dt : Nat) {s : State} (up : podUp s = true) :
    Answers (exec (.chainCycleEvaluation dt) s) fun t =>
      t.chn.cycDone = some (strobeIdx s) ∧ (s.chn.cycDone = some (strobeIdx s) → t = advance dt s) :=
  ⟨_, rfl, cycleEval_cycDone (s := advance dt s) (by rw [podUp_advance, up]), fun done => cycleEval_of_done (s := advance dt s) done⟩

end Sys2Proof.Machine
end

section
/-!
PROOF. One evaluation of a level condition, of a comparison and of the heat index; a waiting G3; and a condition that holds (R92, R216, R219,
R220, Table 07.7).
-/
namespace Sys2Proof.Machine
open Sys2Proof

/-! ### Level conditions (R220) -/

section level
variable (now dwell n : Nat) {k : Cond} {r : LevelReading}

theorem levelStep_none (k : Cond) : levelStep now dwell n k none = (k, 0) := rfl

theorem levelStep_of_not_beyond (out : k.entered = false) (within : r.beyond = false) :
    levelStep now dwell n k (some r) = ({ k with since := none }, 0) := by
  simp [levelStep, out, within]

theorem levelStep_of_short (out : k.entered = false) (beyond : r.beyond = true) (short : now - k.since.getD now < dwell) :
    levelStep now dwell n k (some r) = ({ k with since := some (k.since.getD now) }, 0) := by
  simp [levelStep, out, beyond, Nat.not_le.mpr short]

theorem levelStep_enters (out : k.entered = false) (beyond : r.beyond = true) (stood : dwell ≤ now - k.since.getD now) :
    (levelStep now dwell n k (some r)).1.entered = true ∧ (levelStep now dwell n k (some r)).2 = 1 := by
  simp [levelStep, out, beyond, stood]

theorem levelStep_of_not_inside (in_ : k.entered = true) (still : (if k.hover then r.inside2 else r.inside) = false) :
    levelStep now dwell n k (some r) = ({ k with since := none }, 0) := by
  simp [levelStep, in_, still]

theorem levelStep_leaves (in_ : k.entered = true) (inside : (if k.hover then r.inside2 else r.inside) = true)
    (stood : dwell ≤ now - k.since.getD now) : (levelStep now dwell n k (some r)).1.entered = false ∧
      (levelStep now dwell n k (some r)).1.hover = false ∧ (levelStep now dwell n k (some r)).2 = 2 := by
  simp [levelStep, in_, inside, stood]

end level

/-! ### Comparisons (R92) and the heat index (R219) -/

theorem plausStep_counts (n clearN f p : Nat) (b : Bool) :
    (plausStep n clearN true (f, p, b)).2.2 = (b || decide (n ≤ f + 1)) ∧ (plausStep n clearN true (f, p, b)).2.1 = 0 ∧
    (plausStep n clearN false (f, p, b)).2.2 = (b && !decide (clearN ≤ p + 1)) ∧ (plausStep n clearN false (f, p, b)).1 = 0 :=
  ⟨rfl, rfl, rfl, rfl⟩

/-- At its rating or below it the index falls or stays, above it rises, and it never falls below 0. -/
theorem heatStep_bounds (s : State) (h m : Rat) :
    0 ≤ heatStep s h m ∧ (1 ≤ m → h ≤ heatStep s h m) ∧ (0 ≤ h → 0 ≤ m → m ≤ 1 → heatStep s h m ≤ h) := by
  have scale : (0 : Rat) ≤ 1000 * (p0 s pPrtOcTk : Nat) := by positivity
  rw [heatStep, ratMax_eq_max]
  refine ⟨le_max_left .., fun above => ?_, fun cold m0 below => max_le cold ?_⟩
  · have : 0 ≤ (m * m - 1) / (1000 * (p0 s pPrtOcTk : Nat)) := div_nonneg (by nlinarith) scale
    exact le_max_of_le_right (by linarith)
  · have : (m * m - 1) / (1000 * (p0 s pPrtOcTk : Nat)) ≤ 0 := div_nonpos_of_nonpos_of_nonneg (by nlinarith) scale
    linarith

/-! ### The grades under their operations (R216, Table 07.6) -/

@[simp] theorem setInhibits_prt (chg dis : Bool) (s : State) : (setInhibits chg dis s).prt = s.prt :=
  Only.prt_eq (ps := [.free, .par, .hub, .met, .husk, .seq, .lsw, .ctl, .pos, .thm, .log]) (by simp)
@[simp] theorem sendLimits_prt (reason tc flags : Nat) (s : State) : (sendLimits reason tc flags s).prt = s.prt :=
  Only.prt_eq (ps := [.hub]) (by simp)
@[simp] theorem nameString_prt (j : Nat) (s : State) : (nameString j s).prt = s.prt :=
  Only.prt_eq (ps := [.free, .par, .hub, .met, .husk, .seq, .lsw, .ctl, .thm, .log]) (by simp)

/-- The grades apart from their callers, and since when a G2 stands. -/
def Grades.uncalled (g : Grades) : Grades := { g with g1 := [], g2chg := [], g2dis := [], chgAt := none, disAt := none, g1Note := false }

@[simp] theorem g2Follow_uncalled (before reason : Nat) (s : State) : (g2Follow before reason s).prt.uncalled = s.prt.uncalled := by
  unfold g2Follow
  dsimp only
  split
  · rfl
  · rw [sendLimits_prt, setInhibits_prt]; rfl

@[simp] theorem g2Enter_uncalled (chg dis : Bool) (key : Nat) (s : State) : (g2Enter chg dis key s).prt.uncalled = s.prt.uncalled :=
  g2Follow_uncalled ..
@[simp] theorem g2Leave_uncalled (key : Nat) (s : State) : (g2Leave key s).prt.uncalled = s.prt.uncalled :=
  g2Follow_uncalled ..
@[simp] theorem g1Enter_uncalled (key : Nat) (s : State) : (g1Enter key s).prt.uncalled = s.prt.uncalled := by
  unfold g1Enter; split <;> rfl
@[simp] theorem g3Settle_uncalled (j : Nat) (s : State) : (g3Settle j s).prt.uncalled = s.prt.uncalled := by
  unfold g3Settle; split <;> simp

/-- A G3 that names its string waits no longer. -/
theorem g3Name_uncalled (j : Nat) (s : State) :
    (g3Name j s).prt.uncalled = { s.prt with g3wait := mdel s.prt.g3wait j }.uncalled := by
  rw [g3Name, g3Settle_uncalled, nameString_prt]; rfl

theorem g3Name_g3wait (j : Nat) (s : State) : (g3Name j s).prt.g3wait = mdel s.prt.g3wait j :=
  (congrArg Grades.g3wait (g3Name_uncalled j s) :)

/-! ### A waiting G3 (R216) -/

theorem g3OpenWaitExpiry_answers (dt : Nat) {j : Nat} {w : Nat × Option Bool} {s : State} (waits : mfind s.prt.g3wait j = some w) :
    Answers (exec (.g3OpenWaitExpiry dt j) s) fun t =>
      ((strCurrent s j).natAbs ≤ p0 s pPrtOpenI * 1000 ∨ p0 s pPrtOpenWaitT * msNs ≤ s.phys + dt - w.1 →
        t.prt.g3wait = mdel s.prt.g3wait j) ∧
      (p0 s pPrtOpenI * 1000 < (strCurrent s j).natAbs → s.phys + dt - w.1 < p0 s pPrtOpenWaitT * msNs → t = advance dt s) := by
  have step : g3Check j (advance dt s) =
      if (strCurrent s j).natAbs ≤ p0 s pPrtOpenI * 1000 ∨ p0 s pPrtOpenWaitT * msNs ≤ s.phys + dt - w.1 then g3Name j (advance dt s)
      else advance dt s := by
    unfold g3Check
    rw [advance_prt, waits]
    exact if_congr (by rw [Bool.or_eq_true, decide_eq_true_iff, decide_eq_true_iff]; rfl) rfl rfl
  refine ⟨g3Check j (advance dt s), rfl, fun ends => ?_, fun high soon => ?_⟩
  · rw [step, if_pos ends, g3Name_g3wait, advance_prt]
  · rw [step, if_neg (by omega)]

/-! ### A condition that holds (Table 07.7) -/

/-- The conditions alone, of the grades. -/
theorem conds_of_uncalled {s t : State} (h : t.prt.uncalled = s.prt.uncalled) : t.prt.conds = s.prt.conds :=
  (congrArg Grades.conds h :)

@[simp] theorem g3Enter_conds (immediate : Bool) (j : Nat) (s : State) : (g3Enter immediate j s).prt.conds = s.prt.conds := by
  have named (t : State) : (g3Name j t).prt.conds = t.prt.conds := (congrArg Grades.conds (g3Name_uncalled j t) :)
  have called (chg dis : Bool) (key : Nat) (t : State) : (g2Enter chg dis key t).prt.conds = t.prt.conds := conds_of_uncalled (by simp)
  unfold g3Enter
  dsimp only
  split_ifs <;> simp [named, called]

@[simp] theorem gradeEnter_conds (c : CondId) (key j : Nat) (chg : Bool) (s : State) : (gradeEnter c key j chg s).prt.conds = s.prt.conds := by
  have g1 (t : State) : (g1Enter key t).prt.conds = t.prt.conds := conds_of_uncalled (by simp)
  have g2 (c d : Bool) (t : State) : (g2Enter c d key t).prt.conds = t.prt.conds := conds_of_uncalled (by simp)
  cases c
  case ins => unfold gradeEnter; dsimp only; split <;> simp [g1, g2]
  case growth => unfold gradeEnter; dsimp only; split <;> simp [g1]
  all_goals simp [gradeEnter, g1, g2]

theorem condOf_setCond_self {key : Nat} {k : Cond} (listed : k ≠ {}) (s : State) : condOf (setCond key k s) key = k := by
  rw [condOf, setCond, withPrt, if_neg listed]
  exact mget_mput_self ..

/-- A condition that holds is entered. -/
theorem condIn_plainCond (c : CondId) (inst j : Nat) (chg : Bool) {s : State} (out : condIn s c inst = false) :
    condIn (plainCond c inst j chg true s) c inst = true := by
  have entered : (condOf s (callKey c inst)).entered = false := out
  unfold plainCond
  dsimp only
  rw [entered, if_neg (by simp), if_pos rfl, condIn, enterCond, condOf, gradeEnter_conds, post_prt, ← condOf, condOf_setCond_self]
  exact fun none_ => nomatch (congrArg Cond.entered none_ :)

end Sys2Proof.Machine
end

section
/-!
PROOF. Scans and chain cycles evaluated (R92, R216 to R220, Table 07.7): each rule from its command's or its step's lemma.
-/
namespace Sys2Proof.Machine
open Sys2Proof

/-- Settles O28: the two evaluations by what they leave of the chain, each step of a condition, a comparison and the heat index by its cases. That a
waiting G3 whose string's current is not available goes by the last valid one is
DEDUCED (log 50). -/
theorem scansAndCyclesAreEvaluated : Obligations.ScansAndCyclesAreEvaluated := by
  unfold Obligations.ScansAndCyclesAreEvaluated
  exact ⟨fun dt s => scanEvaluation_answers dt, fun dt s => chainCycleEvaluation_answers dt,
    fun now dwell n k r out => ⟨levelStep_none now dwell n k, levelStep_of_not_beyond now dwell n out, levelStep_of_short now dwell n out,
      levelStep_enters now dwell n out⟩,
    fun now dwell n k r in_ => ⟨levelStep_none now dwell n k, levelStep_of_not_inside now dwell n in_, levelStep_leaves now dwell n in_⟩,
    plausStep_counts, heatStep_bounds, fun dt j w s => g3OpenWaitExpiry_answers dt, fun c inst j chg s => condIn_plainCond c inst j chg⟩

end Sys2Proof.Machine
end

section
/-!
PROOF. Operations on the contactors by their parts: the close's requests, the opening of the block, a part opened by another, and the G2 requests
(R216, R255, R260 to R262). Each equation is the definition read once; the files after this one use it and do not unfold the operation.
-/
namespace Sys2Proof.Machine
open Sys2Proof

/-! ### A close requests its joins (R255) -/

/-- The request of one string by a close. -/
def requestForClose (s : State) (j : Nat) : State :=
  if isJoined s j then endItems [0xA001] j 0x01 s
  else if (joinOf s j).isSome then endItems [0xA001] j 0x02 (modJoin j (fun k => { k with report := true }) s)
  else requestJoin j false s

theorem closeJoins_eq (s : State) :
    closeJoins s = (setBits 16 s.seq.mask.toNat).foldl requestForClose { s with seq := { s.seq with step := .closeJoin, joinAt := s.phys } } := rfl

/-! ### An opening of the block (R260) -/

/-- An opening of a scope widens the opening under way, or begins one. -/
def openingOf (scope : Nat) (s : State) : State :=
  match s.seq.step with
  | .openWait | .openMn | .openWeld | .openStrings | .openTests | .openDsc => { s with seq := { s.seq with scope := max scope s.seq.scope } }
  | _ => { s with seq := { s.seq with step := .openWait, scope, waitAt := some s.phys, openPar := seqPars s } }

theorem blockOpen_eq (scope : Nat) (s : State) : blockOpen scope s =
    openingOf scope (sendLimits 0x03 0 3 (supersede true (scope == 2) (if scope = 0 then [] else allStrings) s)) := rfl

/-! ### A part opened by another (R261, R262) -/

/-- A string opened against its owner: its join and its items end, and nothing of it is left to switch off. -/
def stringPartOpened (j : Nat) (s : State) : State :=
  let u := endJoin j 0x51 (strOpened j s)
  endStr strOps j 0x51 { u with seq := { u.seq with
    opens := u.seq.opens.filter fun o => !(o.str == j && decide (o.role ≤ 2))
    openMask := u.seq.openMask &&& ~~~ BitVec.ofNat 16 (2 ^ j) } }

/-- An opening of the mains that finds them opened by another ends. -/
def mainsOpeningEnded (s : State) : State :=
  match s.seq.step with
  | .openWait | .openMn | .openWeld => { s with seq := { s.seq with step := .none, opens := s.seq.opens.filter (·.role != 4), waitAt := none } }
  | _ => s

/-- The mains opened against their owner. -/
def mainsPartOpened (s : State) : State :=
  let u := mainsOpened s
  let u := mainsOpeningEnded (if closing u then endClose 0x51 u else u)
  if anyWaits u [0xA001, 0xA002] 16 then endBlock [0xA001, 0xA002] 0x51 u else u

/-- The pre-charge path opened against its owner. -/
def pathPartOpened (role : Nat) (s : State) : State :=
  let u := if role = 5 then { s with seq := { s.seq with pckOffAt := some s.phys } } else s
  if closing u then endClose 0x51 u else u

/-- The disconnector stopped against its owner. -/
def drivePartStopped (s : State) : State :=
  let u := { s with seq := { s.seq with brakeOff := false } }
  if u.seq.dscStep = .dscDrive ∨ u.seq.dscStep = .dscBrake ∨ u.seq.dscStep = .dscMove ∨ u.seq.dscStep = .dscStop then
    endDsc 0x51 { u with seq := { u.seq with dsc := .intermediate } }
  else u

/-- The disconnector opened against its owner. -/
def drivePartOpened (role : Nat) (s : State) : State :=
  let u := drivePartStopped s
  if role = 7 ∧ u.seq.dsc ≠ .opened then
    { u with seq := { u.seq with dsc := .opening, dscStep := .openDsc, dscAt := u.phys, closeCmd := false } }
  else u

/-- The weld tests of a part opened against its owner run under the values applied where no opening runs. -/
def testsApplied (s : State) : State :=
  if s.seq.openMask = 0 && s.seq.opens.isEmpty then { s with seq := { s.seq with openPar := seqPars s } } else s

theorem partOpened_eq (role j : Nat) (s : State) : partOpened role j s =
    if role = 1 ∨ role = 2 then stringPartOpened j (testsApplied s)
    else if role = 3 ∨ role = 4 then mainsPartOpened (testsApplied s)
    else if role = 5 ∨ role = 6 then pathPartOpened role (testsApplied s)
    else if role = 7 ∨ role = 8 then drivePartOpened role (testsApplied s)
    else testsApplied s := rfl

/-! ### The G2 requests (R216) -/

/-- Since when the G2 requests stand. -/
def g2Timed (s : State) : State :=
  withPrt s fun g => { g with
    chgAt := if g.g2chg.isEmpty then none else some (g.chgAt.getD s.phys)
    disAt := if g.g2dis.isEmpty then none else some (g.disAt.getD s.phys) }

theorem g2Follow_eq (before reason : Nat) (s : State) : g2Follow before reason s =
    if g2Flags (g2Timed s) = before then g2Timed s
    else
      let u := setInhibits (!s.prt.g2chg.isEmpty) (!s.prt.g2dis.isEmpty) (g2Timed s)
      sendLimits reason 0 (g2Flags u) u := rfl

end Sys2Proof.Machine
end

section
set_option Elab.async false
/-!
PROOF. The position under the drive's lock (R330): asserting or releasing a source of the Husk changes no channel.

From here on the proofs are elaborated one after another (`Elab.async false`): elaborated side by side, the text as a whole asks for more memory than
its check has.
-/
namespace Sys2Proof.Machine
open Sys2Proof

/-- What follows the drive's lock leaves both end switches as they stand. -/
theorem followSlp_endBoth (s : State) : (followSlp s).pos.endBoth = s.pos.endBoth := by
  have asserts (src : Nat) (m : BitVec 16) (u : State) : (assertSource src m u).pos = u.pos := by
    have only : Only [.free, .par, .hub, .met, .husk, .seq, .lsw, .ctl, .thm, .log] u (assertSource src m u) := by simp
    exact only .pos (by decide)
  have releases (src : Nat) (u : State) : (releaseSource src u).pos = u.pos := by
    have only : Only [.free, .par, .hub, .husk, .seq, .lsw, .ctl, .thm, .log] u (releaseSource src u) := by
      unfold releaseSource
      dsimp only
      split_ifs <;> simp [setPwmOff]
    exact only .pos (by decide)
  unfold followSlp
  dsimp only
  split_ifs <;> simp [asserts, releases]

end Sys2Proof.Machine
end

section
set_option Elab.async false
/-!
PROOF. Sequencing under operations on other units, and what its own operations leave of it (R237, R238, R255 to R262).
-/
namespace Sys2Proof.Machine
open Sys2Proof

/-! ### Sequencing under operations on other units -/

theorem Only.seq_eq {ps : List Part} {s t : State} (h : Only ps s t) (k : Part.seq ∉ ps) : t.seq = s.seq := h .seq k
theorem Only.lsw_eq {ps : List Part} {s t : State} (h : Only ps s t) (k : Part.lsw ∉ ps) : t.lsw = s.lsw := h .lsw k
theorem Only.pos_eq {ps : List Part} {s t : State} (h : Only ps s t) (k : Part.pos ∉ ps) : t.pos = s.pos := h .pos k

@[simp] theorem post_seq (k cls inst : _) (p : Bytes) (s : State) : (post k cls inst p s).seq = s.seq := Only.seq_eq (ps := [.log]) (by simp) (by decide)
@[simp] theorem endItem_seq (key : Nat × Nat) (i c : Nat) (s : State) : (endItem key i c s).seq = s.seq := Only.seq_eq (ps := [.hub]) (by simp) (by decide)
@[simp] theorem endItems_seq (ops : List Nat) (i c : Nat) (s : State) : (endItems ops i c s).seq = s.seq := Only.seq_eq (ps := [.hub]) (by simp) (by decide)
@[simp] theorem sendLimits_seq (reason tc flags : Nat) (s : State) : (sendLimits reason tc flags s).seq = s.seq :=
  Only.seq_eq (ps := [.hub]) (by simp) (by decide)
@[simp] theorem loopsOff_seq (ks : List Nat) (s : State) : (loopsOff ks s).seq = s.seq := Only.seq_eq (ps := [.ctl]) (by simp) (by decide)
@[simp] theorem startLoop_seq (k : Nat) (s : State) : (startLoop k s).seq = s.seq := Only.seq_eq (ps := [.ctl]) (by simp) (by decide)
@[simp] theorem roleOn_seq (role j : Nat) (s : State) : (roleOn role j s).seq = s.seq :=
  Only.seq_eq (ps := [.hub, .lsw, .thm, .log]) (by simp) (by decide)
@[simp] theorem roleOff_seq (role j : Nat) (s : State) : (roleOff role j s).seq = s.seq :=
  Only.seq_eq (ps := [.free, .par, .hub, .lsw, .thm, .log]) (by simp) (by decide)

@[simp] theorem roleOn_phys (role j : Nat) (s : State) : (roleOn role j s).phys = s.phys :=
  Only.phys_eq (ps := [.hub, .lsw, .thm, .log]) (by simp) (by decide)
@[simp] theorem roleOff_phys (role j : Nat) (s : State) : (roleOff role j s).phys = s.phys :=
  Only.phys_eq (ps := [.free, .par, .hub, .lsw, .thm, .log]) (by simp) (by decide)

@[simp] theorem startLoop_lsw (k : Nat) (s : State) : (startLoop k s).lsw = s.lsw := Only.lsw_eq (ps := [.ctl]) (by simp) (by decide)
@[simp] theorem endClose_lsw (c : Nat) (s : State) : (endClose c s).lsw = s.lsw := Only.lsw_eq (ps := [.hub, .seq, .ctl]) (by simp) (by decide)

/-! ### Strings -/

@[simp] theorem modStr_seq (j : Nat) (f : StrSeq → StrSeq) (s : State) :
    (modStr j f s).seq = { s.seq with strs := mmod {} s.seq.strs j f } := rfl

theorem strOf_congr {s t : State} (h : t.seq.strs = s.seq.strs) (j : Nat) : strOf t j = strOf s j := by rw [strOf, h]; rfl
theorem inService_congr {s t : State} (h : t.seq.strs = s.seq.strs) (j : Nat) : inService t j = inService s j := by
  rw [inService, strOf_congr h]; rfl

theorem strOf_modStr_other {j k : Nat} (h : k ≠ j) (f : StrSeq → StrSeq) (s : State) : strOf (modStr j f s) k = strOf s k :=
  mget_mmod_other _ _ _ h

/-- A field that a change of a string leaves alone is the same of every string. -/
theorem strOf_modStr_field {α : Type} (p : StrSeq → α) {f : StrSeq → StrSeq} (h : ∀ k, p (f k) = p k) (j i : Nat) (s : State) :
    p (strOf (modStr j f s) i) = p (strOf s i) := by
  by_cases e : i = j
  · rw [e, strOf_modStr, h]
  · rw [strOf_modStr_other e]

theorem serviceList_congr {s t : State} (h : ∀ j, inService t j = inService s j) : serviceList t = serviceList s := by
  rw [serviceList, funext h]; rfl

/-! ### Joins -/

@[simp] theorem modJoin_seq (j : Nat) (f : Join → Join) (s : State) :
    (modJoin j f s).seq = { s.seq with joins := s.seq.joins.map fun k => if k.str = j then f k else k } := rfl

theorem joinOf_congr {s t : State} (h : t.seq.joins = s.seq.joins) (j : Nat) : joinOf t j = joinOf s j := by rw [joinOf, h]; rfl

theorem joinOf_eq_some {s : State} {j : Nat} {k : Join} (h : joinOf s j = some k) : k ∈ s.seq.joins ∧ k.str = j :=
  ⟨List.mem_of_find?_eq_some h, by simpa using List.find?_some h⟩

theorem joinOf_eq_none {s : State} {j : Nat} : joinOf s j = none ↔ ∀ k ∈ s.seq.joins, k.str ≠ j := by
  simp [joinOf]

theorem exists_joinOf_of_mem {s : State} {k : Join} (h : k ∈ s.seq.joins) : ∃ k', joinOf s k.str = some k' := by
  refine Option.ne_none_iff_exists'.mp fun none_ => ?_
  exact (joinOf_eq_none).mp none_ k h rfl

/-- A change that names the string still is read back changed. -/
theorem joinOf_modJoin {s : State} {j : Nat} {k : Join} {f : Join → Join} (h : joinOf s j = some k) (names : ∀ x, (f x).str = x.str) :
    joinOf (modJoin j f s) j = some (f k) := by
  have same : ((fun x : Join => decide (x.str = j)) ∘ fun x => if x.str = j then f x else x) = fun x => decide (x.str = j) := by
    funext x
    simp only [Function.comp]
    split <;> simp [*]
  rw [joinOf, modJoin_seq, List.find?_map, same, ← joinOf, h, Option.map_some, if_pos (joinOf_eq_some h).2]

theorem endJoin_of_none {s : State} {j : Nat} (h : joinOf s j = none) (c : Nat) : endJoin j c s = s := by rw [endJoin, h]

theorem endJoin_seq {s : State} {j : Nat} {k : Join} (h : joinOf s j = some k) (c : Nat) :
    (endJoin j c s).seq = { s.seq with joins := s.seq.joins.filter (·.str != j), last := c } := by
  unfold endJoin
  rw [h]
  dsimp only
  rw [endItems_seq]
  dsimp only
  split
  · rw [post_seq]
  · rfl

theorem joinOf_endJoin (j c : Nat) (s : State) : joinOf (endJoin j c s) j = none := by
  cases h : joinOf s j with
  | none => rw [endJoin_of_none h, h]
  | some k =>
    rw [joinOf_eq_none, endJoin_seq h]
    exact fun x hx => by simpa using (List.mem_filter.mp hx).2

/-! ### Items that end -/

@[simp] theorem endBlock_seq (ops : List Nat) (c : Nat) (s : State) : (endBlock ops c s).seq = { s.seq with last := c } := endItems_seq ..

theorem endStr_seq (ops : List Nat) (j c : Nat) (s : State) :
    (endStr ops j c s).seq = { s.seq with last := if anyWaits s ops j then c else s.seq.last } := by
  unfold endStr
  split
  · rw [endItems_seq]
  · rfl

@[simp] theorem endScope_seq (n c : Nat) (s : State) : (endScope n c s).seq = { s.seq with last := c } := by
  unfold endScope
  exact foldl_keeps (p := State.seq) (fun t x => endItem_seq ..) _ _

/-! ### A close that ends (R238, R255) -/

/-- Sequencing after its block sequence of a close has ended with a result. -/
def Seq.closeEnded (c : Nat) (q : Seq) : Seq :=
  { q with step := .none, rampAt := none, doneAt := none, pathAt := none, mnAt := none, mpAt := none, shortDone := false, last := c }

/-- Of the joins, the end of a close changes only whether they are reported. -/
theorem endClose_seq (c : Nat) (s : State) :
    ∃ js, (endClose c s).seq = { s.seq.closeEnded c with joins := js } ∧ js.map (·.str) = s.seq.joins.map (·.str) := by
  unfold endClose
  dsimp only
  generalize hu : allStrings.foldl _ s = u
  have queue : ({ u.seq with joins := [] }, u.seq.joins.map (·.str)) = ({ s.seq with joins := [] }, s.seq.joins.map (·.str)) := by
    rw [← hu]
    refine foldl_keeps (p := fun t => ({ t.seq with joins := [] }, t.seq.joins.map (·.str))) (fun t j => ?_) allStrings s
    split
    · rfl
    · split
      · rw [endItems_seq, modJoin_seq, List.map_map]
        refine Prod.ext rfl (List.map_congr_left fun k _ => ?_)
        simp only [Function.comp]
        split <;> rfl
      · rw [endItems_seq]
  obtain ⟨rest, strs⟩ := Prod.mk.inj queue
  refine ⟨u.seq.joins, ?_, strs⟩
  rw [endBlock_seq, loopsOff_seq]
  exact congrArg (fun q => { Seq.closeEnded c q with joins := u.seq.joins }) rest

/-- Sequencing after the disconnector's sequence has ended with a result. -/
def Seq.dscEnded (c : Nat) (q : Seq) : Seq :=
  let q := { q with dscStep := .none, closeCmd := q.closeCmd && c == 0, last := c }
  if q.step = .closeDsc ∧ c ≠ 0 then q.closeEnded c else q

theorem endDsc_seq (c : Nat) (s : State) :
    ∃ js, (endDsc c s).seq = { s.seq.dscEnded c with joins := js } ∧ js.map (·.str) = s.seq.joins.map (·.str) := by
  unfold endDsc
  dsimp only
  generalize hu : endBlock _ c (loopsOff _ _) = u
  have ended : u.seq = { s.seq with dscStep := .none, closeCmd := s.seq.closeCmd && c == 0, last := c } := by
    rw [← hu, endBlock_seq, loopsOff_seq]
  rw [ended, Seq.dscEnded]
  dsimp only
  split
  · obtain ⟨js, e, strs⟩ := endClose_seq c u
    rw [ended] at e strs
    exact ⟨js, e, strs⟩
  · exact ⟨s.seq.joins, ended, rfl⟩

section
set_option Elab.async false
variable (c : Nat) (q : Seq)
@[simp] theorem Seq.dscEnded_dsc : (q.dscEnded c).dsc = q.dsc := by unfold Seq.dscEnded; dsimp only; split <;> rfl
@[simp] theorem Seq.dscEnded_dscStep : (q.dscEnded c).dscStep = .none := by unfold Seq.dscEnded; dsimp only; split <;> rfl
@[simp] theorem Seq.dscEnded_last : (q.dscEnded c).last = c := by unfold Seq.dscEnded; dsimp only; split <;> rfl
@[simp] theorem Seq.dscEnded_brakeOff : (q.dscEnded c).brakeOff = q.brakeOff := by unfold Seq.dscEnded; dsimp only; split <;> rfl
@[simp] theorem Seq.dscEnded_closeCmd : (q.dscEnded c).closeCmd = (q.closeCmd && c == 0) := by unfold Seq.dscEnded; dsimp only; split <;> rfl
@[simp] theorem Seq.dscEnded_scope : (q.dscEnded c).scope = q.scope := by unfold Seq.dscEnded; dsimp only; split <;> rfl
@[simp] theorem Seq.dscEnded_strs : (q.dscEnded c).strs = q.strs := by unfold Seq.dscEnded; dsimp only; split <;> rfl
@[simp] theorem Seq.dscEnded_mainWeld : (q.dscEnded c).mainWeld = q.mainWeld := by unfold Seq.dscEnded; dsimp only; split <;> rfl
theorem Seq.dscEnded_step : (q.dscEnded c).step = if q.step = .closeDsc ∧ c ≠ 0 then .none else q.step := by
  unfold Seq.dscEnded; dsimp only; split <;> rfl
end

end Sys2Proof.Machine
end

section
set_option Elab.async false
/-!
PROOF. The items of a sequencing command: how they open, what their ends answer, and that the last end completes the transaction (R237, R238).
-/
namespace Sys2Proof.Machine
open Sys2Proof

/-! ### Statuses and result bytes -/

/-- No status of an item drops the result bytes (R425, Table 08.4). -/
theorem itemsStatus_keeps_payload (op : Nat) (items : List Nat) :
    itemsStatus op items ≠ 0x10 ∧ itemsStatus op items ≠ 0x12 ∧ itemsStatus op items ≠ 0x40 := by
  have each (c : Nat) : itemStatus op c ≠ 0x10 ∧ itemStatus op c ≠ 0x12 ∧ itemStatus op c ≠ 0x40 := by
    rw [itemStatus, seqStatusOf, loadStatusOf, plainStatusOf]; split_ifs <;> decide
  unfold itemsStatus
  split
  · exact each _
  · decide

/-- A command that names its strings answers the bytes of all its items. -/
theorem resultBytes_of_strings {x : Txn} {op : Nat} (opcode : x.opcode = op) (strings : op < 0xA006) : resultBytes x = itemBytes x.items :=
  congrArg itemBytes (if_neg (by omega))

/-- A command of the disconnector answers the bytes of the strings (R238). -/
theorem resultBytes_of_disconnector {x : Txn} {op : Nat} (opcode : x.opcode = op) (dsc : op = 0xA006 ∨ op = 0xA007) :
    resultBytes x = itemBytes (x.items.take 16) :=
  congrArg itemBytes (if_pos (by omega))

/-! ### One item -/

/-- A transaction whose items have all ended. -/
def Txn.itemsEnded (t : Txn) (items : List Nat) : Txn := { t with served := true, items, waiting := [] }

theorem ItemOpen.ended {t : Txn} {n i : Nat} {s u : State} (h : ItemOpen t n i s u) (c : Nat) :
    Replied t (itemsStatus t.opcode ((List.replicate n 0xFF).set i c))
      (resultBytes (t.itemsEnded ((List.replicate n 0xFF).set i c))) s (endItem (txnKey t) i c u) := by
  rw [endItem_of_last h.found]
  exact h.ready.replied (itemsStatus_keeps_payload _ _) _

/-- The end of a string's item is the answer of a command that names one string. -/
theorem ItemOpen.answered_string {t : Txn} {n i op : Nat} {s u : State} (h : ItemOpen t n i s u) (opcode : t.opcode = op) (strings : op < 0xA006)
    (c : Nat) : Replied t (itemsStatus op ((List.replicate n 0xFF).set i c)) (itemBytes ((List.replicate n 0xFF).set i c)) s
      (endItem (txnKey t) i c u) := by
  have ended := h.ended c
  rw [resultBytes_of_strings (x := t.itemsEnded _) opcode strings, opcode] at ended
  exact ended

/-- The end of the disconnector's item is its command's answer. -/
theorem ItemOpen.answered_disconnector {t : Txn} {op : Nat} {s u : State} (h : ItemOpen t 17 16 s u) (opcode : t.opcode = op)
    (dsc : op = 0xA006 ∨ op = 0xA007) (c : Nat) :
    Replied t (itemsStatus op ((List.replicate 17 0xFF).set 16 c)) (itemBytes (List.replicate 16 0xFF)) s (endItem (txnKey t) 16 c u) := by
  have ended := h.ended c
  rw [resultBytes_of_disconnector (x := t.itemsEnded _) opcode dsc, opcode] at ended
  exact ended

/-! ### Several items -/

/-- The command's transaction, at work with its named items open. -/
def itemsOpen (dt n : Nat) (named : List Nat) (t : Txn) (s : State) : State := modTxn (txnKey t) (fun _ => t.opened n named) (atWork dt t s)

@[simp] theorem itemsOpen_seq (dt n : Nat) (named : List Nat) (t : Txn) (s : State) : (itemsOpen dt n named t s).seq = s.seq := rfl
@[simp] theorem oneOpen_seq (dt n i : Nat) (t : Txn) (s : State) : (oneOpen dt n i t s).seq = s.seq := rfl

theorem openItems_atWork {named : List Nat} (some_ : named ≠ []) (dt n : Nat) (t : Txn) (s : State) :
    openItems { t with served := true } n named (atWork dt t s) = itemsOpen dt n named t s := by
  cases named with
  | nil => exact absurd rfl some_
  | cons i is => exact openItems_of_named t n i is _

theorem Stands.findTxn_itemsOpen {s : State} {rq : Request} {op : Nat} {t : Txn} (h : Stands s rq op t) (dt n : Nat) (named : List Nat) :
    findTxn (itemsOpen dt n named t s) (txnKey t) = some (t.opened n named) :=
  findTxn_modTxn ⟨{ t with served := true }, List.mem_map.mpr ⟨t, h.mem, if_pos ⟨rfl, rfl⟩⟩, rfl⟩ rfl

/-- All open items end with one result: the transaction is answered, each of them set. -/
theorem CanReply.replied_items {t : Txn} {s : State} (c : Nat) {named : List Nat} (some_ : named ≠ []) {u : State} (h : CanReply t s u)
    {x : Txn} (of : ∃ items, x = { t with served := true, items, waiting := named }) (found : findTxn u (txnKey t) = some x) :
    Replied t (itemsStatus t.opcode (named.foldl (fun l i => l.set i c) x.items))
      (resultBytes (t.itemsEnded (named.foldl (fun l i => l.set i c) x.items))) s
      (named.foldl (fun u i => endItem (txnKey t) i c u) u) := by
  induction named generalizing u x with
  | nil => exact absurd rfl some_
  | cons i is ih =>
    obtain ⟨items, rfl⟩ := of
    rw [List.foldl_cons, List.foldl_cons, endItem, found]
    dsimp only
    rw [if_pos (List.mem_cons_self ..), List.erase_cons_head]
    cases is with
    | nil => exact h.replied (itemsStatus_keeps_payload _ _) _
    | cons i' is' =>
      refine ih (by simp) (h.modTxn _ _) ⟨items.set i c, rfl⟩ (findTxn_modTxn ?_ rfl)
      exact ⟨_, List.mem_of_find?_eq_some found, rfl⟩

theorem length_foldl_set (c : Nat) (named items : List Nat) : (named.foldl (fun l i => l.set i c) items).length = items.length := by
  induction named generalizing items with
  | nil => rfl
  | cons i is ih => rw [List.foldl_cons, ih, List.length_set]

theorem getElem_foldl_set (c : Nat) (named : List Nat) {items : List Nat} {k : Nat} (hk : k < items.length) :
    (named.foldl (fun l i => l.set i c) items)[k]'(by rwa [length_foldl_set]) = if k ∈ named then c else items[k] := by
  induction named generalizing items with
  | nil => rfl
  | cons i is ih =>
    simp only [List.foldl_cons]
    rw [ih (by rwa [List.length_set]), List.getElem_set]
    by_cases rest : k ∈ is
    · simp [rest]
    · by_cases first : k = i
      · simp [first]
      · simp [rest, first, Ne.symm first]

/-- The items a refused close answers: those of its mask and the block's. -/
theorem refusedItems_eq (c m : Nat) : (setBits 16 m ++ [16]).foldl (fun l i => l.set i c) (List.replicate 17 0xFF) =
    (List.range 17).map fun i => if i = 16 ∨ bit m i = true then c else 0xFF := by
  refine List.ext_getElem (by simp [length_foldl_set]) fun k hk _ => ?_
  have few : k < 17 := by simpa [length_foldl_set] using hk
  rw [getElem_foldl_set _ _ (by simpa using few), List.getElem_map, List.getElem_range, List.getElem_replicate]
  refine if_congr ?_ rfl rfl
  simp only [setBits, List.mem_append, List.mem_filter, List.mem_range, List.mem_singleton]
  constructor
  · rintro (⟨_, set⟩ | block)
    · exact .inr set
    · exact .inl block
  · rintro (block | set)
    · exact .inr block
    · by_cases block : k = 16
      · exact .inr block
      · exact .inl ⟨by omega, set⟩

/-! ### Roles, and a string named by a mask -/

theorem settleRoles_of_settled {s : State} (settled : s.par.pendingRole = false) : settleRoles s = s := by simp [settleRoles, settled]

/-- One string named in a mask, alone or with a bit above the strings'. -/
theorem setBits_one {j : Nat} (hj : j < 16) : setBits 16 (2 ^ j) = [j] := by
  have only : bit (2 ^ j) = fun k => decide (k = j) :=
    funext fun k => by rw [bit_eq_testBit, Nat.testBit_two_pow]; exact decide_eq_decide.mpr eq_comm
  rw [setBits, only, List.filter_eq, List.count_eq_one_of_mem List.nodup_range (List.mem_range.mpr hj)]
  rfl

end Sys2Proof.Machine
end

section
set_option Elab.async false
/-!
PROOF. A block close: its refusal, its beginning, and its joins (R237, R238, R255).
-/
namespace Sys2Proof.Machine
open Sys2Proof

/-! ### The queue under a request -/

/-- Sequencing apart from its joins, its strings and LAST. -/
def Seq.unqueued (q : Seq) : Seq := { q with joins := [], strs := [], last := 0 }

theorem endJoin_unqueued (j c : Nat) (s : State) : (endJoin j c s).seq.unqueued = s.seq.unqueued ∧ (endJoin j c s).seq.strs = s.seq.strs := by
  cases h : joinOf s j with
  | none => rw [endJoin_of_none h]; exact ⟨rfl, rfl⟩
  | some k => rw [endJoin_seq h]; exact ⟨rfl, rfl⟩

/-- The judgement of a queued string changes the joins and LAST alone. -/
theorem judgeJoin_unqueued (j : Nat) (s : State) :
    (judgeJoin j s).seq.unqueued = s.seq.unqueued ∧ (judgeJoin j s).seq.strs = s.seq.strs := by
  have ends (l : List Nat) : let t := l.foldl (fun s i => if (joinOf s i).any (·.knAt.isNone) then endJoin i 0x23 s else s) s
      t.seq.unqueued = s.seq.unqueued ∧ t.seq.strs = s.seq.strs := by
    refine Prod.mk.inj (foldl_keeps (p := fun t => (t.seq.unqueued, t.seq.strs)) (fun t i => ?_) l s)
    split
    · exact Prod.ext (endJoin_unqueued i 0x23 t).1 (endJoin_unqueued i 0x23 t).2
    · rfl
  unfold judgeJoin
  split
  · exact ⟨rfl, rfl⟩
  split
  · exact ⟨rfl, rfl⟩
  split
  · exact endJoin_unqueued ..
  split
  · exact ends _
  split
  · exact ⟨rfl, rfl⟩
  split
  · exact ⟨rfl, rfl⟩
  · split <;> exact ⟨rfl, rfl⟩

/-- A request changes no string's service. -/
theorem requestJoin_unqueued (j : Nat) (report : Bool) (s : State) :
    (requestJoin j report s).seq.unqueued = s.seq.unqueued ∧ ∀ i, inService (requestJoin j report s) i = inService s i := by
  unfold requestJoin
  split
  · rw [endStr_seq]
    exact ⟨rfl, inService_congr (by rw [endStr_seq])⟩
  · dsimp only
    obtain ⟨rest, strs⟩ := judgeJoin_unqueued j { modStr j (fun x => { x with auxFresh := false }) s with
      seq := { (modStr j (fun x => { x with auxFresh := false }) s).seq with joins := s.seq.joins ++ [{
        str := j, report, reqAt := s.phys, setNum := none, window := none, lead := false, dwellAt := none
        dwellOk := false, knAt := none, kpAt := none, hinder := none, sidx := 0, par := seqPars s }] } }
    refine ⟨rest, fun i => (inService_congr strs i).trans ?_⟩
    exact strOf_modStr_field StrSeq.inService (f := fun x => { x with auxFresh := false }) (fun _ => rfl) j i s

/-! ### The joins of a close (R255) -/

theorem requestForClose_unqueued (s : State) (j : Nat) :
    (requestForClose s j).seq.unqueued = s.seq.unqueued ∧ inService (requestForClose s j) = inService s := by
  unfold requestForClose
  split
  · exact ⟨by rw [endItems_seq], funext (inService_congr (by rw [endItems_seq]))⟩
  split
  · exact ⟨by rw [endItems_seq]; rfl, funext (inService_congr (by rw [endItems_seq]; rfl))⟩
  · obtain ⟨rest, service⟩ := requestJoin_unqueued j false s
    exact ⟨rest, funext service⟩

theorem closeJoins_unqueued (s : State) : (closeJoins s).seq.unqueued = { s.seq with step := .closeJoin, joinAt := s.phys }.unqueued ∧
    inService (closeJoins s) = inService s := by
  rw [closeJoins_eq]
  exact Prod.mk.inj (foldl_keeps (p := fun t => (t.seq.unqueued, inService t))
    (fun t j => Prod.ext (requestForClose_unqueued t j).1 (requestForClose_unqueued t j).2) _ _)

/-- With too few strings in service a close waits for its joins. -/
theorem closeGoesOn_of_few {s : State} (few : (serviceList s).length < keptN s.seq.par pSeqMinStrings) : closeGoesOn s = s := by
  unfold closeGoesOn
  dsimp only
  exact if_neg fun h => absurd h.2.1 (Nat.not_le.mpr few)

theorem closeGoesOn_of_other_step {s : State} (other : s.seq.step ≠ .closeJoin) : closeGoesOn s = s := by
  unfold closeGoesOn
  dsimp only
  exact if_neg fun h => other h.1

/-! ### The drive begins (R257) -/

theorem dscCloseBegin_seq (s : State) : (dscCloseBegin s).seq = { s.seq with
    dscStep := .dscDrive, dscAt := s.phys, dscFrom := s.phys, dsc := .closing, closeCmd := true } := by
  simp [dscCloseBegin]

/-! ### A close begins (R255) -/

/-- Its disconnector is driven first. -/
theorem closeBegin_of_open {mask : Nat} {s : State} (driven : p0 s pSeqDscMode = 1) (open_ : s.seq.endClosed = false)
    (free : dscCloseCheck s = none) : (closeBegin mask s).seq = { s.seq with
      mask := BitVec.ofNat 16 mask, par := seqPars s, step := .closeDsc, dscStep := .dscDrive, dscAt := s.phys, dscFrom := s.phys
      dsc := .closing, closeCmd := true } := by
  have check : dscCloseCheck { s with seq := { s.seq with mask := BitVec.ofNat 16 mask, par := seqPars s } } = none := free
  unfold closeBegin
  dsimp only
  rw [if_pos ⟨driven, by rw [open_]; rfl⟩, check]
  dsimp only
  rw [dscCloseBegin_seq]

/-- Where its disconnector is closed, or none is driven, its joins are requested and awaited. -/
theorem closeBegin_of_closed {mask : Nat} {s : State} (closed : p0 s pSeqDscMode ≠ 1 ∨ s.seq.endClosed = true)
    (few : (serviceList s).length < keptN (seqPars s) pSeqMinStrings) : (closeBegin mask s).seq.unqueued =
      { s.seq with mask := BitVec.ofNat 16 mask, par := seqPars s, step := .closeJoin, joinAt := s.phys }.unqueued := by
  unfold closeBegin
  dsimp only
  rw [if_neg fun h => closed.elim (absurd h.1) fun e => by simp [e] at h]
  generalize hu : ({ s with seq := { s.seq with mask := BitVec.ofNat 16 mask, par := seqPars s } } : State) = u
  obtain ⟨rest, service⟩ := closeJoins_unqueued u
  have par : (closeJoins u).seq.par = seqPars s := (congrArg Seq.par rest).trans (by rw [← hu]; rfl)
  rw [closeGoesOn_of_few, rest, ← hu]
  rw [serviceList_congr (congrFun service), par, ← hu]
  exact few

/-! ### BLOCK_CLOSE -/

/-- The items a close opens: those of its strings and the block's. -/
abbrev closeItems (t : Txn) : List Nat := setBits 16 (num t.payload 0 2) ++ [16]

/-- What BLOCK_CLOSE does with an open block once its items are open. -/
def closeServed (t : Txn) (s : State) : State :=
  match closeRefusal s with
  | some c => (closeItems t).foldl (fun s i => endItem (txnKey t) i c s) { s with seq := { s.seq with last := c } }
  | none => closeBegin (num t.payload 0 2) s

section blockClose
variable (dt : Nat) {rq : Request} {t : Txn} {s : State} (stands : Stands s rq 0xA001 t) (named : num t.payload 0 2 ≠ 0)
  (settled : s.par.pendingRole = false) (open_ : s.seq.closed = false)
include stands named settled open_

theorem execBlockClose_eq : exec (.blockClose dt rq) s = .next (closeServed t (itemsOpen dt 17 (closeItems t) t s)) := by
  show execBlockClose dt rq s = _
  rw [execBlockClose, mailbox_of_stands stands]
  dsimp only
  rw [settleRoles_of_settled (s := atWork dt t s) settled, if_neg named, openItems_atWork (by simp), if_neg (by simp [open_])]
  rfl

/-- R237, R238: a refused close gives every item it names its code. -/
theorem blockClose_refused {c : Nat} (refused : closeRefusal (atWork dt t s) = some c) :
    Answers (exec (.blockClose dt rq) s) fun u =>
      let items := (List.range 17).map fun i => if i = 16 ∨ bit (num t.payload 0 2) i = true then c else 0xFF
      Replied t (itemsStatus 0xA001 items) (itemBytes items) s u ∧ u.seq = { s.seq with last := c } := by
  have check : closeRefusal (itemsOpen dt 17 (closeItems t) t s) = some c := refused
  rw [execBlockClose_eq dt stands named settled open_, answers_next, closeServed, check]
  dsimp only
  constructor
  · have ready : CanReply t s { itemsOpen dt 17 (closeItems t) t s with seq := { s.seq with last := c } } :=
      CanReply.of_only (u := itemsOpen dt 17 (closeItems t) t s) ((stands.canReply dt).modTxn _ _) (ps := [.seq]) (by simp) (by decide)
    have replied := ready.replied_items c (named := closeItems t) (by simp) ⟨_, rfl⟩ (stands.findTxn_itemsOpen dt 17 (closeItems t))
    rw [resultBytes_of_strings (x := t.itemsEnded _) stands.opcode (by decide), stands.opcode] at replied
    rw [← refusedItems_eq]
    exact replied
  · exact foldl_keeps (p := State.seq) (fun u i => endItem_seq ..) _ _

/-- R237, R255: an accepted close begins with its disconnector, or with its joins. -/
theorem blockClose_accepted (accepted : closeRefusal (atWork dt t s) = none) :
    Answers (exec (.blockClose dt rq) s) fun u =>
      (p0 s pSeqDscMode = 1 → s.seq.endClosed = false → dscCloseCheck (atWork dt t s) = none →
        u.seq.step = .closeDsc ∧ u.seq.dscStep = .dscDrive ∧ u.seq.dsc = .closing ∧ u.seq.closeCmd = true ∧ u.seq.dscFrom = s.phys + dt ∧
          u.seq.mask = BitVec.ofNat 16 (num t.payload 0 2)) ∧
      (p0 s pSeqDscMode ≠ 1 ∨ s.seq.endClosed = true → (serviceList s).length < keptN (seqPars s) pSeqMinStrings →
        u.seq.step = .closeJoin ∧ u.seq.joinAt = s.phys + dt ∧ u.seq.mask = BitVec.ofNat 16 (num t.payload 0 2)) := by
  have check : closeRefusal (itemsOpen dt 17 (closeItems t) t s) = none := accepted
  rw [execBlockClose_eq dt stands named settled open_, answers_next, closeServed, check]
  refine ⟨fun driven notClosed free => ?_, fun closed few => ?_⟩
  · rw [closeBegin_of_open (s := itemsOpen dt 17 (closeItems t) t s) driven notClosed free]
    exact ⟨rfl, rfl, rfl, rfl, rfl, rfl⟩
  · have begun := closeBegin_of_closed (mask := num t.payload 0 2) (s := itemsOpen dt 17 (closeItems t) t s) closed few
    exact ⟨(congrArg Seq.step begun :), (congrArg Seq.joinAt begun :), (congrArg Seq.mask begun :)⟩

end blockClose

end Sys2Proof.Machine
end

section
set_option Elab.async false
/-!
PROOF. Pre-charge: how it fails, its probe, its confirmations and its end (R250 to R254), and the block close with it.
-/
namespace Sys2Proof.Machine
open Sys2Proof

/-! ### Times that a command's time reaches -/

theorem passed_advance (dt : Nat) (s : State) (a n : Nat) : passed (advance dt s) (some a) n = decide (n ≤ s.phys + dt - a) := rfl

/-- A command that goes one of two ways answers what each of them does. -/
theorem answers_of_branches {p : Prop} [Decidable p] {a b : State} {q : State → Prop} (then_ : p → q a) (else_ : ¬p → q b) :
    Answers (if p then .next a else .next b) q := by
  rw [answers_ite, answers_next, answers_next]
  split
  next h => exact then_ h
  next h => exact else_ h

/-! ### Pre-charge ends without success (R248, R253, R262) -/

/-- The main pair's test is due where it was on. -/
def mainsTested (s : State) : State := if roleActive s 3 0 || roleActive s 4 0 then mainsOpened (testsUnder s.seq.par s) else s

theorem testsUnder_seq (par : SMap Int) (s : State) : (testsUnder par s).seq = { s.seq with openPar := (testsUnder par s).seq.openPar } := by
  unfold testsUnder; split <;> rfl

theorem mainsTested_of_on {s : State} (on : roleActive s 3 0 = true ∨ roleActive s 4 0 = true) : (mainsTested s).seq =
    { s.seq with closed := false, mainTest := true, mainOffAt := s.phys, openPar := (testsUnder s.seq.par s).seq.openPar } := by
  have phys : (testsUnder s.seq.par s).phys = s.phys := Only.phys_eq (ps := [.seq]) (by simp) (by decide)
  rw [mainsTested, if_pos (by simpa using on), mainsOpened]
  dsimp only
  rw [testsUnder_seq, phys]

theorem mainsTested_of_off {s : State} (off : ¬(roleActive s 3 0 = true ∨ roleActive s 4 0 = true)) : mainsTested s = s :=
  if_neg (by simpa using off)

theorem mainsTested_strs (s : State) : (mainsTested s).seq.strs = s.seq.strs := by
  by_cases on : roleActive s 3 0 = true ∨ roleActive s 4 0 = true
  · rw [mainsTested_of_on on]
  · rw [mainsTested_of_off on]

theorem mainsTested_closed (s : State) : (mainsTested s).seq.closed = (s.seq.closed && !(roleActive s 3 0 || roleActive s 4 0)) := by
  by_cases on : roleActive s 3 0 = true ∨ roleActive s 4 0 = true
  · rw [mainsTested_of_on on, show (roleActive s 3 0 || roleActive s 4 0) = true by simpa using on]
    simp
  · rw [mainsTested_of_off on, show (roleActive s 3 0 || roleActive s 4 0) = false by simpa using on]
    simp

theorem pcFails_seq (c : Nat) (s : State) :
    ∃ js pck, (pcFails c s).seq = { (mainsTested s).seq.closeEnded c with joins := js, pckOffAt := pck } := by
  unfold pcFails
  dsimp only
  rw [← mainsTested]
  generalize hw : roleOff 4 0 (roleOff 3 0 _) = w
  have off : w.seq = (mainsTested s).seq := by rw [← hw]; simp only [roleOff_seq]
  obtain ⟨js, ended, -⟩ := endClose_seq c { w with seq := { w.seq with pckOffAt := if roleActive s 5 0 then some w.phys else w.seq.pckOffAt } }
  rw [← off]
  exact ⟨js, _, ended⟩

theorem pcFails_lsw (c : Nat) (s : State) :
    (pcFails c s).lsw = (roleOff 4 0 (roleOff 3 0 (roleOff 6 0 (roleOff 5 0 (mainsTested s))))).lsw := endClose_lsw ..

theorem pcFails_leaves (c : Nat) (s : State) : (pcFails c s).seq.step = .none ∧ (pcFails c s).seq.last = c ∧ (pcFails c s).seq.strs = s.seq.strs ∧
    (pcFails c s).lsw = (roleOff 4 0 (roleOff 3 0 (roleOff 6 0 (roleOff 5 0
      (if roleActive s 3 0 || roleActive s 4 0 then mainsOpened (testsUnder s.seq.par s) else s))))).lsw ∧
    (roleActive s 3 0 = true ∨ roleActive s 4 0 = true →
      (pcFails c s).seq.closed = false ∧ (pcFails c s).seq.mainTest = true ∧ (pcFails c s).seq.mainOffAt = s.phys) := by
  obtain ⟨js, pck, ended⟩ := pcFails_seq c s
  rw [ended]
  refine ⟨rfl, rfl, mainsTested_strs s, pcFails_lsw c s, fun on => ?_⟩
  rw [mainsTested_of_on on]
  exact ⟨rfl, rfl, rfl⟩

/-- The step that failed is over, with its code, and no time of MN stands. -/
theorem pcFails_ended (c : Nat) (s : State) : (pcFails c s).seq.step = .none ∧ (pcFails c s).seq.last = c ∧ (pcFails c s).seq.mnAt = none := by
  obtain ⟨js, pck, ended⟩ := pcFails_seq c s
  rw [ended]
  exact ⟨rfl, rfl, rfl⟩

/-! ### The probe and MN (R252, R254) -/

theorem mnOn_seq (s : State) : (mnOn s).seq = { s.seq with
    step := .pcMn, mnAt := some s.phys, rampAt := some s.phys, vlStart := (vlNow (roleOn 4 0 s)).getD 0, doneAt := none, shortDone := false } := by
  unfold mnOn
  dsimp only
  split <;> simp

theorem mnOn_lsw (s : State) : (mnOn s).lsw = (roleOn 4 0 s).lsw := by
  unfold mnOn
  dsimp only
  split <;> simp

/-- A current, or a rise of VL, with MN open (R252). -/
def mnWelded (s : State) : Bool :=
  if pcMode s = 1 then decide (pcImax s / 20 < convCurrent s)
  else match vlNow s with
    | some v => decide ((keptN s.seq.par pSeqWeldV * 1000 : Nat) < v - s.seq.vlStart)
    | none => false

theorem execPrechargeProbeEnd_eq (dt : Nat) (s : State) : exec (.prechargeProbeEnd dt) s =
    if s.seq.step = .pcProbe ∧ passed (advance dt s) s.seq.pathAt (keptN s.seq.par pSeqPcProbeT * msNs) = true then
      .next (if mnWelded s then pcFails 0x22 (postWeld 4 0 (advance dt s)) else mnOn (advance dt s))
    else .next (advance dt s) := rfl

theorem prechargeProbeEnd_answers (dt : Nat) {s : State} {a : Nat} (probe : s.seq.step = .pcProbe) (path : s.seq.pathAt = some a) :
    Answers (exec (.prechargeProbeEnd dt) s) fun t =>
      (s.phys + dt - a < keptN s.seq.par pSeqPcProbeT * msNs → t = advance dt s) ∧
      (keptN s.seq.par pSeqPcProbeT * msNs ≤ s.phys + dt - a → mnWelded s = true → t.seq.step = .none ∧ t.seq.last = 0x22) ∧
      (keptN s.seq.par pSeqPcProbeT * msNs ≤ s.phys + dt - a → mnWelded s = false →
        t.seq.step = .pcMn ∧ t.seq.mnAt = some (s.phys + dt) ∧ t.seq.rampAt = some (s.phys + dt) ∧ t.lsw = (roleOn 4 0 (advance dt s)).lsw) := by
  simp only [execPrechargeProbeEnd_eq, path, passed_advance, decide_eq_true_eq, probe, true_and]
  refine answers_of_branches (fun due => ⟨fun early => absurd due (by omega), fun _ welded => ?_, fun _ open_ => ?_⟩)
    fun early => ⟨fun _ => rfl, fun due => absurd due early, fun due => absurd due early⟩
  · rw [if_pos welded]
    obtain ⟨step, last, -⟩ := pcFails_ended 0x22 (postWeld 4 0 (advance dt s))
    exact ⟨step, last⟩
  · rw [if_neg (by simp [open_]), mnOn_seq]
    exact ⟨rfl, rfl, rfl, mnOn_lsw _⟩

theorem execMnConfirm_of_mn (dt : Nat) {s : State} (mn : s.seq.step = .pcMn) : exec (.mnConfirm dt) s =
    if mnSeen s then .next { advance dt s with seq := { s.seq with step := .pcRamp } }
    else .next (if passed (advance dt s) s.seq.rampAt
        (if pcMode s = 2 then keptN s.seq.par pSeqPcTmax * 100 * msNs else keptN s.seq.par pSeqKConfirmT * msNs) then pcFails 0x21 (advance dt s)
      else advance dt s) := by
  show execMnConfirm dt s = _
  unfold execMnConfirm
  dsimp only
  rw [advance_seq, if_neg (by simp [mn])]
  rfl

theorem mnConfirm_answers (dt : Nat) {s : State} {a : Nat} (mn : s.seq.step = .pcMn) (ramp : s.seq.rampAt = some a) :
    Answers (exec (.mnConfirm dt) s) fun t =>
      let bound := if pcMode s = 2 then keptN s.seq.par pSeqPcTmax * 100 * msNs else keptN s.seq.par pSeqKConfirmT * msNs
      (mnSeen s = true → t.seq = { s.seq with step := .pcRamp } ∧ t.lsw = s.lsw) ∧
      (mnSeen s = false → s.phys + dt - a < bound → t = advance dt s) ∧
      (mnSeen s = false → bound ≤ s.phys + dt - a → t.seq.step = .none ∧ t.seq.last = 0x21) := by
  rw [execMnConfirm_of_mn dt mn, ramp, passed_advance]
  refine answers_of_branches (fun seen => ⟨fun _ => ⟨rfl, rfl⟩, fun unseen => absurd seen (ne_true_of_eq_false unseen),
    fun unseen => absurd seen (ne_true_of_eq_false unseen)⟩) fun unseen => ⟨fun seen => absurd seen unseen, fun _ early => ?_, fun _ late => ?_⟩
  · exact if_neg (by simpa using early)
  · rw [if_pos (by simpa using late)]
    obtain ⟨step, last, -⟩ := pcFails_ended 0x21 (advance dt s)
    exact ⟨step, last⟩

/-! ### The ramp (R253) -/

/-- MP is switched on. -/
def mpOn (s : State) : State := roleOn 3 0 { s with seq := { s.seq with step := .pcMp, mpAt := some s.phys } }

theorem mpOn_seq (s : State) : (mpOn s).seq = { s.seq with step := .pcMp, mpAt := some s.phys } := roleOn_seq ..

theorem execPrechargeDone_eq (dt : Nat) (s : State) : exec (.prechargeDone dt) s =
    if ramping s && doneWindow s && passed (advance dt s) s.seq.doneAt (keptN s.seq.par pSeqPcDoneT * msNs) then
      .next (if pcMode (mpOn (advance dt s)) = 0 then
          roleOff 5 0 { mpOn (advance dt s) with seq := { (mpOn (advance dt s)).seq with pckOffAt := some (mpOn (advance dt s)).phys } }
        else mpOn (advance dt s))
    else .next (advance dt s) := rfl

theorem prechargeDone_answers (dt : Nat) {s : State} {a : Nat} (ramp : ramping s = true) (window : doneWindow s = true)
    (done : s.seq.doneAt = some a) : Answers (exec (.prechargeDone dt) s) fun t =>
      (keptN s.seq.par pSeqPcDoneT * msNs ≤ s.phys + dt - a → t.seq.step = .pcMp ∧ t.seq.mpAt = some (s.phys + dt) ∧
        (pcMode s = 0 → t.seq.pckOffAt = some (s.phys + dt)) ∧ (pcMode s ≠ 0 →
          t.lsw = (roleOn 3 0 { advance dt s with seq := { s.seq with step := .pcMp, mpAt := some (s.phys + dt) } }).lsw)) ∧
      (s.phys + dt - a < keptN s.seq.par pSeqPcDoneT * msNs → t = advance dt s) := by
  have mode : pcMode (mpOn (advance dt s)) = pcMode s := by rw [pcMode, mpOn_seq]; rfl
  have phys : (mpOn (advance dt s)).phys = s.phys + dt := roleOn_phys ..
  have held : (ramping s && doneWindow s && passed (advance dt s) s.seq.doneAt (keptN s.seq.par pSeqPcDoneT * msNs)) =
      decide (keptN s.seq.par pSeqPcDoneT * msNs ≤ s.phys + dt - a) := by
    rw [ramp, window, done, passed_advance, Bool.true_and, Bool.true_and]
  simp only [execPrechargeDone_eq, held, decide_eq_true_eq, mode]
  refine answers_of_branches (fun due => ⟨fun _ => ?_, fun early => absurd due (by omega)⟩) fun early => ⟨fun due => absurd due early, fun _ => rfl⟩
  by_cases zero : pcMode s = 0
  · rw [if_pos zero, roleOff_seq, mpOn_seq, phys]
    exact ⟨rfl, rfl, fun _ => rfl, fun other => absurd zero other⟩
  · rw [if_neg zero, mpOn_seq]
    exact ⟨rfl, rfl, fun same => absurd same zero, fun _ => rfl⟩

theorem execPrechargeShortCheck_of_due (dt : Nat) {s : State} {a : Nat} {v : Int} (ramp : ramping s = true) (mode : pcMode s ≠ 2)
    (first : s.seq.shortDone = false) (began : (if pcMode s = 1 then s.seq.rampAt else s.seq.pathAt) = some a)
    (due : keptN s.seq.par pSeqPcShortT * msNs ≤ s.phys + dt - a) (known : vlNow s = some v) : exec (.prechargeShortCheck dt) s =
      if v < (keptN s.seq.par pSeqPcShortV * 1000 : Nat) then .next (pcFails 0x31 (advance dt s))
      else .next { advance dt s with seq := { s.seq with shortDone := true } } := by
  have runs : (ramping (advance dt s) && pcMode (advance dt s) != 2 && !(advance dt s).seq.shortDone &&
      passed (advance dt s) (if pcMode (advance dt s) = 1 then (advance dt s).seq.rampAt else (advance dt s).seq.pathAt)
        (keptN (advance dt s).seq.par pSeqPcShortT * msNs)) = true := by
    have began' : (if pcMode (advance dt s) = 1 then (advance dt s).seq.rampAt else (advance dt s).seq.pathAt) = some a := began
    have mode' : (pcMode (advance dt s) != 2) = true := bne_iff_ne.mpr mode
    have ramp' : ramping (advance dt s) = true := ramp
    rw [began', mode', ramp', passed_advance, advance_seq, first]
    simpa using due
  have known' : vlNow (advance dt s) = some v := known
  show execPrechargeShortCheck dt s = _
  unfold execPrechargeShortCheck
  dsimp only
  rw [if_pos runs, known']
  rfl

theorem prechargeShortCheck_answers (dt : Nat) {s : State} {a : Nat} {v : Int} (ramp : ramping s = true) (mode : pcMode s ≠ 2)
    (first : s.seq.shortDone = false) (began : (if pcMode s = 1 then s.seq.rampAt else s.seq.pathAt) = some a)
    (due : keptN s.seq.par pSeqPcShortT * msNs ≤ s.phys + dt - a) (known : vlNow s = some v) :
    Answers (exec (.prechargeShortCheck dt) s) fun t =>
      (v < (keptN s.seq.par pSeqPcShortV * 1000 : Nat) → t.seq.step = .none ∧ t.seq.last = 0x31) ∧
      ((keptN s.seq.par pSeqPcShortV * 1000 : Nat) ≤ v → t = { advance dt s with seq := { s.seq with shortDone := true } }) := by
  rw [execPrechargeShortCheck_of_due dt ramp mode first began due known]
  obtain ⟨step, last, -⟩ := pcFails_ended 0x31 (advance dt s)
  exact answers_of_branches (fun short => ⟨fun _ => ⟨step, last⟩, fun fine => absurd short (not_lt.mpr fine)⟩)
    fun fine => ⟨fun short => absurd short fine, fun _ => rfl⟩

theorem execPrechargeTimeout_eq (dt : Nat) (s : State) : exec (.prechargeTimeout dt) s =
    if ramping s && passed (advance dt s) s.seq.mnAt (keptN s.seq.par pSeqPcTmax * 100 * msNs) then .next (pcFails 0x30 (advance dt s))
    else .next (advance dt s) := rfl

theorem prechargeTimeout_answers (dt : Nat) {s : State} {a : Nat} (ramp : ramping s = true) (mn : s.seq.mnAt = some a) :
    Answers (exec (.prechargeTimeout dt) s) fun t =>
      (keptN s.seq.par pSeqPcTmax * 100 * msNs ≤ s.phys + dt - a → t.seq.step = .none ∧ t.seq.last = 0x30 ∧ t.seq.mnAt = none) ∧
      (s.phys + dt - a < keptN s.seq.par pSeqPcTmax * 100 * msNs → t = advance dt s) := by
  simp only [execPrechargeTimeout_eq, mn, passed_advance, ramp, Bool.true_and, decide_eq_true_eq]
  exact answers_of_branches (fun late => ⟨fun _ => pcFails_ended 0x30 (advance dt s), fun early => absurd late (by omega)⟩)
    fun early => ⟨fun late => absurd late early, fun _ => rfl⟩

theorem execPrechargeOvercurrent_eq (dt : Nat) (s : State) : exec (.prechargeOvercurrent dt) s =
    if (ramping s || s.seq.step == .pcProbe) && pcMode s == 1 && decide (pcImax s * 5 / 4 < convCurrent s) then
      .next (pcFails 0x32 (advance dt s))
    else .next (advance dt s) := rfl

theorem prechargeOvercurrent_answers (dt : Nat) {s : State} (under : ramping s = true ∨ s.seq.step = .pcProbe) (mode : pcMode s = 1) :
    Answers (exec (.prechargeOvercurrent dt) s) fun t =>
      (pcImax s * 5 / 4 < convCurrent s → t.seq.step = .none ∧ t.seq.last = 0x32) ∧ (convCurrent s ≤ pcImax s * 5 / 4 → t = advance dt s) := by
  have runs : (ramping s || s.seq.step == .pcProbe) = true := by simpa using under
  simp only [execPrechargeOvercurrent_eq, runs, mode, beq_self_eq_true, Bool.true_and, decide_eq_true_eq]
  obtain ⟨step, last, -⟩ := pcFails_ended 0x32 (advance dt s)
  exact answers_of_branches (fun above => ⟨fun _ => ⟨step, last⟩, fun within => absurd above (not_lt.mpr within)⟩)
    fun within => ⟨fun above => absurd above within, fun _ => rfl⟩

/-! ### MP (R254) -/

/-- MP is seen closed, for an MP switched on at `m`. -/
def mpSeen (late : Bool) (m : Nat) (s : State) : Bool :=
  if pcMode s = 1 then decide (convCurrent s < pcImax s / 20)
  else late && doneWindow s && match s.seq.doneAt with
    | some d => decide (d ≤ m)
    | none => false

/-- What follows MP seen closed: PCE is off, the close has ended, and the limits are sent. -/
def mpConfirmed (s : State) : State :=
  let w := roleOff 6 0 { s with seq := { s.seq with closed := true } }
  sendLimits 0x00 1 (g2Flags w) (endClose 0x00 w)

theorem mpConfirmed_ended (s : State) : (mpConfirmed s).seq.closed = true ∧ (mpConfirmed s).seq.step = .none ∧ (mpConfirmed s).seq.last = 0x00 := by
  obtain ⟨js, ended, -⟩ := endClose_seq 0x00 (roleOff 6 0 { s with seq := { s.seq with closed := true } })
  rw [mpConfirmed, sendLimits_seq, ended, roleOff_seq]
  exact ⟨rfl, rfl, rfl⟩

/-- MP is seen closed, whenever it was switched on. -/
def mpSeenNow (late : Bool) (s : State) : Bool :=
  if pcMode s = 1 then decide (convCurrent s < pcImax s / 20)
  else late && doneWindow s && match s.seq.doneAt, s.seq.mpAt with
    | some d, some m => decide (d ≤ m)
    | _, _ => false

theorem mpSeenNow_of_on {s : State} {m : Nat} (on : s.seq.mpAt = some m) (late : Bool) : mpSeenNow late s = mpSeen late m s := by
  rw [mpSeenNow, mpSeen, on]
  cases s.seq.doneAt <;> rfl

theorem execMpConfirm_eq (dt : Nat) (s : State) : exec (.mpConfirm dt) s =
    if s.seq.step != .pcMp then .next (advance dt s)
    else if mpSeenNow (passed (advance dt s) s.seq.mpAt (keptN s.seq.par pSeqKConfirmT * msNs)) s then .next (mpConfirmed (advance dt s))
    else .next (if passed (advance dt s) s.seq.mpAt (keptN s.seq.par pSeqKConfirmT * msNs) then pcFails 0x21 (advance dt s) else advance dt s) :=
  rfl

theorem execMpConfirm_of_mp (dt : Nat) {s : State} {m : Nat} (mp : s.seq.step = .pcMp) (on : s.seq.mpAt = some m) : exec (.mpConfirm dt) s =
    if mpSeen (decide (keptN s.seq.par pSeqKConfirmT * msNs ≤ s.phys + dt - m)) m s then .next (mpConfirmed (advance dt s))
    else .next (if decide (keptN s.seq.par pSeqKConfirmT * msNs ≤ s.phys + dt - m) then pcFails 0x21 (advance dt s) else advance dt s) := by
  rw [execMpConfirm_eq, if_neg (by simp [mp]), mpSeenNow_of_on on, on, passed_advance]

theorem mpConfirm_answers (dt : Nat) {s : State} {m : Nat} (mp : s.seq.step = .pcMp) (on : s.seq.mpAt = some m) :
    Answers (exec (.mpConfirm dt) s) fun t =>
      let late := decide (keptN s.seq.par pSeqKConfirmT * msNs ≤ s.phys + dt - m)
      (mpSeen late m s = true → t.seq.closed = true ∧ t.seq.step = .none ∧ t.seq.last = 0x00) ∧
      (mpSeen late m s = false → late = true →
        t.seq.closed = (s.seq.closed && !(roleActive s 3 0 || roleActive s 4 0)) ∧ t.seq.step = .none ∧ t.seq.last = 0x21) ∧
      (mpSeen late m s = false → late = false → t = advance dt s) := by
  rw [execMpConfirm_of_mp dt mp on]
  refine answers_of_branches (fun seen => ⟨fun _ => mpConfirmed_ended _, fun unseen => absurd seen (ne_true_of_eq_false unseen),
    fun unseen => absurd seen (ne_true_of_eq_false unseen)⟩) fun unseen => ⟨fun seen => absurd seen unseen, fun _ late => ?_, fun _ early => ?_⟩
  · obtain ⟨js, pck, ended⟩ := pcFails_seq 0x21 (advance dt s)
    rw [if_pos late, ended]
    exact ⟨mainsTested_closed (advance dt s), rfl, rfl⟩
  · exact if_neg (by rw [early]; decide)

end Sys2Proof.Machine
end

section
set_option Elab.async false
/-!
PROOF. The block close through its pre-charge (R237, R238, R250 to R256): each rule from its command's lemma.
-/
namespace Sys2Proof.Machine
open Sys2Proof

/-- Settles O34: each clause by the lemma of its command. That the block's byte stands last of the 17 and each item of a refused close takes its
code (log 39), that the ramp begins with MN (log 17), that MN in mode 2 is confirmed until SEQ.PC_TMAX (log 44), and what LAST follows (log 158)
are the model's own readings. -/
theorem blockClosesThroughPrecharge : Obligations.BlockClosesThroughPrecharge := by
  unfold Obligations.BlockClosesThroughPrecharge
  exact ⟨fun dt rq t s c stands named settled open_ => blockClose_refused dt stands named settled open_,
    fun dt rq t s stands named settled open_ => blockClose_accepted dt stands named settled open_,
    fun dt s a => prechargeProbeEnd_answers dt, fun dt s a => mnConfirm_answers dt, fun dt s a => prechargeDone_answers dt,
    fun dt s a v => prechargeShortCheck_answers dt, fun dt s a => prechargeTimeout_answers dt, fun dt s => prechargeOvercurrent_answers dt,
    fun dt s m => mpConfirm_answers dt, pcFails_leaves⟩

end Sys2Proof.Machine
end

section
set_option Elab.async false
/-!
PROOF. The disconnector: what its operations leave of sequencing and of its loops, its commands, its times and its end switches (R237, R257 to
R259, R321, R323).
-/
namespace Sys2Proof.Machine
open Sys2Proof

/-! ### The disconnector's operations -/

@[simp] theorem loopsOff_phys (ks : List Nat) (s : State) : (loopsOff ks s).phys = s.phys := Only.phys_eq (ps := [.ctl]) (by simp) (by decide)

theorem driveOff_seq (s : State) : (driveOff s).seq = { s.seq with brakeOff := false } := loopsOff_seq ..

theorem dscFails_seq (c : Nat) (st : DscState) (s : State) :
    ∃ js, (dscFails c st s).seq = { Seq.dscEnded c { s.seq with brakeOff := false, dsc := st } with joins := js } ∧
      js.map (·.str) = s.seq.joins.map (·.str) := by
  unfold dscFails
  generalize hu : roleOff 8 0 _ = u
  have off : u.seq = { s.seq with brakeOff := false, dsc := st } := by rw [← hu, roleOff_seq, driveOff_seq]
  obtain ⟨js, ended, strs⟩ := endDsc_seq c u
  rw [off] at ended strs
  exact ⟨js, ended, strs⟩

theorem dscOpenSteps_seq (s : State) : (dscOpenSteps s).seq = { s.seq with
    brakeOff := false, dsc := .opening, dscStep := .openDsc, dscAt := s.phys, closeCmd := false } := by
  unfold dscOpenSteps
  dsimp only
  split <;> simp [driveOff, armCapture]

theorem dscOpenEnds_seq (c : Nat) (st : DscState) (s : State) : (dscOpenEnds c st s).seq = { s.seq with
    dscStep := .none, dsc := st, last := c, step := if s.seq.step = .openDsc then .none else s.seq.step } := by
  unfold dscOpenEnds
  dsimp only
  rw [endBlock_seq]
  dsimp only
  split
  next last => rw [endScope_seq]
  next other => rw [endBlock_seq]

/-! ### Its loops -/

theorem reserved_congr {s t : State} (h : t.par = s.par) (k : Nat) : reserved t k = reserved s k := by rw [reserved, p0_congr h, p0_congr h]; rfl

theorem loopOf_modLoop_other {i k : Nat} (h : i ≠ k) (f : Loop → Loop) (s : State) : loopOf (modLoop k f s) i = loopOf s i :=
  mget_mmod_other _ _ _ h

theorem loopOf_startLoop_other {i k : Nat} (h : i ≠ k) (s : State) : loopOf (startLoop k s) i = loopOf s i := loopOf_modLoop_other h _ s

theorem loopOf_startLoop (k : Nat) (s : State) : (loopOf (startLoop k s) k).state = .running ∧ (loopOf (startLoop k s) k).fresh = true := by
  rw [startLoop, loopOf_modLoop]; exact ⟨rfl, rfl⟩

@[simp] theorem loopOf_sinkZero (s : State) (k i : Nat) : loopOf (sinkZero s k) i = loopOf s i := by
  unfold sinkZero
  dsimp only
  split
  · rfl
  · split <;> rfl

/-- A loop switched off is off, and any other one is as it was. -/
theorem loopOf_stopLoop_off (k i : Nat) (s : State) :
    (i = k → (loopOf (stopLoop .off k s) i).state = .off) ∧ (i ≠ k → loopOf (stopLoop .off k s) i = loopOf s i) := by
  unfold stopLoop
  rw [if_neg (by simp)]
  dsimp only
  rw [loopOf_sinkZero]
  refine ⟨?_, fun other => loopOf_modLoop_other other _ s⟩
  rintro rfl
  rw [loopOf_modLoop]

/-- Sequencing's loops are off, those named and those that were. -/
theorem loopOf_loopsOff {i : Nat} (ks : List Nat) {s : State} (ours : reserved s i = true) (h : i ∈ ks ∨ (loopOf s i).state = .off) :
    (loopOf (loopsOff ks s) i).state = .off := by
  unfold loopsOff
  induction ks generalizing s with
  | nil => exact h.resolve_left (by simp)
  | cons k ks ih =>
    rw [List.foldl_cons]
    split
    next stops =>
      have only : Only [.ctl] s (stopLoop .off k s) := by simp
      refine ih ((reserved_congr (only.par_eq (by decide)) i).trans ours) ?_
      obtain ⟨self, other⟩ := loopOf_stopLoop_off k i s
      by_cases e : i = k
      · exact .inr (self e)
      · rw [other e]
        exact h.imp_left fun m => (List.mem_cons.mp m).resolve_left e
    next stays =>
      refine ih ours ?_
      rcases h with m | off
      · rcases List.mem_cons.mp m with rfl | m
        · exact .inr (by simpa [ours] using stays)
        · exact .inl m
      · exact .inr off

/-- The drive's loops are off. -/
theorem loopOf_driveOff {k : Nat} (h : k = 2 ∨ k = 3 ∨ k = 4) {s : State} (ours : reserved s k = true) : (loopOf (driveOff s) k).state = .off :=
  loopOf_loopsOff (s := { s with seq := { s.seq with brakeOff := false } }) [2, 3, 4] ours (.inl (by simpa using h))

/-! ### DSC_CLOSE (R257, R258) -/

/-- What refuses a DSC_CLOSE. -/
def dscCloseRefusal (s : State) : Option Nat :=
  if p0 s pSeqDscMode = 0 ∨ s.seq.cfgDsc = true then some 0x10
  else if blockBusy s = true ∨ s.seq.step ≠ .none then some 0x11 else dscCloseCheck s

/-- A close or an opening is under way, as its command asks. -/
theorem blockBusy_or_step (s : State) : (blockBusy s || s.seq.step != .none) = true ↔ blockBusy s = true ∨ s.seq.step ≠ .none := by simp

theorem dscCloseRefusal_eq (s : State) : (if p0 s pSeqDscMode = 0 ∨ s.seq.cfgDsc then some 0x10
    else if blockBusy s || s.seq.step != .none then some 0x11 else dscCloseCheck s) = dscCloseRefusal s :=
  if_congr Iff.rfl rfl (if_congr (blockBusy_or_step s) rfl rfl)

/-- What DSC_CLOSE does once its item is open. -/
def dscCloseServed (t : Txn) (s : State) : State :=
  match dscCloseRefusal s with
  | some c => endItem (txnKey t) 16 c { s with seq := { s.seq with last := c } }
  | none => dscCloseBegin { s with seq := { s.seq with par := seqPars s } }

section dscClose
variable (dt : Nat) {rq : Request} {t : Txn} {s : State} (stands : Stands s rq 0xA006 t) (settled : s.par.pendingRole = false)
include stands settled

theorem execDscClose_eq : exec (.dscClose dt rq) s = .next (dscCloseServed t (oneOpen dt 17 16 t s)) := by
  show execDscClose dt rq s = _
  rw [execDscClose, mailbox_of_stands stands]
  dsimp only
  rw [settleRoles_of_settled (s := atWork dt t s) settled, dscItem, openItems_of_named, ← oneOpen, dscCloseRefusal_eq]
  rfl

theorem dscClose_answers : Answers (exec (.dscClose dt rq) s) fun u =>
    let items (c : Nat) := (List.replicate 17 0xFF).set 16 c
    (∀ c, dscCloseRefusal (atWork dt t s) = some c →
      Replied t (itemsStatus 0xA006 (items c)) (itemBytes (List.replicate 16 0xFF)) s u ∧ u.seq = { s.seq with last := c }) ∧
    (dscCloseRefusal (atWork dt t s) = none → u.seq.dscStep = .dscDrive ∧ u.seq.dsc = .closing ∧ u.seq.closeCmd = true ∧ u.seq.dscAt = s.phys + dt ∧
      u.seq.dscFrom = s.phys + dt ∧ u.seq.par = seqPars s) := by
  cases refusal : dscCloseRefusal (atWork dt t s) with
  | some c =>
    have check : dscCloseRefusal (oneOpen dt 17 16 t s) = some c := refusal
    rw [execDscClose_eq dt stands settled, answers_next, dscCloseServed, check]
    refine ⟨fun c' same => ?_, fun none_ => nomatch none_⟩
    obtain rfl : c = c' := Option.some.inj same
    have item : ItemOpen t 17 16 s { oneOpen dt 17 16 t s with seq := { s.seq with last := c } } :=
      (stands.itemOpen dt 17 16).of_only (ps := [.seq]) (by simp) (by decide)
    exact ⟨item.answered_disconnector stands.opcode (.inl rfl) c, endItem_seq ..⟩
  | none =>
    have check : dscCloseRefusal (oneOpen dt 17 16 t s) = none := refusal
    rw [execDscClose_eq dt stands settled, answers_next, dscCloseServed, check]
    dsimp only
    rw [dscCloseBegin_seq]
    exact ⟨fun c some_ => (nomatch some_), fun _ => ⟨rfl, rfl, rfl, rfl, rfl, rfl⟩⟩

end dscClose

/-! ### DSC_OPEN (R258, R259) -/

/-- What refuses a DSC_OPEN. -/
def dscOpenRefusal (s : State) : Option Nat :=
  if p0 s pSeqDscMode = 0 ∨ s.seq.cfgDsc = true then some 0x10
  else if blockBusy s = true ∨ s.seq.step ≠ .none then some 0x11
  else if roleActive s 3 0 = true ∨ roleActive s 4 0 = true then some 0x14
  else if s.seq.endOpen = true ∧ s.seq.dsc = .opened then some 0x01 else none

theorem dscOpenRefusal_eq (s : State) : (if p0 s pSeqDscMode = 0 ∨ s.seq.cfgDsc then some 0x10
    else if blockBusy s || s.seq.step != .none then some 0x11
    else if roleActive s 3 0 || roleActive s 4 0 then some 0x14
    else if s.seq.endOpen && s.seq.dsc == .opened then some 0x01 else none) = dscOpenRefusal s :=
  if_congr Iff.rfl rfl (if_congr (blockBusy_or_step s) rfl (if_congr (by simp) rfl (if_congr (by simp) rfl rfl)))

/-- An opening begins; with END_OPEN active already it is reached at once. -/
def dscOpenBegins (s : State) : State :=
  let w := dscOpenSteps { s with seq := { s.seq with openPar := seqPars s } }
  if w.seq.endOpen then dscOpenEnds 0x00 .opened w else w

theorem dscOpenBegins_of_reached {s : State} (reached : s.seq.endOpen = true) :
    dscOpenBegins s = dscOpenEnds 0x00 .opened (dscOpenSteps { s with seq := { s.seq with openPar := seqPars s } }) :=
  if_pos (by rw [dscOpenSteps_seq]; exact reached)

theorem dscOpenBegins_of_away {s : State} (away : s.seq.endOpen = false) :
    dscOpenBegins s = dscOpenSteps { s with seq := { s.seq with openPar := seqPars s } } :=
  if_neg (by rw [dscOpenSteps_seq]; exact Bool.eq_false_iff.mp away)

/-- What DSC_OPEN does once its item is open. -/
def dscOpenServed (t : Txn) (s : State) : State :=
  match dscOpenRefusal s with
  | some c => endItem (txnKey t) 16 c { s with seq := { s.seq with last := c } }
  | none => dscOpenBegins s

section dscOpen
variable (dt : Nat) {rq : Request} {t : Txn} {s : State} (stands : Stands s rq 0xA007 t)
include stands

theorem execDscOpen_eq : exec (.dscOpen dt rq) s = .next (dscOpenServed t (oneOpen dt 17 16 t s)) := by
  show execDscOpen dt rq s = _
  rw [execDscOpen, mailbox_of_stands stands]
  dsimp only
  rw [dscItem, openItems_of_named, ← oneOpen, dscOpenRefusal_eq]
  rfl

theorem dscOpen_answers : Answers (exec (.dscOpen dt rq) s) fun u =>
    let items (c : Nat) := (List.replicate 17 0xFF).set 16 c
    (∀ c, dscOpenRefusal s = some c →
      Replied t (itemsStatus 0xA007 (items c)) (itemBytes (List.replicate 16 0xFF)) s u ∧ u.seq = { s.seq with last := c }) ∧
    (dscOpenRefusal s = none → s.seq.endOpen = true → u.seq.dscStep = .none ∧ u.seq.dsc = .opened ∧ u.seq.last = 0x00 ∧ u.seq.brakeOff = false) ∧
    (dscOpenRefusal s = none → s.seq.endOpen = false → u.seq.dscStep = .openDsc ∧ u.seq.dsc = .opening ∧ u.seq.closeCmd = false ∧
      u.seq.brakeOff = false ∧ u.seq.dscAt = s.phys + dt) := by
  cases refusal : dscOpenRefusal s with
  | some c =>
    have check : dscOpenRefusal (oneOpen dt 17 16 t s) = some c := refusal
    rw [execDscOpen_eq dt stands, answers_next, dscOpenServed, check]
    refine ⟨fun c' same => ?_, fun none_ => (nomatch none_), fun none_ => nomatch none_⟩
    obtain rfl : c = c' := Option.some.inj same
    have item : ItemOpen t 17 16 s { oneOpen dt 17 16 t s with seq := { s.seq with last := c } } :=
      (stands.itemOpen dt 17 16).of_only (ps := [.seq]) (by simp) (by decide)
    exact ⟨item.answered_disconnector stands.opcode (.inr rfl) c, endItem_seq ..⟩
  | none =>
    have check : dscOpenRefusal (oneOpen dt 17 16 t s) = none := refusal
    rw [execDscOpen_eq dt stands, answers_next, dscOpenServed, check]
    refine ⟨fun c some_ => (nomatch some_), fun _ reached => ?_, fun _ away => ?_⟩
    · dsimp only
      rw [dscOpenBegins_of_reached (s := oneOpen dt 17 16 t s) reached, dscOpenEnds_seq, dscOpenSteps_seq]
      exact ⟨rfl, rfl, rfl, rfl⟩
    · dsimp only
      rw [dscOpenBegins_of_away (s := oneOpen dt 17 16 t s) away, dscOpenSteps_seq]
      exact ⟨rfl, rfl, rfl, rfl, rfl⟩

end dscOpen

/-! ### The close goes on (R257) -/

/-- The brake is released and the drive's loops begin. -/
def brakeReleased (s : State) : State :=
  startLoop 4 (startLoop 3 (startLoop 2 { s with seq := { s.seq with brakeOff := true, dscStep := .dscMove, dscAt := s.phys } }))

theorem brakeReleased_loops (s : State) {k : Nat} (h : k = 2 ∨ k = 3 ∨ k = 4) :
    (loopOf (brakeReleased s) k).state = .running ∧ (loopOf (brakeReleased s) k).fresh = true := by
  unfold brakeReleased
  rcases h with rfl | rfl | rfl
  · rw [loopOf_startLoop_other (by decide), loopOf_startLoop_other (by decide)]; exact loopOf_startLoop ..
  · rw [loopOf_startLoop_other (by decide)]; exact loopOf_startLoop ..
  · exact loopOf_startLoop ..

theorem execDscBrakeRelease_eq (dt : Nat) (s : State) : exec (.dscBrakeRelease dt) s =
    if s.seq.dscStep = .dscDrive ∧ 50 * msNs ≤ s.phys + dt - s.seq.dscAt ∧ (!effectOn (advance dt s) 5) = true then
      .next (brakeReleased (advance dt s))
    else .next (advance dt s) := rfl

theorem dscBrakeRelease_answers (dt : Nat) {s : State} (drive : s.seq.dscStep = .dscDrive) (free : effectOn (advance dt s) 5 = false) :
    Answers (exec (.dscBrakeRelease dt) s) fun t =>
      (50 * msNs ≤ s.phys + dt - s.seq.dscAt → t.seq = { s.seq with brakeOff := true, dscStep := .dscMove, dscAt := s.phys + dt } ∧
        ∀ k, k = 2 ∨ k = 3 ∨ k = 4 → (loopOf t k).state = .running ∧ (loopOf t k).fresh = true) ∧
      (s.phys + dt - s.seq.dscAt < 50 * msNs → t = advance dt s) := by
  rw [execDscBrakeRelease_eq]
  refine answers_of_branches (fun due => ⟨fun _ => ⟨?_, fun k h => brakeReleased_loops _ h⟩, fun early => absurd due.2.1 (by omega)⟩)
    fun early => ⟨fun due => absurd ⟨drive, due, by rw [free]; rfl⟩ early, fun _ => rfl⟩
  rw [brakeReleased, startLoop_seq, startLoop_seq, startLoop_seq]
  rfl

/-- The brake is applied where the close is reached. -/
def closeReached (s : State) : State :=
  { driveOff s with seq := { (driveOff s).seq with dscStep := .dscStop, dscAt := (driveOff s).phys } }

theorem closeReached_seq (s : State) : (closeReached s).seq = { s.seq with brakeOff := false, dscStep := .dscStop, dscAt := s.phys } := by
  rw [closeReached, driveOff_seq, driveOff, loopsOff_phys]

theorem closeReached_loops {s : State} {k : Nat} (h : k = 2 ∨ k = 3 ∨ k = 4) (ours : reserved s k = true) :
    (loopOf (closeReached s) k).state = .off := by
  have step_apart (u : State) : loopOf { u with seq := { u.seq with dscStep := .dscStop, dscAt := u.phys } } k = loopOf u k := rfl
  rw [closeReached, step_apart]
  exact loopOf_driveOff h ours

theorem execDscCloseReached_eq (dt : Nat) (s : State) : exec (.dscCloseReached dt) s =
    if s.seq.dscStep = .dscMove ∧ s.seq.endClosed = true ∧ nearClosed s = true then
      .next (closeReached (advance dt s))
    else .next (advance dt s) := rfl

theorem dscCloseReached_answers (dt : Nat) {s : State} (moves : s.seq.dscStep = .dscMove) :
    Answers (exec (.dscCloseReached dt) s) fun t =>
      (s.seq.endClosed = true → nearClosed s = true →
        t.seq = { s.seq with brakeOff := false, dscStep := .dscStop, dscAt := s.phys + dt } ∧
          ∀ k, k = 2 ∨ k = 3 ∨ k = 4 → reserved s k = true → (loopOf t k).state = .off) ∧
      (s.seq.endClosed = false ∨ nearClosed s = false → t = advance dt s) := by
  rw [execDscCloseReached_eq]
  refine answers_of_branches (fun there => ⟨fun _ _ => ⟨closeReached_seq (advance dt s), fun k h ours => ?_⟩, fun away => ?_⟩)
    fun away => ⟨fun closed near => absurd ⟨moves, closed, near⟩ away, fun _ => rfl⟩
  · exact closeReached_loops h (s := advance dt s) ours
  · simp [there.2.1, there.2.2] at away

/-- The drive's supply is off, and the close has ended. -/
def dmeOff (s : State) : State := endDsc 0x00 (roleOff 8 0 { s with seq := { s.seq with dsc := .closed } })

theorem dmeOff_seq (s : State) : ∃ js, (dmeOff s).seq = { Seq.dscEnded 0x00 { s.seq with dsc := .closed } with joins := js } := by
  obtain ⟨js, ended, -⟩ := endDsc_seq 0x00 (roleOff 8 0 { s with seq := { s.seq with dsc := .closed } })
  rw [roleOff_seq] at ended
  exact ⟨js, ended⟩

theorem execDscDmeOff_eq (dt : Nat) (s : State) : exec (.dscDmeOff dt) s =
    if s.seq.dscStep = .dscStop ∧ 100 * msNs ≤ s.phys + dt - s.seq.dscAt then
      .next (if (dmeOff (advance dt s)).seq.step = .closeDsc then closeGoesOn (closeJoins (dmeOff (advance dt s))) else dmeOff (advance dt s))
    else .next (advance dt s) := by
  show execDscDmeOff dt s = _
  unfold execDscDmeOff
  dsimp only
  rw [show endDsc 0x00 _ = dmeOff (advance dt s) from rfl]
  rfl

theorem dscDmeOff_answers (dt : Nat) {s : State} (stop : s.seq.dscStep = .dscStop) (alone : s.seq.step ≠ .closeDsc) :
    Answers (exec (.dscDmeOff dt) s) fun t =>
      (100 * msNs ≤ s.phys + dt - s.seq.dscAt → t.seq.dsc = .closed ∧ t.seq.dscStep = .none ∧ t.seq.last = 0x00) ∧
      (s.phys + dt - s.seq.dscAt < 100 * msNs → t = advance dt s) := by
  rw [execDscDmeOff_eq]
  obtain ⟨js, ended⟩ := dmeOff_seq (advance dt s)
  have ends : ¬(dmeOff (advance dt s)).seq.step = .closeDsc := by
    rw [ended]
    dsimp only
    rw [Seq.dscEnded_step, if_neg (by simp)]
    exact alone
  rw [if_neg ends]
  refine answers_of_branches (fun due => ⟨fun _ => ?_, fun early => absurd due.2 (by omega)⟩) fun early => ⟨fun due => absurd ⟨stop, due⟩ early, fun _ => rfl⟩
  rw [ended]
  simp

theorem execDscCloseTimeout_eq (dt : Nat) (s : State) : exec (.dscCloseTimeout dt) s =
    if (s.seq.dscStep = .dscDrive ∨ s.seq.dscStep = .dscMove) ∧ keptN s.seq.par pSeqDscCloseT * 100 * msNs ≤ s.phys + dt - s.seq.dscFrom then
      .next (dscFails 0x41 .intermediate (advance dt s))
    else .next (advance dt s) := rfl

theorem dscCloseTimeout_answers (dt : Nat) {s : State} (under : s.seq.dscStep = .dscDrive ∨ s.seq.dscStep = .dscMove) :
    Answers (exec (.dscCloseTimeout dt) s) fun t =>
      (keptN s.seq.par pSeqDscCloseT * 100 * msNs ≤ s.phys + dt - s.seq.dscFrom →
        t.seq.dsc = .intermediate ∧ t.seq.dscStep = .none ∧ t.seq.last = 0x41 ∧ t.seq.brakeOff = false ∧ t.seq.closeCmd = false ∧
          (s.seq.step = .closeDsc → t.seq.step = .none)) ∧
      (s.phys + dt - s.seq.dscFrom < keptN s.seq.par pSeqDscCloseT * 100 * msNs → t = advance dt s) := by
  rw [execDscCloseTimeout_eq]
  refine answers_of_branches (fun late => ⟨fun _ => ?_, fun early => absurd late.2 (by omega)⟩)
    fun early => ⟨fun late => absurd ⟨under, late⟩ early, fun _ => rfl⟩
  obtain ⟨js, ended, -⟩ := dscFails_seq 0x41 .intermediate (advance dt s)
  rw [ended]
  refine ⟨by simp, by simp, by simp, by simp, by simp, fun within => ?_⟩
  dsimp only
  rw [Seq.dscEnded_step, if_pos ⟨within, by decide⟩]

theorem execDscOpenTimeout_eq (dt : Nat) (s : State) : exec (.dscOpenTimeout dt) s =
    if s.seq.dscStep = .openDsc ∧ keptN s.seq.openPar pSeqDscOpenT * msNs ≤ s.phys + dt - s.seq.dscAt then
      .next (dscOpenEnds 0x42 .intermediate (advance dt s))
    else .next (advance dt s) := rfl

theorem dscOpenTimeout_answers (dt : Nat) {s : State} (under : s.seq.dscStep = .openDsc) :
    Answers (exec (.dscOpenTimeout dt) s) fun t =>
      (keptN s.seq.openPar pSeqDscOpenT * msNs ≤ s.phys + dt - s.seq.dscAt →
        t.seq.dsc = .intermediate ∧ t.seq.dscStep = .none ∧ t.seq.last = 0x42 ∧ (s.seq.step = .openDsc → t.seq.step = .none)) ∧
      (s.phys + dt - s.seq.dscAt < keptN s.seq.openPar pSeqDscOpenT * msNs → t = advance dt s) := by
  rw [execDscOpenTimeout_eq]
  refine answers_of_branches (fun late => ⟨fun _ => ?_, fun early => absurd late.2 (by omega)⟩)
    fun early => ⟨fun late => absurd ⟨under, late⟩ early, fun _ => rfl⟩
  rw [dscOpenEnds_seq]
  exact ⟨rfl, rfl, rfl, fun within => if_pos within⟩

/-! ### The end switches (R259, R321, R323) -/

@[simp] theorem post_pos (k cls inst : _) (p : Bytes) (s : State) : (post k cls inst p s).pos = s.pos := Only.pos_eq (ps := [.log]) (by simp) (by decide)
@[simp] theorem stopDrive_pos (st : DscState) (s : State) : (stopDrive st s).pos = s.pos :=
  Only.pos_eq (ps := [.free, .par, .hub, .seq, .lsw, .ctl, .thm, .log]) (by simp) (by decide)

theorem reference_endBoth (ch : Nat) (target : Int) (index : Bool) (s : State) : (reference ch target index s).pos.endBoth = s.pos.endBoth := by
  unfold reference
  dsimp only
  split
  · rw [post_pos]; rfl
  · rfl

theorem referenceOpen_endBoth (s : State) : (referenceOpen s).pos.endBoth = s.pos.endBoth := by
  unfold referenceOpen; split
  · exact reference_endBoth ..
  · rfl

/-- Both end switches active stop the drive. -/
theorem checkBoth_of_both {s : State} (open_ : s.seq.endOpen = true) (closed : s.seq.endClosed = true) : (checkBoth s).pos.endBoth = true := by
  unfold checkBoth
  dsimp only
  rw [if_pos (by simp [open_, closed])]
  split
  · rw [followSlp_endBoth, stopDrive_pos]
    rfl
  · rfl

theorem checkBoth_of_one {s : State} (one : s.seq.endOpen = false ∨ s.seq.endClosed = false) : checkBoth s = s :=
  if_neg (by rcases one with h | h <;> simp [h])

/-- What an active END_OPEN does before both end switches are judged. -/
def endOpenSeen (s : State) : State :=
  let s := referenceOpen { s with seq := { s.seq with endOpen := true } }
  if s.seq.dscStep = .openDsc then dscOpenEnds 0x00 .opened s
  else if p0 s pSeqDscMode = 1 ∧ !dscClosing s then { s with seq := { s.seq with dsc := .opened } } else s

/-- END_CLOSED references PF0 where its REF is clear, and else checks the position (R323). -/
def referenceClosed (s : State) : State :=
  let c := chanAt s 0
  let target := posCounts s 0 (pv s pSeqDscPosClosed 0)
  if p0 s pSeqDscMode ≠ 1 ∨ c.lock ≠ .locked then s
  else if !c.ref then reference 0 target false s
  else if (posCounts s 0 (pv s pSeqDscMargin 0)).natAbs < (c.count - target).natAbs then post .endMismatch 14 0 (le 4 (code 32 c.count)) s
  else s

/-- What an active END_CLOSED does before both end switches are judged. -/
def endClosedSeen (s : State) : State :=
  let s := referenceClosed { s with seq := { s.seq with endClosed := true } }
  if p0 s pSeqDscMode = 1 ∧ !dscClosing s ∧ s.seq.dscStep ≠ .openDsc then { s with seq := { s.seq with dsc := .closed } } else s

theorem execEndOpenActive_of_sequencing (dt : Nat) {s : State} (runs : sequencing s = true) :
    exec (.endOpenActive dt) s = .next (checkBoth (endOpenSeen (advance dt s))) := by
  show execEndOpenActive dt s = _
  unfold execEndOpenActive
  dsimp only
  rw [if_neg (by simp [runs])]
  rfl

theorem execEndClosedActive_of_sequencing (dt : Nat) {s : State} (runs : sequencing s = true) :
    exec (.endClosedActive dt) s = .next (checkBoth (endClosedSeen (advance dt s))) := by
  show execEndClosedActive dt s = _
  unfold execEndClosedActive
  dsimp only
  rw [if_neg (by simp [runs])]
  rfl

theorem dscClosing_congr {s t : State} (h : t.seq.dscStep = s.seq.dscStep) : dscClosing t = dscClosing s := by rw [dscClosing, h]; rfl

theorem dscClosing_of_idle {s : State} (idle : s.seq.dscStep = .none) : dscClosing s = false := by rw [dscClosing, idle]

theorem referenceClosed_only (s : State) : Only [.pos, .log] s (referenceClosed s) := by simp [referenceClosed]

/-- What an active END_OPEN leaves of sequencing (R259, R321). -/
theorem endOpenSeen_seq (s : State) : (endOpenSeen s).seq =
    if s.seq.dscStep = .openDsc then { s.seq with
      endOpen := true, dscStep := .none, dsc := .opened, last := 0x00, step := if s.seq.step = .openDsc then .none else s.seq.step }
    else if p0 s pSeqDscMode = 1 ∧ !dscClosing s then { s.seq with endOpen := true, dsc := .opened }
    else { s.seq with endOpen := true } := by
  unfold endOpenSeen
  dsimp only
  generalize hu : referenceOpen _ = u
  have only : Only [.pos, .log] { s with seq := { s.seq with endOpen := true } } u := by rw [← hu]; simp
  have seq : u.seq = { s.seq with endOpen := true } := only.seq_eq (by decide)
  have step : u.seq.dscStep = s.seq.dscStep := by rw [seq]
  have mode : p0 u pSeqDscMode = p0 s pSeqDscMode := p0_congr (only.par_eq (by decide)) _
  rw [step, mode, dscClosing_congr step]
  by_cases opening : s.seq.dscStep = .openDsc
  · rw [if_pos opening, if_pos opening, dscOpenEnds_seq, seq]
  · rw [if_neg opening, if_neg opening]
    split_ifs <;> rw [seq]

theorem endOpenSeen_endBoth (s : State) : (endOpenSeen s).pos.endBoth = s.pos.endBoth := by
  have ends (c : Nat) (st : DscState) (u : State) : (dscOpenEnds c st u).pos = u.pos := Only.pos_eq (ps := [.hub, .seq]) (by simp) (by decide)
  unfold endOpenSeen
  dsimp only
  split_ifs
  · rw [ends, referenceOpen_endBoth]
  · exact referenceOpen_endBoth _
  · exact referenceOpen_endBoth _

/-- What an active END_CLOSED leaves of sequencing (R323). -/
theorem endClosedSeen_seq (s : State) : (endClosedSeen s).seq =
    if p0 s pSeqDscMode = 1 ∧ !dscClosing s ∧ s.seq.dscStep ≠ .openDsc then { s.seq with endClosed := true, dsc := .closed }
    else { s.seq with endClosed := true } := by
  unfold endClosedSeen
  dsimp only
  generalize hu : referenceClosed _ = u
  have only : Only [.pos, .log] { s with seq := { s.seq with endClosed := true } } u := by rw [← hu]; exact referenceClosed_only _
  have seq : u.seq = { s.seq with endClosed := true } := only.seq_eq (by decide)
  have step : u.seq.dscStep = s.seq.dscStep := by rw [seq]
  have mode : p0 u pSeqDscMode = p0 s pSeqDscMode := p0_congr (only.par_eq (by decide)) _
  rw [step, mode, dscClosing_congr step]
  split_ifs <;> rw [seq]

theorem endClosedSeen_endBoth (s : State) : (endClosedSeen s).pos.endBoth = s.pos.endBoth := by
  have referenced (u : State) : (referenceClosed u).pos.endBoth = u.pos.endBoth := by
    unfold referenceClosed
    dsimp only
    split_ifs <;> simp [reference_endBoth]
  unfold endClosedSeen
  dsimp only
  split_ifs <;> exact referenced _

theorem endOpenActive_alone (dt : Nat) {s : State} (runs : sequencing s = true) (driven : p0 s pSeqDscMode = 1) (away : s.seq.endClosed = false) :
    Answers (exec (.endOpenActive dt) s) fun t =>
      t.seq.endOpen = true ∧ t.pos.endBoth = s.pos.endBoth ∧
      (s.seq.dscStep = .openDsc → t.seq.dsc = .opened ∧ t.seq.dscStep = .none) ∧
      (s.seq.dscStep = .none → t.seq.dsc = .opened) := by
  have closed : (endOpenSeen (advance dt s)).seq.endClosed = false := by rw [endOpenSeen_seq]; split_ifs <;> exact away
  rw [execEndOpenActive_of_sequencing dt runs, answers_next, checkBoth_of_one (.inr closed), endOpenSeen_seq]
  refine ⟨by split_ifs <;> rfl, endOpenSeen_endBoth _, fun opening => ?_, fun idle => ?_⟩
  · have stepped : (advance dt s).seq.dscStep = .openDsc := opening
    rw [if_pos stepped]
    exact ⟨rfl, rfl⟩
  · rw [if_neg (by rw [advance_seq, idle]; decide), if_pos ⟨driven, by rw [dscClosing_of_idle (s := advance dt s) idle]; rfl⟩]

theorem endClosedActive_alone (dt : Nat) {s : State} (runs : sequencing s = true) (driven : p0 s pSeqDscMode = 1) (away : s.seq.endOpen = false) :
    Answers (exec (.endClosedActive dt) s) fun t =>
      t.seq.endClosed = true ∧ t.pos.endBoth = s.pos.endBoth ∧ (s.seq.dscStep = .none → t.seq.dsc = .closed) := by
  have open_ : (endClosedSeen (advance dt s)).seq.endOpen = false := by rw [endClosedSeen_seq]; split_ifs <;> exact away
  rw [execEndClosedActive_of_sequencing dt runs, answers_next, checkBoth_of_one (.inl open_), endClosedSeen_seq]
  refine ⟨by split_ifs <;> rfl, endClosedSeen_endBoth _, fun idle => ?_⟩
  rw [if_pos ⟨driven, by rw [dscClosing_of_idle (s := advance dt s) idle]; rfl, by rw [advance_seq, idle]; decide⟩]

theorem endOpenActive_both (dt : Nat) {s : State} (runs : sequencing s = true) (closed : s.seq.endClosed = true) :
    Answers (exec (.endOpenActive dt) s) fun t => t.pos.endBoth = true := by
  rw [execEndOpenActive_of_sequencing dt runs, answers_next]
  refine checkBoth_of_both ?_ ?_
  · rw [endOpenSeen_seq]
    split_ifs <;> rfl
  · rw [endOpenSeen_seq]
    split_ifs <;> exact closed

theorem endClosedActive_both (dt : Nat) {s : State} (runs : sequencing s = true) (open_ : s.seq.endOpen = true) :
    Answers (exec (.endClosedActive dt) s) fun t => t.pos.endBoth = true := by
  rw [execEndClosedActive_of_sequencing dt runs, answers_next]
  refine checkBoth_of_both ?_ ?_
  · rw [endClosedSeen_seq]
    split_ifs <;> exact open_
  · rw [endClosedSeen_seq]
    split_ifs <;> rfl

end Sys2Proof.Machine
end

section
set_option Elab.async false
/-!
PROOF. The disconnector driven (R237, R257 to R259, R321, R323): each rule from its command's lemma.
-/
namespace Sys2Proof.Machine
open Sys2Proof

/-- Settles O35: each clause by the lemma of its command. That the sixteen bytes of the strings name none and the disconnector's code stands in the
status and in LAST alone (log 19), that DSC_OPEN of an open disconnector ends 0x01 (log 55), and what LAST follows (log 158) are the model's own
readings. -/
theorem disconnectorIsDriven : Obligations.DisconnectorIsDriven := by
  unfold Obligations.DisconnectorIsDriven
  exact ⟨fun dt rq t s => dscClose_answers dt, fun dt rq t s => dscOpen_answers dt, fun dt s => dscBrakeRelease_answers dt,
    fun dt s => dscCloseReached_answers dt, fun dt s => dscDmeOff_answers dt, fun dt s => dscCloseTimeout_answers dt,
    fun dt s => dscOpenTimeout_answers dt, fun dt s => endOpenActive_alone dt, fun dt s => endClosedActive_alone dt,
    fun dt s => endOpenActive_both dt, fun dt s => endClosedActive_both dt⟩

end Sys2Proof.Machine
end

section
set_option Elab.async false
/-!
PROOF. Openings and clears (R236, R237, R258 to R261): what an opening supersedes, its wait and its staggered switch-offs, STRING_OPEN, and the
latches STRING_CLEAR clears.
-/
namespace Sys2Proof.Machine
open Sys2Proof

/-! ### What an opening supersedes (R237) -/

/-- A string's join, or its item of a close that has yet to request it, ends superseded. -/
def joinSuperseded (j : Nat) (s : State) : State :=
  match joinOf s j with
  | none => endStr [0xA001, 0xA003] j 0x50 s
  | some _ => endJoin j 0x50 s

theorem joinSuperseded_seq (j : Nat) (s : State) :
    ∃ l, (joinSuperseded j s).seq = { s.seq with joins := s.seq.joins.filter (·.str != j), last := l } := by
  unfold joinSuperseded
  split
  next free =>
    have all : s.seq.joins.filter (·.str != j) = s.seq.joins :=
      List.filter_eq_self.mpr fun k hk => by simpa using (joinOf_eq_none).mp free k hk
    exact ⟨_, by rw [endStr_seq, all]⟩
  next k queued => exact ⟨_, endJoin_seq queued 0x50⟩

theorem foldl_joinSuperseded_seq (strs : List Nat) (s : State) :
    ∃ js l, (strs.foldl (fun s j => joinSuperseded j s) s).seq = { s.seq with joins := js, last := l } ∧
      ∀ k ∈ js, k ∈ s.seq.joins ∧ k.str ∉ strs := by
  induction strs generalizing s with
  | nil => exact ⟨s.seq.joins, s.seq.last, rfl, fun k hk => ⟨hk, List.not_mem_nil⟩⟩
  | cons j strs ih =>
    obtain ⟨js, l, rest, apart⟩ := ih (joinSuperseded j s)
    obtain ⟨l', first⟩ := joinSuperseded_seq j s
    rw [first] at rest apart
    refine ⟨js, l, rest, fun k hk => ?_⟩
    obtain ⟨mem, other⟩ := apart k hk
    obtain ⟨mem, ne⟩ := List.mem_filter.mp mem
    exact ⟨mem, by simpa using ⟨by simpa using ne, other⟩⟩

/-- An opening of the block is under way. -/
def openingStep (x : SeqStep) : Prop := x = .openWait ∨ x = .openMn ∨ x = .openWeld ∨ x = .openStrings ∨ x = .openTests ∨ x = .openDsc

/-- Of the block sequence, a superseding ends a close alone; it queues no join. -/
def Superseded (q r : Seq) : Prop :=
  (r.step = q.step ∨ (r.step = .none ∧ ¬ openingStep q.step)) ∧ r.scope = q.scope ∧ ∀ j ∈ r.joins.map (·.str), j ∈ q.joins.map (·.str)

theorem Superseded.refl (q : Seq) : Superseded q q := ⟨.inl rfl, rfl, fun _ h => h⟩

theorem Superseded.joins {q r : Seq} (h : Superseded q r) : ∀ j ∈ r.joins.map (·.str), j ∈ q.joins.map (·.str) := h.2.2

theorem Superseded.trans {q r u : Seq} (h : Superseded q r) (k : Superseded r u) : Superseded q u := by
  obtain ⟨step, scope, joins⟩ := h
  obtain ⟨step', scope', joins'⟩ := k
  refine ⟨?_, scope'.trans scope, fun x hx => joins x (joins' x hx)⟩
  rcases step' with same | ⟨ended, ends⟩
  · rw [same]; exact step
  · rcases step with same | ⟨-, over_⟩
    · exact .inr ⟨ended, same ▸ ends⟩
    · exact .inr ⟨ended, over_⟩

theorem superseded_endClose {s : State} (close : closing s = true) (c : Nat) : Superseded s.seq (endClose c s).seq := by
  obtain ⟨js, ended, strs⟩ := endClose_seq c s
  rw [ended]
  refine ⟨.inr ⟨rfl, fun opens => ?_⟩, rfl, fun j hj => strs ▸ hj⟩
  rcases opens with e | e | e | e | e | e <;> simp [closing, e] at close

theorem superseded_dscFails (c : Nat) (st : DscState) (s : State) : Superseded s.seq (dscFails c st s).seq := by
  obtain ⟨js, ended, strs⟩ := dscFails_seq c st s
  rw [ended]
  refine ⟨?_, Seq.dscEnded_scope .., fun j hj => strs ▸ hj⟩
  show (Seq.dscEnded c _).step = _ ∨ _
  rw [Seq.dscEnded_step]
  split
  next close => exact .inr ⟨rfl, by rintro (e | e | e | e | e | e) <;> exact nomatch e.symm.trans close.1⟩
  next other => exact .inl rfl

/-- The mains and the disconnector superseded, where they are closing. -/
theorem supersede_mains (dsc : Bool) (strs : List Nat) (s : State) :
    Superseded s.seq (supersede true dsc strs s).seq ∧ ∀ k ∈ (supersede true dsc strs s).seq.joins, k.str ∉ strs := by
  obtain ⟨js, l, joins, apart⟩ := foldl_joinSuperseded_seq strs s
  generalize hu : strs.foldl (fun s j => joinSuperseded j s) s = u at joins
  generalize hv : ({ u with seq := { u.seq with mask := u.seq.mask &&& ~~~ BitVec.ofNat 16 (maskOf strs) } } : State) = v
  have masked : v.seq = { s.seq with joins := js, last := l, mask := u.seq.mask &&& ~~~ BitVec.ofNat 16 (maskOf strs) } := by
    rw [← hv]; dsimp only; rw [joins]
  generalize hw : (if (dsc || true && v.seq.step == .closeDsc) && dscClosing v then dscFails 0x50 .intermediate v else v) = w
  have unfolded : supersede true dsc strs s = if (true && closing w) = true then endClose 0x50 w else w := by
    rw [← hw, ← hv, ← hu]; rfl
  have first : Superseded s.seq v.seq := by
    rw [masked]
    exact ⟨.inl rfl, rfl, List.map_subset _ fun k hk => (apart k hk).1⟩
  have second : Superseded v.seq w.seq := by
    rw [← hw]; split
    · exact superseded_dscFails ..
    · exact .refl _
  have third : Superseded w.seq (supersede true dsc strs s).seq := by
    rw [unfolded]; split
    next close => exact superseded_endClose close _
    · exact .refl _
  refine ⟨(first.trans second).trans third, fun k hk named => ?_⟩
  obtain ⟨k', mem, same⟩ := List.mem_map.mp ((second.trans third).joins _ (List.mem_map.mpr ⟨k, hk, rfl⟩))
  rw [masked] at mem
  exact (apart k' mem).2 (same ▸ named)

/-! ### BLOCK_OPEN (R237, R260) -/

theorem openingOf_of_opening {s : State} (opens : openingStep s.seq.step) (scope : Nat) :
    openingOf scope s = { s with seq := { s.seq with scope := max scope s.seq.scope } } := by
  unfold openingOf
  rcases opens with e | e | e | e | e | e <;> rw [e]

theorem openingOf_of_idle {s : State} (idle : ¬ openingStep s.seq.step) (scope : Nat) :
    openingOf scope s = { s with seq := { s.seq with step := .openWait, scope, waitAt := some s.phys, openPar := seqPars s } } := by
  unfold openingOf
  split
  case h_7 => rfl
  all_goals next under => exact absurd (by simp [openingStep, under]) idle

/-- BLOCK_OPEN of a scope widens the opening under way, or begins one; with a scope other than 0 no join of a string is left. -/
theorem blockOpen_seq (scope : Nat) (s : State) :
    (¬ openingStep s.seq.step → (blockOpen scope s).seq.step = .openWait ∧ (blockOpen scope s).seq.scope = scope ∧
      (blockOpen scope s).seq.waitAt = some (blockOpen scope s).phys) ∧
    (openingStep s.seq.step → (blockOpen scope s).seq.step = s.seq.step ∧ (blockOpen scope s).seq.scope = max scope s.seq.scope) ∧
    (scope ≠ 0 → ∀ k ∈ (blockOpen scope s).seq.joins, 16 ≤ k.str) := by
  obtain ⟨superseded, apart⟩ := supersede_mains (scope == 2) (if scope = 0 then [] else allStrings) s
  rw [blockOpen_eq]
  generalize hu : sendLimits 0x03 0 3 (supersede true _ _ s) = u
  rw [← sendLimits_seq 0x03 0 3 (supersede true _ _ s), hu] at superseded apart
  have few (h : scope ≠ 0) : ∀ k ∈ u.seq.joins, 16 ≤ k.str := fun k hk => by
    have := apart k hk
    rw [if_neg h] at this
    simpa [allStrings] using this
  obtain ⟨step, scope_, -⟩ := superseded
  by_cases opens : openingStep u.seq.step
  · have same : u.seq.step = s.seq.step := step.resolve_right fun ended => by simp [openingStep, ended.1] at opens
    rw [openingOf_of_opening opens]
    exact ⟨fun idle => absurd (same ▸ opens) idle, fun _ => ⟨same, congrArg (max scope) scope_⟩, few⟩
  · rw [openingOf_of_idle opens]
    exact ⟨fun _ => ⟨rfl, rfl, rfl⟩, fun was => absurd (step.resolve_right (fun ended => ended.2 was) ▸ was) opens, few⟩

@[simp] theorem openItems_seq (t : Txn) (n : Nat) (named : List Nat) (s : State) : (openItems t n named s).seq = s.seq :=
  Only.seq_eq (ps := [.hub]) (by simp) (by decide)
@[simp] theorem countClamps_seq (n : Nat) (s : State) : (countClamps n s).seq = s.seq := Only.seq_eq (ps := [.par]) (by simp) (by decide)

/-- BLOCK_OPEN's transaction with its items open; a scope above 2 is counted (R512). -/
def blockOpenItems (dt : Nat) (t : Txn) (s : State) : State :=
  let u := if 2 < num t.payload 0 1 then countClamps 1 (atWork dt t s) else atWork dt t s
  openItems { t with served := true } 17 ((if scopeOf t = 0 then [] else closedStrings u) ++ [16]) u

theorem blockOpenItems_seq (dt : Nat) (t : Txn) (s : State) : (blockOpenItems dt t s).seq = s.seq := by
  rw [blockOpenItems, openItems_seq]
  split
  · rw [countClamps_seq]; rfl
  · rfl

theorem blockOpenItems_phys (dt : Nat) (t : Txn) (s : State) : (blockOpenItems dt t s).phys = s.phys + dt := by
  have only : Only [.hub, .par] (atWork dt t s) (blockOpenItems dt t s) := by unfold blockOpenItems; dsimp only; split <;> simp
  exact only.phys_eq (by decide)

/-- R237, R260: BLOCK_OPEN is always accepted. -/
theorem blockOpen_answers (dt : Nat) {rq : Request} {t : Txn} {s : State} (stands : Stands s rq 0xA002 t) :
    Answers (exec (.blockOpen dt rq) s) fun u =>
      (¬ openingStep s.seq.step → u.seq.step = .openWait ∧ u.seq.scope = scopeOf t ∧ u.seq.waitAt = some (s.phys + dt)) ∧
      (openingStep s.seq.step → u.seq.step = s.seq.step ∧ u.seq.scope = max (scopeOf t) s.seq.scope) ∧
      (scopeOf t ≠ 0 → ∀ k ∈ u.seq.joins, 16 ≤ k.str) := by
  have step : exec (.blockOpen dt rq) s = .next (blockOpen (scopeOf t) (blockOpenItems dt t s)) := by
    show execBlockOpen dt rq s = _
    rw [execBlockOpen, mailbox_of_stands stands]
    rfl
  have phys : (blockOpen (scopeOf t) (blockOpenItems dt t s)).phys = (blockOpenItems dt t s).phys :=
    Only.phys_eq (ps := [.hub, .seq, .ctl, .log, .free, .par, .lsw, .thm]) (by simp) (by decide)
  have begins := blockOpen_seq (scopeOf t) (blockOpenItems dt t s)
  rw [phys, blockOpenItems_phys, blockOpenItems_seq] at begins
  exact ⟨_, step, begins⟩

/-! ### The wait is over, and the staggered switch-offs (R247, R248, R260) -/

theorem mem_insertBy {α : Type} {f : α → Nat} {x y : α} {l : List α} : x ∈ insertBy f y l ↔ x = y ∨ x ∈ l := by
  induction l with
  | nil => simp [insertBy]
  | cons z l ih =>
    rw [insertBy]
    split
    · simp
    · simp [ih, or_left_comm]

theorem mem_sortBy {α : Type} {f : α → Nat} {x : α} {l : List α} : x ∈ sortBy f l ↔ x ∈ l := by
  induction l with
  | nil => rfl
  | cons y l ih => rw [sortBy, mem_insertBy, ih, List.mem_cons]

/-- R260: with the wait over and the mains on, MP, PCK and PCE go off, and MN's switch-off is due SEQ.K_GAP_T later. -/
theorem openMains_of_on {s : State} (on : roleActive s 3 0 = true ∨ roleActive s 4 0 = true) :
    (openMains s).seq.step = .openMn ∧ (openMains s).seq.closed = false ∧ (openMains s).seq.waitAt = none ∧
      (openMains s).lsw = (roleOff 6 0 (roleOff 5 0 (roleOff 3 0 s))).lsw ∧
      ({ role := 4, str := 0, due := s.phys + keptN s.seq.openPar pSeqKGapT * msNs } : OpenItem) ∈ (openMains s).seq.opens := by
  unfold openMains
  dsimp only
  generalize hu : roleOff 6 0 (roleOff 5 0 (roleOff 3 0 s)) = u
  have seq : u.seq = s.seq := by rw [← hu]; simp
  have phys : u.phys = s.phys := by rw [← hu]; simp
  rw [if_neg (by rcases on with h | h <;> simp [h])]
  exact ⟨rfl, rfl, rfl, rfl, by rw [seq, phys]; exact (mem_sortBy).mpr (by simp)⟩

theorem openCurrentWaitEnd_answers (dt : Nat) {s : State} (waits : s.seq.step = .openWait) (on : roleActive s 3 0 = true ∨ roleActive s 4 0 = true) :
    Answers (exec (.openCurrentWaitEnd dt) s) fun t =>
      (waitOver (advance dt s) = true → t.seq.step = .openMn ∧ t.seq.closed = false ∧ t.seq.waitAt = none ∧
        t.lsw = (roleOff 6 0 (roleOff 5 0 (roleOff 3 0 (advance dt s)))).lsw ∧
        ({ role := 4, str := 0, due := s.phys + dt + keptN s.seq.openPar pSeqKGapT * msNs } : OpenItem) ∈ t.seq.opens) ∧
      (waitOver (advance dt s) = false → t = advance dt s) := by
  have step : exec (.openCurrentWaitEnd dt) s =
      if s.seq.step = .openWait ∧ waitOver (advance dt s) = true then .next (openMains (advance dt s)) else .next (advance dt s) := rfl
  rw [step]
  exact answers_of_branches (fun due => ⟨fun _ => openMains_of_on (s := advance dt s) on, fun waiting => absurd (due.2.symm.trans waiting) (by decide)⟩)
    fun early => ⟨fun due => absurd ⟨waits, due⟩ early, fun _ => rfl⟩

/-- The switch-offs that are left. -/
def switchOffs (dt : Nat) (os : List OpenItem) (s : State) : State := { advance dt s with seq := { s.seq with opens := os } }

theorem openStagger_answers (dt : Nat) {s : State} {o : OpenItem} {os : List OpenItem} (next_ : s.seq.opens = o :: os) :
    Answers (exec (.openStagger dt) s) fun t =>
      (s.phys + dt < o.due → t = advance dt s) ∧
      (o.due ≤ s.phys + dt → t = openDue o (switchOffs dt os s)) := by
  have step : exec (.openStagger dt) s =
      if o.due ≤ s.phys + dt then .next (openDue o (switchOffs dt os s)) else .next (advance dt s) := by
    show execOpenStagger dt s = _
    rw [execOpenStagger]
    dsimp only
    rw [advance_seq, next_]
    rfl
  rw [step]
  exact answers_of_branches (fun due => ⟨fun early => absurd due (by omega), fun _ => rfl⟩) fun early => ⟨fun _ => rfl, fun due => absurd due early⟩

/-- MN's switch-off opens the mains: their current test is due. -/
theorem openDue_mn {o : OpenItem} (mn : o.role = 4) (s : State) :
    (openDue o s).seq = { s.seq with
      closed := false, mainTest := true, mainOffAt := s.phys, step := if s.seq.step = .openMn then .openWeld else s.seq.step } ∧
      (openDue o s).lsw = (roleOff 4 0 s).lsw := by
  unfold openDue
  rw [if_pos mn, mainsOpened]
  dsimp only
  rw [roleOff_seq, roleOff_phys]
  split <;> exact ⟨rfl, rfl⟩

theorem openDue_kn {o : OpenItem} (kn : o.role = 2) (s : State) : openDue o s = strOpened o.str (roleOff 2 o.str s) := by
  unfold openDue
  rw [if_neg (by rw [kn]; decide), if_pos kn]

theorem openDue_kp {o : OpenItem} (kp : o.role = 1) (s : State) : openDue o s = roleOff 1 o.str s := by
  unfold openDue
  rw [if_neg (by rw [kp]; decide), if_neg (by rw [kp]; decide)]

theorem strOf_strOpened (j : Nat) (s : State) : strOf (strOpened j s) j =
    { strOf s j with
      inService := false, joined := false, confPend := false, confAt := none, vTests := 3, vFound := [], iTest := true, offAt := s.phys } :=
  strOf_modStr ..

/-- R247, R248, R260: the next switch-off, once due, is the main pair's, a string's KN, or its KP. -/
theorem openStagger_opens (dt : Nat) {s : State} {o : OpenItem} {os : List OpenItem} (next_ : s.seq.opens = o :: os) :
    Answers (exec (.openStagger dt) s) fun t =>
      (s.phys + dt < o.due → t = advance dt s) ∧
      (o.due ≤ s.phys + dt → o.role = 4 → t.seq.opens = os ∧ t.seq.closed = false ∧ t.seq.mainTest = true ∧ t.seq.mainOffAt = s.phys + dt ∧
        (s.seq.step = .openMn → t.seq.step = .openWeld) ∧ t.lsw = (roleOff 4 0 (switchOffs dt os s)).lsw) ∧
      (o.due ≤ s.phys + dt → o.role = 2 → t.seq.opens = os ∧ inService t o.str = false ∧ (strOf t o.str).iTest = true ∧
        (strOf t o.str).vTests = 3 ∧ (strOf t o.str).offAt = s.phys + dt ∧ t.lsw = (roleOff 2 o.str (switchOffs dt os s)).lsw) ∧
      (o.due ≤ s.phys + dt → o.role = 1 → t.seq = { s.seq with opens := os } ∧ t.lsw = (roleOff 1 o.str (switchOffs dt os s)).lsw) := by
  obtain ⟨t, step, early, due⟩ := openStagger_answers dt next_
  refine ⟨t, step, early, fun now mn => ?_, fun now kn => ?_, fun now kp => ?_⟩
  · obtain ⟨seq, lsw⟩ := openDue_mn mn (switchOffs dt os s)
    rw [due now, seq, lsw]
    exact ⟨rfl, rfl, rfl, rfl, fun waits => if_pos waits, rfl⟩
  · have str := strOf_strOpened o.str (roleOff 2 o.str (switchOffs dt os s))
    have at_ : (roleOff 2 o.str (switchOffs dt os s)).phys = s.phys + dt := roleOff_phys ..
    have rest : (strOpened o.str (roleOff 2 o.str (switchOffs dt os s))).seq.opens = os :=
      (congrArg Seq.opens (roleOff_seq 2 o.str (switchOffs dt os s)) :)
    rw [due now, openDue_kn kn, inService, str]
    exact ⟨rest, rfl, rfl, rfl, at_, rfl⟩
  · rw [due now, openDue_kp kp]
    exact ⟨roleOff_seq .., rfl⟩

/-! ### STRING_OPEN (R237, R260) -/

theorem endStr_of_not_waiting {s : State} {ops : List Nat} {j : Nat} (none_ : anyWaits s ops j = false) (c : Nat) : endStr ops j c s = s := by
  rw [endStr, none_]; rfl

/-- An item opened for one opcode is no item of another. -/
theorem anyWaits_oneOpen (dt n : Nat) {j : Nat} {t : Txn} {s : State} {ops : List Nat} (none_ : anyWaits s ops j = false) (other : t.opcode ∉ ops) :
    anyWaits (oneOpen dt n j t s) ops j = false := by
  rw [anyWaits, List.any_eq_false] at none_ ⊢
  intro y hy
  obtain ⟨x, hx, rfl⟩ := List.mem_map.mp hy
  obtain ⟨z, hz, rfl⟩ := List.mem_map.mp hx
  by_cases own : portCode z.port = (txnKey t).1 ∧ z.tag = (txnKey t).2
  · rw [if_pos own, if_pos own]
    simp [Txn.opened, other]
  · rw [if_neg own, if_neg own]
    exact none_ z hz

/-- A string is no longer one that the close requests. -/
def unmasked (j : Nat) (s : State) : State := { s with seq := { s.seq with mask := s.seq.mask &&& ~~~ BitVec.ofNat 16 (maskOf [j]) } }

/-- A string with no join and no item of a close or a join waiting has nothing that its opening supersedes but the mask's bit. -/
theorem supersede_string {s : State} {j : Nat} (free : joinOf s j = none) (none_ : anyWaits s [0xA001, 0xA003] j = false) :
    supersede false false [j] s = unmasked j s := by
  have first : [j].foldl (fun s j => joinSuperseded j s) s = s := by
    rw [List.foldl_cons, List.foldl_nil, joinSuperseded, free]
    exact endStr_of_not_waiting none_ _
  have unfolded : supersede false false [j] s = unmasked j ([j].foldl (fun s j => joinSuperseded j s) s) := rfl
  rw [unfolded, first]

theorem bit_or_maskOf {j : Nat} (hj : j < 16) (m : BitVec 16) : bit (m ||| BitVec.ofNat 16 (maskOf [j])).toNat j = true := by
  have named : (maskOf [j]).testBit j = true := by rw [← bit_eq_testBit, bit_maskOf]; simp
  rw [bit_eq_testBit, BitVec.toNat_or, Nat.testBit_or, BitVec.toNat_ofNat, Nat.testBit_mod_two_pow, named]
  simp [hj]

/-- A string commanded open is out of service from now on, and in the opening's mask. -/
theorem openStrings_one {j : Nat} (hj : j < 16) (s : State) : inService (openStrings [j] s) j = false ∧
    bit (openStrings [j] s).seq.openMask.toNat j = true ∧ (strOf (openStrings [j] s) j).opening = true := by
  have str : strOf (openStrings [j] s) j = { strOf s j with inService := false, joined := false, opening := true, confPend := false } :=
    strOf_modStr j (fun x => { x with inService := false, joined := false, opening := true, confPend := false }) s
  exact ⟨congrArg StrSeq.inService str, bit_or_maskOf hj _, congrArg StrSeq.opening str⟩

/-- The strings that STRING_OPEN names, once what it supersedes is. -/
def stringsOpen (t : Txn) (strs : List Nat) (s : State) : State :=
  let toOpen := strs.filter fun j => !stringOff s j
  let u := strs.foldl (fun s j => if stringOff s j && !bit s.seq.openMask.toNat j then endItem (txnKey t) j 0x01 s else s) s
  if toOpen.isEmpty then u
  else
    let u := if u.seq.openMask = 0 then { u with seq := { u.seq with openPar := seqPars u } } else u
    let carries := toOpen.any fun j => decide (keptN u.seq.openPar pSeqOpenI * 1000 < (strCurrent u j).natAbs)
    openStrings toOpen (if carries then sendLimits 0x01 0 (g2Flags u) u else u)

theorem stringsOpen_of_off {s : State} {j : Nat} (off : stringOff s j = true) (outside : bit s.seq.openMask.toNat j = false) (t : Txn) :
    stringsOpen t [j] s = endItem (txnKey t) j 0x01 s :=
  (if_pos (by simp [off])).trans (if_pos (by simp [off, outside]))

theorem stringsOpen_of_on {s : State} {j : Nat} (on : stringOff s j = false) (t : Txn) : ∃ u, stringsOpen t [j] s = openStrings [j] u :=
  have all : [j].filter (fun j => !stringOff s j) = [j] := by simp [on]
  ⟨_, (if_neg (by simp [on])).trans (congrArg (openStrings · _) all)⟩

/-- What STRING_OPEN does with the strings it names. -/
def stringOpenNamed (strs : List Nat) (t : Txn) (s : State) : State := stringsOpen t strs (supersede false false strs (openItems t 16 strs s))

section stringOpen
variable (dt : Nat) {rq : Request} {t : Txn} {s : State} {j : Nat} (stands : Stands s rq 0xA004 t) (hj : j < 16) (named : num t.payload 0 2 = 2 ^ j)
include stands hj named

theorem execStringOpen_eq : exec (.stringOpen dt rq) s = .next (stringsOpen t [j] (supersede false false [j] (oneOpen dt 16 j t s))) := by
  have body : exec (.stringOpen dt rq) s = .next (mailbox 0xA004 dt rq (fun t => stringOpenNamed (setBits 16 (num t.payload 0 2)) t) s) := rfl
  rw [body, mailbox_of_stands stands]
  dsimp only
  rw [named, setBits_one hj, stringOpenNamed, openItems_of_named]
  rfl

/-- STRING_OPEN takes a closed string out of service, and answers an open one that no opening awaits. -/
theorem stringOpen_answers (none_ : anyWaits s [0xA001, 0xA003] j = false) (free : joinOf s j = none) :
    Answers (exec (.stringOpen dt rq) s) fun u =>
      let items := (List.replicate 16 0xFF).set j 0x01
      (stringOff s j = true → bit s.seq.openMask.toNat j = false →
        Replied t (itemsStatus 0xA004 items) (itemBytes items) s u ∧ inService u j = inService s j) ∧
      (stringOff s j = false → inService u j = false ∧ bit u.seq.openMask.toNat j = true ∧ (strOf u j).opening = true) := by
  rw [execStringOpen_eq dt stands hj named, answers_next, supersede_string (s := oneOpen dt 16 j t s) free
    (anyWaits_oneOpen dt 16 none_ (by rw [stands.opcode]; decide))]
  refine ⟨fun off outside => ?_, fun on => ?_⟩
  · have item : ItemOpen t 16 j s (unmasked j (oneOpen dt 16 j t s)) :=
      (stands.itemOpen dt 16 j).of_only (ps := [.seq]) (by simp [unmasked]) (by decide)
    rw [stringsOpen_of_off (s := unmasked j (oneOpen dt 16 j t s)) off outside]
    exact ⟨item.answered_string stands.opcode (by decide) 0x01, inService_congr (by rw [endItem_seq]; rfl) j⟩
  · obtain ⟨u, opened⟩ := stringsOpen_of_on (s := unmasked j (oneOpen dt 16 j t s)) on t
    have opens := openStrings_one hj u
    rw [← opened] at opens
    exact opens

end stringOpen

end Sys2Proof.Machine
end

section
set_option Elab.async false
namespace Sys2Proof.Machine
open Sys2Proof

/-! ### STRING_CLEAR (R236) -/

/-- A selector with one string named. -/
theorem bit_selector {j k : Nat} (apart : j ≠ k) (i : Nat) : bit (2 ^ k + 2 ^ j) i = (decide (i = k) || decide (i = j)) := by
  have word : 2 ^ k + 2 ^ j = maskOf [k, j] := by
    rw [maskOf_eq_sum, List.toFinset_cons, List.toFinset_cons, Finset.sum_insert (by simpa using apart.symm)]
    simp
  rw [word, bit_maskOf]
  simp

theorem setBits_selector {j k : Nat} (hj : j < 16) (hk : 16 ≤ k) : setBits 16 (2 ^ k + 2 ^ j) = [j] := by
  have low (n : Nat) : setBits 16 n = (List.range 16).filter (bit n) := rfl
  rw [← setBits_one hj, low, low]
  refine List.filter_congr fun i hi => ?_
  have small : i < 16 := List.mem_range.mp hi
  rw [bit_selector (by omega), bit_eq_testBit, Nat.testBit_two_pow, decide_eq_false (by omega : ¬ i = k), Bool.false_or, eq_comm]
  exact decide_eq_decide.mpr eq_comm

/-- The selectors are all that STRING_CLEAR's word holds. -/
theorem selector_in_word {j k : Nat} (hj : j < 16) (hk : k < 19) : (2 ^ k + 2 ^ j) &&& 0x7FFFF = 2 ^ k + 2 ^ j := by
  rw [show 0x7FFFF = 2 ^ 19 - 1 from rfl, Nat.and_two_pow_sub_one_eq_mod]
  refine Nat.mod_eq_of_lt ?_
  have := Nat.pow_le_pow_right (n := 2) (by decide) (Nat.le_of_lt_succ hk)
  have := Nat.pow_le_pow_right (n := 2) (by decide) (Nat.le_of_lt_succ hj)
  omega

theorem bit_and_not {j : Nat} (hj : j < 16) (m : BitVec 16) : bit (m &&& ~~~ BitVec.ofNat 16 (2 ^ j)).toNat j = false := by
  rw [bit_eq_testBit, BitVec.testBit_toNat, BitVec.getLsbD_and, BitVec.getLsbD_not, BitVec.getLsbD_ofNat, Nat.testBit_two_pow_self]
  simp [hj]

theorem p0_countClamps {id : Nat} (other : id ≠ pSysClampCount) (n : Nat) (s : State) : p0 (countClamps n s) id = p0 s id := by
  rw [p0, pn, pv, if_neg other, p0, pn, pv, if_neg other]; rfl

/-- A clamp counted takes no port away. -/
theorem CanReply.countClamps {t : Txn} {s u : State} (h : CanReply t s u) (n : Nat) : CanReply t s (countClamps n u) := by
  obtain ⟨powered, up, noSpi, origin, sent, epoch⟩ := h
  refine ⟨?_, up, noSpi, origin, sent, epoch⟩
  rw [← powered, portPowered, portPowered, p0_countClamps (by decide)]
  rfl

theorem CanReply.noteReserved {t : Txn} {s u : State} (h : CanReply t s u) (value mask : Nat) : CanReply t s (noteReserved value mask u) := by
  unfold Machine.noteReserved
  split
  · exact h
  · exact h.countClamps 1

/-- A completion that carries nothing is replied to, whatever its status. -/
theorem CanReply.replied_bare {t : Txn} {s u : State} (h : CanReply t s u) (status : Nat) :
    Replied t status [] s (complete t status [] u) := by
  obtain ⟨powered, up, noSpi, origin, sent, epoch⟩ := h
  obtain ⟨v, txns, vsent, position, failed, pow, par, pod, e⟩ := complete_eq t status [] u
  generalize hm : completionMsg u t.port t.tag t.opcode t.cls t.session t.seq status [] = m at e
  have bare : payloadFor status [] = [] := ite_self _
  have parts : m.kind = 1 ∧ m.port = t.port ∧ m.tag = t.tag ∧ m.opcode = t.opcode ∧ m.tc = t.cls ∧ m.status = status ∧ m.payload = [] ∧
      m.epoch = u.pow.epoch := by
    rw [← hm, completionMsg, withTrailer_eq]
    exact ⟨rfl, rfl, rfl, rfl, rfl, rfl, bare, rfl⟩
  obtain ⟨kind, port, tag, opcode, tc, status_, payload, epoch_⟩ := parts
  have ready : portPowered v m.port = true := by rw [port, portPowered_congr (by rw [pow]) par pod]; exact powered
  have leaves := sendMsg_sent ready (by rw [port, failed]; exact up) (by rw [port]; exact noSpi) (by rw [port, noOrigin, position]; exact origin)
  rw [e]
  refine ⟨⟨m, [], by rw [leaves, vsent, sent], kind, port, tag, opcode, tc, status_, payload, epoch_.trans epoch⟩, ?_⟩
  rw [findTxn_congr (sendMsg_txns _ v), findTxn_congr (t := v) (s := withHub u (dropTxn (txnKey t))) txns]
  exact findTxn_dropTxn _ u

@[simp] theorem endItem_prt (key : Nat × Nat) (i c : Nat) (s : State) : (endItem key i c s).prt = s.prt :=
  Only.prt_eq (ps := [.hub]) (by simp) (by decide)
@[simp] theorem unnameString_prt (j : Nat) (s : State) : (unnameString j s).prt = s.prt :=
  Only.prt_eq (ps := [.free, .par, .hub, .husk, .seq, .lsw, .ctl, .pos, .thm, .log]) (by simp) (by decide)

theorem clearG3_g3 (j : Nat) (s : State) : (clearG3 j s).prt.g3 = s.prt.g3 &&& ~~~ BitVec.ofNat 16 (2 ^ j) := by
  have left (key : Nat) (u : State) : (g2Leave key u).prt.g3 = u.prt.g3 := (congrArg Grades.g3 (g2Leave_uncalled key u) :)
  rw [clearG3, left, unnameString_prt]
  rfl

/-- A string is no longer suspect. -/
def weldCleared (j : Nat) (s : State) : State := modStr j (fun x => { x with weld := false }) s

theorem clearString_weldOnly {j : Nat} (hj : j < 16) (key : Nat × Nat) (s : State) : clearString key (2 ^ 18 + 2 ^ j) s j =
    endItem key j (if (strOf s j).weld then 0x00 else 0x01) (if (strOf s j).weld then weldCleared j s else s) := by
  have bits (i : Nat) (above : 16 ≤ i) : bit (2 ^ 18 + 2 ^ j) i = decide (i = 18) := by
    rw [bit_selector (by omega), decide_eq_false (by omega : ¬ i = j), Bool.or_false]
  rw [clearString, bits 16 (by decide), bits 17 (by decide), bits 18 (by decide)]
  cases (strOf s j).weld <;> rfl

theorem clearString_g3Only {j : Nat} (hj : j < 16) (key : Nat × Nat) (s : State) : clearString key (2 ^ 16 + 2 ^ j) s j =
    if bit s.prt.g3.toNat j then if g3Called s j then endItem key j 0x11 s else endItem key j 0x00 (clearG3 j s) else endItem key j 0x01 s := by
  have bits (i : Nat) (above : 16 ≤ i) : bit (2 ^ 16 + 2 ^ j) i = decide (i = 16) := by
    rw [bit_selector (by omega), decide_eq_false (by omega : ¬ i = j), Bool.or_false]
  rw [clearString, bits 16 (by decide), bits 17 (by decide), bits 18 (by decide)]
  rfl

section stringClear
variable (dt : Nat) {rq : Request} {t : Txn} {s : State} (stands : Stands s rq 0xA005 t)
include stands

/-- R236: WELD_SUSPECT and LOST are not a lower session's to clear. -/
theorem stringClear_of_lower (low : t.role < 2) (selected : bit (num t.payload 0 4) 17 = true ∨ bit (num t.payload 0 4) 18 = true) :
    Answers (exec (.stringClear dt rq) s) fun u => Replied t 0x12 [] s u ∧ u.seq = s.seq ∧ u.prt = s.prt := by
  have guard : ((bit (num t.payload 0 4) 17 || bit (num t.payload 0 4) 18) && decide (t.role < 2)) = true := by simpa [low] using selected
  have step : exec (.stringClear dt rq) s = .next (complete t 0x12 [] (noteReserved (num t.payload 0 4) 0x7FFFF (atWork dt t s))) := by
    show execStringClear dt rq s = _
    rw [execStringClear, mailbox_of_stands stands]
    dsimp only
    rw [if_pos guard]
    rfl
  have only : Only [.hub, .par] (atWork dt t s) (complete t 0x12 [] (noteReserved (num t.payload 0 4) 0x7FFFF (atWork dt t s))) := by simp
  exact ⟨_, step, ((stands.canReply dt).noteReserved _ _).replied_bare 0x12, only.seq_eq (by decide), only.prt_eq (by decide)⟩

/-- One selector and one string: the string is cleared with its item open. -/
theorem execStringClear_one {j k : Nat} (hj : j < 16) (hk : 16 ≤ k) (top : k < 19) (named : num t.payload 0 4 = 2 ^ k + 2 ^ j)
    (allowed : k = 16 ∨ 2 ≤ t.role) :
    exec (.stringClear dt rq) s = .next (clearString (txnKey t) (2 ^ k + 2 ^ j) (oneOpen dt 16 j t s) j) := by
  have bit17 := bit_selector (j := j) (k := k) (by omega) 17
  have bit18 := bit_selector (j := j) (k := k) (by omega) 18
  have guard : ¬((bit (2 ^ k + 2 ^ j) 17 || bit (2 ^ k + 2 ^ j) 18) && decide (t.role < 2)) = true := by
    rw [bit17, bit18]
    simp only [Bool.and_eq_true, Bool.or_eq_true, decide_eq_true_eq]
    omega
  show execStringClear dt rq s = _
  rw [execStringClear, mailbox_of_stands stands]
  dsimp only
  rw [named, noteReserved_of_clear (selector_in_word hj top), if_neg guard, setBits_selector hj hk]
  rfl

/-- WELD_SUSPECT is cleared where it is set. -/
theorem stringClear_weld {j : Nat} (hj : j < 16) (high : 2 ≤ t.role) (named : num t.payload 0 4 = 2 ^ 18 + 2 ^ j) :
    Answers (exec (.stringClear dt rq) s) fun u =>
      let items := (List.replicate 16 0xFF).set j (if (strOf s j).weld then 0x00 else 0x01)
      Replied t (itemsStatus 0xA005 items) (itemBytes items) s u ∧ (strOf u j).weld = false ∧ u.prt = s.prt := by
  have item := stands.itemOpen dt 16 j
  rw [execStringClear_one dt stands hj (by decide) (by decide) named (.inr high), answers_next, clearString_weldOnly hj]
  rw [show (strOf (oneOpen dt 16 j t s) j).weld = (strOf s j).weld from rfl]
  cases suspect : (strOf s j).weld with
  | false =>
    refine ⟨item.answered_string stands.opcode (by decide) 0x01, ?_, endItem_prt ..⟩
    exact (congrArg StrSeq.weld (strOf_congr (congrArg Seq.strs (endItem_seq ..)) j)).trans suspect
  | true =>
    have cleared := item.of_only (v := weldCleared j (oneOpen dt 16 j t s)) (ps := [.seq]) (by simp [weldCleared]) (by decide)
    refine ⟨cleared.answered_string stands.opcode (by decide) 0x00, ?_, endItem_prt ..⟩
    exact (congrArg StrSeq.weld (strOf_congr (congrArg Seq.strs (endItem_seq ..)) j)).trans (congrArg StrSeq.weld (strOf_modStr ..))

/-- A G3 latch is cleared only where it is set and no condition calls for it. -/
theorem stringClear_g3 {j : Nat} (hj : j < 16) (named : num t.payload 0 4 = 2 ^ 16 + 2 ^ j) :
    Answers (exec (.stringClear dt rq) s) fun u =>
      let items (c : Nat) := (List.replicate 16 0xFF).set j c
      let answer (c : Nat) := Replied t (itemsStatus 0xA005 (items c)) (itemBytes (items c)) s u
      (bit s.prt.g3.toNat j = false → answer 0x01 ∧ u.prt = s.prt) ∧
      (bit s.prt.g3.toNat j = true → g3Called s j = true → answer 0x11 ∧ u.prt = s.prt) ∧
      (bit s.prt.g3.toNat j = true → g3Called s j = false → bit u.prt.g3.toNat j = false) := by
  have answered := (stands.itemOpen dt 16 j).answered_string stands.opcode (by decide)
  rw [execStringClear_one dt stands hj (by decide) (by decide) named (.inl rfl), answers_next, clearString_g3Only hj]
  rw [show bit (oneOpen dt 16 j t s).prt.g3.toNat j = bit s.prt.g3.toNat j from rfl, show g3Called (oneOpen dt 16 j t s) j = g3Called s j from rfl]
  refine ⟨fun clear => ?_, fun set called => ?_, fun set uncalled => ?_⟩
  · rw [clear, if_neg Bool.false_ne_true]
    exact ⟨answered 0x01, endItem_prt ..⟩
  · rw [set, called, if_pos rfl, if_pos rfl]
    exact ⟨answered 0x11, endItem_prt ..⟩
  · rw [set, uncalled, if_pos rfl, if_neg Bool.false_ne_true, endItem_prt, clearG3_g3]
    exact bit_and_not hj _

end stringClear

end Sys2Proof.Machine
end

section
set_option Elab.async false
/-!
PROOF. Openings and clears (R236, R237, R258 to R261): each rule from its command's lemma.
-/
namespace Sys2Proof.Machine
open Sys2Proof

/-- Settles O36: each clause by the lemma of its command. That STRING_CLEAR ends whole with 0x12 where a lower session selects LOST or WELD_SUSPECT,
and with 0x11 while a condition calls for the G3, is the model's own reading (log 124). -/
theorem openingsAndClears : Obligations.OpeningsAndClears := by
  unfold Obligations.OpeningsAndClears
  refine ⟨fun dt rq t s => blockOpen_answers dt, fun dt s => openCurrentWaitEnd_answers dt, fun dt s o os => openStagger_opens dt, ?_,
    fun dt rq t s stands => stringClear_of_lower dt stands, fun dt rq t s j stands high hj => stringClear_weld dt stands hj high,
    fun dt rq t s j stands hj => stringClear_g3 dt stands hj⟩
  exact fun dt rq t s j stands none_ _ hj named => stringOpen_answers dt stands hj named none_

end Sys2Proof.Machine
end

section
set_option Elab.async false
/-!
PROOF. Joins (R237 to R249, R511): STRING_JOIN, the next string of the queue, its contactors with their confirmations and expiries.
-/
namespace Sys2Proof.Machine
open Sys2Proof

/-! ### STRING_JOIN (R237, R511) -/

/-- The join a request queues. -/
def newJoin (j : Nat) (report : Bool) (s : State) : Join :=
  { str := j, report, reqAt := s.phys, setNum := none, window := none, lead := false, dwellAt := none, dwellOk := false, knAt := none, kpAt := none
    hinder := none, sidx := 0, par := seqPars s }

/-- A request queued; the string awaits a fresh reading of its sense node. -/
def joinQueued (j : Nat) (report : Bool) (s : State) : State :=
  { modStr j (fun x => { x with auxFresh := false }) s with
    seq := { (modStr j (fun x => { x with auxFresh := false }) s).seq with joins := s.seq.joins ++ [newJoin j report s] } }

theorem requestJoin_of_free {s : State} {j : Nat} (free : joinState s j = none) (report : Bool) :
    requestJoin j report s = judgeJoin j (joinQueued j report s) := by
  rw [requestJoin, free]; rfl

/-- A queued request keeps of each string all but whether its reading is fresh. -/
theorem strOf_joinQueued {α : Type} (p : StrSeq → α) (apart : ∀ k : StrSeq, p { k with auxFresh := false } = p k) (j : Nat) (report : Bool) (s : State)
    (i : Nat) : p (strOf (joinQueued j report s) i) = p (strOf s i) :=
  strOf_modStr_field p apart j i s

theorem joinOf_joinQueued {s : State} {j : Nat} (free : joinOf s j = none) (report : Bool) :
    joinOf (joinQueued j report s) j = some (newJoin j report s) := by
  have before : s.seq.joins.find? (fun k => decide (k.str = j)) = none := free
  rw [joinOf, show (joinQueued j report s).seq.joins = s.seq.joins ++ [newJoin j report s] from rfl, List.find?_append, before]
  simp [newJoin]

theorem joinState_joinQueued (j : Nat) (report : Bool) (s : State) : joinState (joinQueued j report s) j = joinState s j := by
  rw [joinState, joinState, strOf_joinQueued StrSeq.weld fun _ => rfl]
  rfl

theorem noneJoined_joinQueued (j : Nat) (report : Bool) (s : State) : noneJoined (joinQueued j report s) = noneJoined s := by
  have same (i : Nat) : isJoined (joinQueued j report s) i = isJoined s i := by
    rw [isJoined, inService, strOf_joinQueued StrSeq.inService fun _ => rfl, strOf_joinQueued StrSeq.joined fun _ => rfl]
    rfl
  rw [noneJoined, funext same]
  rfl

/-- A string just queued awaits its reading. -/
theorem joinData_joinQueued (j : Nat) (report : Bool) (s : State) : joinData (joinQueued j report s) j = some 0x12 := by
  have stale : (strOf (joinQueued j report s) j).auxFresh = false := 
    (congrArg StrSeq.auxFresh (strOf_modStr j (fun x => { x with auxFresh := false }) s) :)
  rw [joinData, stale]
  exact if_pos (by simp)

/-- A request of a free string is queued with its data awaited, but on a live bus that no string serves. -/
theorem requestJoin_queues {s : State} {j : Nat} (free : joinState s j = none) (none_ : joinOf s j = none) (served : liveUnserved s (seqPars s) = false)
    (report : Bool) : ∃ k, joinOf (requestJoin j report s) j = some k ∧ k.reqAt = s.phys ∧ k.knAt = none ∧ k.report = report ∧
      (requestJoin j report s).hub = s.hub := by
  have queued := joinOf_joinQueued none_ report
  have live : liveUnserved (joinQueued j report s) (newJoin j report s).par = false := by
    rw [← served, liveUnserved, noneJoined_joinQueued]; rfl
  have judged : judgeJoin j (joinQueued j report s) = modJoin j (fun k => { k with
      hinder := some 0x12, dwellAt := none, dwellOk := false, lead := false, setNum := none, window := none }) (joinQueued j report s) := by
    rw [judgeJoin, queued]
    dsimp only
    rw [joinState_joinQueued, free, joinData_joinQueued, live]
    rfl
  rw [requestJoin_of_free free, judged]
  exact ⟨_, joinOf_modJoin queued fun _ => rfl, rfl, rfl, rfl, rfl⟩

section stringJoin
variable (dt : Nat) {rq : Request} {t : Txn} {s : State} {j : Nat} (stands : Stands s rq 0xA003 t) (hj : j < 16) (named : num t.payload 0 2 = 2 ^ j)
  (settled : s.par.pendingRole = false)
include stands hj named settled

theorem execStringJoin_eq : exec (.stringJoin dt rq) s = .next (
    let w := oneOpen dt 16 j t s
    if isJoined s j then endItem (txnKey t) j 0x01 w
    else if (joinOf s j).isSome then endItem (txnKey t) j 0x02 (modJoin j (fun k => { k with report := true }) w)
    else
      match joinState (atWork dt t s) j with
      | some c => endItem (txnKey t) j c w
      | none => requestJoin j false w) := by
  show execStringJoin dt rq s = _
  rw [execStringJoin, mailbox_of_stands stands]
  dsimp only
  rw [settleRoles_of_settled (s := atWork dt t s) settled, named, setBits_one hj, openItems_of_named]
  rfl

theorem stringJoin_answers : Answers (exec (.stringJoin dt rq) s) fun u =>
    let items (c : Nat) := (List.replicate 16 0xFF).set j c
    let answer (c : Nat) := Replied t (itemsStatus 0xA003 (items c)) (itemBytes (items c)) s u
    (isJoined s j = true → answer 0x01 ∧ u.seq = s.seq) ∧
    (isJoined s j = false → (joinOf s j).isSome = true → answer 0x02 ∧ ∃ k, joinOf u j = some k ∧ k.report = true) ∧
    (∀ c, isJoined s j = false → joinOf s j = none → joinState (atWork dt t s) j = some c → answer c ∧ u.seq = s.seq) ∧
    (isJoined s j = false → joinOf s j = none → joinState (atWork dt t s) j = none → liveUnserved s (seqPars s) = false →
      ∃ k, joinOf u j = some k ∧ k.reqAt = s.phys + dt ∧ k.knAt = none ∧ k.report = false ∧ u.hub.sent = s.hub.sent) := by
  have item := stands.itemOpen dt 16 j
  have answered (c : Nat) := item.answered_string stands.opcode (by decide) c
  rw [execStringJoin_eq dt stands hj named settled, answers_next]
  dsimp only
  refine ⟨fun joined => ?_, fun apart queued => ?_, fun c apart none_ refused => ?_, fun apart none_ free served => ?_⟩
  · rw [if_pos joined]
    exact ⟨answered 0x01, endItem_seq ..⟩
  · obtain ⟨k, waits⟩ := Option.isSome_iff_exists.mp queued
    rw [if_neg (by simp [apart]), if_pos queued]
    have reported := item.of_only (v := modJoin j (fun k => { k with report := true }) (oneOpen dt 16 j t s)) (ps := [.seq]) (by simp) (by decide)
    refine ⟨reported.answered_string stands.opcode (by decide) 0x02, { k with report := true }, ?_, rfl⟩
    rw [joinOf_congr (congrArg Seq.joins (endItem_seq ..))]
    exact joinOf_modJoin (s := oneOpen dt 16 j t s) waits fun _ => rfl
  · rw [if_neg (by simp [apart]), if_neg (by simp [none_]), refused]
    exact ⟨answered c, endItem_seq ..⟩
  · rw [if_neg (by simp [apart]), if_neg (by simp [none_]), free]
    obtain ⟨k, waits, at_, off, quiet, hub⟩ := requestJoin_queues (s := oneOpen dt 16 j t s) free none_ served false
    exact ⟨k, waits, at_, off, quiet, (congrArg Hub.sent hub :)⟩

end stringJoin

/-! ### The next string (R244) -/

/-- Rank, then number. -/
def joinKey (s : State) (k : Join) : Lex (Rat × Nat) := toLex (joinRank s k, k.str)

theorem joinKey_lt {s : State} {k m : Join} :
    joinKey s k < joinKey s m ↔ joinRank s k < joinRank s m ∨ (joinRank s k = joinRank s m ∧ k.str < m.str) := Prod.Lex.lt_iff

theorem joinKey_le {s : State} {k m : Join} :
    joinKey s k ≤ joinKey s m ↔ joinRank s k < joinRank s m ∨ (joinRank s k = joinRank s m ∧ k.str ≤ m.str) := Prod.Lex.le_iff

/-- The better of the best so far and a further join. -/
def nearest (s : State) (b : Option Join) (k : Join) : Option Join :=
  match b with
  | none => some k
  | some m => if joinRank s k < joinRank s m ∨ (joinRank s k = joinRank s m ∧ k.str < m.str) then some k else b

theorem nearest_some (s : State) (b : Option Join) (k : Join) : ∃ m, nearest s b k = some m ∧ (m = k ∨ b = some m) ∧
    joinKey s m ≤ joinKey s k ∧ ∀ x, b = some x → joinKey s m ≤ joinKey s x := by
  cases b with
  | none => exact ⟨k, rfl, .inl rfl, le_refl _, fun x h => nomatch h⟩
  | some m =>
    rw [nearest]
    split
    next closer => exact ⟨k, rfl, .inl rfl, le_refl _, fun x h => Option.some.inj h ▸ ((joinKey_lt).mpr closer).le⟩
    next no => exact ⟨m, rfl, .inr rfl, not_lt.mp fun h => no ((joinKey_lt).mp h), fun x h => (congrArg (joinKey s) (Option.some.inj h)).le⟩

theorem foldl_nearest {s : State} {l : List Join} {b : Option Join} {k : Join} (h : l.foldl (nearest s) b = some k) :
    (k ∈ l ∨ b = some k) ∧ ∀ m, m ∈ l ∨ b = some m → joinKey s k ≤ joinKey s m := by
  induction l generalizing b with
  | nil => exact ⟨.inr h, fun m hm => hm.elim (nomatch ·) fun e => (congrArg (joinKey s) (Option.some.inj (h.symm.trans e))).le⟩
  | cons x l ih =>
    obtain ⟨y, first, from_, xs, bs⟩ := nearest_some s b x
    rw [List.foldl_cons, first] at h
    obtain ⟨mem, least⟩ := ih h
    have le_y := least y (.inr rfl)
    refine ⟨?_, fun m hm => ?_⟩
    · rcases mem with mem | same
      · exact .inl (List.mem_cons_of_mem _ mem)
      · rw [← Option.some.inj same]
        exact from_.imp_left fun e => by rw [e]; exact List.mem_cons_self ..
    · rcases hm with hm | e
      · rcases List.mem_cons.mp hm with rfl | hm
        · exact le_y.trans xs
        · exact least m (.inl hm)
      · exact le_y.trans (bs m e)

/-- R244: the next string is the ready one of smallest rank, ties to the lowest number. -/
theorem nextJoin_least {s : State} {j : Nat} (h : nextJoin s = some j) : ∃ k ∈ s.seq.joins,
    k.str = j ∧ k.knAt = none ∧ k.dwellOk = true ∧ k.hinder = none ∧ ∀ m ∈ s.seq.joins, m.knAt = none → m.dwellOk = true → m.hinder = none →
      joinRank s k < joinRank s m ∨ (joinRank s k = joinRank s m ∧ j ≤ m.str) := by
  have unfolded : nextJoin s = ((s.seq.joins.filter fun k => k.knAt.isNone && k.dwellOk && k.hinder.isNone).foldl (nearest s) none).map (·.str) := rfl
  rw [unfolded] at h
  obtain ⟨k, best, rfl⟩ := Option.map_eq_some_iff.mp h
  obtain ⟨mem, least⟩ := foldl_nearest best
  obtain ⟨mem, ready⟩ := List.mem_filter.mp (mem.resolve_right (nomatch ·))
  simp only [Bool.and_eq_true, Option.isNone_iff_eq_none] at ready
  obtain ⟨⟨off, dwelt⟩, free⟩ := ready
  refine ⟨k, mem, rfl, off, dwelt, free, fun m hm off dwelt free => (joinKey_le).mp (least m (.inl ?_))⟩
  exact List.mem_filter.mpr ⟨hm, by simp [off, dwelt, free]⟩

/-! ### KN and KP (R244, R260) -/

theorem tryKn_of_running {s : State} (busy : (∃ k ∈ s.seq.joins, k.knAt.isSome = true) ∨ s.phys < s.seq.settleTo) : tryKn s = s :=
  if_pos (by simpa using busy)

/-- KN of the next string goes on once no join runs, the settle time is over and every check holds. -/
theorem tryKn_switches {s : State} {j : Nat} {k : Join} (idle : ∀ m ∈ s.seq.joins, m.knAt = none) (settled : s.seq.settleTo ≤ s.phys)
    (next_ : nextJoin s = some j) (state : joinState s j = none) (data : joinData s j = none) (waits : joinOf s j = some k) :
    joinOf (tryKn s) j = some { k with knAt := some s.phys } := by
  have free : ¬(s.seq.joins.any (·.knAt.isSome) || decide (s.phys < s.seq.settleTo)) = true := by
    rw [Bool.or_eq_true, List.any_eq_true, decide_eq_true_eq]
    rintro (⟨m, hm, on⟩ | early)
    · rw [idle m hm] at on; exact nomatch on
    · omega
  have switched (u : State) (same : u.seq.joins = s.seq.joins) (at_ : u.phys = s.phys) :
      joinOf (roleOn 2 j (modJoin j (fun k => { k with knAt := some u.phys }) u)) j = some { k with knAt := some s.phys } := by
    rw [joinOf_congr (congrArg Seq.joins (roleOn_seq ..)), at_]
    exact joinOf_modJoin (by rw [joinOf_congr same, waits]) fun _ => rfl
  rw [tryKn, if_neg free, next_]
  dsimp only
  rw [state, data, if_neg (by simp)]
  split
  · exact switched _ rfl rfl
  · exact switched _ rfl rfl

theorem joinSettleExpiry_answers (dt : Nat) {s : State} {j : Nat} (idle : ∀ m ∈ s.seq.joins, m.knAt = none) (settled : s.seq.settleTo ≤ s.phys + dt)
    (next_ : nextJoin (advance dt s) = some j) (state : joinState (advance dt s) j = none) (data : joinData (advance dt s) j = none) :
    Answers (exec (.joinSettleExpiry dt) s) fun t => ∃ k, joinOf t j = some k ∧ k.knAt = some (s.phys + dt) := by
  obtain ⟨m, mem, rfl, -⟩ := nextJoin_least next_
  obtain ⟨k, waits⟩ := exists_joinOf_of_mem mem
  exact ⟨_, rfl, _, tryKn_switches (s := advance dt s) idle settled next_ state data waits, rfl⟩

/-- A string whose dwell has ended. -/
def dwelt (j : Nat) (s : State) : State := modJoin j (fun k => { k with dwellOk := true }) s

theorem joinOf_dwelt {s : State} {j : Nat} {k : Join} (waits : joinOf s j = some k) : joinOf (dwelt j s) j = some { k with dwellOk := true } :=
  joinOf_modJoin waits fun _ => rfl

theorem joinData_dwelt {s : State} {j : Nat} {k : Join} (waits : joinOf s j = some k) : joinData (dwelt j s) j = joinData s j := by
  have latched : latchedIdx (dwelt j s) j = latchedIdx s j := by
    rw [latchedIdx, latchedIdx, joinOf_dwelt waits, waits]; rfl
  rw [joinData, joinData, latched]
  rfl

/-- R242, R244: the only string queued, its dwell over, has its KN switched on. -/
theorem joinDwellComplete_answers (dt : Nat) {s : State} {j d : Nat} {k : Join} (only : s.seq.joins = [k]) (str : k.str = j) (off : k.knAt = none)
    (free : k.hinder = none) (since_ : k.dwellAt = some d) (due : keptN k.par pSeqJoinDwell * msNs ≤ s.phys + dt - d)
    (settled : s.seq.settleTo ≤ s.phys + dt) (state : joinState (advance dt s) j = none) (data : joinData (advance dt s) j = none) :
    Answers (exec (.joinDwellComplete dt j) s) fun t => ∃ k', joinOf t j = some k' ∧ k'.dwellOk = true ∧ k'.knAt = some (s.phys + dt) := by
  have waits : joinOf (advance dt s) j = some k := by
    rw [joinOf, advance_seq, only, List.find?_cons_of_pos (by simpa using str)]
  have ends : dwellEnds j (advance dt s) = dwelt j (advance dt s) := by
    rw [dwellEnds, waits]
    dsimp only
    rw [since_, passed_advance]
    exact if_pos (decide_eq_true due)
  have joins : (dwelt j (advance dt s)).seq.joins = [{ k with dwellOk := true }] := by
    rw [dwelt, modJoin_seq, advance_seq, only]
    exact congrArg (· :: []) (if_pos str)
  have next_ : nextJoin (dwelt j (advance dt s)) = some j := by
    rw [nextJoin, joins]
    simp [off, free, str]
  have on := tryKn_switches (s := dwelt j (advance dt s)) (k := { k with dwellOk := true }) (by rw [joins]; simpa using off) settled next_ state
    ((joinData_dwelt waits).trans data) (joinOf_dwelt waits)
  have step : exec (.joinDwellComplete dt j) s = .next (tryKn (dwellEnds j (advance dt s))) := rfl
  rw [step, ends]
  exact ⟨_, rfl, _, on, rfl, rfl⟩

/-- R244, R260: KP goes on SEQ.K_GAP_T after KN. -/
theorem kpOn_answers (dt : Nat) {s : State} {k : Join} {a : Nat} (runs : s.seq.joins.find? (fun k => k.knAt.isSome && k.kpAt.isNone) = some k)
    (on : k.knAt = some a) :
    Answers (exec (.kpOn dt) s) fun t =>
      (keptN k.par pSeqKGapT * msNs ≤ s.phys + dt - a → ∃ k', joinOf t k.str = some k' ∧ k'.kpAt = some (s.phys + dt)) ∧
      (s.phys + dt - a < keptN k.par pSeqKGapT * msNs → t = advance dt s) := by
  obtain ⟨x, waits⟩ := exists_joinOf_of_mem (s := advance dt s) (List.mem_of_find?_eq_some runs)
  have step : exec (.kpOn dt) s = if decide (keptN k.par pSeqKGapT * msNs ≤ s.phys + dt - a) then
      .next (roleOn 1 k.str (modJoin k.str (fun k => { k with kpAt := some (s.phys + dt) }) (advance dt s))) else .next (advance dt s) := by
    show execKpOn dt s = _
    rw [execKpOn, advance_seq, runs]
    dsimp only
    rw [on, passed_advance]
    rfl
  rw [step]
  refine answers_of_branches (fun due => ⟨fun _ => ⟨{ x with kpAt := some (s.phys + dt) }, ?_, rfl⟩,
    fun early => absurd (of_decide_eq_true due) (by omega)⟩) fun early => ⟨fun due => absurd (decide_eq_true due) early, fun _ => rfl⟩
  rw [joinOf_congr (congrArg Seq.joins (roleOn_seq ..))]
  exact joinOf_modJoin waits fun _ => rfl

/-! ### Confirmations and expiries (R244, R245, R511) -/

/-- A join that is aborted ends with its code. -/
theorem abortJoin_ends {s : State} {j : Nat} {k : Join} (waits : joinOf s j = some k) (c : Nat) :
    joinOf (abortJoin j c s) j = none ∧ (abortJoin j c s).seq.last = c := by
  refine ⟨joinOf_endJoin .., ?_⟩
  unfold abortJoin
  dsimp only
  generalize hu : testsUnder _ (roleOff 2 j (roleOff 1 j s)) = u
  have joins : u.seq.joins = s.seq.joins := by rw [← hu, testsUnder_seq, roleOff_seq, roleOff_seq]
  rw [endJoin_seq (s := strOpened j u) (k := k) ((joinOf_congr joins j).trans waits)]

theorem joinConfirmTimeout_answers (dt : Nat) {s : State} {k : Join} {a : Nat} (runs : s.seq.joins.find? (·.kpAt.isSome) = some k)
    (on : k.kpAt = some a) :
    Answers (exec (.joinConfirmTimeout dt) s) fun t =>
      (keptN k.par pSeqKConfirmT * msNs ≤ s.phys + dt - a → joinOf t k.str = none ∧ t.seq.last = 0x21) ∧
      (s.phys + dt - a < keptN k.par pSeqKConfirmT * msNs → t = advance dt s) := by
  obtain ⟨x, waits⟩ := exists_joinOf_of_mem (s := advance dt s) (List.mem_of_find?_eq_some runs)
  have step : exec (.joinConfirmTimeout dt) s = if decide (keptN k.par pSeqKConfirmT * msNs ≤ s.phys + dt - a) then
      .next (abortJoin k.str 0x21 (advance dt s)) else .next (advance dt s) := by
    show execJoinConfirmTimeout dt s = _
    rw [execJoinConfirmTimeout, advance_seq, runs]
    dsimp only
    rw [on, passed_advance]
  rw [step]
  exact answers_of_branches (fun due => ⟨fun _ => abortJoin_ends waits 0x21, fun early => absurd (of_decide_eq_true due) (by omega)⟩)
    fun early => ⟨fun due => absurd (decide_eq_true due) early, fun _ => rfl⟩

/-- A string that carries no share is recorded; its opening runs under the values applied where none is under way. -/
def confLost (j : Nat) (s : State) : State :=
  let u := post .kNoConfirm 4 j [] s
  if u.seq.openMask = 0 then { u with seq := { u.seq with openPar := seqPars u } } else u

/-- What a pending confirmation finds: the string carries its share and is confirmed, or it opens with a record. -/
def confJudged (j : Nat) (i x : Int) (s : State) : State :=
  let along : Int := if 0 ≤ i then x else -x
  if (i.natAbs : Int) ≤ along * (4 * (serviceList s).length) then modStr j (fun x => { x with confPend := false, confAt := none }) s
  else openStrings [j] (confLost j s)

theorem confJudged_of_share {s : State} {i x : Int}
    (carries : (i.natAbs : Int) ≤ (if 0 ≤ i then x else -x) * (4 * (serviceList s).length)) (j : Nat) :
    confJudged j i x s = modStr j (fun x => { x with confPend := false, confAt := none }) s := if_pos carries

theorem confJudged_of_none {s : State} {i x : Int}
    (idle : (if 0 ≤ i then x else -x) * (4 * (serviceList s).length) < (i.natAbs : Int)) (j : Nat) :
    ∃ u, confJudged j i x s = openStrings [j] u := ⟨_, if_neg (Int.not_le.mpr idle)⟩

section confPending
variable (dt : Nat) {s : State} {j a : Nat} {i x : Int} (pends : (strOf s j).confPend = true) (since_ : (strOf s j).confAt = some a)
  (due : p0 s pSeqKConfirmT * msNs ≤ s.phys + dt - a) (current : iNow s = some i) (own : (strSample s j).current = some x)
include pends since_ due current own

theorem execConfPendingCheck_of_due : exec (.confPendingCheck dt j) s =
    if i.natAbs < (serviceList s).length * p0 s pSeqWeldI * 1000 then .next (advance dt s) else .next (confJudged j i x (advance dt s)) := by
  have ripe : ((strOf s j).confPend && passed (advance dt s) (strOf s j).confAt (p0 s pSeqKConfirmT * msNs)) = true := by
    rw [pends, since_, passed_advance, Bool.true_and]; exact decide_eq_true due
  have served : serviceList (advance dt s) = serviceList s := rfl
  show execConfPendingCheck dt j s = _
  rw [execConfPendingCheck]
  dsimp only
  rw [show strOf (advance dt s) j = strOf s j from rfl, p0_congr (s := s) (t := advance dt s) rfl, ripe,
    show iNow (advance dt s) = iNow s from rfl, current, show strSample (advance dt s) j = strSample s j from rfl, own]
  dsimp only
  rw [p0_congr (s := s) (t := advance dt s) rfl, served, confJudged, apply_ite Host.Outcome.next, served]
  rfl

/-- R245: a pending confirmation is judged at the current. -/
theorem confPendingCheck_answers (hj : j < 16) :
    Answers (exec (.confPendingCheck dt j) s) fun t =>
      let n := (serviceList s).length
      let along : Int := if 0 ≤ i then x else -x
      (i.natAbs < n * p0 s pSeqWeldI * 1000 → t = advance dt s) ∧
      (n * p0 s pSeqWeldI * 1000 ≤ i.natAbs → (i.natAbs : Int) ≤ along * (4 * n) →
        (strOf t j).confPend = false ∧ inService t j = inService s j) ∧
      (n * p0 s pSeqWeldI * 1000 ≤ i.natAbs → along * (4 * n) < (i.natAbs : Int) → inService t j = false ∧ bit t.seq.openMask.toNat j = true) := by
  have served : serviceList (advance dt s) = serviceList s := rfl
  rw [execConfPendingCheck_of_due dt pends since_ due current own]
  refine answers_of_branches (fun low => ⟨fun _ => rfl, fun high => absurd low (by omega), fun high => absurd low (by omega)⟩)
    fun high => ⟨fun low => absurd low high, fun _ carries => ?_, fun _ idle => ?_⟩
  · rw [confJudged_of_share (s := advance dt s) (by rw [served]; exact carries), strOf_modStr]
    exact ⟨rfl, strOf_modStr_field StrSeq.inService (f := fun x => { x with confPend := false, confAt := none }) (fun _ => rfl) j j (advance dt s)⟩
  · obtain ⟨u, opens⟩ := confJudged_of_none (s := advance dt s) (by rw [served]; exact idle) j
    obtain ⟨off, masked, -⟩ := openStrings_one hj u
    rw [opens]
    exact ⟨off, masked⟩

end confPending

/-- A queued join whose wait is over ends as its last hindrance, or with 0x20. -/
def waitEnded (j : Nat) (s : State) : State :=
  match joinOf s j with
  | none => s
  | some k => if k.knAt.isNone && decide (keptN k.par pSeqJoinWaitT * secNs ≤ since s k.reqAt) then endJoin j (k.hinder.getD 0x20) s else s

theorem execJoinWaitExpiry_eq (dt j : Nat) (s : State) : exec (.joinWaitExpiry dt j) s =
    let w := waitEnded j (advance dt s)
    if w.seq.step = .closeJoin ∧ keptN w.seq.par pSeqJoinWaitT * secNs ≤ since w w.seq.joinAt
        ∧ (serviceList w).length < keptN w.seq.par pSeqMinStrings then .next (endClose 0x20 w)
    else .next (closeGoesOn w) := rfl

/-- R511: outside a close's joins, the wait's end ends the join alone. -/
theorem joinWaitExpiry_of_waiting (dt : Nat) {s : State} {j : Nat} {k : Join} (waits : joinOf s j = some k) (off : k.knAt = none)
    (other : s.seq.step ≠ .closeJoin) :
    Answers (exec (.joinWaitExpiry dt j) s) fun t =>
      (keptN k.par pSeqJoinWaitT * secNs ≤ s.phys + dt - k.reqAt → joinOf t j = none ∧ t.seq.last = k.hinder.getD 0x20) ∧
      (s.phys + dt - k.reqAt < keptN k.par pSeqJoinWaitT * secNs → t = advance dt s) := by
  have queued : joinOf (advance dt s) j = some k := waits
  have ended : waitEnded j (advance dt s) = if decide (keptN k.par pSeqJoinWaitT * secNs ≤ s.phys + dt - k.reqAt) then
      endJoin j (k.hinder.getD 0x20) (advance dt s) else advance dt s := by
    rw [waitEnded, queued]
    dsimp only
    rw [off, since, advance_phys, Option.isNone_none, Bool.true_and]
  have step : (waitEnded j (advance dt s)).seq.step = s.seq.step := by
    rw [ended]
    split
    · rw [endJoin_seq queued]; rfl
    · rfl
  rw [execJoinWaitExpiry_eq]
  dsimp only
  rw [if_neg (fun h => other (step ▸ h.1)), closeGoesOn_of_other_step (by rw [step]; exact other), ended, answers_next]
  split
  next due => exact ⟨fun _ => ⟨joinOf_endJoin .., by rw [endJoin_seq queued]⟩, fun early => absurd (of_decide_eq_true due) (by omega)⟩
  next early => exact ⟨fun due => absurd (decide_eq_true due) early, fun _ => rfl⟩

/-- R255: a close whose strings have not joined in time ends. -/
theorem joinWaitExpiry_of_closing (dt : Nat) {s : State} {j : Nat} (none_ : joinOf s j = none) (joins : s.seq.step = .closeJoin)
    (due : keptN s.seq.par pSeqJoinWaitT * secNs ≤ s.phys + dt - s.seq.joinAt) (few : (serviceList s).length < keptN s.seq.par pSeqMinStrings) :
    Answers (exec (.joinWaitExpiry dt j) s) fun t => t.seq.step = .none ∧ t.seq.last = 0x20 := by
  have waits : waitEnded j (advance dt s) = advance dt s := by
    rw [waitEnded, show joinOf (advance dt s) j = none from none_]
  rw [execJoinWaitExpiry_eq]
  dsimp only
  rw [waits, if_pos ⟨joins, due, few⟩, answers_next]
  obtain ⟨js, ended, -⟩ := endClose_seq 0x20 (advance dt s)
  rw [ended]
  exact ⟨rfl, rfl⟩

end Sys2Proof.Machine
end

section
set_option Elab.async false
/-!
PROOF. The welds under the Husk's operations and under the openings: what follows from a G2 request that changes opens parts, and marks no weld
(R247 to R249, R261, R262).
-/
namespace Sys2Proof.Machine
open Sys2Proof

/-! ### What a part opened by the Husk keeps (R261, R262) -/

/-- No weld is marked or cleared, and no block sequence begins. -/
def WeldsKept (q r : Seq) : Prop :=
  (∀ j, (mget {} r.strs j).weld = (mget {} q.strs j).weld) ∧ r.mainWeld = q.mainWeld ∧ (q.step = .none → r.step = .none)

theorem WeldsKept.welds {q r : Seq} (h : WeldsKept q r) (j : Nat) : (mget {} r.strs j).weld = (mget {} q.strs j).weld := h.1 j
theorem WeldsKept.main {q r : Seq} (h : WeldsKept q r) : r.mainWeld = q.mainWeld := h.2.1
theorem WeldsKept.idle {q r : Seq} (h : WeldsKept q r) : q.step = .none → r.step = .none := h.2.2

theorem WeldsKept.refl (q : Seq) : WeldsKept q q := ⟨fun _ => rfl, rfl, id⟩
theorem WeldsKept.of_eq {q r : Seq} (h : r = q) : WeldsKept q r := h ▸ .refl q
theorem WeldsKept.trans {q r u : Seq} (h : WeldsKept q r) (k : WeldsKept r u) : WeldsKept q u :=
  ⟨fun j => (k.welds j).trans (h.welds j), k.main.trans h.main, fun i => k.idle (h.idle i)⟩
theorem WeldsKept.foldl {α : Type} {f : State → α → State} (h : ∀ t x, WeldsKept t.seq (f t x).seq) (l : List α) (s : State) :
    WeldsKept s.seq (l.foldl f s).seq := by
  induction l generalizing s with
  | nil => exact .refl _
  | cons x l ih => exact (h s x).trans (ih (f s x))

theorem WeldsKept.ite {p : Prop} [Decidable p] {q : Seq} {s t : State} (h : WeldsKept q s.seq) (k : WeldsKept q t.seq) :
    WeldsKept q (if p then s else t).seq := by split <;> assumption

theorem weldsKept_modStr (j : Nat) {f : StrSeq → StrSeq} (h : ∀ k, (f k).weld = k.weld) (s : State) : WeldsKept s.seq (modStr j f s).seq :=
  ⟨fun i => strOf_modStr_field StrSeq.weld h j i s, rfl, id⟩

theorem weldsKept_endJoin (j c : Nat) (s : State) : WeldsKept s.seq (endJoin j c s).seq := by
  cases h : joinOf s j with
  | none => rw [endJoin_of_none h]; exact .refl _
  | some k => rw [endJoin_seq h]; exact ⟨fun _ => rfl, rfl, id⟩

theorem weldsKept_endBlock (ops : List Nat) (c : Nat) (s : State) : WeldsKept s.seq (endBlock ops c s).seq := by
  rw [endBlock_seq]; exact ⟨fun _ => rfl, rfl, id⟩

theorem weldsKept_endClose (c : Nat) (s : State) : WeldsKept s.seq (endClose c s).seq := by
  obtain ⟨js, ended, -⟩ := endClose_seq c s
  rw [ended]
  exact ⟨fun _ => rfl, rfl, fun _ => rfl⟩

theorem weldsKept_endDsc (c : Nat) (s : State) : WeldsKept s.seq (endDsc c s).seq := by
  obtain ⟨js, ended, -⟩ := endDsc_seq c s
  rw [ended]
  refine ⟨fun j => ?_, Seq.dscEnded_mainWeld .., fun i => ?_⟩
  · exact congrArg (fun l => (mget {} l j).weld) (Seq.dscEnded_strs ..)
  · exact (Seq.dscEnded_step ..).trans (ite_eq_left_iff.mpr fun _ => i)

theorem weldsKept_strOpened (j : Nat) (s : State) : WeldsKept s.seq (strOpened j s).seq := by
  refine weldsKept_modStr j ?_ s
  exact fun _ => rfl

theorem weldsKept_stringPartOpened (j : Nat) (s : State) : WeldsKept s.seq (stringPartOpened j s).seq := by
  refine ((weldsKept_strOpened j s).trans (weldsKept_endJoin j 0x51 _)).trans ?_
  unfold stringPartOpened
  dsimp only
  rw [endStr_seq]
  exact ⟨fun _ => rfl, rfl, id⟩

theorem weldsKept_mainsOpeningEnded (s : State) : WeldsKept s.seq (mainsOpeningEnded s).seq := by
  unfold mainsOpeningEnded
  split
  · exact ⟨fun _ => rfl, rfl, fun _ => rfl⟩
  · exact ⟨fun _ => rfl, rfl, fun _ => rfl⟩
  · exact ⟨fun _ => rfl, rfl, fun _ => rfl⟩
  · exact .refl _

theorem weldsKept_closeEnded {p : Bool} (c : Nat) (s : State) : WeldsKept s.seq (if p then endClose c s else s).seq := by
  split
  · exact weldsKept_endClose c s
  · exact .refl _

theorem weldsKept_mainsPartOpened (s : State) : WeldsKept s.seq (mainsPartOpened s).seq := by
  have opened : WeldsKept s.seq (mainsOpened s).seq := ⟨fun _ => rfl, rfl, id⟩
  have ended := (opened.trans (weldsKept_closeEnded (p := closing (mainsOpened s)) 0x51 _)).trans (weldsKept_mainsOpeningEnded _)
  unfold mainsPartOpened
  dsimp only
  generalize mainsOpeningEnded _ = u at ended ⊢
  split
  · exact ended.trans (weldsKept_endBlock ..)
  · exact ended

theorem weldsKept_pathPartOpened (role : Nat) (s : State) : WeldsKept s.seq (pathPartOpened role s).seq := by
  unfold pathPartOpened
  refine .trans ?_ (weldsKept_closeEnded ..)
  split
  · exact ⟨fun _ => rfl, rfl, id⟩
  · exact .refl _

theorem weldsKept_drivePartStopped (s : State) : WeldsKept s.seq (drivePartStopped s).seq := by
  unfold drivePartStopped
  dsimp only
  split
  · refine .trans ?_ (weldsKept_endDsc 0x51 _)
    exact ⟨fun _ => rfl, rfl, id⟩
  · exact ⟨fun _ => rfl, rfl, id⟩

theorem weldsKept_drivePartOpened (role : Nat) (s : State) : WeldsKept s.seq (drivePartOpened role s).seq := by
  unfold drivePartOpened
  dsimp only
  refine (weldsKept_drivePartStopped s).trans ?_
  split
  · exact ⟨fun _ => rfl, rfl, id⟩
  · exact .refl _

/-- A part opened against its owner marks no weld. -/
theorem weldsKept_partOpened (role j : Nat) (s : State) : WeldsKept s.seq (partOpened role j s).seq := by
  have tests : WeldsKept s.seq (testsApplied s).seq := by
    unfold testsApplied; split
    · exact ⟨fun _ => rfl, rfl, id⟩
    · exact .refl _
  rw [partOpened_eq]
  refine tests.trans ?_
  generalize testsApplied s = u
  split_ifs
  · exact weldsKept_stringPartOpened j u
  · exact weldsKept_mainsPartOpened u
  · exact weldsKept_pathPartOpened role u
  · exact weldsKept_drivePartOpened role u
  · exact .refl _

/-! ### What the Husk's effects keep (R209 to R215, R261) -/

theorem weldsKept_reportOff (n : Nat) (was : Bool) (s : State) : WeldsKept s.seq (reportOff n was s).seq := by
  unfold reportOff
  split
  · exact weldsKept_partOpened ..
  · exact .refl _

@[simp] theorem loadGoesOff_seq (st : LoadSt) (c : Option Nat) (both : Bool) (n : Nat) (s : State) : (loadGoesOff st c both n s).seq = s.seq :=
  Only.seq_eq (ps := [.free, .par, .hub, .lsw, .thm, .log]) (by simp) (by decide)
@[simp] theorem enqueueLoad_seq (n : Nat) (s : State) : (enqueueLoad n s).seq = s.seq :=
  Only.seq_eq (ps := [.hub, .lsw, .thm, .log]) (by simp) (by decide)
@[simp] theorem modLoad_seq (n : Nat) (f : Load → Load) (s : State) : (modLoad n f s).seq = s.seq := rfl

theorem weldsKept_meetHold (held gates : List Nat) (n : Nat) (s : State) : WeldsKept s.seq (meetHold held gates n s).seq := by
  have off (st : LoadSt) (c : Option Nat) (was : Bool) (f : Load → Load) :
      WeldsKept s.seq (reportOff n was (modLoad n f (loadGoesOff st c true n s))).seq :=
    .trans (.of_eq (by rw [modLoad_seq, loadGoesOff_seq])) (weldsKept_reportOff ..)
  unfold meetHold
  dsimp only
  refine .ite (.refl _) (.ite (.ite (.refl _) (off ..)) (.ite (.ite (.refl _) (off ..)) (.ite (.refl _) (.ite (.ite ?_ ?_) (.refl _)))))
  · exact .of_eq (enqueueLoad_seq ..)
  · exact .of_eq (modLoad_seq ..)

theorem weldsKept_meetHolds (s : State) : WeldsKept s.seq (meetHolds s).seq := by
  unfold meetHolds
  exact .foldl (fun t n => weldsKept_meetHold (huskHeld s) (gated s) n t) allLoads s

@[simp] theorem forceLoops_seq (ks : List Nat) (s : State) : (forceLoops ks s).seq = s.seq :=
  Only.seq_eq (ps := [.hub, .ctl]) (by simp) (by decide)

theorem weldsKept_huskEffects (s : State) : WeldsKept s.seq (huskEffects s).seq := by
  refine (weldsKept_meetHolds s).trans ?_
  unfold huskEffects
  dsimp only
  rw [forceLoops_seq]
  generalize meetHolds s = u
  exact .ite ⟨fun _ => rfl, rfl, id⟩ ⟨fun _ => rfl, rfl, id⟩

@[simp] theorem modTrip_seq (src : Nat) (f : Trip → Trip) (s : State) : (modTrip src f s).seq = s.seq := rfl
@[simp] theorem noteTrip_seq (src : Nat) (s : State) : (noteTrip src s).seq = s.seq := Only.seq_eq (ps := [.met, .husk, .ctl]) (by simp) (by decide)
@[simp] theorem capTrigger_seq (src : Nat) (s : State) : (capTrigger src s).seq = s.seq := Only.seq_eq (ps := [.met, .ctl]) (by simp) (by decide)

theorem weldsKept_sourceActs (src : Nat) (s : State) : WeldsKept s.seq (sourceActs src s).seq := by
  have effects {u : State} (same : u.seq = s.seq) : WeldsKept s.seq (huskEffects u).seq := by rw [← same]; exact weldsKept_huskEffects u
  unfold sourceActs
  dsimp only
  split
  · exact .of_eq (post_seq ..)
  split
  · exact effects (post_seq ..)
  · refine effects ?_
    split <;> simp

theorem weldsKept_assertSource (src : Nat) (m : BitVec 16) (s : State) : WeldsKept s.seq (assertSource src m s).seq := by
  unfold assertSource
  dsimp only
  split
  · exact .refl _
  generalize hu : modTrip src _ _ = u
  have same : u.seq = s.seq := by rw [← hu]; split <;> rfl
  clear hu
  rw [← same]
  split
  · split
    · exact weldsKept_huskEffects u
    · exact .refl _
  · split
    · exact .refl _
    · exact weldsKept_sourceActs src u

theorem weldsKept_setPwmOff (off : Bool) (s : State) : WeldsKept s.seq (setPwmOff off s).seq := by
  unfold setPwmOff
  refine .trans ?_ (weldsKept_huskEffects _)
  cases off <;> exact .refl _

theorem weldsKept_beforeLowering (src : Nat) (s : State) : WeldsKept s.seq (beforeLowering src s).seq := by
  unfold beforeLowering
  dsimp only
  generalize hu : (if src = 15 then { s with husk := { s.husk with estop := false } } else s) = u
  have same : u.seq = s.seq := by rw [← hu]; split <;> rfl
  clear hu
  rw [← same]
  have clock : WeldsKept u.seq (if src = 24 ∧ u.husk.pwmOff = true then setPwmOff false u else u).seq := .ite (weldsKept_setPwmOff false u) (.refl _)
  exact .ite ((congrArg (WeldsKept u.seq) (post_seq ..)).mpr clock) clock

theorem weldsKept_releaseSource (src : Nat) (s : State) : WeldsKept s.seq (releaseSource src s).seq := by
  cases asserted : (tripOf s src).asserted with
  | false => rw [releaseSource_of_released asserted]; exact .refl _
  | true =>
    rw [releaseSource_of_asserted asserted]
    refine (weldsKept_beforeLowering src s).trans ?_
    generalize beforeLowering src s = u
    dsimp only
    refine .ite (.of_eq (modTrip_seq ..)) (.trans (.of_eq ?_) (weldsKept_huskEffects _))
    rw [modTrip_seq, modTrip_seq]

/-! ### What the grades keep (R216) -/

theorem weldsKept_setInhibits (chg dis : Bool) (s : State) : WeldsKept s.seq (setInhibits chg dis s).seq := by
  have follows (on : Bool) (src : Nat) (u : State) : WeldsKept u.seq (if on then assertSource src 0 u else releaseSource src u).seq := by
    split
    · exact weldsKept_assertSource ..
    · exact weldsKept_releaseSource ..
  unfold setInhibits
  dsimp only
  refine .trans ?_ (follows dis 19 _)
  refine .trans ?_ (follows chg 18 _)
  exact .of_eq rfl

theorem weldsKept_g2Follow (before reason : Nat) (s : State) : WeldsKept s.seq (g2Follow before reason s).seq := by
  rw [g2Follow_eq]
  refine .ite (.of_eq rfl) ?_
  dsimp only
  rw [sendLimits_seq]
  refine .trans ?_ (weldsKept_setInhibits _ _ (g2Timed s))
  exact .of_eq rfl

/-- The G2 requests standing are those of the callers. -/
theorem g2Flags_congr {s t : State} (chg : t.prt.g2chg = s.prt.g2chg) (dis : t.prt.g2dis = s.prt.g2dis) : g2Flags t = g2Flags s := by
  rw [g2Flags, chg, dis]; rfl

/-- Where the G2 requests stay as they were, sequencing is left alone. -/
theorem g2Follow_seq_of_flags {before reason : Nat} {s : State} (same : g2Flags (g2Follow before reason s) = before) :
    (g2Follow before reason s).seq = s.seq := by
  by_cases stays : g2Flags (g2Timed s) = before
  · rw [g2Follow_eq, if_pos stays]; rfl
  · refine absurd (Eq.trans ?_ same) stays
    rw [g2Follow_eq, if_neg stays]
    dsimp only
    exact (g2Flags_congr (by rw [sendLimits_prt, setInhibits_prt]) (by rw [sendLimits_prt, setInhibits_prt])).symm

theorem weldsKept_g2Enter (chg dis : Bool) (key : Nat) (s : State) : WeldsKept s.seq (g2Enter chg dis key s).seq := by
  unfold g2Enter
  refine .trans ?_ (weldsKept_g2Follow _ 0x03 _)
  exact .of_eq rfl
theorem weldsKept_g2Leave (key : Nat) (s : State) : WeldsKept s.seq (g2Leave key s).seq := by
  unfold g2Leave
  refine .trans ?_ (weldsKept_g2Follow _ 0x04 _)
  exact .of_eq rfl

theorem g2Enter_seq_of_flags {chg dis : Bool} {key : Nat} {s : State} (same : g2Flags (g2Enter chg dis key s) = g2Flags s) :
    (g2Enter chg dis key s).seq = s.seq :=
  (g2Follow_seq_of_flags (before := g2Flags s) same :)
theorem g2Leave_seq_of_flags {key : Nat} {s : State} (same : g2Flags (g2Leave key s) = g2Flags s) : (g2Leave key s).seq = s.seq :=
  (g2Follow_seq_of_flags (before := g2Flags s) same :)

end Sys2Proof.Machine
end

section
set_option Elab.async false
/-!
PROOF. The weld tests at the current (R247 to R249), and the joins settled.
-/
namespace Sys2Proof.Machine
open Sys2Proof

/-! ### What an opening that goes on keeps of the tests (R248, R258, R260) -/

/-- The weld marks, and which current tests are due. -/
def Seq.tests (q : Seq) : (Nat → Bool × Bool) × Bool × Bool :=
  (fun j => ((mget {} q.strs j).weld, (mget {} q.strs j).iTest), q.mainWeld, q.mainTest)

theorem tests_strOf {s t : State} (h : t.seq.tests = s.seq.tests) (j : Nat) :
    (strOf t j).weld = (strOf s j).weld ∧ (strOf t j).iTest = (strOf s j).iTest :=
  Prod.mk.inj (congrFun (Prod.mk.inj h).1 j)

theorem tests_main {q r : Seq} (h : r.tests = q.tests) : r.mainWeld = q.mainWeld ∧ r.mainTest = q.mainTest :=
  Prod.mk.inj (Prod.mk.inj h).2

theorem modStr_tests (j : Nat) {f : StrSeq → StrSeq} (h : ∀ k, ((f k).weld, (f k).iTest) = (k.weld, k.iTest)) (s : State) :
    (modStr j f s).seq.tests = s.seq.tests :=
  Prod.ext (funext fun i => strOf_modStr_field (fun k => (k.weld, k.iTest)) h j i s) rfl

theorem endScope_tests (n c : Nat) (s : State) : (endScope n c s).seq.tests = s.seq.tests := by rw [endScope_seq]; rfl

theorem openingDone_tests (j : Nat) (s : State) : (openingDone j s).seq.tests = s.seq.tests := by
  unfold openingDone
  dsimp only
  split
  · rw [endStr_seq]
    exact modStr_tests j (f := fun x => { x with opening := false }) (fun _ => rfl) s
  · rfl

theorem openStrings_tests (strs : List Nat) (s : State) : (openStrings strs s).seq.tests = s.seq.tests := by
  unfold openStrings
  refine foldl_keeps (p := fun t => t.seq.tests) (fun t j => ?_) strs s
  exact modStr_tests j (f := fun x => { x with inService := false, joined := false, opening := true, confPend := false }) (fun _ => rfl) t

theorem openDscPart_tests (s : State) : (openDscPart s).seq.tests = s.seq.tests := by
  unfold openDscPart
  dsimp only
  split
  · rw [endScope_tests]; rfl
  split
  · rw [endScope_tests]; rfl
  · rw [dscOpenSteps_seq]; rfl

theorem openStringsDone_tests (s : State) : (openStringsDone s).seq.tests = s.seq.tests := by
  unfold openStringsDone
  dsimp only
  split
  · split
    · rw [openDscPart_tests, endScope_tests]
    · exact endScope_tests 1 0x00 s
  · rfl

theorem openMainsDone_tests (s : State) : (openMainsDone s).seq.tests = s.seq.tests := by
  unfold openMainsDone
  dsimp only
  split
  · exact endScope_tests 0 0x00 s
  · rw [openStringsDone_tests]
    refine (foldl_keeps (p := fun t => t.seq.tests) (fun t j => ?_) allStrings _).trans ?_
    · split
      · rw [endItems_seq]
      · rfl
    · rw [openStrings_tests]
      exact endScope_tests 0 0x00 s

/-! ### The test of a string (R248, R249) -/

theorem weldsKept_openBlock (s : State) : WeldsKept s.seq (openBlock s).seq := by
  unfold openBlock
  refine .trans ?_ (weldsKept_assertSource 16 0 _)
  exact .of_eq (capTrigger_seq ..)

theorem weldsKept_g3Settle (j : Nat) (s : State) : WeldsKept s.seq (g3Settle j s).seq := .ite (weldsKept_g2Leave ..) (.refl _)

theorem g3Settle_seq_of_flags {j : Nat} {s : State} (same : g2Flags (g3Settle j s) = g2Flags s) : (g3Settle j s).seq = s.seq := by
  unfold g3Settle at same ⊢
  split
  next off => rw [if_pos off] at same; exact g2Leave_seq_of_flags same
  next on => rfl

/-- A string whose current test is made. -/
def stringTested (j : Nat) (s : State) : State := modStr j (fun x => { x with iTest := false }) s

/-- The opening goes on once a string's current test is made. -/
def openingGoesOn (j : Nat) (s : State) : State := openStringsDone (openingDone j (g3Settle j s))

theorem openingGoesOn_prt (j : Nat) (s : State) : (openingGoesOn j s).prt = (g3Settle j s).prt :=
  Only.prt_eq (ps := [.free, .par, .hub, .met, .seq, .lsw, .ctl, .thm, .log]) (by simp [openingGoesOn]) (by decide)

theorem openingGoesOn_tests (j : Nat) (s : State) : (openingGoesOn j s).seq.tests = (g3Settle j s).seq.tests := by
  rw [openingGoesOn, openStringsDone_tests, openingDone_tests]

theorem openingGoesOn_weld (j i : Nat) (s : State) : (strOf (openingGoesOn j s) i).weld = (strOf s i).weld :=
  (tests_strOf (openingGoesOn_tests j s) i).1.trans ((weldsKept_g3Settle j s).welds i)

section stringTest
variable (dt : Nat) {s : State} {j : Nat} {i : Int} (tests : (strOf s j).iTest = true)
  (due : keptN s.seq.openPar pSeqWeldT * msNs ≤ s.phys + dt - (strOf s j).offAt) (current : (strSample s j).current = some i)
include tests due current

theorem execWeldCurrentTest_string : exec (.weldCurrentTest dt (.string j)) s =
    .next (openingGoesOn j (if keptN s.seq.openPar pSeqWeldI * 1000 < i.natAbs then openBlock (markWeld 1 j (stringTested j (advance dt s)))
      else stringTested j (advance dt s))) := by
  have ripe : ((strOf s j).iTest && decide (keptN s.seq.openPar pSeqWeldT * msNs ≤ s.phys + dt - (strOf s j).offAt)) = true := by
    rw [tests, Bool.true_and]; exact decide_eq_true due
  show execWeldCurrentTest dt (.string j) s = _
  rw [execWeldCurrentTest]
  dsimp only
  rw [show strOf (advance dt s) j = strOf s j from rfl, advance_seq, since, advance_phys, ripe, show strSample (advance dt s) j = strSample s j from rfl,
    current]
  rfl

/-- R248, R249: a current left after the opening marks the string, and FW_OPEN_BLK asserts. -/
theorem weldCurrentTest_string_welded (flows : keptN s.seq.openPar pSeqWeldI * 1000 < i.natAbs) :
    Answers (exec (.weldCurrentTest dt (.string j)) s) fun t => (strOf t j).weld = true ∧ t.prt.g4 = true := by
  have marked : (strOf (markWeld 1 j (stringTested j (advance dt s))) j).weld = true := by
    have posted (u : State) : strOf (postWeld 1 j u) j = strOf u j := strOf_congr (congrArg Seq.strs (post_seq ..)) j
    rw [markWeld, posted, strOf_modStr]
  rw [execWeldCurrentTest_string dt tests due current, if_pos flows, answers_next]
  refine ⟨?_, ?_⟩
  · rw [openingGoesOn_weld]
    exact ((weldsKept_openBlock _).welds j).trans marked
  · rw [openingGoesOn_prt]
    exact (congrArg Grades.g4 (g3Settle_uncalled j _) :).trans (by rw [openBlock_prt]; rfl)

/-- R248: no current left, the test is over, unless a G2 request that changes has the Husk open the pair anew. -/
theorem weldCurrentTest_string_clear (still : i.natAbs ≤ keptN s.seq.openPar pSeqWeldI * 1000) :
    Answers (exec (.weldCurrentTest dt (.string j)) s) fun t =>
      (strOf t j).weld = (strOf s j).weld ∧ (g2Flags t = g2Flags s → (strOf t j).iTest = false) := by
  have tested : strOf (stringTested j (advance dt s)) j = { strOf s j with iTest := false } := strOf_modStr ..
  rw [execWeldCurrentTest_string dt tests due current, if_neg (by omega), answers_next]
  refine ⟨?_, fun same => ?_⟩
  · rw [openingGoesOn_weld, tested]
  · have flags : g2Flags (g3Settle j (stringTested j (advance dt s))) = g2Flags s := by
      rw [← same, g2Flags, g2Flags, openingGoesOn_prt]
    rw [(tests_strOf (openingGoesOn_tests j _) j).2, strOf_congr (congrArg Seq.strs (g3Settle_seq_of_flags (s := stringTested j (advance dt s)) flags)),
      tested]

end stringTest

/-! ### The test of the main pair (R248, R249) -/

/-- Sequencing as the test of a welded main pair leaves it, before its G2 is called for. -/
def Seq.mainMarked (q : Seq) : Seq := { q with mainTest := false, mainWeld := true, step := .none }

/-- Sequencing as the test of a clear main pair leaves it. -/
def Seq.mainCleared (q : Seq) : Seq := { q with mainTest := false, mainWeld := false }

/-- The main pair welded: its mark, its G2, and the openings that fail. -/
def mainWelded (s : State) : State := g2Enter true true keyMain (postWeld 3 0 { s with seq := s.seq.mainMarked })

/-- The openings under way fail for the welded pair. -/
def openingFails (s : State) : State :=
  endScope 2 0x22 (allStrings.foldl (fun s j => endItems [0xA002] j 0x22 s) (if p0 s pSeqDscMode = 1 then roleOff 7 0 s else s))

/-- The main pair clear: its G2 is called for no longer. -/
def mainClear (s : State) : State := g2Leave keyMain { s with seq := s.seq.mainCleared }

theorem weldsKept_mainWelded (s : State) : WeldsKept s.seq.mainMarked (mainWelded s).seq := by
  unfold mainWelded
  refine .trans ?_ (weldsKept_g2Enter true true keyMain _)
  exact .of_eq (post_seq ..)

theorem mainWelded_seq_of_flags {s : State} (same : g2Flags (mainWelded s) = g2Flags s) : (mainWelded s).seq = s.seq.mainMarked := by
  have before : g2Flags (postWeld 3 0 { s with seq := s.seq.mainMarked }) = g2Flags s := g2Flags_congr (by rw [postWeld, post_prt]) (by rw [postWeld, post_prt])
  exact (g2Enter_seq_of_flags (same.trans before.symm)).trans (post_seq ..)

theorem weldsKept_mainClear (s : State) : WeldsKept s.seq.mainCleared (mainClear s).seq := by
  unfold mainClear
  refine .trans ?_ (weldsKept_g2Leave keyMain _)
  exact .of_eq rfl

theorem mainClear_seq_of_flags {s : State} (same : g2Flags (mainClear s) = g2Flags s) : (mainClear s).seq = s.seq.mainCleared :=
  (g2Leave_seq_of_flags (s := { s with seq := s.seq.mainCleared }) same :)

/-- The opening goes on where it awaited the main pair. -/
def mainsGoOn (s : State) : State := if s.seq.step = .openWeld then openMainsDone s else s

theorem mainsGoOn_tests (s : State) : (mainsGoOn s).seq.tests = s.seq.tests := by
  unfold mainsGoOn; split
  · exact openMainsDone_tests s
  · rfl

theorem mainsGoOn_prt (s : State) : (mainsGoOn s).prt = s.prt := by
  unfold mainsGoOn; split
  · exact Only.prt_eq (ps := [.free, .par, .hub, .met, .seq, .lsw, .ctl, .thm, .log]) (by simp) (by decide)
  · rfl

theorem openingFails_seq (s : State) : (openingFails s).seq = { s.seq with last := 0x22 } := by
  have off : (if p0 s pSeqDscMode = 1 then roleOff 7 0 s else s).seq = s.seq := by
    split
    · exact roleOff_seq ..
    · rfl
  rw [openingFails, endScope_seq, foldl_keeps (p := State.seq) (fun t j => endItems_seq ..), off]

theorem openingFails_prt (s : State) : (openingFails s).prt = s.prt := by
  have ended (u : State) : (endScope 2 0x22 u).prt = u.prt := Only.prt_eq (ps := [.hub, .seq]) (by simp) (by decide)
  have items (u : State) (j : Nat) : (endItems [0xA002] j 0x22 u).prt = u.prt := Only.prt_eq (ps := [.hub]) (by simp) (by decide)
  have off : (roleOff 7 0 s).prt = s.prt := Only.prt_eq (ps := [.free, .par, .hub, .lsw, .thm, .log]) (by simp) (by decide)
  rw [openingFails, ended, foldl_keeps (p := State.prt) items]
  split
  · exact off
  · rfl

section mainTest
variable (dt : Nat) {s : State} {i : Int} (tests : s.seq.mainTest = true)
  (due : keptN s.seq.openPar pSeqWeldT * msNs ≤ s.phys + dt - s.seq.mainOffAt) (current : iNow s = some i)
include tests due current

theorem execWeldCurrentTest_main : exec (.weldCurrentTest dt .main) s =
    if keptN s.seq.openPar pSeqWeldI * 1000 < i.natAbs then .next (openingFails (mainWelded (advance dt s)))
    else .next (mainsGoOn (mainClear (advance dt s))) := by
  have ripe : (s.seq.mainTest && decide (keptN s.seq.openPar pSeqWeldT * msNs ≤ s.phys + dt - s.seq.mainOffAt)) = true := by
    rw [tests, Bool.true_and]; exact decide_eq_true due
  show execWeldCurrentTest dt .main s = _
  rw [execWeldCurrentTest]
  dsimp only
  rw [advance_seq, since, advance_phys, ripe, show iNow (advance dt s) = iNow s from rfl, current]
  rfl

/-- R248, R249: the main pair's test marks it as its current tells; it is over unless a G2 request that changes has the Husk open the pair anew. -/
theorem weldCurrentTest_main_answers : Answers (exec (.weldCurrentTest dt .main) s) fun t =>
    (g2Flags t = g2Flags s → t.seq.mainTest = false) ∧ t.seq.mainWeld = decide (keptN s.seq.openPar pSeqWeldI * 1000 < i.natAbs) ∧
      (keptN s.seq.openPar pSeqWeldI * 1000 < i.natAbs → t.seq.step = .none ∧ t.seq.last = 0x22) := by
  rw [execWeldCurrentTest_main dt tests due current]
  refine answers_of_branches (fun flows => ⟨fun same => ?_, ?_, fun _ => ?_⟩) fun still => ⟨fun same => ?_, ?_, fun flows => absurd flows still⟩
  · have flags : g2Flags (mainWelded (advance dt s)) = g2Flags s := by rw [← same, g2Flags, g2Flags, openingFails_prt]
    have kept := mainWelded_seq_of_flags (s := advance dt s) flags
    rw [openingFails_seq, kept]
    rfl
  · rw [openingFails_seq, decide_eq_true flows]
    exact (weldsKept_mainWelded (advance dt s)).main
  · rw [openingFails_seq]
    exact ⟨(weldsKept_mainWelded (advance dt s)).idle rfl, rfl⟩
  · have flags : g2Flags (mainClear (advance dt s)) = g2Flags s := by rw [← same, g2Flags, g2Flags, mainsGoOn_prt]
    rw [(tests_main (mainsGoOn_tests _)).2, mainClear_seq_of_flags (s := advance dt s) flags]
    rfl
  · rw [(tests_main (mainsGoOn_tests _)).1, decide_eq_false still]
    exact (weldsKept_mainClear (advance dt s)).main

end mainTest

end Sys2Proof.Machine
end

section
set_option Elab.async false
/-!
PROOF. Joins, their confirmations, expiries and weld tests (R237 to R249, R511): each rule from its command's lemma.
-/
namespace Sys2Proof.Machine
open Sys2Proof

/-- Settles O33: each clause by the lemma of its command. That a later test that passes releases the failed main pair's G2 is the model's own choice
(log 46), and so is when LAST is written (log 158). -/
theorem stringsJoinTheBus : Obligations.StringsJoinTheBus := by
  unfold Obligations.StringsJoinTheBus
  refine ⟨fun dt rq t s j stands hj named settled => stringJoin_answers dt stands hj named settled, fun s j => nextJoin_least,
    fun dt s busy => congrArg Host.Outcome.next (tryKn_of_running (s := advance dt s) busy), fun dt s j => joinSettleExpiry_answers dt,
    fun dt s j k d => joinDwellComplete_answers dt, fun dt s k a => kpOn_answers dt, fun dt s k a => joinConfirmTimeout_answers dt,
    fun dt j s a i x hj pends since_ due current own => confPendingCheck_answers dt pends since_ due current own hj,
    fun dt j s k => joinWaitExpiry_of_waiting dt, fun dt j s => joinWaitExpiry_of_closing dt,
    fun dt j s i => weldCurrentTest_string_welded dt, fun dt j s i => weldCurrentTest_string_clear dt, fun dt s i => weldCurrentTest_main_answers dt⟩

end Sys2Proof.Machine
end

section
set_option Elab.async false
/-!
PROOF. The events of the load switch array (R268, R274 to R291, R509): what each does where its condition holds.
-/
namespace Sys2Proof.Machine
open Sys2Proof

/-! ### Admission and start (R268, R274 to R276) -/

theorem loadAdmissionCheck_of_none (dt : Nat) (m : LoadMeas) {s : State} (none_ : s.lsw.queue = []) (calm : s.lsw.overload = false) :
    exec (.loadAdmissionCheck dt m) s = .next (takeMeas m (advance dt s)) := by
  have calm' : (takeMeas m (advance dt s)).lsw.overload = false := calm
  have none' : (takeMeas m (advance dt s)).lsw.queue = [] := none_
  show execLoadAdmissionCheck dt m s = _
  simp [execLoadAdmissionCheck, calm', none']

theorem loadStaggerTimeout_of_due (dt : Nat) {n : Nat} {s : State} (waiting : waits (loadOf s n) = true) (first : (loadOf s n).resume = false)
    (due : p0 s pLswStaggerMax * msNs ≤ s.phys + dt - (loadOf s n).waitAt) :
    exec (.loadStaggerTimeout dt n) s = .next (loadGoesOff .off (some 0x20) false n (advance dt s)) :=
  if_pos (show (waits (loadOf s n) && decide (p0 s pLswStaggerMax * msNs ≤ s.phys + dt - (loadOf s n).waitAt) &&
    !((loadOf s n).resume && s.lsw.locked)) = true by simp [waiting, first, due])

theorem loadChannelStart_of_gap (dt : Nat) {n h : Nat} {s : State} (hs : loadHs s n = some h) (clock : s.lsw.clock = true)
    (on : isActive s n = true) (starting : (loadOf s n).starting = true) (gap : gapFree (advance dt s) = true) :
    exec (.loadChannelStart dt n) s = .next (loadIsOn n (if (hsOf s h).on then advance dt s else chanOn (.hs h) (advance dt s))) := by
  have hs' : loadHs (advance dt s) n = some h := hs
  show execLoadChannelStart dt n s = _
  simp only [execLoadChannelStart, hs']
  exact if_pos (show (s.lsw.clock && isActive s n && (loadOf s n).starting && gapFree (advance dt s)) = true by rw [clock, on, starting, gap]; rfl)

/-- Settles O45: each clause by its command's condition. -/
theorem loadAdmissionCommandsComplete : Obligations.LoadAdmissionCommandsComplete := by
  unfold Obligations.LoadAdmissionCommandsComplete
  refine ⟨fun dt m s none_ calm => loadAdmissionCheck_of_none dt m none_ calm,
    fun dt n s waiting first due => loadStaggerTimeout_of_due dt waiting first due, fun dt n h s hs clock on starting gap off => ?_,
    fun dt n s => rfl, fun dt m s => rfl⟩
  rw [loadChannelStart_of_gap dt hs clock on starting gap, off, if_neg Bool.false_ne_true]

/-! ### A channel that latches or cools (R282 to R285) -/

theorem chanOf_advance (dt : Nat) (s : State) (c : Chan) : chanOf (advance dt s) c = chanOf s c := by cases c <;> rfl

theorem channelOff_off (c : Chan) (each : Nat → State → State) (s : State) : (chanOf (channelOff c each s) c).on = false :=
  congrArg Channel.on (chanOf_modChan c (fun k => { k with on := false }) _)

/-- With no active load on it the channel alone changes. -/
theorem channelOff_of_idle {c : Chan} {s : State} (each : Nat → State → State) (idle : ∀ n ∈ loadsOn s c, isActive s n = false) :
    channelOff c each s = modChan c (fun k => { k with on := false }) s := by
  have none_ : (loadsOn s c).filter (isActive s) = [] := List.filter_eq_nil_iff.mpr fun n hn => by simp [idle n hn]
  rw [channelOff, none_]
  rfl

/-- A channel's own change leaves its loads as they are. -/
theorem idle_modChan {c : Chan} {s : State} (f : Channel → Channel) (idle : ∀ n ∈ loadsOn s c, isActive s n = false) :
    ∀ n ∈ loadsOn (modChan c f s) c, isActive (modChan c f s) n = false := by
  cases c <;> exact idle

/-- Settles O46: a channel that latches or cools is off, and alone changes where no load on it is active. -/
theorem channelEventsComplete : Obligations.ChannelEventsComplete := by
  unfold Obligations.ChannelEventsComplete
  refine ⟨fun dt c s on => ?_, fun dt c s cold => ?_, fun dt c s on => ?_, fun dt c s cooling none_ => ?_⟩
  · rw [← chanOf_advance dt] at on
    rw [show exec (.channelOvercurrent dt c) s = .next _ from if_pos on, answers_next]
    exact ⟨channelOff_off .., fun idle => channelOff_of_idle loadOc (idle_modChan _ idle)⟩
  · exact if_neg (by rw [chanOf_advance, cold]; exact Bool.false_ne_true)
  · rw [← chanOf_advance dt] at on
    rw [show exec (.channelThermalShutdown dt c) s = .next _ from if_pos on, answers_next, chanOf_modChan]
    exact ⟨channelOff_off .., rfl, fun idle => by rw [channelOff_of_idle (s := advance dt s) loadTh idle]⟩
  · have nobody : (loadsOn (advance dt s) c).filter (fun n => (loadOf (advance dt s) n).state == .thermal) = [] :=
      List.filter_eq_nil_iff.mpr fun n hn => by rw [beq_iff_eq]; exact none_ n hn
    rw [← chanOf_advance dt] at cooling
    rw [show exec (.channelThermalRestart dt c) s = .next _ from if_pos cooling, nobody]
    rfl

/-! ### The array as a whole (R268, R287, R288, R291) -/

theorem clampLockClear_of_low (dt : Nat) {s : State} (locked : s.lsw.locked = true) (none_ : s.lsw.queue = [])
    (low : s.lsw.clamp * expNeg (((s.phys + dt - s.lsw.clampAt : Nat) : Rat) / (10 * secNs : Nat)) < (p0 s pLswClampESum * 5 : Nat)) :
    exec (.clampLockClear dt) s = .next (withLsw (advance dt s) fun x => { x with
      locked := false, clamp := s.lsw.clamp * expNeg (((s.phys + dt - s.lsw.clampAt : Nat) : Rat) / (10 * secNs : Nat)), clampAt := s.phys + dt }) := by
  refine (if_pos (Bool.and_eq_true_iff.mpr ⟨locked, decide_eq_true low⟩)).trans ?_
  show Host.Outcome.next (s.lsw.queue.foldl _ _) = _
  rw [none_]
  rfl

/-- An array whose clock is gone has every channel off. -/
theorem stopped_off (s : State) :
    let t := withLsw s fun a => { a with
      clock := false, hs := mmap (fun _ c => { c with on := false }) a.hs, ls := mmap (fun _ c => { c with on := false }) a.ls }
    t.lsw.clock = false ∧ (∀ h, (hsOf t h).on = false) ∧ ∀ l, (lsOf t l).on = false := by
  have off (m : SMap Channel) (k : Nat) : (mget ({} : Channel) (mmap (fun _ c => { c with on := false }) m) k).on = false := by
    rw [mget_mmap _ _ _ _ rfl]
  exact ⟨rfl, off s.lsw.hs, off s.lsw.ls⟩

/-- Settles O47: each clause by its command's condition; without a clock every channel is off. -/
theorem loadArrayEventsComplete : Obligations.LoadArrayEventsComplete := by
  unfold Obligations.LoadArrayEventsComplete
  exact ⟨fun dt n s on => if_pos (show isActive (advance dt s) n = true from on), fun dt pin s => rfl, fun dt pin s => rfl,
    fun dt s high free => if_pos (Bool.and_eq_true_iff.mpr ⟨decide_eq_true high, congrArg not free⟩),
    fun dt s locked none_ low => clampLockClear_of_low dt locked none_ low,
    fun dt n s path there => if_pos (Bool.and_eq_true_iff.mpr ⟨path, congrArg not there⟩),
    fun dt s => ⟨_, rfl, stopped_off _⟩⟩

end Sys2Proof.Machine
end
